-- ==== Sys2Proof/Word.lean ====
section
/-! DEFINITION. The word types of the device (R8): a byte is 8 bits, a word is 32 bits and a
doubleword is 64 bits. -/

namespace Sys2Proof

abbrev Byte := BitVec 8
abbrev Half := BitVec 16
abbrev Word := BitVec 32
abbrev Dword := BitVec 64

end Sys2Proof
end

