-- ==== Sys2Proof/Syntax.lean ====
section
/-! DEFINITION. The commands of the block: one constructor of `Instr` for each row of
spec/opcode_table.json, with the operands that the row's rule names. A command is a mailbox request,
a register or doorbell write, a frame or a pin event, a supply or temperature event, or a step of the
device's own engines. An operand `t` is the device time in ns at which the command happens; the
device's time never goes back (R480). -/

namespace Sys2Proof

/-- A page of the Sebry command interface: an instance page or the manager page (R47). -/
inductive Pg where
  | inst (n : Fin 64)
  | mgr
  deriving DecidableEq, Repr

/-- One mailbox request as the host lays it out before it writes GO (R49, R50): the page, the
reserved bits [31:28] and TAG of MBX_REQ0, and the request words MBX_REQ1 onwards, whose number is
NWORDS. -/
structure Mbx where
  page  : Pg
  rsv   : BitVec 4 := 0
  tag   : Byte
  words : List Word
  t     : Nat := 0
  deriving DecidableEq, Repr

/-- A hardware queue, Q0 to Q16383 (R72). -/
abbrev QId := Fin 16384

/-- An engine of the periodic-test sweep: a Gibex engine with its vector cores, or a sort unit (R262, R267). -/
inductive TestUnit where
  | gx (e : Fin 64)
  | sort (die : Fin 4)
  deriving DecidableEq, Repr

/-- The RAM in which an error is found: one of an engine (R121), or the record RAM of the sort unit on the engine's die (R216). -/
inductive GxRam where
  | operand | accumulator | codebook | record
  deriving DecidableEq, Repr

/-- The fields of a Tolgesko instruction word besides its funct6 (R162). -/
structure VIns where
  funct3 : Fin 8
  vm     : Bool
  /-- vs2 or rs2. -/
  vs2    : Fin 32
  rs1    : Fin 32
  /-- vd or rd. -/
  vd     : Fin 32
  deriving DecidableEq, Repr

/-- What a trap of a vector core or shader core is about (R171, R322, R293). -/
inductive TrapKind where
  /-- Illegal instruction, misaligned access, access fault, ECALL other than code 0. -/
  | exc
  | lramUe
  | lramCe
  | icParity
  | poison
  deriving DecidableEq, Repr

/-- How an entry of the delay buffer reads (R247, R248). -/
inductive DelayRead where
  | good | corrected | bad
  deriving DecidableEq, Repr

/-- A record that both copies of a pair have closed (R245 to R248). The model forms its doublewords; the command says what a fault has
made of them, as (index of the doubleword, bits changed), in each copy. -/
structure TwinRecord where
  /-- 0 engine, 1 to 4 vector core 0 to 3. -/
  stream : Fin 5
  lead   : List (Nat × Dword)
  trail  : List (Nat × Dword)
  entry  : DelayRead
  /-- The comparator answers as its signatures say; a faulty one gives the opposite verdict. -/
  cmpAOk : Bool
  cmpBOk : Bool
  /-- It is the stream's last, where the manual does not order the stream's writes (R505). -/
  last   : Bool
  /-- The trailing copy has closed another number of records in the stream (R248). -/
  differ : Bool
  deriving DecidableEq, Repr

/-- The verdicts of the sub-tests of a comparator self-test (R259). -/
structure SelfTest where
  cmpA : Bool
  cmpB : Bool
  delay : Bool
  deriving DecidableEq, Repr

/-- A pair of processors that is compared as a host pair: an application core pair, CPA or CPB (R252). -/
inductive HostPair where
  | ac (n : Fin 12)
  | cpa
  | cpb
  deriving DecidableEq, Repr

/-- The cause of a finding of a host pair (R253, R511). -/
inductive HpCause where
  | mismatch | checker | lag
  deriving DecidableEq, Repr

/-- The master of a register access (R374, R282). -/
inductive Master where
  | cpa | cpb
  | core (n : Fin 24)
  | pcie (port : Fin 2) (fn : Fin 65)
  | dbg
  deriving DecidableEq, Repr

/-- One of the eight die-to-die links HL0–HL3, XL01, XL12, XL23, XL30, numbered as in R62. -/
abbrev LinkId := Fin 8

/-- A kind of access of an application core (R282). -/
inductive AccKind where
  | load | store | fetch
  deriving DecidableEq, Repr

/-- A source of a wake event (R32, R496). -/
inductive WakeSrc where
  | pin (n : Fin 4)
  | canFrame (ch : Fin 16)
  | ethFrame (port : Fin 22)
  | timer
  deriving DecidableEq, Repr

/-- An operation through the debug port's DBG instruction (R442): a core to halt or resume, or a
system-bus access. -/
inductive DbgOp where
  | halt (n : Nat)
  | resume (n : Nat)
  | read (addr : Nat)
  | write (addr : Nat) (v : Word)
  | trace (n : Nat)
  | clearDenied
  deriving DecidableEq, Repr

/-- The result of one line that the patrol scrub reads (R290). -/
inductive ScrubResult where
  | clean | corrected | uncorrectable
  deriving DecidableEq, Repr

/-- The kind of a camera frame error (R345). -/
inductive CamErr where
  | header | crc | overflow | length
  deriving DecidableEq, Repr

/-- An error of a CAN frame on the wire (R359). -/
inductive CanTxResult where
  | acked | error
  deriving DecidableEq, Repr

/-- A CAN frame (R358, R360, R367): identifier, extended bit, CAN FD and CAN XL marks, the SDT and VCID of
CAN XL, and the data bytes. -/
structure CanFrame where
  id   : Nat
  ext  : Bool := false
  fd   : Bool := false
  xl   : Bool := false
  sdt  : Byte := 0
  vcid : Byte := 0
  data : List Byte
  deriving DecidableEq, Repr, Inhabited

/-- What the MAC found wrong with a received Ethernet frame (R356). -/
inductive EthErr where
  | none | fcs | symbol
  deriving DecidableEq, Repr

/-- The rows of spec/opcode_table.json. -/
inductive Instr where
  -- SCI commands (R63–R71)
  | sessionOpen (m : Mbx)
  | instQuery (m : Mbx)
  | evictAck (m : Mbx)
  | instReset (m : Mbx)
  | memAlloc (m : Mbx)
  | memFree (m : Mbx)
  | ctxCreate (m : Mbx)
  | ctxDestroy (m : Mbx)
  | qCreate (m : Mbx)
  | qDestroy (m : Mbx)
  | qReset (m : Mbx)
  | ctxQuery (m : Mbx)
  | graphLoad (m : Mbx)
  | graphUnload (m : Mbx)
  | graphBufQuery (m : Mbx)
  | serveStart (m : Mbx)
  | serveStop (m : Mbx)
  | safeFallbackBind (m : Mbx)
  | safeAgeSet (m : Mbx)
  | safeRefinputSet (m : Mbx)
  | safeStatus (m : Mbx)
  | gwRoutesSet (m : Mbx)
  | gwKeySet (m : Mbx)
  | gwStatus (m : Mbx)
  | dispLayerSet (m : Mbx)
  | dispFlip (m : Mbx)
  | persQuery (m : Mbx)
  | persSet (m : Mbx)
  | pwrCapSet (m : Mbx)
  | mgrInstCreate (m : Mbx)
  | mgrInstDestroy (m : Mbx)
  | mgrInstReset (m : Mbx)
  | mgrInstAttach (m : Mbx)
  | mgrEvict (m : Mbx)
  | mgrPartDefine (m : Mbx)
  | mgrEgDefine (m : Mbx)
  | mgrWheelSet (m : Mbx)
  | mgrBwSet (m : Mbx)
  | mgrPairSet (m : Mbx)
  | cntSnapshot (m : Mbx)
  | diagLogRead (m : Mbx)
  | fiArm (m : Mbx)
  | fiDisarm (m : Mbx)
  -- pages
  | mbxRspAck (pg : Pg) (v : Word)
  | evtRdWrite (pg : Pg) (v : Word)
  | heartbeatPeriodEnd (pg : Pg) (t : Nat)
  | fwHeartbeat (t : Nat)
  -- queues and contexts
  | doorbellWrite (inst : Fin 64) (dbidx : Fin 4096) (wide hiHalf : Bool) (v : Dword) (t : Nat)
  | contextUnpark (ctx : Half) (t : Nat)
  | descriptorTake (q : QId) (t : Nat)
  -- class commands; q is the hardware queue and seq the command's SEQ
  | nop (q : QId) (seq : Word) (t : Nat)
  | matmul (q : QId) (seq : Word) (t : Nat)
  | matmulAdd (q : QId) (seq : Word) (t : Nat)
  | convChain (q : QId) (seq : Word) (t : Nat)
  | haloFlagWait (q : QId) (seq : Word) (rank layer row : Nat) (t : Nat)
  | topk (q : QId) (seq : Word) (t : Nat)
  | nms (q : QId) (seq : Word) (t : Nat)
  | unfold (q : QId) (seq : Word) (t : Nat)
  | kvAppend (q : QId) (seq : Word) (t : Nat)
  | kvReserveWait (q : QId) (seq : Word) (t : Nat)
  | attention (q : QId) (seq : Word) (t : Nat)
  | kvTruncate (q : QId) (seq : Word) (t : Nat)
  | ringAllreduce (q : QId) (seq : Word) (t : Nat)
  | softmax (q : QId) (seq : Word) (t : Nat)
  | rmsnorm (q : QId) (seq : Word) (t : Nat)
  | layernorm (q : QId) (seq : Word) (t : Nat)
  | activation (q : QId) (seq : Word) (t : Nat)
  | rotate (q : QId) (seq : Word) (t : Nat)
  | quantise (q : QId) (seq : Word) (t : Nat)
  | dwconv (q : QId) (seq : Word) (t : Nat)
  | pool (q : QId) (seq : Word) (t : Nat)
  | adamw (q : QId) (seq : Word) (t : Nat)
  | copy (q : QId) (seq : Word) (t : Nat)
  | render (q : QId) (seq : Word) (t : Nat)
  | kernel (q : QId) (seq : Word) (t : Nat)
  -- press, scheduler, graphs, serving
  | press (q : QId) (seq : Word) (t : Nat)
  | graphRunStart (graph : Nat) (t : Nat)
  | servingStep (inst : Fin 64) (t : Nat)
  | overrunKill (q : QId) (seq : Word) (t : Nat)
  | slotBoundary (t : Nat)
  /-- `flipA` and `flipB` are the bits that a fault has changed in REF_A and REF_B as the device forms them. -/
  | referenceRunResult (pair : Fin 32) (graph : Nat) (flipA flipB : Dword) (t : Nat)
  | periodBoundary (t : Nat)
  | wheelSwap
  -- engines
  | gxKill (e : Fin 64) (t : Nat)
  | gxCbInval (e : Fin 64)
  | gxKatStart (e : Fin 64)
  | katChunkDone (u : TestUnit) (pass : Bool) (t : Nat)
  | sweepDeadline (u : TestUnit) (t : Nat)
  | engineRamError (e : Fin 64) (ram : GxRam) (correctable : Bool) (line : Nat) (t : Nat)
  -- Tolgesko vector instructions; core 0–255 is VC0–VC255, 256–287 a shader core
  | vrstat (core : Fin 288) (ins : VIns) (t : Nat)
  | vsegsum (core : Fin 288) (ins : VIns) (t : Nat)
  | vhbfly (core : Fin 288) (ins : VIns) (t : Nat)
  | vqscale (core : Fin 288) (ins : VIns) (t : Nat)
  | vcbnear (core : Fin 288) (ins : VIns) (t : Nat)
  | mswait (core : Fin 288) (ins : VIns) (t : Nat)
  | mswaitSatisfied (core : Fin 288) (t : Nat)
  | kernelEnd (vc : Fin 256) (t : Nat)
  | vcTrap (core : Fin 288) (kind : TrapKind) (cause : Fin 64) (pc : Dword) (t : Nat)
  | vcRst (vc : Fin 256)
  -- key-value allocator and sort unit
  | kvInit (die : Fin 4)
  | kvPoolValid (die : Fin 4) (pool : Fin 32)
  | kvStateError (die : Fin 4) (pool : Fin 32) (page : Nat) (freeList : Bool) (t : Nat)
  | sortKill (die : Fin 4) (t : Nat)
  -- twins
  | recordCompare (pair : Fin 32) (r : TwinRecord) (t : Nat)
  | lagTimeout (pair : Fin 32) (t : Nat)
  | twinCheckpoint (hp : HostPair) (lead trail : List Dword) (cmpAOk cmpBOk : Bool) (retired : Dword) (t : Nat)
  | acpairFinding (hp : HostPair) (cause : HpCause) (retired : Dword) (t : Nat)
  | twinSelftest (pair : Fin 32) (v : SelfTest) (t : Nat)
  | twinQclr (pair : Fin 32)
  | twinSplit (pair : Fin 32) (r : TwinRecord) (t : Nat)
  | twinJoin (pair : Fin 32) (v : SelfTest) (t : Nat)
  -- safety
  | wdtExpire (cpb : Bool) (t : Nat)
  | safeWdtKick (m : Master) (v : Word) (t : Nat)
  | safeReport (m : Master) (v : Word) (t : Nat)
  | safeCfgLock (m : Master)
  | warnPulseEnd (t : Nat)
  | resetDelayExpire (t : Nat)
  -- links, memory, bandwidth
  | linkCrcError (l : LinkId) (t : Nat)
  | linkDown (l : LinkId) (t : Nat)
  | dieOffline (die : Fin 4) (t : Nat)
  | stackCrcError (stack : Fin 4) (t : Nat)
  | patrolScrub (stack : Fin 4) (line : Nat) (r : ScrubResult) (t : Nat)
  | bwrWindowBoundary (master : Fin 192) (t : Nat)
  | derateChange (t : Nat)
  | bwrLatClr
  | bwrIlvWrite (hi : Bool) (v : Word)
  -- DMA
  | dmaStart (ch : Fin 512) (t : Nat)
  | dmaDisable (ch : Fin 512)
  | dmaRequest (line : Fin 192) (t : Nat)
  | dmaBurst (engine : Fin 5) (t : Nat)
  | dmaDescComplete (ch : Fin 512) (t : Nat)
  | dmaReqClr (line : Fin 192)
  -- graphics, display, cameras
  | gfxKill (t : Nat)
  | jobSuspend (boundary : Bool) (t : Nat)
  | compositorGuard (pipe : Fin 4) (t : Nat)
  | displayLatch (pipe : Fin 4) (t : Nat)
  | displayUnderrun (pipe : Fin 4) (t : Nat)
  | tileMemError (correctable : Bool) (t : Nat)
  | cameraFrame (port : Fin 16) (stream : Fin 4) (vc : Fin 16) (dt : Nat) (lines : List (List Byte)) (t : Nat)
  | cameraFrameError (port : Fin 16) (stream : Fin 4) (kind : CamErr) (t : Nat)
  -- gateway
  /- `frame` is the frame from the destination address to the last byte before the FCS; `node` is the node
  in whose transmit opportunity a TS port received it. -/
  | ethFrameRx (port : Fin 22) (frame : List Byte) (err : EthErr) (node : Nat) (t : Nat)
  | canFrameRx (ch : Fin 16) (f : CanFrame) (t : Nat)
  | canFrameTx (ch : Fin 16) (res : CanTxResult) (t : Nat)
  | containerTmax (entry : Nat) (t : Nat)
  | tripFrameSend (t : Nat)
  | plcaBeaconLoss (port : Fin 22) (t : Nat)
  | plcaBeacon (port : Fin 22) (t : Nat)
  | dropLimit (port : Fin 22) (t : Nat)
  | gptpSyncRx (port : Fin 22) (ofsNs : Int) (ratePpb : Int) (t : Nat)
  | holdover (port : Fin 22) (t : Nat)
  | busOffRecovery (ch : Fin 16) (t : Nat)
  | canRecover (ch : Fin 16)
  | gateListActivate (port : Fin 22) (streamGate : Option (Fin 256)) (t : Nat)
  | pbWriteFail (addr : Nat) (m : Master) (t : Nat)
  | ipTxPoll (inst : Fin 64) (t : Nat)
  -- PCIe, instances, dirty log
  | pcieMemRequest (port : Fin 2) (fn : Fin 65) (bar : Fin 6) (offset : Nat) (write : Option (List Byte)) (len : Nat) (t : Nat)
  | pcieFlr (port : Fin 2) (fn : Fin 65) (t : Nat)
  | pcieLinkReset (port : Fin 2) (t : Nat)
  | drainTimeout (inst : Fin 64) (t : Nat)
  | resetComplete (inst : Fin 64) (t : Nat)
  | evictGraceEnd (inst : Fin 64) (t : Nat)
  | dlEnable (inst : Fin 64) (v : Word)
  | dlSwap (inst : Fin 64)
  | dlSwapDone (inst : Fin 64)
  | snapClear (pg : Pg) (v : Word)
  | timeLoRead (addr : Nat) (m : Master)
  -- personality, clocks, resets
  | wakeEvent (src : WakeSrc) (t : Nat)
  | driveReady (t : Nat)
  | clkFreqSet (idx : Fin 22) (v : Word) (t : Nat)
  | clkMonFault (idx : Fin 22) (t : Nat)
  | domainWake (idx : Fin 22) (t : Nat)
  | domainWakeTimeout (idx : Fin 22) (t : Nat)
  | rstDomReq (r : Fin 20) (t : Nat)
  | rstDomInReset (r : Fin 20) (t : Nat)
  | rstDomRel (r : Fin 20) (t : Nat)
  | rstDev (v : Word) (t : Nat)
  | resetN (t : Nat)
  | powerGood (t : Nat)
  -- power and thermal
  | vinOvervoltage (t : Nat)
  | vinUndervoltage (t : Nat)
  | railFault (rail : Nat) (t : Nat)
  | vauxOverload (t : Nat)
  | vauxRetry (overload : Bool) (t : Nat)
  | capCheck (avgW : Nat) (t : Nat)
  | powerLimitStep (avgW : Nat) (t : Nat)
  | thermalThrottleStep (site : Nat) (a b : Option Int) (t : Nat)
  | thermalReleaseStep (site : Nat) (a b : Option Int) (t : Nat)
  | thermalFigureEval (temps : List Int) (t : Nat)
  | thermalShutdown (site : Nat) (t : Nat)
  | sleepCommit (t : Nat)
  | sleepWake (timer : Bool) (pins : BitVec 4) (t : Nat)
  -- debug, security, fault injection
  | debugCert (bytes : List Byte) (t : Nat)
  | debugAccess (op : DbgOp) (t : Nat)
  | debugClose (v : Word)
  | keyZeroise (v : Word)
  | worldLock
  | fiArmReg
  | fiDisarmReg
  | fiHeldRelease (t : Nat)
  -- the rest
  | registerWrite (m : Master) (addr : Nat) (v : Word) (t : Nat)
  | commandDone (pg : Pg) (tag : Byte) (t : Nat)
  | undefinedOpcode (m : Mbx) (opcode : Half)
  | applicationCoreAccess (core : Fin 24) (kind : AccKind) (addr : Nat) (len : Nat) (data : List Byte) (t : Nat)
  | linkRetrainComplete (stack : Bool) (n : Fin 8) (ok : Bool) (t : Nat)
  | ethFrameTx (port : Fin 22) (collision : Bool) (t : Nat)
  | recoveryResetTimeout (stream : Fin 128) (t : Nat)
  | autogateStop (idx : Fin 22)
  | pciePerst (port : Fin 2) (level : Bool) (t : Nat)
  deriving DecidableEq, Repr

end Sys2Proof
end

