-- ==== Sys2Proof/Decode.lean ====
section
/-! DEFINITION. The command that a word spells by the table's bits. No row of spec/opcode_table.json
gives bits: a command reaches the block as a mailbox request, a register write, a frame or an event, and
not as a word. So no word spells a command. -/

namespace Sys2Proof

/-- No row of the opcode table gives bits, so every word spells none. Log entry 7 (DESIGN CHOICE). -/
def decodeTableWord (_nbits _w : Nat) : Option Instr := none

end Sys2Proof
end

