-- ==== Sys2Proof/Config.lean ====
section
/-! DEFINITION. What the spec leaves open, as constants without a body: nothing in Lean can evaluate
them, so a claim holds whatever they are. A free value is drawn by applying `freeNat`, `freeWord` or
`freeByte` to the plain counter that the state holds, so each draw is a fresh one. -/

namespace Sys2Proof.Config

/-- Fresh undefined values (R7), by the number of the draw. Log entry 8 (DESIGN CHOICE). -/
opaque freeNat : Nat → Nat
/-- Log entry 8 (DESIGN CHOICE). -/
opaque freeWord : Nat → Word
/-- Log entry 8 (DESIGN CHOICE). -/
opaque freeByte : Nat → Byte

/-- The time line of an operation whose cycles R117 and R148 do not give, in ns: from its words, its parameter block, the share of its
node that it is in millionths, and the number of engines (R222). Log entry 21 (DESIGN CHOICE). -/
opaque sebryEst : List Word → List Byte → Nat → Nat → Nat

/-- Estimated input power in W of a wheel configuration, given as its slot words (R45).
Log entry 108 (DESIGN CHOICE). -/
opaque wheelPower : List (List Word) → Nat

/-- exp32 of R195: an FP32 pattern to an FP32 pattern, within 2 ulp. Log entry 38 (DESIGN CHOICE). -/
opaque exp32 : Word → Word

/-- The FP32 sum of FP32 patterns in the order in which the Sebry image adds them (R175). Log entry 48 (DESIGN CHOICE). -/
opaque sum32 : List Word → Word

/-- The image's FP32 reciprocal square root, square root and hyperbolic tangent, within 2 ulp (R175). Log entry 38
(DESIGN CHOICE). -/
opaque rsqrt32 : Word → Word
/-- Log entry 38 (DESIGN CHOICE). -/
opaque sqrt32 : Word → Word
/-- Log entry 38 (DESIGN CHOICE). -/
opaque tanh32 : Word → Word

/-- Whether ACTIVATION applies its function to the gate input and multiplies by X, or to X and multiplies by the gate input: R172
does not say. Log entry 129 (DESIGN CHOICE). -/
opaque gateActs : Bool

/-- What a host's shader programs return (R325, R333): the input regions' bytes, the program's offset, its
arguments, the number of the returned value. Log entry 38 (DESIGN CHOICE). -/
opaque shaderVertex : List (List Byte) → Nat → List Word → Nat → Word
/-- Log entry 38 (DESIGN CHOICE). -/
opaque shaderFragment : List (List Byte) → Nat → List Word → Nat → Word

/-- A byte that the invocations of a KERNEL job leave in an output region (R333): the parameter block,
the input regions' bytes, the output regions' bytes before the job, the output's index, the offset.
Log entry 38 (DESIGN CHOICE). -/
opaque shaderKernel : List Byte → List (List Byte) → List (List Byte) → Nat → Nat → Byte

/-- Whether the security engine can unwrap a key record, and the key it holds (R436).
Log entry 65 (DESIGN CHOICE). -/
opaque unwrapKey : List Byte → Option (List Byte)

/-- AES-CMAC and AES-GCM results of the key slots (R357, R366). Log entry 65 (DESIGN CHOICE). -/
opaque cmac : List Byte → List Byte → List Byte
/-- Log entry 65 (DESIGN CHOICE). -/
opaque gcmSeal : List Byte → List Byte → List Byte
/-- Log entry 65 (DESIGN CHOICE). -/
opaque gcmOpen : List Byte → List Byte → Option (List Byte)

/-- The SHA-384 digest of bytes (R418, R441). Log entry 97 (DESIGN CHOICE). -/
opaque sha384 : List Byte → List Byte

/-- Whether a debug certificate's signature is good (R441), by its bytes. Log entry 97 (DESIGN CHOICE). -/
opaque certSigned : List Byte → Bool

/-- The verdict of the comparator self-test on healthy logic is an operand of its command; the verdict
of the final compare of an unpairing is too (R256, R257). Log entry 97 (DESIGN CHOICE). -/
opaque imageSigned : List Byte → Bool

end Sys2Proof.Config
end

