-- ==== Sys2Proof/Machine/Bits.lean ====
section
/-! DEFINITION. Bit fields and byte order. A field is written [hi:lo] as in the spec's maps; every
multi-byte value is little-endian (R8). -/

namespace Sys2Proof

/-- Bits [hi:lo] of a number. -/
def bitsOf (n hi lo : Nat) : Nat := n / 2 ^ lo % 2 ^ (hi + 1 - lo)

/-- One bit of a number. -/
def bitOf (n i : Nat) : Bool := n / 2 ^ i % 2 = 1

/-- Bits [hi:lo] of a word. -/
def Word.fld (w : Word) (hi lo : Nat) : Nat := bitsOf w.toNat hi lo

/-- A single bit of a word. -/
def Word.bit (w : Word) (i : Nat) : Bool := bitOf w.toNat i

/-- The mask of bits [hi:lo]. -/
def fieldMask (hi lo : Nat) : Word := BitVec.ofNat 32 ((2 ^ (hi + 1 - lo) - 1) * 2 ^ lo)

/-- A word with bits [hi:lo] replaced. -/
def Word.put (w : Word) (hi lo v : Nat) : Word :=
  (w &&& ~~~ fieldMask hi lo) ||| (BitVec.ofNat 32 (v * 2 ^ lo) &&& fieldMask hi lo)

/-- A word with one bit set or cleared. -/
def Word.putBit (w : Word) (i : Nat) (b : Bool) : Word := w.put i i (if b then 1 else 0)

/-- A Bool as a bit. -/
def b2n (b : Bool) : Nat := if b then 1 else 0

/-- Bit `i` of a mask kept as a number. -/
def setBitN (m i : Nat) : Nat := if bitOf m i then m else m + 2 ^ i

/-- A mask without bit `i`. -/
def clrBitN (m i : Nat) : Nat := if bitOf m i then m - 2 ^ i else m

/-- The indices below `n` whose bit is 1 in a mask. -/
def maskBits (m n : Nat) : List Nat := (List.range n).filter (bitOf m)

/-- The mask of a list of indices. -/
def maskOf (l : List Nat) : Nat := l.foldl setBitN 0

/-- The number of 1 bits below `n`. -/
def popcount (m n : Nat) : Nat := (maskBits m n).length

/-- Little-endian bytes of a number. -/
def leBytes : Nat → Nat → List Byte
  | 0, _ => []
  | k + 1, n => BitVec.ofNat 8 n :: leBytes k (n / 256)

/-- The number that little-endian bytes spell. -/
def leNat : List Byte → Nat
  | [] => 0
  | b :: t => b.toNat + 256 * leNat t

/-- A value read as a two's-complement number of `w` bits. -/
def sext (w n : Nat) : Int :=
  if n % 2 ^ w < 2 ^ (w - 1) then (n % 2 ^ w : Nat) else ((n % 2 ^ w : Nat) : Int) - (2 ^ w : Nat)

/-- An integer as a two's-complement pattern of `w` bits. -/
def ofInt (w : Nat) (i : Int) : Nat := (i % ((2 ^ w : Nat) : Int)).toNat

/-- Rounds up to a multiple. -/
def alignUp (n a : Nat) : Nat := (n + a - 1) / a * a

/-- Rounds down to a multiple. -/
def alignDown (n a : Nat) : Nat := n / a * a

/-- An unsigned counter that stops at its greatest value. -/
def satAdd (cap a b : Nat) : Nat := min cap (a + b)

/-- A 64-bit value from its low and high words. -/
def dword (lo hi : Word) : Nat := lo.toNat + hi.toNat * 2 ^ 32

/-- The words of a 64-bit value, low word first (R8). -/
def dwordWords (n : Nat) : List Word := [BitVec.ofNat 32 n, BitVec.ofNat 32 (n / 2 ^ 32)]

/-- Whether two half-open ranges [a, a+n) and [b, b+m) share an element. -/
def rangesMeet (a n b m : Nat) : Bool := decide (0 < n) && decide (0 < m) && decide (a < b + m) && decide (b < a + n)

end Sys2Proof
end

