-- ==== Sys2Proof/Machine/Tab.lean ====
section
/-! DEFINITION. Sparse tables: plain lists of (key, value) pairs in rising key order. Every indexed
collection of the state (pages, queues, contexts, registers, engines, counters) is one of these; a key
that is not listed stands for the element's reset value. -/

namespace Sys2Proof

/-- A sparse table, sorted by key, each key at most once. -/
abbrev Tab (α : Type) := List (Nat × α)

/-- The entry at a key, if it is listed. -/
def Tab.look {α : Type} : Tab α → Nat → Option α
  | [], _ => none
  | (k, v) :: t, key => if k = key then some v else Tab.look t key

/-- The entry at a key, or the value that an unlisted key stands for. -/
def Tab.lookD {α : Type} (t : Tab α) (key : Nat) (dflt : α) : α := (Tab.look t key).getD dflt

/-- The table with one entry written. -/
def Tab.put {α : Type} : Tab α → Nat → α → Tab α
  | [], key, x => [(key, x)]
  | (k, v) :: t, key, x =>
    if key < k then (key, x) :: (k, v) :: t
    else if key = k then (key, x) :: t
    else (k, v) :: Tab.put t key x

/-- The table without one key. -/
def Tab.del {α : Type} (t : Tab α) (key : Nat) : Tab α := t.filter fun p => p.1 ≠ key

/-- The table with the entry at a key changed; an unlisted key is first given `dflt`. -/
def Tab.upd {α : Type} (t : Tab α) (key : Nat) (dflt : α) (f : α → α) : Tab α :=
  Tab.put t key (f (Tab.lookD t key dflt))

/-- The table with a listed entry changed; nothing changes where the key is not listed. -/
def Tab.adjust {α : Type} (t : Tab α) (key : Nat) (f : α → α) : Tab α :=
  t.map fun p => if p.1 = key then (p.1, f p.2) else p

/-- The listed values. -/
def Tab.vals {α : Type} (t : Tab α) : List α := t.map (·.2)

/-- The listed keys. -/
def Tab.keys {α : Type} (t : Tab α) : List Nat := t.map (·.1)

/-- The lowest key from `start` on, at most `n` further, that the table does not list. Log entry 16 (DESIGN CHOICE). -/
def Tab.freeKey {α : Type} (t : Tab α) (start : Nat) : Nat → Option Nat
  | 0 => none
  | n + 1 => if (Tab.look t start).isNone then some start else Tab.freeKey t (start + 1) n

/-- Keys strictly rising. -/
def Tab.sorted {α : Type} : Tab α → Bool
  | [] => true
  | [_] => true
  | (k, _) :: (k', v') :: t => decide (k < k') && Tab.sorted ((k', v') :: t)

/-- A list with the element at an index changed. -/
def listSet {α : Type} : List α → Nat → α → List α
  | [], _, _ => []
  | _ :: t, 0, x => x :: t
  | h :: t, i + 1, x => h :: listSet t i x

/-- A list used as a set: insert unless present. -/
def insertNew {α : Type} [DecidableEq α] (l : List α) (x : α) : List α :=
  if x ∈ l then l else l ++ [x]

/-- Insertion into a list that is in order; equal elements keep their order of arrival. -/
def insertBy {α : Type} (le : α → α → Bool) (x : α) : List α → List α
  | [] => [x]
  | y :: t => if le x y && !le y x then x :: y :: t else y :: insertBy le x t

/-- A stable sort by insertion: elements that `le` counts as equal keep their order. -/
def sortBy {α : Type} (le : α → α → Bool) (l : List α) : List α := l.foldl (fun acc x => insertBy le x acc) []

/-- Fold a state over the indices `0 … n-1` in order. -/
def forUpTo {σ : Type} (n : Nat) (f : Nat → σ → σ) (s : σ) : σ :=
  (List.range n).foldl (fun acc i => f i acc) s

/-- Fold a state over a list in order. -/
def forEach {σ α : Type} (l : List α) (f : α → σ → σ) (s : σ) : σ :=
  l.foldl (fun acc a => f a acc) s

end Sys2Proof
end

