-- ==== Sys2Proof/Machine/Regs.lean ====
section
/-! DEFINITION. The register maps of the spec as one table: every register with an address of its own,
its fields with their types (R9) and their reset values (R11). A register that the state does not list
holds its reset value. -/

namespace Sys2Proof.Machine

/-- Field types of R9. `act` marks a field whose write is a command of its own (a row of the opcode
table); a plain register write leaves it alone. -/
inductive FType where
  | rw | ro | w1c | w1s | wo | act
  deriving DecidableEq, Repr

/-- A field [hi:lo] with its type and reset value. Bits that no field names are RSV. -/
structure RegField where
  hi  : Nat
  lo  : Nat
  ty  : FType
  rst : Nat := 0
  deriving DecidableEq, Repr

/-- A family of registers of one layout: `n1 × n2` copies at `base + i × s1 + j × s2`. -/
structure RegBlock where
  base : Nat
  n1   : Nat := 1
  s1   : Nat := 0
  n2   : Nat := 1
  s2   : Nat := 0
  fields : List RegField
  deriving DecidableEq, Repr

/-- Whether an address is one of the block's registers. -/
def RegBlock.has (b : RegBlock) (a : Nat) : Bool :=
  let x := a - b.base
  let r := x % b.s1
  decide (b.base ≤ a) && decide (x / b.s1 < b.n1) &&
  (if b.s2 = 0 then decide (r = 0) else decide (r % b.s2 = 0) && decide (r / b.s2 < b.n2))

/-- The word that a layout reads as after reset. -/
def RegField.resetWord (fs : List RegField) : Word :=
  fs.foldl (fun w f => w.put f.hi f.lo f.rst) 0

/-- A write of a word to a register of a layout, field by field (R9): RW stores, W1C clears, W1S sets,
RO, WO, RSV and fields with a command of their own keep what they hold. Log entry 100 (DESIGN CHOICE). -/
def RegField.write (fs : List RegField) (old new : Word) : Word :=
  fs.foldl (fun w f =>
    let n := new.fld f.hi f.lo
    let o := old.fld f.hi f.lo
    match f.ty with
    | .rw => w.put f.hi f.lo n
    | .w1c => w.put f.hi f.lo (o - Nat.land o n)
    | .w1s => w.put f.hi f.lo (Nat.lor o n)
    | .ro | .wo | .act => w) old

/-- The bits of a layout that a read returns: neither RSV nor WO (R9). -/
def RegField.readMask (fs : List RegField) : Word :=
  fs.foldl (fun w f => if f.ty = .wo then w else w ||| fieldMask f.hi f.lo) 0

def rw (hi lo : Nat) (rst : Nat := 0) : RegField := ⟨hi, lo, .rw, rst⟩
def ro (hi lo : Nat) (rst : Nat := 0) : RegField := ⟨hi, lo, .ro, rst⟩
def w1c (hi lo : Nat) : RegField := ⟨hi, lo, .w1c, 0⟩
def w1s (hi lo : Nat) : RegField := ⟨hi, lo, .w1s, 0⟩
def wo (hi lo : Nat) : RegField := ⟨hi, lo, .wo, 0⟩
def act (hi lo : Nat) (rst : Nat := 0) : RegField := ⟨hi, lo, .act, rst⟩

/-! ### Addresses -/

def dieBase (die : Nat) : Nat := 0x7F10000000 + die * 0x01000000

-- SEC_DEVICE_ID (R4)
def aDeviceId : Nat := 0x7F00000010
-- WHL_ (R43)
def aWhlCtrl : Nat := 0x7F00020000
def aWhlPeriod (bank : Nat) : Nat := 0x7F00020004 + bank * 4
def aWhlPhaseLo : Nat := 0x7F00020010
def aWhlPhaseHi : Nat := 0x7F00020014
def aWhlStatus : Nat := 0x7F00020018
def aWhlEpochLo : Nat := 0x7F00020020
def aWhlEpochHi : Nat := 0x7F00020024
def aWhlSlot (bank slot word : Nat) : Nat := 0x7F00021000 + bank * 0x400 + slot * 0x10 + word * 4
-- CNT_ (R483)
def aCntTimeLo : Nat := 0x7F00010000
def aCntTimeHi : Nat := 0x7F00010004
def aCntTbRate : Nat := 0x7F00010008
def aCntOvfIrq : Nat := 0x7F0001000C
def aCntOvfStat : Nat := 0x7F00010010
-- TWIN_ (R259, R260)
def aTwinP (pair : Nat) : Nat := dieBase (pair / 8) + 0x00500000 + pair % 8 * 0x100
def aTwinPctrl (p : Nat) : Nat := aTwinP p
def aTwinPstatus (p : Nat) : Nat := aTwinP p + 4
def aTwinPerr (p : Nat) : Nat := aTwinP p + 8
def aTwinPrec (p : Nat) : Nat := aTwinP p + 0xC
def aTwinPsig (p k : Nat) : Nat := aTwinP p + 0x10 + 4 * k
/-- Registers of a host pair: ACPAIR0–11, CPA as 12, CPB as 13 (R260). -/
def aTwinH (q : Nat) : Nat := if q < 12 then 0x7F00030000 + q * 0x40 else 0x7F00030400 + (q - 12) * 0x40
def aTwinHcfg (q : Nat) : Nat := aTwinH q
def aTwinHstatus (q : Nat) : Nat := aTwinH q + 4
def aTwinHerr (q : Nat) : Nat := aTwinH q + 8
def aTwinHretLo (q : Nat) : Nat := aTwinH q + 0x10
def aTwinHretHi (q : Nat) : Nat := aTwinH q + 0x14
-- SAFE_ (R277)
def aSafeCfg : Nat := 0x7F00040000
def aSafeOut : Nat := 0x7F00040004
def aSafeCond : Nat := 0x7F00040008
def aSafeSeen : Nat := 0x7F0004000C
def aSafeKick : Nat := 0x7F00040010
def aSafeReport : Nat := 0x7F00040014
-- BWR_ (R302)
def aBwr : Nat := 0x7F00050000
def aBwrCtrl : Nat := aBwr
def aBwrStatus : Nat := aBwr + 4
def aBwrDerate : Nat := aBwr + 8
def aBwrCut : Nat := aBwr + 0xC
def aBwrIlvLo : Nat := aBwr + 0x10
def aBwrIlvHi : Nat := aBwr + 0x14
def aBwrFaultLo : Nat := aBwr + 0x18
def aBwrFaultHi : Nat := aBwr + 0x1C
def aBwrFaultSrc : Nat := aBwr + 0x20
def aBwrClass (d word : Nat) : Nat := aBwr + 0x100 + d * 0x10 + word * 4
def aBwrMcfg (m : Nat) : Nat := aBwr + 0x1000 + m * 0x40
def aBwrMwin (m : Nat) : Nat := aBwrMcfg m + 4
def aBwrMbud (m prof : Nat) : Nat := aBwrMcfg m + 8 + prof * 4
def aBwrMeff (m : Nat) : Nat := aBwrMcfg m + 0x28
def aBwrMused (m : Nat) : Nat := aBwrMcfg m + 0x2C
def aBwrLat (m c : Nat) : Nat := aBwr + 0x6000 + (m * 8 + c) * 4
-- PCIE_ (R396)
def aPcie (p : Nat) : Nat := 0x7F000B0000 + p * 0x1000
def aPcieCtrl (p : Nat) : Nat := aPcie p
def aPcieStatus (p : Nat) : Nat := aPcie p + 4
def aPcieVfcfg (p : Nat) : Nat := aPcie p + 8
def aPcieErr (p : Nat) : Nat := aPcie p + 0xC
def aPcieErrLo (p : Nat) : Nat := aPcie p + 0x10
def aPcieErrHi (p : Nat) : Nat := aPcie p + 0x14
def aPcieErrSrc (p : Nat) : Nat := aPcie p + 0x18
def aPcieVfmap (p vf : Nat) : Nat := aPcie p + 0x100 + 4 * (vf - 1)

-- KV_ (R197)
def aKv (die : Nat) : Nat := dieBase die + 0x00300000
def aKvCtrl (die : Nat) : Nat := aKv die
def aKvStatus (die : Nat) : Nat := aKv die + 4
def aKvFlBaseLo (die : Nat) : Nat := aKv die + 8
def aKvFlBaseHi (die : Nat) : Nat := aKv die + 0xC
def aKvErr (die : Nat) : Nat := aKv die + 0x10
def aKvErrPage (die : Nat) : Nat := aKv die + 0x14
def aKvPool (die q : Nat) : Nat := aKv die + 0x100 + q * 0x20
def aKvPoolCfg (die q : Nat) : Nat := aKvPool die q
def aKvPoolBaseLo (die q : Nat) : Nat := aKvPool die q + 4
def aKvPoolBaseHi (die q : Nat) : Nat := aKvPool die q + 8
def aKvPoolCount (die q : Nat) : Nat := aKvPool die q + 0xC
def aKvPoolTag (die q : Nat) : Nat := aKvPool die q + 0x10
def aKvPoolFree (die q : Nat) : Nat := aKvPool die q + 0x14
def aKvPoolPage (die q : Nat) : Nat := aKvPool die q + 0x18
def aKvPoolFloff (die q : Nat) : Nat := aKvPool die q + 0x1C

-- GX_ (R122), VC_ (R177), SORT_ (R217)
def aGx (e : Nat) : Nat := dieBase (e / 16) + 0x00100000 + e % 16 * 0x1000
def aGxCtrl (e : Nat) : Nat := aGx e
def aGxStatus (e : Nat) : Nat := aGx e + 4
def aGxSeq (e : Nat) : Nat := aGx e + 8
def aGxDuty (e : Nat) : Nat := aGx e + 0xC
def aGxCbCtrl (e : Nat) : Nat := aGx e + 0x10
def aGxCbTagLo (e : Nat) : Nat := aGx e + 0x14
def aGxCbTagHi (e : Nat) : Nat := aGx e + 0x18
def aGxErr (e : Nat) : Nat := aGx e + 0x20
def aGxErrAddr (e : Nat) : Nat := aGx e + 0x24
def aGxKat (e : Nat) : Nat := aGx e + 0x30
def aVc (v : Nat) : Nat := dieBase (v / 64) + 0x00200000 + v % 64 * 0x400
def aVcCtrl (v : Nat) : Nat := aVc v
def aVcStatus (v : Nat) : Nat := aVc v + 4
def aVcTrapLo (v : Nat) : Nat := aVc v + 8
def aVcTrapHi (v : Nat) : Nat := aVc v + 0xC
def aVcErr (v : Nat) : Nat := aVc v + 0x10
def aVcCause (v : Nat) : Nat := aVc v + 0x14
def aSort (die : Nat) : Nat := dieBase die + 0x00400000
def aSortCtrl (die : Nat) : Nat := aSort die
def aSortStatus (die : Nat) : Nat := aSort die + 4
def aSortWait (die : Nat) : Nat := aSort die + 8
def aSortErr (die : Nat) : Nat := aSort die + 0x10
def aSortErrAddr (die : Nat) : Nat := aSort die + 0x14

-- SW_, CAN_ (R371, R372)
def aSw : Nat := 0x7F00090000
def aSwCtrl : Nat := aSw
def aSwPbErr : Nat := aSw + 0x10
def aSwPbErrAddr : Nat := aSw + 0x14
def aSwPbErrSrc : Nat := aSw + 0x18
def aSwOfsLo : Nat := aSw + 0x20
def aSwOfsHi : Nat := aSw + 0x24
def aSwPort (p : Nat) : Nat := 0x7F00091000 + p * 0x100
def aSwPortStatus (p : Nat) : Nat := aSwPort p
def aSwPortCtrl (p : Nat) : Nat := aSwPort p + 4
def aCan (c : Nat) : Nat := 0x7F000A0000 + c * 0x400
def aCanCtrl (c : Nat) : Nat := aCan c
def aCanStatus (c : Nat) : Nat := aCan c + 4
def aCanNbt (c : Nat) : Nat := aCan c + 8
def aCanDbt (c : Nat) : Nat := aCan c + 0xC
def aCanTxq (c : Nat) : Nat := aCan c + 0x10
-- DMA_ (R316, R317): channels 0–127 of the hub, 128 + 96 n + c of CDn
def aDma (ch : Nat) : Nat :=
  if ch < 128 then 0x7F00061000 + ch * 0x40 else dieBase ((ch - 128) / 96) + 0x00701000 + (ch - 128) % 96 * 0x40
def aDmaCtrl (ch : Nat) : Nat := aDma ch
def aDmaCfg (ch : Nat) : Nat := aDma ch + 4
def aDmaNextLo (ch : Nat) : Nat := aDma ch + 8
def aDmaNextHi (ch : Nat) : Nat := aDma ch + 0xC
def aDmaCurLo (ch : Nat) : Nat := aDma ch + 0x10
def aDmaCurHi (ch : Nat) : Nat := aDma ch + 0x14
def aDmaStatus (ch : Nat) : Nat := aDma ch + 0x18
def aDmaErrLo (ch : Nat) : Nat := aDma ch + 0x1C
def aDmaErrHi (ch : Nat) : Nat := aDma ch + 0x20
def aDmaRemain (ch : Nat) : Nat := aDma ch + 0x24
def aDmaReq (r : Nat) : Nat := 0x7F00064000 + r * 4
-- GFX_, DISP_ (R347, R348)
def aGfxCtrl : Nat := 0x7F00070000
def aGfxStatus : Nat := 0x7F00070004
def aGfxPreempt : Nat := 0x7F00070008
def aGfxErr : Nat := 0x7F0007000C
def aDisp (p : Nat) : Nat := 0x7F00080000 + p * 0x1000
def aDispCtrl (p : Nat) : Nat := aDisp p
def aDispHtim (p : Nat) : Nat := aDisp p + 4
def aDispVtim (p : Nat) : Nat := aDisp p + 8
def aDispBg (p : Nat) : Nat := aDisp p + 0xC
def aDispFrame (p : Nat) : Nat := aDisp p + 0x10
def aDispStatus (p : Nat) : Nat := aDisp p + 0x14

-- SEC_ (R4, R432, R445)
def aSec : Nat := 0x7F00000000
def aBootStatus : Nat := aSec + 0x20
def aFuseBoot : Nat := aSec + 0x24
def aWorldLock : Nat := aSec + 0x28
def aWorldEth : Nat := aSec + 0x30
def aWorldCan : Nat := aSec + 0x34
def aWorldAphy : Nat := aSec + 0x38
def aWorldHost : Nat := aSec + 0x3C
def aDbgStatus : Nat := aSec + 0x40
def aDbgFuse : Nat := aSec + 0x44
def aDbgCtrl : Nat := aSec + 0x48
def aUid (i : Nat) : Nat := aSec + 0x50 + 4 * i
def aKeyValidLo : Nat := aSec + 0x60
def aKeyValidHi : Nat := aSec + 0x64
def aKeyCtrl : Nat := aSec + 0x68
def aKeyValidX : Nat := aSec + 0x6C
-- CLK_, RST_ (R411, R412)
def aClk (i : Nat) : Nat := 0x7F000C0000 + i * 0x20
def aClkCtrl (i : Nat) : Nat := aClk i
def aClkStatus (i : Nat) : Nat := aClk i + 4
def aClkWake (i : Nat) : Nat := aClk i + 8
def aRst : Nat := 0x7F000D0000
def aRstCause : Nat := aRst
def aRstDev : Nat := aRst + 4
def aRstDomCtrl (r : Nat) : Nat := aRst + 0x100 + r * 0x10
def aRstDomStatus (r : Nat) : Nat := aRstDomCtrl r + 4
-- FI_ (R451)
def aFi : Nat := 0x7F000E0000
def aFiCtrl : Nat := aFi
def aFiStatus : Nat := aFi + 4
def aFiEnt (e w : Nat) : Nat := aFi + 0x100 + e * 0x20 + w * 4
-- PWR_ (R469)
def aPwr : Nat := 0x7F000F0000
def aPwrCtrl : Nat := aPwr
def aPwrVin : Nat := aPwr + 4
def aPwrIin : Nat := aPwr + 8
def aPwrAvg : Nat := aPwr + 0xC
def aPwrStatus : Nat := aPwr + 0x10
def aPwrTjmax : Nat := aPwr + 0x14
def aPwrTstack : Nat := aPwr + 0x18
def aPwrTherm : Nat := aPwr + 0x1C
def aPwrWakeCfg : Nat := aPwr + 0x20
def aPwrWakeSrc : Nat := aPwr + 0x24
def aPwrTimer : Nat := aPwr + 0x28
def aPwrEvt : Nat := aPwr + 0x2C
def aPwrAux : Nat := aPwr + 0x30

/-! ### The maps -/

/-- SEC_ registers (R4, R432, R445). A fused field stands here at its value of the fuses of State.reset; the boot's fuse
load writes it afresh. -/
def regsSec : List RegBlock :=
  [ ⟨aDeviceId, 1, 0, 1, 0, [ro 31 16 0x0D48, ro 15 8 0x0A, ro 7 4 2, ro 3 0 1]⟩,
    ⟨aBootStatus, 1, 0, 1, 0, [ro 17 17, ro 16 16, ro 15 14, ro 13 12, ro 11 11, ro 10 8, ro 6 4, ro 3 0 1]⟩,
    ⟨aFuseBoot, 1, 0, 1, 0, [ro 15 0]⟩, ⟨aWorldLock, 1, 0, 1, 0, [act 0 0]⟩,
    ⟨aWorldEth, 1, 0, 1, 0, [rw 21 0]⟩, ⟨aWorldCan, 1, 0, 1, 0, [rw 15 0]⟩,
    ⟨aWorldAphy, 1, 0, 1, 0, [rw 15 0]⟩, ⟨aWorldHost, 1, 0, 1, 0, [rw 4 3, rw 2 0]⟩,
    ⟨aDbgStatus, 1, 0, 1, 0, [ro 15 12, ro 8 8, ro 7 4, ro 3 0]⟩,
    ⟨aDbgFuse, 1, 0, 1, 0, [ro 7 4, ro 3 0]⟩, ⟨aDbgCtrl, 1, 0, 1, 0, [act 3 0]⟩,
    ⟨aUid 0, 4, 4, 1, 0, [ro 31 0]⟩,
    ⟨aKeyValidLo, 1, 0, 1, 0, [ro 31 0]⟩, ⟨aKeyValidHi, 1, 0, 1, 0, [ro 31 0]⟩,
    ⟨aKeyCtrl, 1, 0, 1, 0, [act 0 0]⟩, ⟨aKeyValidX, 1, 0, 1, 0, [ro 7 0]⟩ ]

/-- The top of a clock's range in kHz (R398); GXCLK's is the fused maximum of R2. -/
def clkTop (i : Nat) : Nat :=
  if i ≤ 3 then 1250000 else if i = 4 then 2000000 else if i ≤ 7 then 2200000 else if i = 8 then 1000000
  else if i = 9 then 1400000 else if i ≤ 13 then 600000 else if i = 14 then 625000 else if i = 15 then 80000
  else if i ≤ 20 then 1000000 else 25000

/-- CLK_ and RST_ registers (R411, R412). -/
def regsClk : List RegBlock :=
  ((List.range 22).map fun i => (⟨aClkCtrl i, 1, 0, 1, 0, [rw 25 25, rw 24 24, act 23 0 (clkTop i)]⟩ : RegBlock)) ++
  [ ⟨aClk 0 + 4, 22, 0x20, 1, 0, [w1c 26 26, ro 25 25, ro 24 24, ro 23 0]⟩, ⟨aClk 0 + 8, 22, 0x20, 1, 0, [ro 15 0]⟩,
    ⟨aRstCause, 1, 0, 1, 0, [w1c 5 5, w1c 4 4, w1c 3 3, w1c 2 2, ⟨0, 0, .w1c, 1⟩]⟩, ⟨aRstDev, 1, 0, 1, 0, [act 0 0]⟩,
    ⟨aRstDomCtrl 0, 20, 0x10, 1, 0, [act 1 1, act 0 0]⟩, ⟨aRstDomCtrl 0 + 4, 20, 0x10, 1, 0, [w1c 3 3, ro 2 0]⟩ ]

/-- FI_ registers (R451). -/
def regsFi : List RegBlock :=
  [ ⟨aFiCtrl, 1, 0, 1, 0, [act 1 1, act 0 0]⟩, ⟨aFiStatus, 1, 0, 1, 0, [w1c 1 1, ro 0 0]⟩,
    ⟨aFiEnt 0 0, 16, 0x20, 1, 0, [rw 31 31, rw 30 30, rw 29 28, rw 27 27, rw 26 26, rw 25 24, rw 23 19, rw 18 8, rw 7 0]⟩,
    ⟨aFiEnt 0 1, 16, 0x20, 6, 4, [rw 31 0]⟩, ⟨aFiEnt 0 7, 16, 0x20, 1, 0, [ro 31 0]⟩ ]

/-- PWR_ registers (R469). -/
def regsPwr : List RegBlock :=
  [ ⟨aPwrCtrl, 1, 0, 1, 0, [act 31 31, rw 8 0 420]⟩, ⟨aPwrVin, 2, 4, 1, 0, [ro 15 0]⟩,
    ⟨aPwrAvg, 1, 0, 1, 0, [ro 24 16, ro 8 0]⟩,
    ⟨aPwrStatus, 1, 0, 1, 0, [w1c 5 5, w1c 4 4, w1c 3 3, ro 2 2, ro 1 1, ro 0 0]⟩,
    ⟨aPwrTjmax, 1, 0, 1, 0, [ro 23 16, ro 15 0]⟩, ⟨aPwrTstack, 1, 0, 1, 0, [ro 31 0]⟩,
    ⟨aPwrTherm, 1, 0, 1, 0, [ro 12 0 4096]⟩,
    ⟨aPwrWakeCfg, 1, 0, 1, 0, (List.range 4).flatMap fun n =>
      [rw (8 * n + 7) (8 * n + 7), rw (8 * n + 6) (8 * n + 6) 1, rw (8 * n + 5) (8 * n + 5), rw (8 * n + 4) (8 * n) 4]⟩,
    ⟨aPwrWakeSrc, 1, 0, 1, 0, [w1c 4 4, w1c 3 0]⟩, ⟨aPwrTimer, 1, 0, 1, 0, [rw 23 0]⟩,
    ⟨aPwrEvt, 1, 0, 1, 0, [ro 15 8, w1c 1 1, w1c 0 0]⟩, ⟨aPwrAux, 1, 0, 1, 0, [ro 9 0]⟩ ]

/-- SW_ and CAN_ registers (R371, R372). -/
def regsSw : List RegBlock :=
  [ ⟨aSwCtrl, 1, 0, 1, 0, [ro 1 1, rw 0 0]⟩, ⟨aSwPbErr, 1, 0, 1, 0, [w1c 1 1, w1c 0 0]⟩,
    ⟨aSwPbErrAddr, 1, 0, 1, 0, [ro 31 0]⟩, ⟨aSwPbErrSrc, 1, 0, 1, 0, [ro 7 0]⟩,
    ⟨aSwOfsLo, 2, 4, 1, 0, [rw 31 0]⟩,
    ⟨aSwPort 0, 22, 0x100, 1, 0, [ro 9 8, ro 7 4, ro 3 2, ro 1 1, ro 0 0]⟩,
    ⟨aSwPort 0 + 4, 22, 0x100, 1, 0, [rw 0 0]⟩,
    ⟨aCan 0, 16, 0x400, 1, 0, [act 3 3, rw 2 2 1, ro 1 1, rw 0 0]⟩,
    ⟨aCan 0 + 4, 16, 0x400, 1, 0, [ro 17 16, ro 15 8, ro 7 0]⟩,
    ⟨aCan 0 + 8, 16, 0x400, 1, 0, [rw 31 0]⟩, ⟨aCan 0 + 0xC, 16, 0x400, 1, 0, [rw 31 0]⟩,
    ⟨aCan 0 + 0x10, 16, 0x400, 1, 0, [ro 31 0]⟩ ]

/-- The registers of one DMA channel (R316), for `n` channels of `dies` dies. -/
def regsDmaAt (base dies sd n : Nat) : List RegBlock :=
  [ ⟨base, dies, sd, n, 0x40, [act 1 1, act 0 0]⟩,
    ⟨base + 4, dies, sd, n, 0x40, [rw 23 23, rw 22 20, rw 19 16, rw 13 8, rw 1 1, rw 0 0]⟩,
    ⟨base + 8, dies, sd, n, 0x40, [rw 31 5]⟩, ⟨base + 0xC, dies, sd, n, 0x40, [rw 7 0]⟩,
    ⟨base + 0x10, dies, sd, n, 0x40, [ro 31 0]⟩, ⟨base + 0x14, dies, sd, n, 0x40, [ro 7 0]⟩,
    ⟨base + 0x18, dies, sd, n, 0x40, [ro 23 16, ro 6 4, w1c 3 3, w1c 2 2, w1c 1 1]⟩,
    ⟨base + 0x1C, dies, sd, n, 0x40, [ro 31 0]⟩, ⟨base + 0x20, dies, sd, n, 0x40, [ro 7 0]⟩,
    ⟨base + 0x24, dies, sd, n, 0x40, [ro 23 0]⟩ ]

/-- DMA_ registers (R316, R317). -/
def regsDma : List RegBlock :=
  regsDmaAt 0x7F00061000 1 0x2000 128 ++ regsDmaAt 0x7F10701000 4 0x01000000 96 ++
  [ ⟨0x7F00064000, 192, 4, 1, 0, [act 9 9, w1c 8 8, ro 7 0]⟩ ]

/-- GFX_ and DISP_ registers (R347, R348). -/
def regsGfx : List RegBlock :=
  [ ⟨aGfxCtrl, 1, 0, 1, 0, [act 1 1, rw 0 0]⟩, ⟨aGfxStatus, 1, 0, 1, 0, [ro 28 28, ro 27 16, ro 2 0]⟩,
    ⟨aGfxPreempt, 1, 0, 1, 0, [rw 15 0 20]⟩, ⟨aGfxErr, 1, 0, 1, 0, [w1c 2 2, w1c 1 1, w1c 0 0]⟩,
    ⟨0x7F00080000, 4, 0x1000, 1, 0, [rw 23 8 20, rw 7 4, rw 0 0]⟩,
    ⟨0x7F00080004, 4, 0x1000, 2, 4, [rw 31 0]⟩, ⟨0x7F0008000C, 4, 0x1000, 1, 0, [rw 23 0]⟩,
    ⟨0x7F00080010, 4, 0x1000, 1, 0, [ro 31 0]⟩,
    ⟨0x7F00080014, 4, 0x1000, 1, 0, [w1c 2 2, w1c 1 1, w1c 0 0]⟩ ]

/-- GX_, VC_ and SORT_ registers (R122, R177, R217). -/
def regsDie : List RegBlock :=
  [ ⟨aGx 0, 4, 0x01000000, 16, 0x1000, [act 2 2, rw 1 1, rw 0 0]⟩,
    ⟨aGx 0 + 4, 4, 0x01000000, 16, 0x1000, [ro 27 16, ro 7 4, ro 0 0 1]⟩,
    ⟨aGx 0 + 8, 4, 0x01000000, 16, 0x1000, [ro 31 0]⟩,
    ⟨aGx 0 + 0xC, 4, 0x01000000, 16, 0x1000, [rw 11 8 0xF, ro 3 0 0xF]⟩,
    ⟨aGx 0 + 0x10, 4, 0x01000000, 16, 0x1000, [ro 1 1, act 0 0]⟩,
    ⟨aGx 0 + 0x14, 4, 0x01000000, 16, 0x1000, [ro 31 0]⟩, ⟨aGx 0 + 0x18, 4, 0x01000000, 16, 0x1000, [ro 7 0]⟩,
    ⟨aGx 0 + 0x20, 4, 0x01000000, 16, 0x1000, [w1c 4 4, w1c 3 3, w1c 2 2, w1c 1 1, w1c 0 0]⟩,
    ⟨aGx 0 + 0x24, 4, 0x01000000, 16, 0x1000, [ro 31 31, ro 14 0]⟩,
    ⟨aGx 0 + 0x30, 4, 0x01000000, 16, 0x1000, [rw 23 16, ro 2 2, ro 1 1, act 0 0]⟩,
    ⟨aVc 0, 4, 0x01000000, 64, 0x400, [act 1 1, rw 0 0]⟩,
    ⟨aVc 0 + 4, 4, 0x01000000, 64, 0x400, [ro 27 16, ro 7 4]⟩,
    ⟨aVc 0 + 8, 4, 0x01000000, 64, 0x400, [ro 31 0]⟩, ⟨aVc 0 + 0xC, 4, 0x01000000, 64, 0x400, [ro 31 0]⟩,
    ⟨aVc 0 + 0x10, 4, 0x01000000, 64, 0x400, [w1c 3 3, w1c 2 2, w1c 1 1, w1c 0 0]⟩,
    ⟨aVc 0 + 0x14, 4, 0x01000000, 64, 0x400, [ro 5 0]⟩,
    ⟨aSort 0, 4, 0x01000000, 1, 0, [act 1 1, rw 0 0]⟩,
    ⟨aSort 0 + 4, 4, 0x01000000, 1, 0, [ro 27 16, ro 7 4, ro 0 0 1]⟩,
    ⟨aSort 0 + 8, 4, 0x01000000, 1, 0, [ro 7 0]⟩,
    ⟨aSort 0 + 0x10, 4, 0x01000000, 1, 0, [w1c 1 1, w1c 0 0]⟩,
    ⟨aSort 0 + 0x14, 4, 0x01000000, 1, 0, [ro 11 0]⟩ ]


/-- KV_ registers (R197). -/
def regsKv : List RegBlock :=
  [ ⟨aKv 0, 4, 0x01000000, 1, 0, [act 1 1, rw 0 0]⟩,
    ⟨aKv 0 + 4, 4, 0x01000000, 1, 0, [ro 18 0]⟩,
    ⟨aKv 0 + 8, 4, 0x01000000, 1, 0, [rw 31 0]⟩, ⟨aKv 0 + 0xC, 4, 0x01000000, 1, 0, [rw 7 0]⟩,
    ⟨aKv 0 + 0x10, 4, 0x01000000, 1, 0, [w1c 3 3, w1c 2 2, w1c 1 1, w1c 0 0]⟩,
    ⟨aKv 0 + 0x14, 4, 0x01000000, 1, 0, [ro 22 18, ro 17 0]⟩,
    ⟨aKvPool 0 0, 4, 0x01000000, 32, 0x20, [rw 31 31, rw 30 30, rw 29 24, rw 23 21, ro 6 6, rw 5 0]⟩,
    ⟨aKvPool 0 0 + 4, 4, 0x01000000, 32, 0x20, [rw 31 0]⟩, ⟨aKvPool 0 0 + 8, 4, 0x01000000, 32, 0x20, [rw 7 0]⟩,
    ⟨aKvPool 0 0 + 0xC, 4, 0x01000000, 32, 0x20, [rw 18 0]⟩, ⟨aKvPool 0 0 + 0x10, 4, 0x01000000, 32, 0x20, [rw 31 0]⟩,
    ⟨aKvPool 0 0 + 0x14, 4, 0x01000000, 32, 0x20, [ro 27 20, ro 18 0]⟩,
    ⟨aKvPool 0 0 + 0x18, 4, 0x01000000, 32, 0x20, [ro 10 0]⟩, ⟨aKvPool 0 0 + 0x1C, 4, 0x01000000, 32, 0x20, [rw 18 0]⟩ ]


/-- WHL_ registers (R43). -/
def regsWhl : List RegBlock :=
  [ ⟨aWhlCtrl, 1, 0, 1, 0, [act 1 1, rw 0 0]⟩,
    ⟨0x7F00020004, 2, 4, 1, 0, [rw 22 16 1, rw 13 0 1000]⟩,
    ⟨aWhlPhaseLo, 2, 4, 1, 0, [rw 31 0]⟩,
    ⟨aWhlStatus, 1, 0, 1, 0, [w1c 17 17, w1c 16 16, ro 13 8, ro 1 1, ro 0 0]⟩,
    ⟨aWhlEpochLo, 2, 4, 1, 0, [ro 31 0]⟩,
    ⟨0x7F00021000, 2, 0x400, 64, 0x10, [rw 13 0]⟩,
    ⟨0x7F00021004, 2, 0x400, 64, 0x10, [rw 31 0]⟩,
    ⟨0x7F00021008, 2, 0x400, 64, 0x10, [rw 16 16, rw 10 8, rw 4 4, rw 3 0]⟩,
    ⟨0x7F0002100C, 2, 0x400, 64, 0x10, [rw 31 0]⟩ ]

/-- CNT_ registers (R483). -/
def regsCnt : List RegBlock :=
  [ ⟨aCntTimeLo, 2, 4, 1, 0, [ro 31 0]⟩,
    ⟨aCntTbRate, 1, 0, 1, 0, [rw 31 0]⟩,
    ⟨aCntOvfIrq, 1, 0, 1, 0, [rw 10 0]⟩,
    ⟨aCntOvfStat, 1, 0, 1, 0, [w1c 10 0]⟩ ]

/-- TWIN_ registers (R259, R260). -/
def regsTwin : List RegBlock :=
  [ ⟨0x7F10500000, 4, 0x01000000, 8, 0x100, [act 3 3, act 2 2, act 1 1, act 0 0]⟩,
    ⟨0x7F10500004, 4, 0x01000000, 8, 0x100, [ro 28 16, ro 14 8, ro 6 4, ro 2 0]⟩,
    ⟨0x7F10500008, 4, 0x01000000, 8, 0x100, [w1c 4 4, w1c 3 3, w1c 2 2, w1c 1 1, w1c 0 0]⟩,
    ⟨0x7F1050000C, 4, 0x01000000, 8, 0x100, [ro 18 16, ro 15 0]⟩,
    ⟨0x7F10500010, 4, 0x01000000, 8, 0x100, [ro 31 0]⟩, ⟨0x7F10500014, 4, 0x01000000, 8, 0x100, [ro 31 0]⟩,
    ⟨0x7F10500018, 4, 0x01000000, 8, 0x100, [ro 31 0]⟩, ⟨0x7F1050001C, 4, 0x01000000, 8, 0x100, [ro 31 0]⟩,
    ⟨0x7F10500020, 4, 0x01000000, 8, 0x100, [ro 31 0]⟩, ⟨0x7F10500024, 4, 0x01000000, 8, 0x100, [ro 31 0]⟩,
    ⟨0x7F10500028, 4, 0x01000000, 8, 0x100, [ro 31 0]⟩, ⟨0x7F1050002C, 4, 0x01000000, 8, 0x100, [ro 31 0]⟩,
    ⟨0x7F00030000, 12, 0x40, 1, 0, [ro 0 0]⟩, ⟨0x7F00030400, 2, 0x40, 1, 0, [ro 0 0 1]⟩,
    ⟨0x7F00030004, 12, 0x40, 1, 0, [ro 14 8, ro 6 4, ro 2 0]⟩,
    ⟨0x7F00030404, 2, 0x40, 1, 0, [ro 14 8, ro 6 4, ro 2 0]⟩,
    ⟨0x7F00030008, 12, 0x40, 1, 0, [w1c 3 3, w1c 2 2, w1c 1 1, w1c 0 0]⟩,
    ⟨0x7F00030408, 2, 0x40, 1, 0, [w1c 3 3, w1c 2 2, w1c 1 1, w1c 0 0]⟩,
    ⟨0x7F00030010, 12, 0x40, 2, 4, [ro 31 0]⟩, ⟨0x7F00030410, 2, 0x40, 2, 4, [ro 31 0]⟩ ]

/-- SAFE_ registers (R277). -/
def regsSafe : List RegBlock :=
  [ ⟨aSafeCfg, 1, 0, 1, 0, [act 31 31, rw 25 16, rw 7 0 5]⟩,
    ⟨aSafeOut, 1, 0, 1, 0, [rw 5 4, ro 2 2, ro 1 1, ro 0 0 1]⟩,
    ⟨aSafeCond, 1, 0, 1, 0, [ro 17 1]⟩,
    ⟨aSafeSeen, 1, 0, 1, 0, [w1c 17 1]⟩,
    ⟨aSafeKick, 1, 0, 1, 0, [wo 1 1, wo 0 0]⟩,
    ⟨aSafeReport, 1, 0, 1, 0, [wo 8 8, wo 7 0]⟩ ]

/-- BWR_ registers (R302). -/
def regsBwr : List RegBlock :=
  [ ⟨aBwrCtrl, 1, 0, 1, 0, [act 1 1, rw 0 0]⟩,
    ⟨aBwrStatus, 1, 0, 1, 0, [w1c 9 9, w1c 8 8, ro 6 4, ro 2 0]⟩,
    ⟨aBwrDerate, 1, 0, 1, 0, [ro 12 0 4096]⟩,
    ⟨aBwrCut, 1, 0, 1, 0, [ro 18 16, ro 15 0]⟩,
    ⟨aBwrIlvLo, 1, 0, 1, 0, [act 31 0]⟩, ⟨aBwrIlvHi, 1, 0, 1, 0, [act 3 0]⟩,
    ⟨aBwrFaultLo, 1, 0, 1, 0, [ro 31 0]⟩, ⟨aBwrFaultHi, 1, 0, 1, 0, [ro 7 0]⟩,
    ⟨aBwrFaultSrc, 1, 0, 1, 0, [ro 8 8, ro 7 0]⟩,
    ⟨aBwr + 0x100, 32, 0x10, 1, 0, [rw 31 12]⟩, ⟨aBwr + 0x104, 32, 0x10, 1, 0, [rw 7 0]⟩,
    ⟨aBwr + 0x108, 32, 0x10, 1, 0, [rw 31 12]⟩,
    ⟨aBwr + 0x10C, 32, 0x10, 1, 0, [rw 31 31, rw 18 16, rw 7 0]⟩,
    ⟨aBwr + 0x1000, 71, 0x40, 1, 0, [rw 31 31, rw 30 30, ro 29 29, rw 22 20, rw 19 16]⟩,
    ⟨aBwrMcfg 71, 5, 0x40, 1, 0, [rw 31 31, rw 30 30, ro 29 29 1, rw 22 20, rw 19 16]⟩,
    ⟨aBwrMcfg 76, 116, 0x40, 1, 0, [rw 31 31, rw 30 30, ro 29 29, rw 22 20, rw 19 16]⟩,
    ⟨aBwr + 0x1004, 192, 0x40, 1, 0, [rw 16 0 1000]⟩,
    ⟨aBwr + 0x1008, 192, 0x40, 8, 4, [rw 31 0]⟩,
    ⟨aBwr + 0x1028, 192, 0x40, 1, 0, [ro 31 0]⟩, ⟨aBwr + 0x102C, 192, 0x40, 1, 0, [ro 31 0]⟩,
    ⟨aBwr + 0x6000, 192, 0x20, 8, 4, [ro 15 0]⟩ ]

/-- PCIE_ registers (R396). -/
def regsPcie : List RegBlock :=
  [ ⟨aPcie 0, 2, 0x1000, 1, 0, [ro 1 1, rw 0 0]⟩,
    ⟨aPcie 0 + 4, 2, 0x1000, 1, 0, [ro 23 16, ro 11 11, ro 10 7, ro 6 4, ro 0 0]⟩,
    ⟨aPcie 0 + 8, 2, 0x1000, 1, 0, [ro 18 16, ro 14 8, ro 6 0]⟩,
    ⟨aPcie 0 + 0xC, 2, 0x1000, 1, 0, [w1c 5 5, w1c 4 4, w1c 3 3, w1c 2 2, w1c 1 1, w1c 0 0]⟩,
    ⟨aPcie 0 + 0x10, 2, 0x1000, 1, 0, [ro 31 0]⟩, ⟨aPcie 0 + 0x14, 2, 0x1000, 1, 0, [ro 7 0]⟩,
    ⟨aPcie 0 + 0x18, 2, 0x1000, 1, 0, [ro 7 7, ro 6 0]⟩,
    ⟨aPcie 0 + 0x100, 2, 0x1000, 64, 4, [rw 6 6, rw 5 0]⟩ ]

/-- The whole register map. Log entry 1 (DESIGN CHOICE). -/
def regTable : List RegBlock :=
  regsWhl ++ regsDie ++ regsKv ++ regsCnt ++ regsTwin ++ regsSafe ++ regsBwr ++ regsPcie ++
  regsSw ++ regsDma ++ regsGfx ++ regsSec ++ regsClk ++ regsFi ++ regsPwr

/-- The layout of the register at an address. -/
def regFields (a : Nat) : Option (List RegField) := (regTable.find? (·.has a)).map (·.fields)

/-- The word that a register holds after the reset of its domain; 0 where the map has no register.
Log entry 1 (DESIGN CHOICE). -/
def regReset (a : Nat) : Word := RegField.resetWord ((regFields a).getD [])

end Sys2Proof.Machine
end

