-- ==== Sys2Proof/Machine/Mem.lean ====
section
/-! DEFINITION. Memory as a list of (address, byte) cells in one canonical form: addresses strictly
rising, and no entry equal to what an unlisted address reads as. -/

namespace Sys2Proof.Machine

/-- The contents of the DRAM stacks and of the map stores, keyed by the stack-local device address or
the map store address (R281, R283). -/
abbrev Memory := List Host.Cell

/-- What a byte that no cell lists reads as. R287 has every granule zeroed before an instance gets it;
for bytes never given to anyone the spec gives no value (DESIGN CHOICE, log entry 3).
Log entry 3 (DESIGN CHOICE). -/
def Memory.blank : Byte := 0

/-- The byte at an address. -/
def Memory.read : Memory → Nat → Byte
  | [], _ => Memory.blank
  | (k, v) :: m, a => if k = a then v else Memory.read m a

/-- The memory with a cell put in its place, or changed. -/
def Memory.put : Memory → Nat → Byte → Memory
  | [], a, b => [(a, b)]
  | (k, v) :: m, a, b =>
    if a < k then (a, b) :: (k, v) :: m
    else if a = k then (a, b) :: m
    else (k, v) :: Memory.put m a b

/-- The memory with one byte written; writing the blank value removes the cell. -/
def Memory.write (m : Memory) (a : Nat) (b : Byte) : Memory :=
  if b = Memory.blank then m.filter fun c => c.1 ≠ a else Memory.put m a b

/-- The memory with consecutive bytes written from an address. -/
def Memory.writeBytes (m : Memory) : Nat → List Byte → Memory
  | _, [] => m
  | a, b :: t => Memory.writeBytes (Memory.write m a b) (a + 1) t

/-- The memory with every byte of a range made blank (R64, R287). -/
def Memory.clear (m : Memory) (a n : Nat) : Memory :=
  m.filter fun c => !(decide (a ≤ c.1) && decide (c.1 < a + n))

/-- The canonical form, as a Bool. -/
def Memory.wf : Memory → Bool
  | [] => true
  | [(_, v)] => decide (v ≠ Memory.blank)
  | (k, v) :: (k', v') :: m =>
    decide (v ≠ Memory.blank) && decide (k < k') && Memory.wf ((k', v') :: m)

end Sys2Proof.Machine
end

