-- ==== Sys2Proof/Machine/Types.lean ====
section
/-! DEFINITION. The types of the state's parts that belong to the control plane: personalities,
partitions, engine groups, pages, instances, contexts, queues and the commands in their windows,
graphs, serving, twin pairs, safety, links and memory. Registers that the spec gives an address live
in the register file (Machine/Regs.lean) and not here. All of it is plain data. -/

namespace Sys2Proof.Machine

/-- Personalities (R26). -/
inductive Pers where
  | drive | park | lease | service | sleep
  deriving DecidableEq, Repr, Inhabited

/-- The PERS code of INST_STATE and PERS_SET (R48, R69). -/
def Pers.code : Pers → Nat
  | .drive => 0 | .park => 1 | .lease => 2 | .service => 3 | .sleep => 4

/-- The personality that a PERS_SET target code names (R69). -/
def Pers.ofCode : Nat → Option Pers
  | 0 => some .drive | 1 => some .park | 2 => some .lease | 3 => some .service | 4 => some .sleep
  | _ => none

/-- Partition kinds (R37). -/
inductive PartKind where
  | safety | display | cockpit | bestEffort | lease
  deriving DecidableEq, Repr, Inhabited

def PartKind.code : PartKind → Nat
  | .safety => 0 | .display => 1 | .cockpit => 2 | .bestEffort => 3 | .lease => 4

def PartKind.ofCode : Nat → Option PartKind
  | 0 => some .safety | 1 => some .display | 2 => some .cockpit | 3 => some .bestEffort
  | 4 => some .lease | _ => none

/-- Instance states (R48, R385). -/
inductive InstState where
  | free | created | active | orphaned | draining | squashing | resetDone
  deriving DecidableEq, Repr, Inhabited

def InstState.code : InstState → Nat
  | .free => 0 | .created => 1 | .active => 2 | .orphaned => 3 | .draining => 4
  | .squashing => 5 | .resetDone => 6

/-- A personality transition in progress (R31, R33): its ends, the device time of its trigger, the
step of the hand-over that it has reached, and the page and tag of the PERS_SET that asked for it. -/
structure Transition where
  src   : Pers
  dst   : Pers
  t0    : Nat
  /-- The steps of the hand-over completed, with their times (R34). -/
  steps : List (Nat × Nat) := []
  /-- After a SERVICE to PARK transition the device goes on to DRIVE (R33). -/
  thenDrive : Bool := false
  deriving DecidableEq, Repr, Inhabited

/-- A partition (R37): world O?, kind, owned ranges as (base, limit) with the limit the last byte. -/
structure Partition where
  worldO : Bool
  kind   : PartKind
  ranges : List (Nat × Nat)
  deriving DecidableEq, Repr, Inhabited

/-- An engine group (R28, R70): partition, TWIN, the masks of engines and of spare pairs, whether it
is suspended under R28, and which of its engines are lent to it by suspended groups. -/
structure EngineGroup where
  pt        : Nat
  twin      : Bool
  engines   : Nat
  spares    : Nat
  suspended : Bool := false
  lent      : Nat := 0
  /-- Defined as a graphics group: TWIN 0 and both masks 0 (R319). -/
  gfx       : Bool := false
  /-- A reference run of the group has passed since DRIVE was last entered (R34). -/
  refOk     : Bool := false
  deriving DecidableEq, Repr, Inhabited

/-- A wheel configuration as MGR_WHEEL_SET's image holds it (R70): the WHL_PERIOD word, PHASE and the
slot descriptors of four words each. -/
structure WheelCfg where
  period  : Word
  phaseLo : Word
  phaseHi : Word
  slots   : List (List Word)
  deriving DecidableEq, Repr, Inhabited

/-- Dirty-log control of a page (R392). -/
structure DirtyLog where
  en       : Bool := false
  base0    : Nat := 0
  base1    : Nat := 0
  len      : Nat := 0
  gen      : Nat := 0
  cfgErr   : Bool := false
  lost     : Bool := false
  ovf      : Bool := false
  swapBusy : Bool := false
  active1  : Bool := false
  deriving DecidableEq, Repr, Inhabited

/-- The snapshot block of a page (R474): entries are (value, OVF), and `cleared` lists the entries
that R476 has cleared once. -/
structure Snapshot where
  valid   : Bool := false
  group   : Nat := 0
  time    : Nat := 0
  entries : List (Nat × Bool) := []
  cleared : List Nat := []
  deriving DecidableEq, Repr, Inhabited

/-- The registers of one SCI page (R48, R62) that are not constants. -/
structure Page where
  state     : InstState := .free
  hbMissed  : Nat := 0
  evict     : Bool := false
  req       : Tab Word := []
  go        : Bool := false
  rsp       : Tab Word := []
  rspStatus : Nat := 0
  rspTag    : Nat := 0
  valid     : Bool := false
  heartbeat : Word := 0
  /-- The HEARTBEAT value that Sebry last recorded (R58). -/
  hbSeen    : Word := 0
  /-- The host has written a value in this period that differs from the recorded one (R58). -/
  hbWrote   : Bool := false
  fwHeartbeat : Word := 0
  evStatus  : Word := 0
  evMask    : Word := 0x1FFFE#32
  evWr      : Nat := 0
  evRd      : Nat := 0
  /-- The event ring: record i holds four words (R62). -/
  ring      : Tab (List Word) := []
  snap      : Snapshot := {}
  dl        : DirtyLog := {}
  /-- T_open and the count of heartbeat periods that have ended (R58). -/
  tOpen     : Nat := 0
  hbPeriods : Nat := 0
  hbPeriodMs : Nat := 100
  /-- The host's declared major and minor versions (R56, R57). -/
  hostVer   : Word := 0
  deriving DecidableEq, Repr, Inhabited

/-- What an allocation was made for (R509). -/
inductive AllocKind where
  | mem | boot | ring | graphBuf (g b : Nat)
  deriving DecidableEq, Repr, Inhabited

/-- An allocation of an instance: device address, length in 64 KiB units, window offset in 64 KiB
units (R504). -/
structure Alloc where
  addr   : Nat
  units  : Nat
  winOff : Nat
  kind   : AllocKind
  deriving DecidableEq, Repr, Inhabited

/-- A window granule of an instance (R380): the device address of the 2 MiB it names. An interleaved
8 MiB granule has four. -/
structure WinGranule where
  dev  : Nat
  ilv  : Bool
  deriving DecidableEq, Repr, Inhabited

/-- A command marked D whose effect has begun (R53): the page and tag that are told of its end, its
opcode, the object it works on and its final status once that is known. Log entry 15 (DESIGN CHOICE). -/
structure DoneCmd where
  page   : Nat
  tag    : Byte
  opcode : Nat
  /-- The object: an instance, a queue, a context, a pair, an allocation's address. -/
  arg    : Nat := 0
  arg2   : Nat := 0
  /-- COMMAND_DONE may be posted. -/
  ready  : Bool := true
  status : Nat := 0
  deriving DecidableEq, Repr, Inhabited

/-- What an instance holds besides its page (R63, R70, R374, R384, R389). -/
structure Inst where
  worldO   : Bool := false
  pt       : Nat := 0
  bindKind : Nat := 0
  bindIdx  : Nat := 0
  quotaMiB : Nat := 0
  qQuota   : Nat := 0
  ctxQuota : Nat := 0
  egMask   : Nat := 0
  cmdlen   : Nat := 1000
  allocs   : List Alloc := []
  window   : Tab WinGranule := []
  /-- Bytes that Sebry holds for the instance and counts against its quota (R180, R268, R510). -/
  heldBytes : Nat := 0
  /-- End of the grace of a pending EVICT notice (R389). -/
  graceEnd : Option Nat := none
  /-- The accepted drain's acceptance time (R385). -/
  drainT   : Option Nat := none
  /-- The instance is to become FREE once its reset is complete (R388). -/
  destroy  : Bool := false
  /-- A function level reset of its function runs (R383). -/
  flr      : Bool := false
  /-- DBIDX values in use, with their queue numbers (R65). -/
  doorbells : Tab Nat := []
  deriving DecidableEq, Repr, Inhabited

/-- A context (R65, R90–R98). `lastUse` is its latest accepted doorbell or press, or its creation. -/
structure Ctx where
  gen     : Nat
  inst    : Nat
  eg      : Nat
  prio    : Nat
  cmdlen  : Nat
  parked  : Bool
  /-- Its context slot while it is tracked (R93). -/
  slot    : Nat := 0
  torn    : Bool := false
  lastUse : Nat := 0
  /-- The first waiting doorbell of a parked context (R98). -/
  waitSince : Option Nat := none
  /-- The graph that owns the context (R235). -/
  graph   : Option Nat := none
  deriving DecidableEq, Repr, Inhabited

/-- A declared region (R78). -/
structure Region where
  base : Nat
  len  : Nat
  deriving DecidableEq, Repr, Inhabited

/-- Where a taken command stands (R81, R83). -/
inductive CmdStage where
  | taken | dispatched | finished
  deriving DecidableEq, Repr, Inhabited

/-- A write that the device holds for step 4 of the press (R87). -/
structure HeldWrite where
  addr : Nat
  data : List Byte
  deriving DecidableEq, Repr, Inhabited

/-- The part of a graph's node that a command runs (R225): part `idx` of `of_`, with the rows, columns and reduction indices of its
result, or the layers of a chain, as [first, end); `none` is all of them. Parts of a class 0x03 command share its sequences. -/
structure Part where
  idx    : Nat
  of_    : Nat
  rows   : Option (Nat × Nat) := none
  cols   : Option (Nat × Nat) := none
  ks     : Option (Nat × Nat) := none
  layers : Option (Nat × Nat) := none
  deriving DecidableEq, Repr, Inhabited

/-- A command in a queue's window (R76): what was copied at its taking, and what its runs have done. -/
structure Cmd where
  seq    : Nat
  desc   : List Word
  ins    : List Region
  outs   : List Region
  params : List Byte
  stage  : CmdStage := .taken
  takenT : Nat := 0
  /-- The time at which it first became eligible (R221). -/
  eligT  : Option Nat := none
  dispT  : Nat := 0
  /-- It holds the locks and lock-table entries of R83, R84. -/
  locked : Bool := false
  engines : List Nat := []
  /-- The sort unit of this die runs it (R216). -/
  sortDie : Option Nat := none
  reruns  : Nat := 0
  /-- Step 2 of the press passes: every record of every pair has passed, or the command does not run twinned (R248). -/
  agreed  : Bool := false
  /-- The engines that R250 gives the re-run after a twin finding; none otherwise. -/
  rerunOn : List Nat := []
  /-- Re-runs of the twin-mismatch and link rows (R91). -/
  faultReruns : Nat := 0
  preempts : Nat := 0
  esc     : Nat := 0
  /-- Format codes reached on the input and output sides (R150–R152). -/
  rungIn  : Option Nat := none
  rungOut : Option Nat := none
  cIn     : Nat := 0
  cOut    : Nat := 0
  /-- Writes held for step 4 of the press. -/
  held    : List HeldWrite := []
  /-- Key-value pages reserved for it, as (die, pool, page) (R185). -/
  pages   : List (Nat × Nat × Nat) := []
  waitPages : Bool := false
  /-- When the run finished, and the engines that it held. -/
  finT    : Nat := 0
  nEng    : Nat := 0
  /-- Node of a graph run: graph handle, run number, node index (R235). -/
  node    : Option (Nat × Nat × Nat) := none
  /-- The part of its node that it runs; `none` for all of it (R225). -/
  part    : Option Part := none
  /-- The FP32 partial results of a part cut along K, row by row (R225). -/
  partials : List Word := []
  ageStamp : Nat := 0
  /-- A CONV_CHAIN rank that waits on a ready flag: (rank, layer, row) (R208). -/
  haloWait : List (Nat × Nat × Nat) := []
  /-- A graphics job suspended at a boundary, with the draws or tiles done (R335). -/
  suspended : Option Nat := none
  deriving DecidableEq, Repr, Inhabited

/-- A hardware queue (R72–R81). Graph queues take their commands from `feed`, the nodes that Sebry
has submitted and that have not been taken yet (R235). -/
structure Queue where
  ctx    : Nat
  inst   : Nat
  dbidx  : Nat
  ring   : Nat
  log2n  : Nat
  compl  : Nat
  head   : Nat := 0
  tail   : Nat := 0
  halted : Bool := false
  window : List Cmd := []
  feed   : List Cmd := []
  graph  : Option Nat := none
  deriving DecidableEq, Repr, Inhabited

/-- A buffer of a graph (R235): KIND, DIE, SIZE, device address, and words 2 to 4 of its entry. -/
structure Buf where
  kind : Nat
  die  : Nat
  size : Nat
  addr : Nat
  aux  : Nat × Nat × Nat := (0, 0, 0)
  /-- Pool index of a KIND 5 buffer (R180). -/
  pool : Nat := 0
  deriving DecidableEq, Repr, Inhabited

/-- A node of a graph: its descriptor, its region list with buffer indices, its parameter block. -/
structure Node where
  desc   : List Word
  nin    : Nat
  /-- (buffer index, offset, length). -/
  regions : List (Nat × Nat × Nat)
  params : List Byte
  deriving DecidableEq, Repr, Inhabited

/-- A reference block (R268). -/
structure RefBlock where
  node : Nat
  data : List Byte
  expA : Dword
  expB : Dword
  deriving DecidableEq, Repr, Inhabited

/-- What the device last answered to a host access: the bytes read, or the way it was refused
(R282, R293). Log entry 51 (DESIGN CHOICE). -/
inductive AccResult where
  | none
  | read (data : List Byte)
  | poisoned (data : List Byte)
  | written
  | waits
  | coreFault (addr : Nat)
  | unsupported
  | discarded
  /-- No completion was sent (R447). -/
  | dropped
  | error
  deriving DecidableEq, Repr, Inhabited

/-- What a twinned application core pair keeps at its compare point (R252): the writes of the leading core that the trailing core has
not issued, and the loads that it has not yet been given, oldest first. -/
structure HostQueue where
  /-- (address, length, bytes). -/
  writes : List (Nat × Nat × List Byte) := []
  /-- (address, length, result). -/
  loads  : List (Nat × Nat × AccResult) := []
  deriving DecidableEq, Repr, Inhabited

/-- The serving section of a package (R236). -/
structure ServeCfg where
  vocab  : Nat
  eos    : Nat
  maxp   : Nat
  pchunk : Nat
  tokBuf : Nat
  rowBuf : Nat
  seqBuf : Nat
  logBuf : Nat
  deriving DecidableEq, Repr, Inhabited

/-- A part of a cut node that has pressed in a run: run, node, part, and the rungs at which it pressed (R508). -/
structure PartPress where
  run     : Nat
  node    : Nat
  part    : Part
  rungIn  : Option Nat
  rungOut : Option Nat
  deriving DecidableEq, Repr, Inhabited

/-- A run of a graph that has not ended: the device time of its start, and the AGE_STAMP against which it is judged (R229, R231). -/
structure RunRec where
  start : Nat
  stamp : Nat
  deriving DecidableEq, Repr, Inhabited

/-- A loaded graph (R225, R229–R235, R268, R508, R510). -/
structure Graph where
  inst   : Nat
  ctx    : Nat
  queue  : Nat
  prio   : Nat
  eg     : Nat
  bufs   : List Buf
  nodes  : List Node
  trig   : Nat
  done   : Nat
  serve  : Option ServeCfg := none
  started : Nat := 0
  finished : Nat := 0
  /-- The runs that have started and not ended, by number. -/
  runs   : Tab RunRec := []
  /-- The parts of each node that Sebry has cut, by node index (R225). -/
  cuts   : Tab (List Part) := []
  /-- The parts of cut nodes that have pressed in runs where the node is not done (R508). -/
  pressed : List PartPress := []
  /-- The FP32 partial results of the parts cut along K, by node × 2²⁰ + part (R225). -/
  partials : Tab (List Word) := []
  fallback : Option Nat := none
  primary  : Option Nat := none
  /-- The torn-down context that R227 keeps until the fall-back's first run in the new one has pressed. -/
  oldCtx   : Option Nat := none
  onFallback : Bool := false
  goodRuns : Nat := 0
  /-- The latest run on the fall-back that has been judged for the return (R232). -/
  goodRun : Nat := 0
  ageLimits : Tab Nat := []
  ref    : Option RefBlock := none
  /-- Memory that Sebry holds for the graph, as (device address, granules of 2 MiB), and its bytes. -/
  held   : List (Nat × Nat) := []
  heldBytes : Nat := 0
  /-- Map-store bytes per die at the graph's peak (R200). -/
  msPeak : Tab Nat := []
  /-- Pools of the graph, as (die, pool). -/
  pools  : List (Nat × Nat) := []
  deriving DecidableEq, Repr, Inhabited

/-- One sequence of the serving batch (R237). -/
structure Seq where
  reqId  : Word
  prompt : List Nat
  maxNew : Nat
  temp   : Word
  topK   : Nat
  topP   : Word
  seed   : Word
  stops  : List Nat
  /-- Sequence slot in the graph's tables. -/
  slot   : Nat
  fed    : Nat := 0
  out    : List Nat := []
  ended  : Nat := 0
  deriving DecidableEq, Repr, Inhabited

/-- A row of a step: the index of its sequence in the batch, the sequence slot, the token, and whether a token
is sampled from it (R237). -/
structure Row where
  idx   : Nat
  slot  : Nat
  token : Nat
  last  : Bool
  deriving DecidableEq, Repr, Inhabited

/-- The serving service of an instance (R236–R239). -/
structure Serving where
  graph    : Nat
  maxBatch : Nat
  reqQ     : Nat
  rspQ     : Nat
  stopping : Bool := false
  batch    : List Seq := []
  /-- Sequences truncated to make room for pages, which are computed again (R185). -/
  requeued : List Seq := []
  /-- The rows of the step whose nodes have been submitted; none between steps. -/
  rows     : List Row := []
  /-- Sequences whose record of END 5 waits for a released response entry (R227). -/
  owed     : List Seq := []
  deriving DecidableEq, Repr, Inhabited

/-- A unit under periodic test (R262–R267): engines 0–63, sort units 64–67. Log entry 5 (DESIGN CHOICE). -/
structure TestState where
  subject  : Bool := false
  since    : Nat := 0
  lastEnd  : Nat := 0
  next     : Nat := 0
  retry    : Bool := false
  withdrawn : Bool := false
  disabled : Bool := false
  /-- A full sweep has passed since the unit's pair was quarantined or failed a reference run (R258, R271). -/
  swept    : Bool := false
  deriving DecidableEq, Repr, Inhabited

/-- An entry of a pair's delay buffer (R247): stream and record number, the leading copy's signatures, and when it closed the record. -/
structure DelayEntry where
  stream : Nat
  record : Nat
  sigA   : Dword
  sigB   : Dword
  since  : Nat
  deriving DecidableEq, Repr, Inhabited

/-- What is remembered of a twin pair besides its registers (R245, R258, R271). Log entry 5 (DESIGN CHOICE). -/
structure PairState where
  /-- Records that have passed, by stream, in the present run, and the streams that have passed their last. -/
  records : Tab Nat := []
  closed  : List Nat := []
  /-- The doublewords of the engine stream's records in the present run, where the manual orders its writes (R505). -/
  stream  : List (List Dword) := []
  /-- SIG_A and SIG_B of the leading copy's engine-stream records that have passed (R269). -/
  sigs    : List (Dword × Dword) := []
  /-- The delay buffer, oldest entry first (R247). -/
  delay   : List DelayEntry := []
  /-- A run that a kill for another cause has ended and whose records are still judged: queue, command, row of R90 (R249). -/
  ended   : Option (Nat × Cmd × Nat) := none
  /-- The spare that took its place at its latest finding, and when (R251). -/
  subst   : Option (Nat × Nat) := none
  /-- Device times of the pair's quarantines, latest first. -/
  quarT   : List Nat := []
  /-- It stays QUARANTINED until a power cycle or QCLR (R258). -/
  stuck   : Bool := false
  /-- Device times of failed reference runs. -/
  refFailT : List Nat := []
  refWithdrawn : Bool := false
  /-- A second failure within one hour has taken it out until a power cycle (R271). -/
  dead    : Bool := false
  /-- The sweep after a quarantine or reference failure has passed. -/
  sweepOk : Bool := false
  /-- The group whose spare took the pair's place, and whose spare it becomes (R251). -/
  home    : Option Nat := none
  /-- The reference failure is reported until the amended wheel is in force (R271). -/
  refHeld : Bool := false
  /-- The manager has asked for the pairing or the unpairing that runs (R256, R257). -/
  asked   : Bool := false
  deriving DecidableEq, Repr, Inhabited

/-- An event counter (R471). -/
structure Counter where
  val : Nat := 0
  ovf : Bool := false
  deriving DecidableEq, Repr, Inhabited

/-- A die-to-die link or a stack interface (R17, R18, R291). Log entry 5 (DESIGN CHOICE). -/
structure LinkState where
  down     : Bool := false
  training : Bool := false
  /-- Replays of the flit in hand, or failed repeats of the transfer, and the time of the latest error. -/
  replays  : Nat := 0
  lastErr  : Nat := 0
  /-- CRC-retry counter of a die-to-die link and its injected twin (R17, R450); a stack's is in group 0x06. -/
  crc      : Counter := {}
  crcInj   : Counter := {}
  /-- Device times of retrains that failed. -/
  fails    : List Nat := []
  deriving DecidableEq, Repr, Inhabited

/-- A diagnostic log entry (R507). -/
structure LogEntry where
  time    : Nat
  inj     : Bool := false
  kind    : Nat
  code    : Nat := 0
  subject : Nat := 0
  addr    : Nat := 0
  detail  : Nat := 0
  deriving DecidableEq, Repr, Inhabited

/-- An interrupt that the device has raised and no host has taken (R382, R253, R370, R312).
Log entry 105 (DESIGN CHOICE). -/
inductive Irq where
  /-- Vector v of an instance page (R382). -/
  | inst (n v : Nat)
  /-- Vector v of the manager page. -/
  | mgr (v : Nat)
  | dma (ch : Nat)
  /-- Cluster error interrupt with the ACPAIR number (R253). -/
  | cluster (q : Nat)
  | bridge
  | counter
  | ipRing (i : Nat)
  | port (p : Nat)
  | power
  deriving DecidableEq, Repr, Inhabited

/-- An access of a host master that waits for a region lock (R84), or for a retraining link (R17).
Log entry 49 (DESIGN CHOICE). -/
inductive WaitAcc where
  | coreAcc (core : Nat) (store : Bool) (addr len : Nat) (data : List Byte)
  | pcieAcc (inst vf : Nat) (offset : Nat) (write : Option (List Byte)) (len : Nat)
  /-- A page access of a function behind one of its posted writes that waits (R381): the master, the page. -/
  | pciePage (vf page : Nat) (offset : Nat) (write : Option (List Byte)) (len : Nat)
  /-- Steps 6 to 8 of the press of a command of a queue, whose fence line another command has locked (R84, R87):
  the queue, the command, the time of the press. -/
  | fence (q : Nat) (c : Cmd) (pressT : Nat)
  /-- The fetch of a channel's descriptor (R308): the channel, the address. -/
  | dmaFetch (ch addr : Nat)
  /-- The write-back of a channel's descriptor that ended in error (R312, R313): its address, words 6 and 7. -/
  | dmaBack (addr xfer w7 : Nat)
  deriving DecidableEq, Repr, Inhabited

end Sys2Proof.Machine
end

