-- ==== Sys2Proof/Machine/TypesIo.lean ====
section
/-! DEFINITION. The types of the state's parts that belong to the inputs and outputs: the gateway, boot
configuration, display and cameras, vector cores, flash and fuses, keys, debug and power. -/

namespace Sys2Proof.Machine

/-! ### The gateway (R350–R372) -/

/-- A frame in an egress queue (R353): the bytes from the destination address to the last byte before the
FCS, without VLAN tag, with the VID, priority and drop eligible indicator that it carries. -/
structure EthFrame where
  bytes : List Byte
  vid   : Nat
  prio  : Nat
  dei   : Bool := false
  /-- An R-TAG with this sequence number is added at egress (R362). -/
  rtag  : Option Nat := none
  deriving DecidableEq, Repr, Inhabited

/-- A gate control list or stream gate list (R362): entries are (STATES word, INTERVAL). -/
structure GateList where
  init    : Nat
  base    : Nat
  cycle   : Nat
  ext     : Nat := 0
  entries : List (Nat × Nat)
  deriving DecidableEq, Repr, Inhabited

structure MeterCfg where
  dropYellow : Bool
  cir : Nat
  cbs : Nat
  eir : Nat
  ebs : Nat
  deriving DecidableEq, Repr, Inhabited

structure CbCfg where
  hist    : Nat
  recover : Bool
  seqgen  : Bool
  outMask : Nat
  resetMs : Nat
  deriving DecidableEq, Repr, Inhabited

/-- A route table with its sections (R360, R362): entries and stream records as their words. -/
structure RouteTable where
  entries : List (List Word) := []
  gates   : Tab GateList := []
  streams : List (List Word) := []
  sgates  : Tab GateList := []
  meters  : Tab MeterCfg := []
  cb      : Tab CbCfg := []
  deriving DecidableEq, Repr, Inhabited

/-- A gate of an egress port or of a stream (R362): the list in force, since when its cycle origin is, the
loaded list that waits and the gPTP time at which it becomes active, and the states until a list runs. -/
structure GateState where
  active  : Option GateList := none
  pending : Option GateList := none
  at_     : Nat := 0
  idle    : Nat := 0xFF
  deriving DecidableEq, Repr, Inhabited

/-- The buckets of a flow meter, in units of 1/8,000,000 byte, and the time of their last filling. -/
structure MeterState where
  c    : Nat
  e    : Nat
  time : Nat
  deriving DecidableEq, Repr, Inhabited

/-- A redundancy stream's sequence generation and recovery (IEEE 802.1CB). -/
structure CbState where
  gen     : Nat := 0
  takeAny : Bool := true
  seq     : Nat := 0
  /-- Sequence numbers seen, as distances below `seq`. -/
  seen    : List Nat := []
  deriving DecidableEq, Repr, Inhabited

/-- A PDU for a container (R364). -/
structure Pdu where
  id   : Word
  data : List Byte
  ver  : Bool
  fmt  : Nat
  time : Nat
  deriving DecidableEq, Repr, Inhabited

structure Container where
  pdus : List Pdu := []
  seq  : Nat := 0
  since : Nat := 0
  deriving DecidableEq, Repr, Inhabited

/-- A MACsec channel of a port in one direction (R357): the associations that are valid, the association
in use for transmission, the next PN sent by association, and the greatest PN received by association. -/
structure Macsec where
  valid : List Nat := []
  txAn  : Nat := 0
  txPn  : Tab Nat := []
  rxPn  : Tab Nat := []
  deriving DecidableEq, Repr, Inhabited

/-- What the gateway holds besides its registers. -/
structure Gw where
  table   : RouteTable := {}
  /-- CNT of AUTH_TX entries and LAST of AUTH_RX entries, by entry index (R368). -/
  cnt     : Tab Nat := []
  last    : Tab Nat := []
  /-- Frames admitted by an entry's policer in the present second: (second, frames). -/
  police  : Tab (Nat × Nat) := []
  boxes   : Tab Container := []
  gates   : Tab GateState := []
  sgates  : Tab GateState := []
  meters  : Tab MeterState := []
  cb      : Tab CbState := []
  /-- Egress queues, by port × 8 + traffic class. -/
  egress  : Tab (List EthFrame) := []
  /-- Attempts to send the frame at the head of a TS port's queue (R356). -/
  tries   : Tab Nat := []
  macsec  : Tab Macsec := []
  /-- Receive FIFOs, each frame with whether it is an injected unit (R450). -/
  canRx   : Tab (List (CanFrame × Bool)) := []
  /-- CAN transmit queues, by channel × 4 + queue. -/
  canTx   : Tab (List CanFrame) := []
  /-- The latest frame sent by each port code. -/
  sentEth : Tab (List Byte) := []
  sentCan : Tab CanFrame := []
  /-- The ports whose latest frame went out with a complemented FCS (R447). -/
  sentBad : List Nat := []
  /-- Drops of a TS port in the present second (R356). -/
  drops   : Tab Nat := []
  /-- The next slot of each IP ring: receive at 2 × i, transmit at 2 × i + 1 (R395). -/
  ipSlot  : Tab Nat := []
  trip    : Nat := 0
  noTrip  : Bool := false
  /-- The bank of the route table in force is SW_CTRL.TBL_BANK. -/
  holdover : List Nat := []
  deriving DecidableEq, Repr, Inhabited

/-! ### Boot configuration (R422) -/

/-- Settings of one Ethernet port. -/
structure EthPortCfg where
  rate     : Nat := 0
  mac      : Nat := 0
  vid      : Nat := 1
  prio     : Nat := 0
  worldO   : Bool := false
  /-- (source address, PLCA node). -/
  allow    : List (Nat × Nat) := []
  plcaNode : Nat := 0
  plcaCount : Nat := 2
  plcaTo   : Nat := 32
  plcaBurst : Nat := 0
  dropLimit : Nat := 0
  unprotected : Bool := true
  replay   : Nat := 0
  /-- 0 none, 1 grandmaster, 2 follower (R365). -/
  gptp     : Nat := 0
  wake     : List (Nat × Nat) := []
  parkOn   : Bool := false
  deriving DecidableEq, Repr, Inhabited

structure CanCfg where
  xl     : Bool := false
  nbt    : Word := 0
  dbt    : Word := 0
  wake   : List (Nat × Nat) := []
  parkOn : Bool := false
  deriving DecidableEq, Repr, Inhabited

/-- A camera stream (R344): data type code of CSI-2 and the frame's size. -/
structure CamCfg where
  dt : Nat
  w  : Nat
  h  : Nat
  deriving DecidableEq, Repr, Inhabited

/-- An IP port's binding and rings (R395). -/
structure IpCfg where
  cluster : Nat
  rxRing  : Nat
  txRing  : Nat
  nent    : Nat
  deriving DecidableEq, Repr, Inhabited

/-- The values of a configuration copy's sections (R422). The spec gives the values and not their bytes.
Log entry 6 (DESIGN CHOICE). -/
structure BootCfg where
  -- DEVICE
  park      : Bool := false
  service   : Bool := false
  svnCommit : Bool := false
  /-- The manager host: an application core cluster 0–2, or the physical function of port 0 or 1 (R376). -/
  mgrPcie   : Bool := false
  mgrIdx    : Nat := 0
  inst0Pt   : Nat := 0
  /-- The kind of INST0's partition; R422 does not name it. -/
  inst0Kind : PartKind := .bestEffort
  inst0Ranges : List (Nat × Nat) := []
  /-- Target of each wake source 0–3 and the timer: true for DRIVE. -/
  wakeDrive : List Bool := []
  wakeCfg   : Word := 0x44444444#32
  safeCfg   : Word := 5
  tripPeriodMs : Nat := 1000
  tripId    : Nat := 0
  tripIde   : Bool := false
  -- WORLDS
  worlds    : List Word := []
  -- HOSTS
  twinCl    : List Bool := [true, false, false]
  ips       : Tab IpCfg := []
  totalVf   : List Nat := []
  bar2      : List Nat := []
  -- MEMORY
  ilv       : Nat := 0
  -- VIDEO
  /-- The copy has a VIDEO section. -/
  video     : Bool := false
  /-- A-PHY ports in camera mode; the others are in display mode (R343). -/
  camPorts  : List Nat := []
  cams      : Tab CamCfg := []
  aport     : Tab Nat := []
  /-- Partition of each layer, by pipe × 8 + layer (R323). -/
  layerPt   : Tab Nat := []
  -- GATEWAY
  eth       : Tab EthPortCfg := []
  can       : Tab CanCfg := []
  gptpOfs   : Nat := 0
  routes    : RouteTable := {}
  deriving DecidableEq, Repr, Inhabited

/-! ### Flash (R415, R417, R421, R430) -/

/-- An image: its header and body as stored, and whether the flash returns every byte (R417, R418).
Log entry 97 (DESIGN CHOICE). -/
structure FlashImage where
  header : List Byte := []
  body   : List Byte := []
  readOk : Bool := true
  deriving DecidableEq, Repr, Inhabited

/-- A configuration copy: its bytes, whether its sections are well formed, and the values that they hold (R421, R422). The spec
does not give the bytes of a section's contents. Log entry 97 (DESIGN CHOICE). -/
structure FlashCopy where
  bytes  : List Byte := []
  formed : Bool := false
  cfg    : BootCfg := {}
  deriving DecidableEq, Repr, Inhabited

/-- The flash: images A and B, the two copies, and the journal sectors J0 and J1, whose unlisted bytes are erased.
Log entries 6 (DESIGN CHOICE), 97 (DESIGN CHOICE). -/
structure Flash where
  imgA : FlashImage := {}
  imgB : FlashImage := {}
  cfg0 : FlashCopy := {}
  cfg1 : FlashCopy := {}
  j0   : List Byte := []
  j1   : List Byte := []
  deriving DecidableEq, Repr, Inhabited

/-! ### Display (R337–R342) and cameras (R344) -/

/-- A layer as DISP_LAYER_SET gives it, with the instance that set it. -/
structure Layer where
  inst : Nat
  addr : Nat
  w    : Nat
  h    : Nat
  fmt  : Nat
  x    : Nat
  y    : Nat
  deriving DecidableEq, Repr, Inhabited

/-- A pipe: the set in force, pending layer settings (none switches a layer off) and pending flips. -/
structure Pipe where
  cur    : Tab Layer := []
  pend   : Tab (Option Layer) := []
  flips  : Tab Nat := []
  /-- The frame shows the background from an underrun on (R339). -/
  under  : Bool := false
  /-- Device time of the latest latch (R338). -/
  lastLatch : Option Nat := none
  /-- A guard time runs for the pipe (R341). -/
  guarding : Bool := false
  deriving DecidableEq, Repr, Inhabited

/-- A camera stream's buffer (R344, R345): bytes that wait for the DMA. -/
structure CamState where
  buf   : List Byte := []
  /-- The channel is told of an error (R345). -/
  error : Bool := false
  deriving DecidableEq, Repr, Inhabited

/-! ### DMA (R307 to R314) -/

/-- A channel's descriptor in progress: its eight words as fetched, the bytes issued and moved, and since when the channel
has been ready. -/
structure DmaCh where
  words : List Word
  done  : Nat := 0
  since : Nat := 0
  deriving DecidableEq, Repr, Inhabited

/-! ### Fault injection (R446 to R452) -/

/-- A unit of a target: a frame sent with its VID and priority, a frame received on a port with its PLCA node, a CAN frame, the
completion of a read with whether its data is poisoned, the instance it belongs to and its request tag.
Log entry 42 (DESIGN CHOICE). -/
inductive FiUnit where
  | ethOut (bytes : List Byte) (vid prio : Nat)
  | ethIn (bytes : List Byte) (vid prio node : Nat)
  | can (f : CanFrame)
  | cpl (data : List Byte) (bad : Bool) (inst tag : Nat)
  deriving DecidableEq, Repr, Inhabited

/-- A path: target kind, index and direction. -/
structure FiPath where
  kind  : Nat
  index : Nat
  dir   : Nat
  deriving DecidableEq, Repr, Inhabited

/-- A held unit. -/
structure FiHeld where
  path  : FiPath
  since : Nat
  item  : FiUnit
  deriving DecidableEq, Repr, Inhabited

/-- What the injector holds besides its registers: eligible units and the generator of each entry (R448), held units in order. -/
structure FiState where
  ks   : Tab Nat := []
  xs   : Tab Nat := []
  held : List FiHeld := []
  deriving DecidableEq, Repr, Inhabited

/-! ### Vector and shader cores (R157 to R177) -/

/-- The architectural state of a core (R157, R160, R166). A register that a table does not list holds 0.
Log entries 5 (DESIGN CHOICE), 48 (DESIGN CHOICE). -/
structure VCore where
  pc     : Dword := 0
  /-- U mode, in which kernels run. -/
  user   : Bool := false
  /-- x1 to x31; x0 reads 0. -/
  x      : Tab Dword := []
  f      : Tab Dword := []
  v      : Tab (BitVec 512) := []
  vl     : Nat := 0
  /-- vtype: vill [63], vma [7], vta [6], vsew [5:3], vlmul [2:0]. -/
  vtype  : Dword := 0x8000000000000000#64
  vstart : Nat := 0
  vxrm   : Nat := 0
  vxsat  : Bool := false
  frm    : Nat := 0
  fflags : Nat := 0
  /-- VQPARAM, VQCLIP, VQSTAT (R166). -/
  vqparam : Dword := 0
  vqclip  : Dword := 0
  vqstat  : Dword := 0
  pmpcfg  : Tab Byte := []
  pmpaddr : Tab Dword := []
  mstatus : Dword := 0
  mtvec   : Dword := 0
  mepc    : Dword := 0
  mcause  : Dword := 0
  mtval   : Dword := 0
  mscratch : Dword := 0
  mie     : Dword := 0
  mip     : Dword := 0
  /-- Bytes of the local data RAM. After a kill the bytes not written since hold undefined values (R176),
  those of the draws from `lramFree` on. -/
  lram     : Memory := []
  lramFree : Option Nat := none
  /-- An MSWAIT that waits: rd, the flag's address, the value compared with (R169). -/
  wait     : Option (Nat × Nat × Word) := none
  deriving DecidableEq, Repr, Inhabited

end Sys2Proof.Machine
end

