-- ==== Sys2Proof/Machine/State.lean ====
section
/-! DEFINITION. The state of the block: everything the spec gives the device, and the queue of the
commands that wait. -/

namespace Sys2Proof.Machine

/-- Why a step stops with a fault. -/
inductive Fault where
  /-- Raised by a command for which the spec says only that the device's behaviour is undefined (R7),
  with the number of the rule that says so. Safe: no claim about a next state follows. -/
  | undefinedBehaviour (rule : Nat)
  deriving DecidableEq, Repr

/-- Why a step is refused. -/
inductive Refusal where
  /-- No meaning has been written for the command. Raised by the dispatch arms alone. Safe: nothing
  follows about it. -/
  | notModelled (mnemonic : String)
  deriving DecidableEq, Repr

/-- Values set at manufacture that nothing changes (R4, R11). Log entry 6 (DESIGN CHOICE). -/
structure Fuses where
  /-- SEC_DEVICE_ID.VARIANT (R4). -/
  variant : Nat := 0x0A
  /-- SEC_DBG_FUSE and the unique identifier (R445). -/
  dbgFuse : Word := 0
  /-- The SHA-384 values of the image key and of the debug key (R418, R440). -/
  keyHash : List Byte := []
  dbgKeyHash : List Byte := []
  uid     : List Word := [0, 0, 0, 0]
  deriving DecidableEq, Repr, Inhabited

/-- What is powered: everything; the rind alone, in SLEEP or after a shutdown; nothing (R453, R456, R465, R467). -/
inductive Power where
  | on | sleep | shut | none
  deriving DecidableEq, Repr, Inhabited

/-- The device. -/
structure Dev where
  power : Power := .on
  fuse  : Fuses := {}
  /-- The 96-bit accumulator of the time base (R480). -/
  tb    : Nat := 0
  /-- The model's own field: the number of free values drawn so far. -/
  freeCtr : Nat := 0
  regs  : Tab Word := []
  /-- Ownership entries, keyed by stack × 18,432 + granule (R303). -/
  own   : Tab Half := []
  mem   : Memory := []
  /-- The first draw of the undefined bytes of a stack that has lost its contents, by stack (R20). The cells of such a stack
  hold the bytes exclusive-or'ed with the undefined ones. -/
  dramFree : Tab Nat := []
  /-- Map stores: the bytes written since a store last lost its contents, by map store address. -/
  msMem : Tab Byte := []
  /-- The first draw of the undefined bytes of a map store that has lost its contents, by die (R29). -/
  msFree : Tab Nat := []
  /-- Poisoned lines, by the address of their first byte (R292). -/
  poison : List Nat := []
  -- personality (R26, R31)
  pers  : Pers := .drive
  /-- The wake-coalesced counter (R33). -/
  wakeCo : Counter := {}
  degraded : Bool := false
  trans : Option Transition := none
  /-- Sebry has reported its first personality (R275, R426). -/
  reported : Bool := false
  /-- A FAULT-class code has been reported since the device reset (R275). -/
  faultLatched : Bool := false
  driveCap : Nat := 280
  /-- Device time of the manager's latest set-up command during a boot to DRIVE (R426). -/
  setupT : Nat := 0
  parts : Tab Partition := []
  egs   : Tab EngineGroup := []
  /-- The device time at which the pending swap was requested (R40). -/
  swapT : Nat := 0
  /-- Wheel configurations that Sebry keeps, by personality code (R39). -/
  wheels : Tab WheelCfg := []
  -- pages, instances (R47, R384); page 64 is the manager page
  pages : Tab Page := []
  insts : Tab Inst := []
  done  : List DoneCmd := []
  -- contexts and queues (R72, R93)
  ctxs  : Tab Ctx := []
  ctxGen : Tab Nat := []
  queues : Tab Queue := []
  /-- Residency of regions in operand buffers, as (engine, base, length) (R221). -/
  resid : List (Nat × Nat × Nat) := []
  -- key-value allocators (R184, R185)
  /-- Free-list stacks, top first, by die × 32 + pool. -/
  kvStacks : Tab (List Nat) := []
  /-- Page states by (die × 32 + pool) × 2¹⁸ + page: 0 FREE, 1 RESERVED, 2 ALLOCATED, 3 FREEING. -/
  kvPages : Tab Nat := []
  /-- KV_APPENDs that wait for pages, in order of their first wait: (die × 32 + pool, queue, SEQ, since). -/
  kvWait : List (Nat × Nat × Nat × Nat) := []
  graphs : Tab Graph := []
  serving : Tab Serving := []
  -- twins and safety
  pairs : Tab PairState := []
  /-- Compare queues and load-value queues of the application core pairs (R252). -/
  hostQs : Tab HostQueue := []
  tests : Tab TestState := []
  /-- Reference runs in progress, as (pair, graph) (R269). -/
  refRuns : List (Nat × Nat) := []
  /-- An amended wheel configuration waits to be loaded (R250). -/
  wheelDirty : Bool := false
  /-- Held conditions, as (code, subject) (R276). -/
  held  : List (Nat × Nat) := []
  /-- End of the WARN_N pulse that runs (R275). -/
  warnEnd : Option Nat := none
  cpaLost : Option Nat := none
  cpbLost : Option Nat := none
  kickA : Nat := 0
  kickB : Nat := 0
  log   : List LogEntry := []
  cnts  : Tab Counter := []
  lockFull : Tab Counter := []
  irqs  : List Irq := []
  /-- High words latched by reads of low words, keyed by (address, master) (R474). -/
  latches : Tab Nat := []
  links : Tab LinkState := []
  stackIfs : Tab LinkState := []
  dieOff : List Nat := []
  /-- Keys in the security engine's slots 0 to 71; an unlisted slot is empty (R435). -/
  keys  : Tab (List Byte) := []
  gw    : Gw := {}
  boot  : BootCfg := {}
  /-- Device times at which the reset domains entered QUIESCE, by domain (R408). -/
  rstT  : Tab Nat := []
  /-- CPA or CPB were lost to a clock failure (R400). -/
  clkFail : Bool := false
  /-- CAP_OVER has been reported and the input power has not been at CAP or below since (R460). -/
  capOver : Bool := false
  /-- What Sebry has lowered under R460: the FW_DUTY of engine e, or the FREQ of clock i at 64 + i, as it was before. -/
  capBase : Tab Nat := []
  /-- Steps by which the rind throttles each sensor site (R462). -/
  therm : Tab Nat := []
  /-- The 1 ms averages of the input power in the last 20 ms, as (time, W) (R469). -/
  pwrMs : List (Nat × Nat) := []
  /-- VAUX33 is switched off after an overload (R457). -/
  auxOff : Bool := false
  flash : Flash := {}
  /-- SEC_FUSE_BOOT.MIN_SVN, which Sebry may raise (R419). -/
  minSvn : Nat := 0
  pipes : Tab Pipe := []
  /-- Vector cores 0–255 and shader cores 256–287 (R157, R159). -/
  vcs   : Tab VCore := []
  cams  : Tab CamState := []
  /-- Descriptors in progress, by channel, and the channel that each engine served last (R311). -/
  dmaCh : Tab DmaCh := []
  dmaLast : Tab Nat := []
  fi    : FiState := {}
  /-- The model's own field: the unit that is handled is an injected one (R450). -/
  injUnit : Bool := false
  /-- Cores that the debug port has halted, with the time: 0–23 application cores, 24 CPA, 25 CPB (R438, R442). -/
  dbgHalt : Tab Nat := []
  /-- The sticky DENIED bit of the debug access port (R442). -/
  dbgDenied : Bool := false
  /-- Trace sources that emit (R443). -/
  trace : List Nat := []
  waiting : List WaitAcc := []
  lastAcc : AccResult := .none
  deriving DecidableEq, Repr, Inhabited

/-- The state of the block: the device, and the commands that wait, first in, first out. -/
structure State where
  dev     : Dev
  pending : List Instr
  deriving DecidableEq, Repr

/-- The device right after reset, before its boot: every register at its Reset column value, nothing
in memory (log entries 1 to 6). Log entry 1 (DESIGN CHOICE). -/
def Dev.reset : Dev := {}

/-- The machine right after reset: an empty queue of commands.
Log entries 1 (DESIGN CHOICE), 4 (DESIGN CHOICE). -/
def State.reset : State := { dev := Dev.reset, pending := [] }

end Sys2Proof.Machine
end

