-- ==== Sys2Proof/Machine/Ops.lean ====
section
/-! DEFINITION. The named operations over the device: time, registers, free values, memory and its
address map, ownership and poison. -/

namespace Sys2Proof.Machine

/-! ### Time (R480) -/

/-- Device time in ns: the upper 64 bits of the accumulator. -/
def Dev.now (d : Dev) : Nat := d.tb / 2 ^ 32

/-- The device at the device time of a command; time never decreases. Log entry 9 (DESIGN CHOICE). -/
def Dev.advance (d : Dev) (t : Nat) : Dev := { d with tb := max d.tb (t * 2 ^ 32) }

/-- One TBCLK cycle: the accumulator gains 2³² + RATE, RATE being signed (R480, R481).
Log entry 2 (DESIGN CHOICE). -/
def Dev.tick (d : Dev) : Dev :=
  let rate := sext 32 ((Tab.look d.regs aCntTbRate).getD 0).toNat
  { d with tb := ((d.tb : Int) + 2 ^ 32 + rate).toNat % 2 ^ 96 }

/-! ### Registers (R9, R11) -/

/-- The word a register holds. -/
def Dev.reg (d : Dev) (a : Nat) : Word := (Tab.look d.regs a).getD (regReset a)

/-- The word a read of a register returns: RSV and WO bits read 0. -/
def Dev.regRead (d : Dev) (a : Nat) : Word := d.reg a &&& RegField.readMask ((regFields a).getD [])

/-- A register written whole by the device itself. -/
def Dev.setReg (d : Dev) (a : Nat) (w : Word) : Dev := { d with regs := d.regs.put a w }

/-- Field [hi:lo] of a register. -/
def Dev.getF (d : Dev) (a hi lo : Nat) : Nat := (d.reg a).fld hi lo

/-- One bit of a register. -/
def Dev.getB (d : Dev) (a i : Nat) : Bool := (d.reg a).bit i

/-- A register field written by the device. -/
def Dev.setF (d : Dev) (a hi lo v : Nat) : Dev := d.setReg a ((d.reg a).put hi lo v)

/-- One register bit written by the device. -/
def Dev.setB (d : Dev) (a i : Nat) (b : Bool) : Dev := d.setF a i i (b2n b)

/-- A 64-bit register pair written by the device. -/
def Dev.setPair (d : Dev) (alo ahi n : Nat) : Dev :=
  (d.setReg alo (BitVec.ofNat 32 n)).setReg ahi (BitVec.ofNat 32 (n / 2 ^ 32))

/-- A 64-bit register pair. -/
def Dev.pair (d : Dev) (alo ahi : Nat) : Nat := dword (d.reg alo) (d.reg ahi)

/-! ### A command's effect -/

/-- The registers that a lock holds until the next device reset: SAFE_CFG under its LOCK (R277), the SEC_WORLD registers under
SEC_WORLD_LOCK (R432). Log entry 10 (DESIGN CHOICE). -/
def Dev.lockedRegs (d : Dev) : List Nat :=
  (if d.getB aSafeCfg 31 then [aSafeCfg] else []) ++
  (if d.getB aWorldLock 0 then [aWorldLock, aWorldEth, aWorldCan, aWorldAphy, aWorldHost] else [])

/-- What no effect on a powered device undoes: device time (R480), the fuses (R11) and whether there is power are not its to
write; a FAULT-class report stays latched (R275) and CPA and CPB stay lost (R273, R274) until a device reset; the least SVN only
rises (R419); and locked registers hold their values. Log entry 10 (DESIGN CHOICE). -/
def Dev.keep (old new : Dev) : Dev :=
  { new with
    tb := old.tb, fuse := old.fuse, power := old.power
    faultLatched := old.faultLatched || new.faultLatched
    cpaLost := old.cpaLost.or new.cpaLost
    cpbLost := old.cpbLost.or new.cpbLost
    minSvn := max old.minSvn new.minSvn
    regs := old.lockedRegs.foldl (fun r a => r.put a (old.reg a)) new.regs }

/-- A command's effect at a device time on a device. A device without its rails does nothing (R456, R465, R467).
Log entries 9 (DESIGN CHOICE), 10 (DESIGN CHOICE). -/
def Dev.act (d : Dev) (t : Nat) (f : Dev → Dev) : Dev :=
  if d.power = .on then Dev.keep (d.advance t) (f (d.advance t)) else d

/-- A command's effect: the device changes, the queue of commands does not. Log entry 9 (DESIGN CHOICE). -/
def State.act (s : State) (t : Nat) (f : Dev → Dev) : Host.Outcome State Fault Refusal :=
  .next { s with dev := s.dev.act t f }

/-- A command that takes the device's power away, gives it back or resets it: device time starts anew with the device (R480),
and the fuses stay. -/
def State.anew (s : State) (f : Dev → Dev) : Host.Outcome State Fault Refusal :=
  .next { s with dev := { f s.dev with fuse := s.dev.fuse } }

/-! ### Free values -/

/-- A fresh undefined number, and the device with the draw counted. Log entry 8 (DESIGN CHOICE). -/
def Dev.fresh (d : Dev) : Nat × Dev := (Config.freeNat d.freeCtr, { d with freeCtr := d.freeCtr + 1 })

/-- `n` fresh undefined bytes. Log entry 8 (DESIGN CHOICE). -/
def Dev.freshBytes (d : Dev) (n : Nat) : List Byte × Dev :=
  ((List.range n).map fun i => Config.freeByte (d.freeCtr + i), { d with freeCtr := d.freeCtr + n })

/-! ### The address map (R281, R283) -/

def gib36 : Nat := 36 * 2 ^ 30

/-- Whether granule `g` of 1 GiB is interleaved (R283). -/
def Dev.ilvBit (d : Dev) (g : Nat) : Bool :=
  if g < 32 then d.getB aBwrIlvLo g else if g < 36 then d.getB aBwrIlvHi (g - 32) else false

/-- The memory cell that a fabric address names: the stack-local address of a DRAM byte, the map store
address of a map store byte, or none for an address that is unmapped or unreachable.
Log entry 104 (DESIGN CHOICE). -/
def Dev.phys (d : Dev) (a : Nat) : Option Nat :=
  if a < 4 * gib36 then
    if d.ilvBit (a % gib36 / 2 ^ 30) then none else some a
  else if 0x4000000000 ≤ a ∧ a < 0x4010000000 then some a
  else if 0x5000000000 ≤ a ∧ a < 0x5000000000 + 4 * gib36 then
    let x := a - 0x5000000000
    if d.ilvBit (x / 2 ^ 32) then
      some (x / 4096 % 4 * gib36 + (x / 16384 * 4096 + x % 4096))
    else none
  else none

/-- Whether a cell lies in DRAM (and not in a map store). -/
def isDram (k : Nat) : Bool := decide (k < 4 * gib36)

/-- The stack of a DRAM cell. -/
def stackOf (k : Nat) : Nat := k / gib36

/-- The device address at which a memory cell is reached (R283). -/
def Dev.devOf (d : Dev) (k : Nat) : Nat :=
  if isDram k && d.ilvBit (k % gib36 / 2 ^ 30) then
    let off := k % gib36
    0x5000000000 + (off / 4096 * 4 + stackOf k) * 4096 + off % 4096
  else k

/-- The first address of each 4 KiB page that a range touches, inside the range. Reachability and
ownership do not change inside such a page (R283, R286). -/
def pageStarts (a n : Nat) : List Nat :=
  if n = 0 then [] else
  (List.range ((a + n - 1) / 4096 + 1 - a / 4096)).map fun i => max a ((a / 4096 + i) * 4096)

/-- Every byte of a range is reachable. -/
def Dev.mapped (d : Dev) (a n : Nat) : Bool := (pageStarts a n).all fun x => (d.phys x).isSome

/-- The die of a map store cell. -/
def storeOf (k : Nat) : Nat := (k - 0x4000000000) / 0x04000000

/-- A byte of a map store. Log entry 29 (DESIGN CHOICE). -/
def Dev.msRead (d : Dev) (k : Nat) : Byte :=
  match Tab.look d.msMem k, Tab.look d.msFree (storeOf k) with
  | some b, _ => b
  | none, some f => Config.freeByte (f + (k - 0x4000000000) % 0x04000000)
  | none, none => Memory.blank

/-- What a DRAM cell's byte is masked with: nothing, unless its stack has lost its contents (R20).
Log entry 54 (DESIGN CHOICE). -/
def Dev.dramMask (d : Dev) (k : Nat) : Byte :=
  match Tab.look d.dramFree (stackOf k) with
  | some f => Config.freeByte (f + k % gib36)
  | none => 0

/-- A byte of memory at a device address; an unreachable address reads 0 here, and the access checks
refuse it beforehand. Log entries 3 (DESIGN CHOICE), 104 (DESIGN CHOICE). -/
def Dev.rd8 (d : Dev) (a : Nat) : Byte :=
  match d.phys a with
  | some k => if isDram k then d.mem.read k ^^^ d.dramMask k else d.msRead k
  | none => 0

/-- Bytes of memory. -/
def Dev.rdN (d : Dev) (a n : Nat) : List Byte := (List.range n).map fun i => d.rd8 (a + i)

/-- A little-endian value of `n` bytes (R8). -/
def Dev.rdLe (d : Dev) (a n : Nat) : Nat := leNat (d.rdN a n)

/-- A word, a doubleword. -/
def Dev.rd32 (d : Dev) (a : Nat) : Word := BitVec.ofNat 32 (d.rdLe a 4)
def Dev.rd64 (d : Dev) (a : Nat) : Nat := d.rdLe a 8

/-- `n` words. -/
def Dev.rdWords (d : Dev) (a n : Nat) : List Word := (List.range n).map fun i => d.rd32 (a + 4 * i)

/-- A byte written at a device address; nothing where the address is unreachable.
Log entry 104 (DESIGN CHOICE). -/
def Dev.wr8 (d : Dev) (a : Nat) (b : Byte) : Dev :=
  match d.phys a with
  | some k => if isDram k then { d with mem := d.mem.write k (b ^^^ d.dramMask k) } else { d with msMem := d.msMem.put k b }
  | none => d

/-- Bytes written, with no check, no lock and no log. -/
def Dev.wrRaw (d : Dev) (a : Nat) : List Byte → Dev
  | [] => d
  | b :: t => Dev.wrRaw (d.wr8 a b) (a + 1) t

/-! ### Poison (R292) -/

/-- The lines that a range of device addresses touches, as cells. -/
def Dev.linesOf (d : Dev) (a n : Nat) : List Nat :=
  if n = 0 then [] else
  (List.range ((a + n - 1) / 64 + 1 - a / 64)).filterMap fun i => d.phys ((a / 64 + i) * 64)

/-- A range holds a poisoned line. -/
def Dev.poisoned (d : Dev) (a n : Nat) : Bool := (d.linesOf a n).any (· ∈ d.poison)

/-- The lines that a range covers whole. -/
def Dev.wholeLines (d : Dev) (a n : Nat) : List Nat :=
  (List.range ((a + n) / 64 - (a + 63) / 64)).filterMap fun i => d.phys (((a + 63) / 64 + i) * 64)

/-- A write of all 64 bytes of a poisoned line clears its poison. -/
def Dev.unpoison (d : Dev) (a n : Nat) : Dev :=
  if d.poison = [] then d else { d with poison := d.poison.filter (· ∉ d.wholeLines a n) }

/-! ### Dirty-page logging (R391) -/

/-- The window offset of a device address in an instance, if the instance's window holds it. -/
def Inst.winOff (i : Inst) (a : Nat) : Option Nat :=
  (i.window.find? fun p => decide (p.2.dev ≤ a) && decide (a < p.2.dev + 0x200000)).map
    fun p => p.1 * 0x200000 + (a - p.2.dev)

/-- The device address at a window offset (R380). -/
def Inst.winDev (i : Inst) (off : Nat) : Option Nat :=
  (Tab.look i.window (off / 0x200000)).map fun g => g.dev + off % 0x200000

/-- Whether a device address lies in either bitmap of a page's log. -/
def DirtyLog.inMaps (l : DirtyLog) (a : Nat) : Bool :=
  (decide (l.base0 ≤ a) && decide (a < l.base0 + l.len * 64)) ||
  (decide (l.base1 ≤ a) && decide (a < l.base1 + l.len * 64))

/-- The bitmap in use. -/
def DirtyLog.base (l : DirtyLog) : Nat := if l.active1 then l.base1 else l.base0

/-- What is left of a range (start, length) outside another. -/
def outside (a n : Nat) (r : Nat × Nat) : List (Nat × Nat) :=
  if !rangesMeet r.1 r.2 a n then [r]
  else (if r.1 < a then [(r.1, a - r.1)] else []) ++ (if a + n < r.1 + r.2 then [(a + n, r.1 + r.2 - (a + n))] else [])

/-- R102: a write invalidates the copies of its lines in operand buffers and codebook RAMs. Keys of the
residency list from 64 on are codebook RAMs, whose one VALID bit covers the whole copy. -/
def Dev.uncache (d : Dev) (a n : Nat) : Dev :=
  let hit (r : Nat × Nat × Nat) : Bool := rangesMeet r.2.1 r.2.2 (alignDown a 64) (alignUp (a + n) 64 - alignDown a 64)
  if d.resid.any hit then
    let d := forEach (d.resid.filter fun r => hit r && decide (64 ≤ r.1)) (fun r d => d.setB (aGxCbCtrl (r.1 - 64)) 1 false) d
    { d with resid := d.resid.flatMap fun r =>
        if !hit r then [r] else if 64 ≤ r.1 then [] else
        (outside (alignDown a 64) (alignUp (a + n) 64 - alignDown a 64) r.2).map fun x => (r.1, x) }
  else d

/-- One 4 KiB page of one instance is marked in the active bitmap, or OVF set beyond LEN (R391, R392).
The device keeps the bit in the bitmap itself, and no copy of the bitmap's line stays (R102). -/
def Dev.markDirty (d : Dev) (n : Nat) (a : Nat) : Dev :=
  let pg := d.pages.lookD n {}
  let inst := d.insts.lookD n {}
  if !pg.dl.en || pg.dl.inMaps a then d else
  match inst.winOff a with
  | none => d
  | some off =>
    if off / 0x200000 < pg.dl.len then
      let bit := off / 4096
      let at_ := pg.dl.base + bit / 8
      (d.wr8 at_ (d.rd8 at_ ||| BitVec.ofNat 8 (2 ^ (bit % 8)))).uncache at_ 1
    else { d with pages := d.pages.put n { pg with dl := { pg.dl with ovf := true } } }

/-- The instances whose logging runs. -/
def Dev.loggers (d : Dev) : List Nat := (d.pages.filter fun p => p.2.dl.en && decide (p.1 < 64)).map (·.1)

/-- A write is logged for every instance whose logging runs, page by page. -/
def Dev.logDirty (d : Dev) (a n : Nat) : Dev :=
  if n = 0 then d else
  forEach d.loggers (fun i d =>
    forUpTo ((a + n - 1) / 4096 + 1 - a / 4096) (fun k d => d.markDirty i (max a ((a / 4096 + k) * 4096))) d) d

/-- Bytes written to memory by any master: the data, the poison rule, the caches and the dirty log. -/
def Dev.wrN (d : Dev) (a : Nat) (bs : List Byte) : Dev :=
  (((d.wrRaw a bs).unpoison a bs.length).uncache a bs.length).logDirty a bs.length

/-- A word or a doubleword written. -/
def Dev.wr32 (d : Dev) (a : Nat) (w : Word) : Dev := d.wrN a (leBytes 4 w.toNat)
def Dev.wr64 (d : Dev) (a n : Nat) : Dev := d.wrN a (leBytes 8 n)

/-- Words written from an address. -/
def Dev.wrWords (d : Dev) (a : Nat) (ws : List Word) : Dev := d.wrN a (ws.flatMap fun w => leBytes 4 w.toNat)

/-- A range written to zero (R64, R287). -/
def Dev.zero (d : Dev) (a n : Nat) : Dev :=
  let d := if d.dramFree = [] ∧ d.msFree = [] then
      { d with mem := d.mem.filter fun c => !(decide (a ≤ d.devOf c.1) && decide (d.devOf c.1 < a + n)),
               msMem := d.msMem.filter fun c => !(decide (a ≤ c.1) && decide (c.1 < a + n)) }
    else d.wrRaw a (List.replicate n 0)
  ((d.unpoison a n).uncache a n).logDirty a n

/-! ### Ownership (R286, R303) -/

def ownKey (stack granule : Nat) : Nat := stack * 18432 + granule

/-- The entry of the granule that holds a DRAM cell. -/
def Dev.ownOf (d : Dev) (k : Nat) : Half := d.own.lookD (ownKey (stackOf k) (k % gib36 / 0x200000)) 0

/-- An ownership entry from its fields. -/
def mkOwn (v fw : Bool) (pt : Nat) (iv : Bool) (inst : Nat) : Half :=
  BitVec.ofNat 16 (b2n v * 2 ^ 15 + b2n fw * 2 ^ 14 + pt % 16 * 2 ^ 10 + b2n iv * 2 ^ 9 + inst % 64)

/-- The check of R286 for a master that carries a partition and an instance. -/
def ownPasses (e : Half) (pt inst : Nat) : Bool :=
  let n := e.toNat
  bitOf n 15 && !bitOf n 14 && decide (bitsOf n 13 10 = pt) && bitOf n 9 && decide (bitsOf n 5 0 = inst)

/-- Every byte of a range is DRAM that the master may touch. -/
def Dev.mayTouch (d : Dev) (pt inst a n : Nat) : Bool :=
  (pageStarts a n).all fun x =>
    match d.phys x with
    | some k => isDram k && ownPasses (d.ownOf k) pt inst
    | none => false

/-- The cells of the 2 MiB granules that a device address range covers, as ownership keys; an
interleaved granule of 8 MiB has one in each stack (R287). -/
def ownKeys (a : Nat) : List Nat :=
  if a < 4 * gib36 then [ownKey (a / gib36) (a % gib36 / 0x200000)]
  else (List.range 4).map fun s => ownKey s ((a - 0x5000000000) / 0x800000)

/-- The ownership entries of the granule at a device address written alike. -/
def Dev.setOwn (d : Dev) (a : Nat) (e : Half) : Dev :=
  { d with own := (ownKeys a).foldl (fun t k => t.put k e) d.own }

end Sys2Proof.Machine
end

