-- ==== Sys2Proof/Machine/Flags.lean ====
section
/-! DEFINITION. What the device reports: event counters (R471), the diagnostic log (R507), interrupts
(R382), page events (R62) and the error reporting outputs (R275). -/

namespace Sys2Proof.Machine

/-! ### Dies that answer nothing (R405, R408) -/

/-- A compute die and its stack answer no transfer: the die is in reset or power-gated, or the clock of the die or of its stack
port is stopped on request. -/
def Dev.dieQuiet (d : Dev) (s : Nat) : Bool :=
  decide (d.getF (aRstDomStatus (3 + s)) 2 0 ≠ 0) || d.getB (aClkCtrl s) 24 || d.getB (aClkCtrl (16 + s)) 24

/-- Some byte of a range lies in the memory of such a die. Log entry 53 (DESIGN CHOICE). -/
def Dev.quietAt (d : Dev) (a n : Nat) : Bool :=
  (pageStarts a n).any fun x =>
    match d.phys x with
    | some k => d.dieQuiet (if isDram k then stackOf k else storeOf k)
    | none => false

/-! ### The diagnostic log (R507) -/

/-- An entry appended; the ring of 65,536 entries drops its oldest when it is full. -/
def Dev.logPush (d : Dev) (e : LogEntry) : Dev :=
  { d with log := (if d.log.length < 65536 then d.log else d.log.drop 1) ++ [{ e with inj := d.injUnit }] }

/-- An entry of a kind at the present device time. -/
def Dev.logE (d : Dev) (kind : Nat) (code subject addr detail : Nat := 0) : Dev :=
  d.logPush { time := d.now, kind, code, subject, addr, detail }

/-! ### Interrupts -/

/-- An interrupt raised; a cause that is already pending sets no further one (R382).
Log entry 105 (DESIGN CHOICE). -/
def Dev.raise (d : Dev) (i : Irq) : Dev := { d with irqs := insertNew d.irqs i }

/-! ### Pages and events (R62) -/

/-- The key of a page in the table of pages: instances 0–63, the manager page 64. -/
def pgKey : Pg → Nat
  | .inst n => n.val
  | .mgr => 64

def Dev.page (d : Dev) (k : Nat) : Page := d.pages.lookD k {}
def Dev.setPage (d : Dev) (k : Nat) (p : Page) : Dev := { d with pages := d.pages.put k p }
def Dev.inst (d : Dev) (n : Nat) : Inst := d.insts.lookD n {}
def Dev.setInst (d : Dev) (n : Nat) (i : Inst) : Dev := { d with insts := d.insts.put n i }

/-- Vector v of a page (R382). -/
def pageIrq (k v : Nat) : Irq := if k = 64 then .mgr v else .inst k v

/-- The words of an event record (R62). -/
def eventWords (code arg detail now : Nat) : List Word :=
  [BitVec.ofNat 32 (arg % 65536 * 65536 + code % 256), BitVec.ofNat 32 detail] ++ dwordWords now

/-! ### Event counters (R471) -/

def cntMax : Nat := 2 ^ 48 - 1

/-- The key of a counter: group, index. The injected twin of index i is index i + 1,024 (R477). The
host group 0x02 of instance n is kept under group 0x100 + n. -/
def cntKey (grp idx : Nat) : Nat := grp * 4096 + idx

/-- R471: an increment that would pass 2⁴⁸ − 1 stops there and sets OVF; a counter with OVF set holds. -/
def Counter.add (c : Counter) (k : Nat) : Counter :=
  if c.ovf then { c with val := cntMax }
  else if c.val + k ≤ cntMax then { c with val := c.val + k }
  else { val := cntMax, ovf := true }

/-- R472: a greatest value seen. -/
def Counter.maxOf (c : Counter) (k : Nat) : Counter :=
  if c.ovf then c else if k ≤ cntMax then { c with val := max c.val k } else { val := cntMax, ovf := true }

def Dev.cnt (d : Dev) (grp idx : Nat) : Counter := d.cnts.lookD (cntKey grp idx) {}

/-- The bit of CNT_OVF_STAT for a counter's group or its instance variants (R483). -/
def ovfGroup (grp : Nat) : Nat :=
  if grp < 0x40 then grp else if grp < 0x80 then 1 else if grp < 0x100 then 0 else 2

/-- An event recorded in the ring of a page, or marked lost (R62). FREE pages have no ring, and while CPA is
lost Sebry records nothing (R273). Log entry 12 (DEDUCED). -/
def Dev.post (d : Dev) (k code arg detail : Nat) : Dev :=
  let p := d.page k
  if p.state = .free || d.cpaLost.isSome then d else
  let full := (p.evWr + 65536 - p.evRd) % 65536 = 32
  let st := p.evStatus.putBit code true
  let p' : Page :=
    if full then { p with evStatus := st.putBit 31 true }
    else { p with evStatus := st, evWr := (p.evWr + 1) % 65536,
                  ring := p.ring.put (p.evWr % 32) (eventWords code arg detail d.now) }
  let d := d.setPage k p'
  let d := if full && decide (k < 64) then
      { d with cnts := d.cnts.upd (cntKey (0x80 + k) 17) {} (·.add 1) } else d
  if !full && p.evMask.bit code then d.raise (pageIrq k 1) else d

/-- An event that is raised even though its ring may be full: it sets the status bit in each case. -/
def Dev.postAll (d : Dev) (code arg detail : Nat) : Dev :=
  forEach (d.pages.keys) (fun k d => d.post k code arg detail) d

/-- A counter changed by R471 or R472, with the overflow record of R483 and the accounting event of
R479. -/
def Dev.cntUpd (d : Dev) (grp idx : Nat) (f : Counter → Counter) : Dev :=
  let c := d.cnt grp idx
  let c' := f c
  let d := { d with cnts := d.cnts.put (cntKey grp idx) c' }
  let d := if c'.ovf && !c.ovf then
      let g := ovfGroup grp
      let d := d.setB aCntOvfStat g true
      if d.getB aCntOvfIrq g then (d.raise .counter).logE 15 0 grp 0 idx else d
    else d
  if decide (0x40 ≤ grp) && decide (grp < 0x80) && decide (idx ∈ [0, 1, 2, 3, 6])
      && decide (c.val < 2 ^ 47) && decide (2 ^ 47 ≤ c'.val) then
    (d.post (grp - 0x40) 7 idx 0).post 64 7 idx 0
  else d

/-- The groups whose counters have an injected twin: 0x02, 0x06, 0x09 and 0x0A (R477). -/
def twinGroup (grp : Nat) : Bool := decide (grp = 6) || decide (grp = 9) || decide (grp = 10) || decide (0x100 ≤ grp)

/-- A counter incremented by `k`; for an injected unit its twin too (R450). -/
def Dev.count (d : Dev) (grp idx k : Nat) : Dev :=
  let d := d.cntUpd grp idx (·.add k)
  if d.injUnit && twinGroup grp then d.cntUpd grp (idx + 1024) (·.add k) else d

/-- A greatest value seen. -/
def Dev.countMax (d : Dev) (grp idx k : Nat) : Dev := d.cntUpd grp idx (·.maxOf k)

/-- Counters of an instance: group 0x00 (R477), accounting group 0x01, host group 0x02. -/
def Dev.countInst (d : Dev) (inst idx : Nat) (k : Nat := 1) : Dev := d.count (0x80 + inst) idx k
def Dev.countAcct (d : Dev) (inst idx k : Nat) : Dev := d.count (0x40 + inst) idx k
def Dev.countHost (d : Dev) (inst idx : Nat) (k : Nat := 1) : Dev := d.count (0x100 + inst) idx k
/-- A counter of the device group 0x0A (R478). -/
def Dev.countDev (d : Dev) (idx : Nat) (k : Nat := 1) : Dev := d.count 0x0A idx k

/-- A counter advanced by an undefined amount. Only the parts of the device that a counter can reach are
taken from the counted device. Log entry 26 (DESIGN CHOICE). -/
def Dev.countFree (d : Dev) (grp idx : Nat) : Dev :=
  let e := d.count grp idx (Config.freeNat d.freeCtr)
  { d with regs := e.regs, irqs := e.irqs, log := e.log, cnts := e.cnts, pages := e.pages, freeCtr := d.freeCtr + 1 }

/-! ### The error reporting outputs (R275, R276) -/

/-- Class of a code. -/
inductive RepClass where
  | pulse | heldC | fault
  deriving DecidableEq, Repr

/-- The class of a code (R276); code 9 is held or FAULT by the presence of a fall-back. -/
def repClass (code : Nat) : RepClass :=
  if code ∈ [1, 2, 7, 17] then .pulse else if code ∈ [11, 14, 15] then .fault else .heldC

/-- The codes that hardware reports; CPB reports the others. -/
def hwSourced (code : Nat) : Bool := code ∈ [1, 2, 10, 11, 13, 14, 15, 16]

/-- How a condition is kept in the list of conditions that hold: FAULT-class ones are marked by 32, so
that they show in SAFE_COND and do not drive WARN_N. Log entry 69 (DEDUCED). -/
def condKey (cls : RepClass) (code : Nat) : Nat := if cls = .fault then code + 32 else code

/-- The bit of SAFE_COND for a code is 1 exactly while some condition of the code holds (R277).
Log entry 69 (DEDUCED). -/
def Dev.refreshCond (d : Dev) (code : Nat) : Dev :=
  d.setB aSafeCond code (d.held.any fun p => p.1 % 32 = code)

/-- SAFE_OUT.WARN: FORCE in SERVICE, a running pulse, or a held-class condition; after the loss of CPB
only hardware-sourced codes count (R274, R275, R277). -/
def Dev.refreshWarn (d : Dev) : Dev :=
  let force := d.getF aSafeOut 5 4
  let heldNow := d.held.any fun p => decide (p.1 < 32) && (d.cpbLost.isNone || hwSourced p.1)
  let w := if force = 1 then true else if force = 2 then false else d.warnEnd.isSome || heldNow
  d.setB aSafeOut 1 w

/-- SAFE_OUT.FAULT: FORCE in SERVICE; otherwise FAULT_N is low until the first personality report, and after a FAULT-class
report (R275, R277). -/
def Dev.refreshFault (d : Dev) : Dev :=
  let force := d.getF aSafeOut 5 4
  d.setB aSafeOut 0 (if force = 1 then true else if force = 2 then false else !d.reported || d.faultLatched)

/-- FAULT_N driven low and latched until the next device reset (R275). -/
def Dev.driveFault (d : Dev) : Dev := ({ d with faultLatched := true } : Dev).refreshFault

/-- A report of a code: SAFE_SEEN, the log entry of KIND 1, and the output of its class. While CPB is
lost no CPB-sourced code is reported (R274). -/
def Dev.reportAs (d : Dev) (cls : RepClass) (code subject : Nat) (detail : Nat := 0) : Dev :=
  if d.cpbLost.isSome && !hwSourced code then d else
  let d := (d.setB aSafeSeen code true).logE 1 code subject 0 detail
  match cls with
  | .pulse => ({ d with warnEnd := some (d.now + 1000000) } : Dev).refreshWarn
  | cls =>
    let d := (({ d with held := insertNew d.held (condKey cls code, subject) } : Dev).refreshCond code).refreshWarn
    if cls = .fault then d.driveFault else d

def Dev.report (d : Dev) (code subject : Nat) (detail : Nat := 0) : Dev :=
  d.reportAs (repClass code) code subject detail

/-- The end of a condition of a code for one subject. While CPB is lost no CPB-sourced condition is
ended (R274). -/
def Dev.endCond (d : Dev) (code subject : Nat) : Dev :=
  if d.cpbLost.isSome && !hwSourced code then d else
  (({ d with held := d.held.filter fun p => !(p.1 % 32 = code && p.2 = subject) } : Dev).refreshCond code).refreshWarn

/-- The end of every condition of a code. -/
def Dev.endCode (d : Dev) (code : Nat) : Dev :=
  if d.cpbLost.isSome && !hwSourced code then d else
  (({ d with held := d.held.filter fun p => p.1 % 32 ≠ code } : Dev).refreshCond code).refreshWarn

/-! ### Refused accesses (R282) and writes without effect -/

/-- The regulator's record of a refused access (R282). -/
def Dev.refuse (d : Dev) (master addr : Nat) (write : Bool) : Dev :=
  let d := d.setReg aBwrFaultLo (BitVec.ofNat 32 addr)
  let d := d.setReg aBwrFaultHi (BitVec.ofNat 32 (addr / 2 ^ 32 % 256))
  let d := d.setReg aBwrFaultSrc (BitVec.ofNat 32 (b2n write * 256 + master % 256))
  (d.setB aBwrStatus 9 true).count 0x06 (32 + 4 * master) 1

/-- A register write without effect, recorded with KIND 2 (R507). Log entry 99 (DESIGN CHOICE). -/
def Dev.noEffect (d : Dev) (master addr : Nat) (v : Word) : Dev := d.logE 2 0 master addr v.toNat

/-- A change of an instance's STATE, with event 3 on the manager page (R62). -/
def Dev.setState (d : Dev) (n : Nat) (st : InstState) : Dev :=
  let d := d.setPage n { d.page n with state := st }
  d.post 64 3 n st.code

end Sys2Proof.Machine
end

