-- ==== Sys2Proof/Machine/Fi.lean ====
section
/-! DEFINITION. Fault injection on units (R446 to R450): choosing a unit's entry, its action, and holding units. -/

namespace Sys2Proof.Machine

/-- The data bytes of a unit. -/
def FiUnit.data : FiUnit → List Byte
  | .ethOut b _ _ => b
  | .ethIn b _ _ _ => b
  | .can f => f.data
  | .cpl b _ _ _ => b

def FiUnit.setData (u : FiUnit) (b : List Byte) : FiUnit :=
  match u with
  | .ethOut _ v p => .ethOut b v p
  | .ethIn _ v p n => .ethIn b v p n
  | .can f => .can { f with data := b }
  | .cpl _ x i t => .cpl b x i t

/-- KEY of R448. -/
def FiUnit.key : FiUnit → Nat
  | .ethOut _ v p | .ethIn _ v p _ => v % 4096 + p % 8 * 4096
  | .can f => f.id % 2 ^ 29 + b2n f.ext * 2 ^ 29
  | .cpl _ _ _ t => t % 1024

/-- The bytes at COFF with CMASK applied, little-endian (R447). -/
def fiCorrupt (off : Nat) (mask : Word) (b : List Byte) : List Byte :=
  b.take off ++ leBytes 4 (BitVec.ofNat 32 (leNat ((b.drop off).take 4)) ^^^ mask).toNat ++ b.drop (off + 4)

/-- Shifts of R448's generator, on 32 bits. Log entry 41 (DEDUCED). -/
def xorshift (x : Word) : Word :=
  let x := x ^^^ (x <<< 13)
  let x := x ^^^ (x >>> 17)
  x ^^^ (x <<< 5)

def Dev.fiArmed (d : Dev) : Bool := d.getB aFiStatus 0

/-- What an entry does to a unit. -/
inductive FiAction where
  | drop | corrupt | reorder | fcsBad
  deriving DecidableEq, Repr

/-- The one action that an entry names; FCS_BAD takes the place of ACTION (log entry 40).
Log entry 40 (DESIGN CHOICE). -/
def Dev.fiAction (d : Dev) (e : Nat) : FiAction :=
  if d.getB (aFiEnt e 0) 30 then .fcsBad
  else if d.getF (aFiEnt e 0) 29 28 = 1 then .drop
  else if d.getF (aFiEnt e 0) 29 28 = 2 then .corrupt else .reorder

/-- A unit of a path is eligible for an entry (R448). Log entry 40 (DESIGN CHOICE). -/
def Dev.fiEligible (d : Dev) (p : FiPath) (u : FiUnit) (e : Nat) : Bool :=
  d.getB (aFiEnt e 0) 31 && (d.getB (aFiEnt e 0) 30 || decide (d.getF (aFiEnt e 0) 29 28 ≠ 0)) &&
  decide (d.getF (aFiEnt e 0) 25 24 = p.kind) && decide (d.getF (aFiEnt e 0) 7 0 = p.index) &&
  decide (d.getF (aFiEnt e 0) 26 26 = p.dir) &&
  decide ((BitVec.ofNat 32 u.key ^^^ d.reg (aFiEnt e 3)) &&& d.reg (aFiEnt e 4) = 0) &&
  (decide (d.fiAction e ≠ .corrupt) || decide (d.getF (aFiEnt e 0) 18 8 + 4 ≤ u.data.length))

/-- inject(k) of R448: the verdict and the generator's next value. Log entry 42 (DESIGN CHOICE). -/
def Dev.fiInject (d : Dev) (e k x : Nat) : Bool × Nat :=
  let start := d.getF (aFiEnt e 6) 15 0
  let limit := d.getF (aFiEnt e 6) 31 16
  if k < start ∨ (limit ≠ 0 ∧ limit ≤ (d.reg (aFiEnt e 7)).toNat) then (false, x)
  else if d.getB (aFiEnt e 0) 27 then ((d.reg (aFiEnt e 1)).bit ((k - start) % (d.getF (aFiEnt e 0) 23 19 + 1)), x)
  else
    let y := xorshift (BitVec.ofNat 32 x)
    (decide (y.fld 31 16 < d.getF (aFiEnt e 1) 15 0), y.toNat)

/-- Each entry meets a unit: every one that it is eligible for counts it and decides, and the lowest that injects acts (R449).
Log entry 41 (DEDUCED). -/
def Dev.fiChoose (d : Dev) (p : FiPath) (u : FiUnit) : Option Nat × Dev :=
  if !d.fiArmed then (none, d) else
  (List.range 16).foldl (fun (acc : Option Nat × Dev) e =>
    let d := acc.2
    if !d.fiEligible p u e then acc else
    let k := d.fi.ks.lookD e 0
    let r := d.fiInject e k (d.fi.xs.lookD e 1)
    let d := ({ d with fi := { d.fi with ks := d.fi.ks.put e (k + 1), xs := d.fi.xs.put e r.2 } } : Dev).countDev (144 + 2 * e)
    if acc.1.isNone && r.1 then
      (some e, (d.setReg (aFiEnt e 7) (BitVec.ofNat 32 (min (2 ^ 32 - 1) ((d.reg (aFiEnt e 7)).toNat + 1)))).countDev (145 + 2 * e))
    else (acc.1, d)) (none, d)

/-- One unit of a path: acted on and delivered, dropped or held. `out` delivers it, with its FCS or CRC wrong where told;
`dropped` is what a discarded unit leaves behind. Log entry 41 (DEDUCED). -/
def Dev.fiStep (d : Dev) (p : FiPath) (u : FiUnit) (out : FiUnit → Bool → Dev → Dev) (dropped : Dev → Dev) : Dev :=
  let c := d.fiChoose p u
  match c.1 with
  | none => out u false c.2
  | some e =>
    let d : Dev := { c.2 with injUnit := true }
    let d := match d.fiAction e with
      | .drop => dropped d
      | .corrupt => out (u.setData (fiCorrupt (d.getF (aFiEnt e 0) 18 8) (d.reg (aFiEnt e 5)) u.data)) false d
      | .fcsBad => out u true d
      | .reorder => { d with fi := { d.fi with held := d.fi.held ++ [({ path := p, since := d.now, item := u } : FiHeld)] } }
    { d with injUnit := false }

/-- A unit passes its path, delivered by `out`, and the units held there follow it by `late`, each as a new unit (R447, R449). -/
def Dev.fiPass (d : Dev) (p : FiPath) (u : FiUnit) (out late : FiUnit → Bool → Dev → Dev) (dropped : Dev → Dev) : Dev :=
  let hs := d.fi.held.filter fun h => decide (h.path = p)
  let d := { d with fi := { d.fi with held := d.fi.held.filter fun h => decide (h.path ≠ p) } }
  forEach hs (fun h d => d.fiStep p h.item late dropped) (d.fiStep p u out dropped)

/-- The held units of a path are discarded (R447). -/
def Dev.fiDiscard (d : Dev) (kind index : Nat) : Dev :=
  { d with fi := { d.fi with held := d.fi.held.filter fun h => !(decide (h.path.kind = kind) && decide (h.path.index = index)) } }

end Sys2Proof.Machine
end

