-- ==== Sys2Proof/Machine/KvPool.lean ====
section
/-! DEFINITION. The page allocator of each compute die: pools, free-list stacks and page states (R180,
R184, R197). -/

namespace Sys2Proof.Machine

/-- A pool's index: die × 32 + pool. -/
def poolKey (die q : Nat) : Nat := die * 32 + q

def Dev.poolValid (d : Dev) (die q : Nat) : Bool := d.getB (aKvPoolCfg die q) 31
def Dev.poolFmt (d : Dev) (die q : Nat) : Nat := d.getF (aKvPoolCfg die q) 30 30
def Dev.poolHkv (d : Dev) (die q : Nat) : Nat := d.getF (aKvPoolCfg die q) 29 24 + 1
def Dev.poolD (d : Dev) (die q : Nat) : Nat := 32 * (d.getF (aKvPoolCfg die q) 23 21 + 1)
def Dev.poolBase (d : Dev) (die q : Nat) : Nat :=
  (d.reg (aKvPoolBaseLo die q)).toNat + d.getF (aKvPoolBaseHi die q) 7 0 * 2 ^ 32
def Dev.poolCount (d : Dev) (die q : Nat) : Nat := d.getF (aKvPoolCount die q) 18 0
def Dev.poolInst (d : Dev) (die q : Nat) : Nat := d.getF (aKvPoolCfg die q) 5 0
def Dev.poolTag (d : Dev) (die q : Nat) : Word := d.reg (aKvPoolTag die q)

/-- PAGE_BYTES (R181). -/
def pageBytes (fmt hkv dd : Nat) : Nat := if fmt = 0 then 32 * hkv * dd else 36 * hkv * dd

def Dev.poolPageBytes (d : Dev) (die q : Nat) : Nat := pageBytes (d.poolFmt die q) (d.poolHkv die q) (d.poolD die q)

/-- The valid pool of an instance on a die that carries a tag (R187). -/
def Dev.poolByTag (d : Dev) (die inst : Nat) (tag : Word) : Option Nat :=
  (List.range 32).find? fun q => d.poolValid die q && decide (d.poolTag die q = tag) && decide (d.poolInst die q = inst)

/-- Log entry 44 (DESIGN CHOICE). -/
def Dev.stackOfPool (d : Dev) (die q : Nat) : List Nat := d.kvStacks.lookD (poolKey die q) []

def Dev.pageState (d : Dev) (die q pg : Nat) : Nat := d.kvPages.lookD (poolKey die q * 2 ^ 18 + pg) 0

def Dev.setPageState (d : Dev) (die q pg st : Nat) : Dev :=
  { d with kvPages := if st = 0 then d.kvPages.del (poolKey die q * 2 ^ 18 + pg) else d.kvPages.put (poolKey die q * 2 ^ 18 + pg) st }

/-- KV_STATUS.FREE_TOTAL and KV_POOL_FREE follow the stacks and the waiting commands (R197). -/
def Dev.kvRefresh (d : Dev) (die q : Nat) : Dev :=
  let d := d.setF (aKvPoolFree die q) 18 0 (d.stackOfPool die q).length
  let d := d.setF (aKvPoolFree die q) 27 20 (min 255 (d.kvWait.filter fun w => w.1 = poolKey die q).length)
  d.setF (aKvStatus die) 18 0 (((List.range 32).filter (d.poolValid die)).foldl (fun n q => n + (d.stackOfPool die q).length) 0)

def Dev.setStack (d : Dev) (die q : Nat) (l : List Nat) : Dev :=
  ({ d with kvStacks := d.kvStacks.put (poolKey die q) l } : Dev).kvRefresh die q

/-- A page returned: FREE and pushed onto the top of its stack (R184). -/
def Dev.pushPage (d : Dev) (die q pg : Nat) : Dev :=
  let d := (d.setPageState die q pg 0).count 0x05 (160 * die + 5 * q + 3) 1
  d.setStack die q (pg :: d.stackOfPool die q)

/-- `n` pages popped from the top: all of them or none (R185). -/
def Dev.popPages (d : Dev) (die q n : Nat) : Option (List Nat × Dev) :=
  let st := d.stackOfPool die q
  if st.length < n then none
  else
    let taken := st.take n
    let d := forEach taken (fun pg d => d.setPageState die q pg 1) d
    let d := (d.count 0x05 (160 * die + 5 * q) 1).count 0x05 (160 * die + 5 * q + 2) n
    some (taken, d.setStack die q (st.drop n))

/-- What a kill, refusal or squash does to the pages a command had reserved or was releasing: RESERVED
pages go back to the stack, the last taken first, so that a re-run takes the same pages; FREEING pages
become ALLOCATED again (R184, R193). -/
def Dev.returnPages (d : Dev) (pages : List (Nat × Nat × Nat)) : Dev :=
  forEach pages.reverse (fun p d =>
    if d.pageState p.1 p.2.1 p.2.2 = 3 then d.setPageState p.1 p.2.1 p.2.2 2
    else d.pushPage p.1 p.2.1 p.2.2) d

/-- What step 4 of the press does to them: RESERVED becomes ALLOCATED, FREEING becomes FREE and is
pushed (R184). -/
def Dev.commitPages (d : Dev) (pages : List (Nat × Nat × Nat)) : Dev :=
  forEach pages (fun p d =>
    if d.pageState p.1 p.2.1 p.2.2 = 3 then d.pushPage p.1 p.2.1 p.2.2
    else d.setPageState p.1 p.2.1 p.2.2 2) d

/-- A pool made valid: pages COUNT − 1 down to 0 are pushed, so that page 0 is taken first (R184).
Log entry 44 (DESIGN CHOICE). -/
def Dev.fillPool (d : Dev) (die q : Nat) : Dev :=
  let n := d.poolCount die q
  let d := d.setF (aKvPoolPage die q) 10 0 (d.poolPageBytes die q / 64)
  d.setStack die q (List.range n)

end Sys2Proof.Machine
end

