-- ==== Sys2Proof/Machine/Sci.lean ====
section
/-! DEFINITION. The mailbox of the Sebry command interface: statuses (R54), the exchange (R50), the
checks that every command passes (R49, R55) and the response. -/

namespace Sys2Proof

/-- Request word REQi of a request; i from 1. -/
def Mbx.req (m : Mbx) (i : Nat) : Word := m.words.getD (i - 1) 0

end Sys2Proof

namespace Sys2Proof.Machine

/-- Status codes (R54). -/
inductive Status where
  | ok | eOpcode | eLength | eParam | eDenied | eVersion | eOrphaned | eState | eBusy | eHandle
  | eQuota | eNores | eOverlap | eOvercommit | eNospare | eSlotcfg | eAuth
  deriving DecidableEq, Repr, Inhabited

def Status.code : Status → Nat
  | .ok => 0 | .eOpcode => 1 | .eLength => 2 | .eParam => 3 | .eDenied => 4 | .eVersion => 5
  | .eOrphaned => 6 | .eState => 7 | .eBusy => 8 | .eHandle => 9 | .eQuota => 10 | .eNores => 11
  | .eOverlap => 12 | .eOvercommit => 13 | .eNospare => 14 | .eSlotcfg => 15 | .eAuth => 16

/-- The first status, in the order of the table of R54, whose condition holds. Log entry 103 (DESIGN CHOICE). -/
def firstStatus (l : List (Bool × Status)) : Option Status :=
  l.foldl (fun best c =>
    if c.1 then
      match best with
      | none => some c.2
      | some b => if c.2.code < b.code then some c.2 else some b
    else best) none

/-- Where a command is accepted (the Page column): any instance page, a world-V instance page, the
manager page. -/
structure PageSet where
  i : Bool := false
  v : Bool := false
  m : Bool := false

/-- The pages of a command's Page column hold this page. -/
def PageSet.has (ps : PageSet) (d : Dev) : Pg → Bool
  | .mgr => ps.m
  | .inst n => ps.i || (ps.v && !(d.inst n).worldO)

/-- The instance whose memory and pools a page's commands use: its own, or the manager's instance INST0
on the manager page (R509). -/
def pgInst : Pg → Nat
  | .inst n => n.val
  | .mgr => 0

/-- What R55 answers by the state of the page when a command is not accepted. `open_` marks
SESSION_OPEN, `query` INST_QUERY, `pers` PERS_QUERY. -/
def stateStatus (k : Pg) (st : InstState) (isOpen isQuery isPers : Bool) : Option Status :=
  match st with
  | .free => some .eState
  | .created | .resetDone => if isOpen || isQuery || isPers then none else some .eState
  | .active => none
  | .draining | .squashing => if isQuery || isPers then none else some .eBusy
  | .orphaned =>
    if isQuery then none
    else if isOpen && decide (k = .mgr) then none
    else some .eOrphaned

/-- What executing a command gives: its status, its response words, and the device. -/
structure SciOut where
  status : Status
  words  : List Word := []
  dev    : Dev

/-- Writes into the page what the host writes before GO (R49, R50 step 2). Log entry 13 (DEDUCED). -/
def writeReq (d : Dev) (m : Mbx) (opcode : Nat) : Dev :=
  let k := pgKey m.page
  let p := d.page k
  let w0 := BitVec.ofNat 32 (m.rsv.toNat * 2 ^ 28 + m.words.length % 16 * 2 ^ 24 + m.tag.toNat * 2 ^ 16 + opcode % 65536)
  let ws := w0 :: m.words
  d.setPage k { p with req := forUpTo ws.length (fun i t => t.put i (ws.getD i 0)) p.req }

/-- Posts a response (R50 steps 4 and 5): response words, STATUS, TAG, VALID, GO cleared, the mailbox
interrupt. Words beyond NWORDS hold undefined values (R49): free values. Log entry 14 (DESIGN CHOICE). -/
def postRsp (d : Dev) (k : Nat) (tag : Byte) (st : Status) (ws : List Word) : Dev :=
  let p := d.page k
  let w0 := BitVec.ofNat 32 (ws.length % 16 * 2 ^ 24 + tag.toNat * 2 ^ 16 + st.code)
  let all := w0 :: ws
  let rsp := (List.range 16).map fun i =>
    (i, if i < all.length then all.getD i 0 else Config.freeWord (d.freeCtr + i))
  let d := { d with freeCtr := d.freeCtr + 16 }
  let d := d.setPage k { p with rsp, rspStatus := st.code, rspTag := tag.toNat, valid := true, go := false }
  d.raise (pageIrq k 0)

/-- One mailbox request, the whole exchange of R50. A GO write while VALID reads 1 has no effect and
records an MBX_PROTO event with ARG 2; while GO reads 1 each word of the request is written without effect and records one with
ARG 1 (R51). The page of a FREE instance reads 0 in every register, so
the E_STATE of R55 is posted there unseen. While CPA is lost mailboxes post no responses: the request
stays submitted (R273 item 4). Log entries 11 (DEDUCED), 13 (DEDUCED). -/
def mailbox (m : Mbx) (opcode : Nat) (body : Dev → Option SciOut) (d : Dev) : Dev :=
  let k := pgKey m.page
  let p := d.page k
  if p.state = .free then postRsp d k m.tag .eState []
  else if p.go then forUpTo (m.words.length + 1) (fun _ d => d.post k 11 1 0) d
  else
    let d := writeReq d m opcode
    if p.valid then d.post k 11 2 0
    else
      let d := d.setPage k { d.page k with go := true }
      if d.cpaLost.isSome then d else
      match body d with
      | some o =>
        let o : SciOut := if o.status = .ok then o else { o with words := [] }
        postRsp o.dev k m.tag o.status o.words
      | none => d

/-- The checks common to every command, then the command's own checks, in the order of R54; if none
applies, the effect. A command that ends with a status other than OK changes nothing (R54).
Log entry 103 (DESIGN CHOICE). -/
def sciRun (m : Mbx) (nwords : Nat) (pages : PageSet) (kind : Bool × Bool × Bool)
    (checks : Dev → List (Bool × Status)) (effect : Dev → SciOut) (d : Dev) : SciOut :=
  let st := (d.page (pgKey m.page)).state
  let stSt := stateStatus m.page st kind.1 kind.2.1 kind.2.2
  let common : List (Bool × Status) :=
    [ (decide (m.words.length ≠ nwords), .eLength),
      (decide (m.rsv ≠ 0), .eParam),
      (!pages.has d m.page, .eDenied) ] ++
    (match stSt with
     | some s => [(true, s)]
     | none => [])
  match firstStatus (common ++ checks d) with
  | some s => { status := s, dev := d }
  | none => effect d

/-- A mailbox command of the SCI. -/
def sciCmd (m : Mbx) (opcode nwords : Nat) (pages : PageSet)
    (checks : Dev → List (Bool × Status)) (effect : Dev → SciOut) (d : Dev)
    (kind : Bool × Bool × Bool := (false, false, false)) : Dev :=
  mailbox m opcode (fun d => some (sciRun m nwords pages kind checks effect d)) d

def pagesI : PageSet := { i := true }
def pagesIM : PageSet := { i := true, m := true }
def pagesV : PageSet := { v := true }
def pagesVM : PageSet := { v := true, m := true }
def pagesM : PageSet := { m := true }

/-- A status alone, nothing changed. -/
def SciOut.fail (d : Dev) (s : Status) : SciOut := { status := s, dev := d }

/-- OK with response words. -/
def SciOut.okay (d : Dev) (ws : List Word := []) : SciOut := { status := .ok, words := ws, dev := d }

/-- The reserved bits of a request word: `mask` is what the command defines. -/
def rsvBad (w : Word) (mask : Nat) : Bool := decide (w &&& ~~~ (BitVec.ofNat 32 mask) ≠ 0)

/-- A 40-bit device address from two request words; the bits above are not part of any address. -/
def addrOf (lo hi : Word) : Nat := dword lo hi

/-- The first address of each 64 KiB unit that a range touches, inside the range. -/
def unitStarts (a n : Nat) : List Nat :=
  if n = 0 then [] else
  (List.range ((a + n - 1) / 65536 + 1 - a / 65536)).map fun i => max a ((a / 65536 + i) * 65536)

/-- Whether every byte of a range lies in the current allocations of an instance (R509). Allocations
are whole 64 KiB units. -/
def Inst.owns (i : Inst) (a n : Nat) : Bool :=
  (unitStarts a n).all fun x => i.allocs.any fun al => decide (al.addr ≤ x) && decide (x < al.addr + al.units * 65536)

/-- A command marked D is on its way: its effect has begun and COMMAND_DONE will follow (R53).
Log entry 15 (DESIGN CHOICE). -/
def Dev.begin (d : Dev) (m : Mbx) (opcode : Nat) (arg : Nat := 0) (arg2 : Nat := 0) (ready : Bool := true)
    (status : Nat := 0) : Dev :=
  { d with done := d.done ++ [{ page := pgKey m.page, tag := m.tag, opcode, arg, arg2, ready, status }] }

/-- INST_STATE of a page (R48). -/
def Dev.instState (d : Dev) (k : Nat) : Word :=
  let p := d.page k
  if p.state = .free then 0 else
  BitVec.ofNat 32 (p.hbMissed % 4 * 2 ^ 16 + b2n d.degraded * 2 ^ 10 + b2n d.trans.isSome * 2 ^ 9 +
    b2n p.evict * 2 ^ 8 + d.pers.code % 8 * 16 + p.state.code)

/-- INST_ID of a page (R48). -/
def Dev.instId (d : Dev) (k : Nat) : Word :=
  let n := if k = 64 then 0 else k
  let i := d.inst n
  BitVec.ofNat 32 (b2n i.worldO * 2 ^ 12 + i.pt % 16 * 2 ^ 8 + b2n (k = 64) * 2 ^ 6 + n % 64)

end Sys2Proof.Machine
end

