-- ==== Sys2Proof/Machine/Cmds.lean ====
section
/-! DEFINITION. Lookup of queues, contexts and the commands in their windows, and the words of a command's descriptor and
parameter block (R77, R114, R138, R173, R188). -/

namespace Sys2Proof.Machine

/-! ### Stacks that answer -/

/-- The stack answers: its die is not offline and the stack is not lost (R20, R291).
Log entry 53 (DESIGN CHOICE). -/
def Dev.stackUp (d : Dev) (k : Nat) : Bool := decide (k ∉ d.dieOff) && !(d.stackIfs.lookD k {}).down

/-- No byte of a range lies in a stack that does not answer. -/
def Dev.linesUp (d : Dev) (a n : Nat) : Bool :=
  (pageStarts a n).all fun x =>
    match d.phys x with
    | some k => !isDram k || d.stackUp (stackOf k)
    | none => true

/-! ### Lookup -/

def Dev.queue? (d : Dev) (q : Nat) : Option Queue := d.queues.look q
def Dev.setQueue (d : Dev) (q : Nat) (x : Queue) : Dev := { d with queues := d.queues.put q x }
def Dev.ctx? (d : Dev) (c : Nat) : Option Ctx := d.ctxs.look c
def Dev.setCtx (d : Dev) (c : Nat) (x : Ctx) : Dev := { d with ctxs := d.ctxs.put c x }
def Dev.part (d : Dev) (pt : Nat) : Option Partition := d.parts.look pt
def Dev.eg? (d : Dev) (g : Nat) : Option EngineGroup := d.egs.look g

/-- A command of a queue by its SEQ. -/
def Queue.cmd? (q : Queue) (seq : Nat) : Option Cmd := q.window.find? (·.seq = seq)
def Queue.setCmd (q : Queue) (seq : Nat) (f : Cmd → Cmd) : Queue :=
  { q with window := q.window.map fun c => if c.seq = seq then f c else c }
def Queue.drop (q : Queue) (seq : Nat) : Queue := { q with window := q.window.filter (·.seq ≠ seq) }

def Dev.cmd? (d : Dev) (q seq : Nat) : Option Cmd := (d.queue? q).bind (·.cmd? seq)
def Dev.updCmd (d : Dev) (q seq : Nat) (f : Cmd → Cmd) : Dev :=
  { d with queues := d.queues.adjust q (·.setCmd seq f) }
def Dev.dropCmd (d : Dev) (q seq : Nat) : Dev :=
  { d with queues := d.queues.adjust q (·.drop seq) }

/-- Every taken command, as (queue, command). -/
def Dev.allCmds (d : Dev) : List (Nat × Cmd) := d.queues.flatMap fun p => p.2.window.map fun c => (p.1, c)

/-- The context handle of a context index (R93). -/
def Dev.handleOf (d : Dev) (c : Nat) : Nat :=
  match d.ctx? c with
  | some x => x.gen % 65536 * 65536 + c % 65536
  | none => c

/-- The kind of the partition a context belongs to (R37). -/
def Dev.ctxKind (d : Dev) (c : Nat) : Option PartKind :=
  match d.ctx? c with
  | some x => (d.part (d.inst x.inst).pt).map (·.kind)
  | none => none

def Dev.ctxOfQ (d : Dev) (q : Nat) : Nat := ((d.queue? q).map (·.ctx)).getD 65536
def Dev.instOfQ (d : Dev) (q : Nat) : Nat := ((d.queue? q).map (·.inst)).getD 0

/-- The engine group of a queue's context is twinned. -/
def Dev.twinnedQ (d : Dev) (q : Nat) : Bool :=
  match d.ctx? (d.ctxOfQ q) with
  | some x => ((d.eg? x.eg).map (·.twin)).getD false
  | none => false

/-! ### Descriptor words (R77) -/

def Cmd.w (c : Cmd) (i : Nat) : Word := c.desc.getD i 0
/-- A graphics job: DVER 2 (R320). -/
def Cmd.isJob (c : Cmd) : Bool := decide ((c.w 0).fld 31 28 = 2)
/-- The operation; JOB codes of graphics jobs (R320) are kept apart from OP codes by bit 16. -/
def Cmd.op (c : Cmd) : Nat := if c.isJob then 0x10000 + (c.w 0).fld 15 0 else (c.w 0).fld 15 0
def Cmd.cls (c : Cmd) : Nat := c.op / 256
def Cmd.barrier (c : Cmd) : Bool := (c.w 0).bit 16
def Cmd.wait (c : Cmd) : Bool := (c.w 0).bit 17
def Cmd.signal (c : Cmd) : Bool := (c.w 0).bit 18
def Cmd.irq (c : Cmd) : Bool := (c.w 0).bit 19
def Cmd.waitAddr (c : Cmd) : Nat := dword (c.w 8) (c.w 9)
def Cmd.waitValue (c : Cmd) : Nat := dword (c.w 10) (c.w 11)
def Cmd.signalAddr (c : Cmd) : Nat := dword (c.w 12) (c.w 13)
def Cmd.signalValue (c : Cmd) : Nat := dword (c.w 14) (c.w 15)
def Cmd.estUs (c : Cmd) : Nat := (c.w 5).fld 23 0
/-- Commands of a sort unit. -/
def Cmd.isSort (c : Cmd) : Bool := decide (c.op = 0x0202) || decide (c.op = 0x0203)
/-- Word i of the parameter block. -/
def Cmd.p (c : Cmd) (i : Nat) : Word := BitVec.ofNat 32 (leNat ((c.params.drop (4 * i)).take 4))
/-- Region i of the list: inputs first. -/
def Cmd.region (c : Cmd) (i : Nat) : Region := (c.ins ++ c.outs).getD i ⟨0, 0⟩
def Cmd.nin (c : Cmd) : Nat := c.ins.length

/-! ### Parameter blocks -/

/-- The fields of the parameter block of R114 and R138. -/
structure GxParams where
  op   : Nat
  cbSelOut : Nat
  wPacked : Bool
  transW : Bool
  transA : Bool
  round : Nat
  gsel : Nat
  wfmt : Nat
  afmt : Nat
  dfmt : Nat
  ofmt : Nat
  m : Nat
  k : Nat
  n : Nat
  yscReg : Nat
  cbReg : Nat
  dReg : Nat
  wscReg : Nat
  ascReg : Nat
  yReg : Nat
  wReg : Nat
  aReg : Nat
  lda : Nat
  ldy : Nat
  seed : Word
  fitEn : Bool
  oesc : Bool
  aesc : Bool
  qgran : Bool
  qsym : Bool
  smooth : Bool
  rot : Nat
  qen : Bool
  sfmt : Nat
  sscReg : Nat
  tagReg : Nat
  fitReg : Nat
  smfReg : Nat
  clipf : Nat
  fitThr : Nat
  ldw : Nat
  ldd : Nat
  deriving DecidableEq, Repr, Inhabited

/-- The parameter block of a class 0x04 command (R173) in the same fields: X as A, P as D, the gate or
output triples Q as W. -/
def Cmd.kernelP (c : Cmd) : GxParams :=
  let w := c.p
  { op := c.op, cbSelOut := (w 3).fld 29 24, wPacked := false, transW := false, transA := false,
    round := (w 0).fld 11 10, gsel := 0, wfmt := 0, afmt := (w 0).fld 19 16, dfmt := 0,
    ofmt := (w 0).fld 23 20, m := (w 1).fld 19 0, k := (w 2).fld 19 0, n := (w 2).fld 19 0,
    yscReg := (w 3).fld 19 16, cbReg := (w 3).fld 23 20, dReg := (w 3).fld 11 8, wscReg := 0xF,
    ascReg := 0xF, yReg := (w 3).fld 7 4, wReg := (w 3).fld 15 12, aReg := (w 3).fld 3 0,
    lda := (w 4).toNat, ldy := (w 5).toNat, seed := w 6, fitEn := (w 8).bit 12, oesc := (w 8).bit 11,
    aesc := false, qgran := false, qsym := (w 8).bit 8, smooth := false, rot := 0, qen := false,
    sfmt := 0, sscReg := 0xF, tagReg := 0xF, fitReg := (w 9).fld 7 4, smfReg := 0xF,
    clipf := (w 10).fld 31 16, fitThr := (w 10).fld 15 0, ldw := 0, ldd := 0 }

/-- The parameter block read from a command: that of class 0x04 for a kernel, else that of R114. -/
def Cmd.gx (c : Cmd) : GxParams :=
  if c.cls = 4 then c.kernelP else
  let w := c.p
  { op := c.op, cbSelOut := (w 0).fld 21 16, wPacked := (w 0).bit 15, transW := (w 0).bit 14,
    transA := (w 0).bit 13, round := (w 0).fld 11 10, gsel := (w 0).fld 9 8, wfmt := (w 0).fld 7 4,
    afmt := (w 0).fld 3 0, dfmt := (w 1).fld 25 24, ofmt := (w 1).fld 23 20, m := (w 1).fld 19 0,
    k := (w 2).fld 19 0, n := (w 3).fld 19 0, yscReg := (w 4).fld 31 28, cbReg := (w 4).fld 27 24,
    dReg := (w 4).fld 23 20, wscReg := (w 4).fld 19 16, ascReg := (w 4).fld 15 12,
    yReg := (w 4).fld 11 8, wReg := (w 4).fld 7 4, aReg := (w 4).fld 3 0, lda := (w 5).toNat,
    ldy := (w 6).toNat, seed := w 7, fitEn := (w 8).bit 12, oesc := (w 8).bit 11, aesc := (w 8).bit 10,
    qgran := (w 8).bit 9, qsym := (w 8).bit 8, smooth := (w 8).bit 7, rot := (w 8).fld 6 5,
    qen := (w 8).bit 4, sfmt := (w 8).fld 3 0, sscReg := (w 9).fld 15 12, tagReg := (w 9).fld 11 8,
    fitReg := (w 9).fld 7 4, smfReg := (w 9).fld 3 0, clipf := (w 10).fld 31 16,
    fitThr := (w 10).fld 15 0, ldw := (w 12).toNat, ldd := (w 13).toNat }

/-- The quotient, rounded up. -/
def cdiv (a b : Nat) : Nat := (a + b - 1) / b

/-! ### Parts of a node (R225) -/

/-- The numbers below `n`, in ascending order, inside bounds [first, end) if there are any. -/
def within (b : Option (Nat × Nat)) (n : Nat) : List Nat :=
  match b with
  | none => List.range n
  | some r => (List.range (min n r.2 - r.1)).map (· + r.1)

/-- The rows, columns and reduction indices of its node's result that a command computes. -/
def Cmd.rowList (c : Cmd) (n : Nat) : List Nat := within (c.part.bind (·.rows)) n
def Cmd.colList (c : Cmd) (n : Nat) : List Nat := within (c.part.bind (·.cols)) n
def Cmd.kList (c : Cmd) (n : Nat) : List Nat := within (c.part.bind (·.ks)) n

/-- Whether the command's reduction begins at the first index, and whether it runs to the last. -/
def Cmd.firstK (c : Cmd) : Bool := (c.part.bind (·.ks)).all fun r => decide (r.1 = 0)
def Cmd.lastK (c : Cmd) (n : Nat) : Bool := (c.part.bind (·.ks)).all fun r => decide (n ≤ r.2)

/-- Of the sequences of a row map those that a command runs: all, or the share of a part, so that the rows of one sequence stay together. -/
def Cmd.partSeqs (c : Cmd) (seqs : List Nat) : List Nat :=
  let l := seqs.eraseDups
  match c.part with
  | none => l
  | some p => (l.take ((p.idx + 1) * l.length / p.of_)).drop (p.idx * l.length / p.of_)

/-- The key of a part's partial results in its graph. -/
def partKey (node idx : Nat) : Nat := node * 2 ^ 20 + idx

end Sys2Proof.Machine
end

