-- ==== Sys2Proof/Machine/KvTab.lean ====
section
/-! DEFINITION. The tables of class 0x03: parameters (R188), sequence entries (R182), row maps, and the slots that a
KV_APPEND writes (R181, R189, R193). -/

namespace Sys2Proof.Machine

/-! ### Parameters (R188) -/

def Cmd.kvTag (c : Cmd) : Word := c.p 16
def Cmd.kvMaxp (c : Cmd) : Nat := (c.p 17).fld 16 0
def Cmd.kvRopeMode (c : Cmd) : Bool := (c.p 18).bit 21
def Cmd.kvRope (c : Cmd) : Bool := (c.p 18).bit 20
def Cmd.kvDie (c : Cmd) : Nat := (c.p 18).fld 17 16
def Cmd.kvRopeReg (c : Cmd) : Nat := (c.p 18).fld 11 8
def Cmd.kvMapReg (c : Cmd) : Nat := (c.p 18).fld 7 4
def Cmd.kvSeqReg (c : Cmd) : Nat := (c.p 18).fld 3 0
def Cmd.kvNpos (c : Cmd) : Nat := (c.p 19).fld 19 0

/-- EB of R182. -/
def seqBytes (maxp : Nat) : Nat := 64 * cdiv (16 + 4 * maxp) 64

/-- The pool that a command names: the valid pool of its instance on DIE that carries TAG. -/
def Dev.kvPool (d : Dev) (q : Nat) (c : Cmd) : Option Nat := d.poolByTag c.kvDie (d.instOfQ q) c.kvTag

/-- The address of a sequence entry, its LEN and one of its page-table entries (R182). -/
def Cmd.seqAddr (c : Cmd) (s : Nat) : Nat := (c.region c.kvSeqReg).base + s * seqBytes c.kvMaxp
/-- Log entry 44 (DESIGN CHOICE). -/
def Dev.seqLen (d : Dev) (c : Cmd) (s : Nat) : Nat := (d.rd32 (c.seqAddr s)).toNat
def Dev.pte (d : Dev) (c : Cmd) (s i : Nat) : Word := d.rd32 (c.seqAddr s + 16 + 4 * i)

/-- The sequence index of row m of the row map (R188). -/
def Dev.mapSeq (d : Dev) (c : Cmd) (m : Nat) : Nat := (d.rd32 ((c.region c.kvMapReg).base + 4 * m)).fld 23 0

/-- Consecutive equal values of a list, as (value, count). -/
def runsOf (l : List Nat) : List (Nat × Nat) :=
  (l.foldl (fun acc x =>
    match acc with
    | (y, n) :: t => if x = y then (y, n + 1) :: t else (x, 1) :: acc
    | [] => [(x, 1)]) []).reverse

/-- The row map of a KV_APPEND as runs: (sequence, R_s), in map order. -/
def Dev.kvMap (d : Dev) (c : Cmd) : List (Nat × Nat) := runsOf ((List.range c.gx.m).map (d.mapSeq c))

/-- The runs of a KV_APPEND whose sequences the command runs. -/
def Dev.kvRuns (d : Dev) (c : Cmd) : List (Nat × Nat) :=
  let m := d.kvMap c
  m.filter fun r => decide (r.1 ∈ c.partSeqs (m.map (·.1)))

/-- A command that names a pool. -/
def Cmd.namesPool (c : Cmd) : Bool := !c.isJob && (decide (c.op = 0x0301) || decide (c.op = 0x0302) || decide (c.op = 0x0303))

/-! ### Pages and slots -/

/-- The pages that a KV_APPEND needs, as (sequence, entry), in map order. -/
def Dev.kvNeeds (d : Dev) (c : Cmd) : List (Nat × Nat) :=
  (d.kvRuns c).flatMap fun r =>
    let len := d.seqLen c r.1
    (List.range (cdiv (len + r.2) 16 - cdiv len 16)).map fun i => (r.1, cdiv len 16 + i)

/-- The address of a page of a pool (R181). -/
def Dev.pageAddr (d : Dev) (die pl pg : Nat) : Nat := d.poolBase die pl + pg * d.poolPageBytes die pl

/-- The page of entry i of sequence s as the command sees it: published, or reserved at dispatch. -/
def Dev.kvPage (d : Dev) (c : Cmd) (s i : Nat) : Nat :=
  match (d.kvNeeds c).zipIdx.find? fun e => decide (e.1 = (s, i)) with
  | some e => ((c.pages[e.2]?).map (·.2.2)).getD 0
  | none => (d.pte c s i).fld 17 0

/-- The rows with their sequence and position: row m, sequence, position (R189). -/
def Dev.kvRows (d : Dev) (c : Cmd) : List (Nat × Nat × Nat) :=
  let m := d.kvMap c
  ((m.foldl (fun (acc : List (Nat × Nat × Nat) × Nat) r =>
    (acc.1 ++ (List.range r.2).map fun j => (acc.2 + j, r.1, d.seqLen c r.1 + j), acc.2 + r.2)) ([], 0)).1).filter
      fun r => decide (r.2.1 ∈ c.partSeqs (m.map (·.1)))

/-- The slots that a KV_APPEND writes (R193): the codes of each head and kind, and the scale entries of an INT8A pool. -/
def Dev.kvSlots (d : Dev) (q : Nat) (c : Cmd) : List Region :=
  match d.kvPool q c with
  | none => []
  | some pl =>
    let die := c.kvDie
    let hkv := d.poolHkv die pl
    let dd := d.poolD die pl
    (d.kvRows c).flatMap fun r =>
      let base := d.pageAddr die pl (d.kvPage c r.2.1 (r.2.2 / 16))
      (List.range (2 * hkv)).flatMap fun h =>
        ⟨base + h * 16 * dd + r.2.2 % 16 * dd, dd⟩ ::
        (if d.poolFmt die pl = 0 then [] else [⟨base + 32 * hkv * dd + (h * 16 + r.2.2 % 16) * (dd / 32) * 4, dd / 32 * 4⟩])

end Sys2Proof.Machine
end

