-- ==== Sys2Proof/Machine/Num.lean ====
section
/-! DEFINITION. Number formats: exact values, the floating-point formats of R124 with their decoding
(R125) and conversion (R134), E8M0 scales (R127), affine and codebook conversion (R136, R137), scale
derivation (R144, R147) and the stochastic-rounding hash (R109). Every value between two roundings is
exact: a sign and a quotient of naturals. -/

namespace Sys2Proof.Machine

/-- An exact value, a signed infinity or a NaN. A zero carries a sign, as FP32 zeros do. -/
inductive Ext where
  | nan
  | inf (neg : Bool)
  | fin (neg : Bool) (num den : Nat)
  deriving DecidableEq, Repr, Inhabited

def Ext.zero : Ext := .fin false 0 1
def Ext.one : Ext := .fin false 1 1

/-- A quotient in lowest terms. -/
def Ext.mk (neg : Bool) (num den : Nat) : Ext :=
  let g := Nat.gcd num den
  if g = 0 then .fin neg 0 1 else .fin neg (num / g) (den / g)

def Ext.ofInt (i : Int) : Ext := .fin (decide (i < 0)) i.natAbs 1

/-- 2 to an integer power. -/
def Ext.pow2 (e : Int) : Ext := if 0 ≤ e then .fin false (2 ^ e.toNat) 1 else .fin false 1 (2 ^ (-e).toNat)

def Ext.isNan : Ext → Bool
  | .nan => true
  | _ => false

def Ext.isInf : Ext → Bool
  | .inf _ => true
  | _ => false

def Ext.isFin (x : Ext) : Bool := !x.isNan && !x.isInf

def Ext.isZero : Ext → Bool
  | .fin _ 0 _ => true
  | _ => false

def Ext.neg : Ext → Ext
  | .nan => .nan
  | .inf s => .inf (!s)
  | .fin s n d => .fin (!s) n d

def Ext.abs : Ext → Ext
  | .nan => .nan
  | .inf _ => .inf false
  | .fin _ n d => .fin false n d

/-- Products: an infinity times zero is a NaN (R107). Log entry 36 (DESIGN CHOICE). -/
def Ext.mul : Ext → Ext → Ext
  | .nan, _ => .nan
  | _, .nan => .nan
  | .inf s, .inf t => .inf (s != t)
  | .inf s, .fin t n _ => if n = 0 then .nan else .inf (s != t)
  | .fin s n _, .inf t => if n = 0 then .nan else .inf (s != t)
  | .fin s n d, .fin t m e => .mk (s != t) (n * m) (d * e)

/-- Signed numerator over a common denominator. -/
def sgn (neg : Bool) (n : Nat) : Int := if neg then -(n : Int) else n

/-- Sums: infinities of opposite sign give a NaN (R107); an exact zero sum is negative only where both
terms are negative zeros. Log entry 36 (DESIGN CHOICE). -/
def Ext.add : Ext → Ext → Ext
  | .nan, _ => .nan
  | _, .nan => .nan
  | .inf s, .inf t => if s = t then .inf s else .nan
  | .inf s, .fin _ _ _ => .inf s
  | .fin _ _ _, .inf t => .inf t
  | .fin s n d, .fin t m e =>
    let i := sgn s (n * e) + sgn t (m * d)
    .mk (if i = 0 then s && t else decide (i < 0)) i.natAbs (d * e)

def Ext.sub (a b : Ext) : Ext := a.add b.neg

/-- Quotients, with the IEEE results at zero and infinity. Log entry 36 (DESIGN CHOICE). -/
def Ext.div : Ext → Ext → Ext
  | .nan, _ => .nan
  | _, .nan => .nan
  | .inf _, .inf _ => .nan
  | .inf s, .fin t _ _ => .inf (s != t)
  | .fin s _ _, .inf t => .fin (s != t) 0 1
  | .fin s n d, .fin t m e =>
    if m = 0 then (if n = 0 then .nan else .inf (s != t)) else .mk (s != t) (n * e) (d * m)

/-- Order of values that are not NaN: negative and positive zero are equal (R125). -/
def Ext.lt : Ext → Ext → Bool
  | .nan, _ => false
  | _, .nan => false
  | .inf s, .inf t => s && !t
  | .inf s, .fin _ _ _ => s
  | .fin _ _ _, .inf t => !t
  | .fin s n d, .fin t m e => decide (sgn s (n * e) < sgn t (m * d))

def Ext.le (a b : Ext) : Bool := !a.isNan && !b.isNan && !b.lt a
def Ext.eqv (a b : Ext) : Bool := a.le b && b.le a
def Ext.max (a b : Ext) : Ext := if a.lt b then b else a
def Ext.min (a b : Ext) : Ext := if b.lt a then b else a

/-! ### Floating-point formats (R124) -/

/-- How a format treats its top codes. -/
inductive FpKind where
  /-- E all ones is infinity or NaN. -/
  | ieee
  /-- FP8-E4M3: 0x7F and 0xFF are NaN, no infinity. -/
  | e4m3
  /-- The MX elements: neither. -/
  | finite
  deriving DecidableEq, Repr

structure FpFmt where
  eb   : Nat
  mb   : Nat
  bias : Nat
  kind : FpKind
  deriving DecidableEq, Repr

def fp32 : FpFmt := ⟨8, 23, 127, .ieee⟩
def bf16 : FpFmt := ⟨8, 7, 127, .ieee⟩
def fp16 : FpFmt := ⟨5, 10, 15, .ieee⟩
def e4m3 : FpFmt := ⟨4, 3, 7, .e4m3⟩
def e5m2 : FpFmt := ⟨5, 2, 15, .ieee⟩
def e3m2 : FpFmt := ⟨3, 2, 3, .finite⟩
def e2m3 : FpFmt := ⟨2, 3, 1, .finite⟩
def e2m1 : FpFmt := ⟨2, 1, 1, .finite⟩

/-- The sign bit's place, the width less one. -/
def FpFmt.sbit (f : FpFmt) : Nat := f.eb + f.mb
def FpFmt.infCode (f : FpFmt) : Nat := (2 ^ f.eb - 1) * 2 ^ f.mb

/-- The greatest finite magnitude code. -/
def FpFmt.maxCode (f : FpFmt) : Nat :=
  match f.kind with
  | .ieee => f.infCode - 1
  | .e4m3 => 2 ^ f.sbit - 2
  | .finite => 2 ^ f.sbit - 1

/-- The canonical NaN, S = 0 (R126); the MX elements have none. -/
def FpFmt.nanCode (f : FpFmt) : Nat :=
  match f.kind with
  | .ieee => f.infCode + 2 ^ (f.mb - 1)
  | .e4m3 => 2 ^ f.sbit - 1
  | .finite => 0

/-- The magnitude of a magnitude code that is neither infinity nor NaN (R125). -/
def FpFmt.mag (f : FpFmt) (c : Nat) : Ext :=
  let e := c / 2 ^ f.mb
  let m := c % 2 ^ f.mb
  let x : Int := (if e = 0 then (1 : Int) else e) - f.bias - f.mb
  let n := if e = 0 then m else 2 ^ f.mb + m
  if 0 ≤ x then .mk false (n * 2 ^ x.toNat) 1 else .mk false n (2 ^ (-x).toNat)

/-- Decoding of a code (R125, R126). -/
def FpFmt.decode (f : FpFmt) (code : Nat) : Ext :=
  let s := bitOf code f.sbit
  let c := code % 2 ^ f.sbit
  let special : Option Ext :=
    match f.kind with
    | .ieee => if f.infCode < c then some .nan else if c = f.infCode then some (.inf s) else none
    | .e4m3 => if c = 2 ^ f.sbit - 1 then some .nan else none
    | .finite => none
  match special with
  | some x => x
  | none => if s then (f.mag c).neg else f.mag c

/-- ⌊log₂(num ÷ den)⌋ for a positive quotient. -/
def ilog2 (num den : Nat) : Int :=
  let l : Int := (Nat.log2 num : Int) - Nat.log2 den
  let below : Bool := if 0 ≤ l then decide (num < den * 2 ^ l.toNat) else decide (num * 2 ^ (-l).toNat < den)
  if below then l - 1 else l

/-- Rounding of a non-negative quotient to an integer: 0 to nearest with ties to even, 1 stochastic with
the 16-bit draw `r`, 2 toward zero (R109). -/
def roundUnits (num den mode r : Nat) : Nat :=
  let j := num / den
  let rem := num % den
  if mode = 0 then
    if den < 2 * rem then j + 1 else if 2 * rem = den then j + j % 2 else j
  else if mode = 1 then
    if 65536 ≤ rem * 65536 / den + r then j + 1 else j
  else j

/-- The magnitude code that a positive quotient rounds to, before any overflow rule. -/
def FpFmt.roundMag (f : FpFmt) (num den mode r : Nat) : Nat :=
  if num = 0 then 0 else
  let emin : Int := 1 - (f.bias : Int)
  let l := ilog2 num den
  let e := if l < emin then emin else l
  let q := e - f.mb
  let j := if 0 ≤ q then roundUnits num (den * 2 ^ q.toNat) mode r else roundUnits (num * 2 ^ (-q).toNat) den mode r
  (e - emin).toNat * 2 ^ f.mb + j

/-- Conversion to a format: the code and the clip mark (R134, R135). Log entry 36 (DESIGN CHOICE). -/
def FpFmt.encode (f : FpFmt) (v : Ext) (mode r : Nat) : Nat × Bool :=
  match v with
  | .nan => (f.nanCode, false)
  | .inf s =>
    let sb := b2n s * 2 ^ f.sbit
    if f.kind = .ieee then (sb + f.infCode, false) else (sb + f.maxCode, true)
  | .fin s n d =>
    let sb := b2n s * 2 ^ f.sbit
    let c := f.roundMag n d mode r
    match f.kind with
    | .ieee => (sb + (if f.infCode ≤ c then (if mode = 2 then f.maxCode else f.infCode) else c), false)
    | _ =>
      let c' := min c f.maxCode
      (sb + c', decide (c' = f.maxCode) && (f.mag f.maxCode).lt (.fin false n d))

/-- Round to nearest, ties to even. -/
def FpFmt.rne (f : FpFmt) (v : Ext) : Nat := (f.encode v 0 0).1

/-- rne_fp32 as a value: the exact value of the FP32 number it rounds to. -/
def rne32 (v : Ext) : Ext := fp32.decode (fp32.rne v)

/-- FP32 arithmetic: exact operation, then one rounding. -/
def add32 (a b : Ext) : Ext := rne32 (a.add b)
def sub32 (a b : Ext) : Ext := rne32 (a.sub b)
def mul32 (a b : Ext) : Ext := rne32 (a.mul b)
def div32 (a b : Ext) : Ext := rne32 (a.div b)

/-! ### Scales -/

/-- The value of an E8M0 scale byte (R127). -/
def e8m0 (x : Nat) : Ext := if x % 256 = 255 then .nan else .pow2 ((x % 256 : Nat) - (127 : Int))

/-- ru_fp16: the least FP16 value not below v ≥ 0; +0 for 0, 65,504 above 65,504 (R144). -/
def ruFp16 (v : Ext) : Nat :=
  match v with
  | .fin _ n d =>
    if n = 0 then 0 else
    let c := fp16.roundMag n d 2 0
    let c' := if (fp16.mag c).lt (.fin false n d) then c + 1 else c
    min c' 0x7BFF
  | _ => 0x7BFF

/-- Rounding of an exact value to an integer, by mode (R136). -/
def roundInt (v : Ext) (mode r : Nat) : Int :=
  match v with
  | .fin s n d => sgn s (roundUnits n d mode r)
  | _ => 0

def clampInt (lo hi i : Int) : Int := if i < lo then lo else if hi < i then hi else i

/-- derive_affine (R144): FP16 code of s, and z. -/
def deriveAffine (mn mx : Ext) (qmin qmax : Int) (sym : Bool) (c : Ext) : Nat × Int :=
  if sym then
    (ruFp16 (((mn.abs.max mx.abs).mul c).div (.ofInt qmax)), 0)
  else
    let lo := (mn.min .zero).mul c
    let hi := (mx.max .zero).mul c
    let s := ruFp16 ((hi.sub lo).div (.ofInt (qmax - qmin)))
    if s = 0 then (0, 0)
    else (s, clampInt qmin qmax (roundInt ((Ext.ofInt qmin).sub (lo.div (fp16.decode s))) 0 0))

/-- derive_mx (R144): the least X in 0..254 with a ≤ emax × 2^(X − 127), or 254. -/
def deriveMx (mn mx : Ext) (f : FpFmt) (c : Ext) : Nat :=
  let a := (mn.abs.max mx.abs).mul c
  ((List.range 255).find? fun x => a.le ((f.mag f.maxCode).mul (e8m0 x))).getD 254

/-- enc_affine (R136): the code and the clip mark; the caller has dealt with special groups. -/
def encAffine (v : Ext) (sCode : Nat) (z qmin qmax : Int) (mode r : Nat) : Int × Bool :=
  let s := fp16.decode sCode
  let x := if s.isZero then Ext.ofInt z else (v.div s).add (.ofInt z)
  let q := roundInt x mode r
  if qmax < q then (qmax, true) else if q < qmin then (qmin, true) else (q, false)

/-- enc_cb (R137): the index of the nearest entry, ties to the lower index, and the clip mark. -/
def encCb (v : Ext) (book : List Ext) : Nat × Bool :=
  let good := (book.zipIdx).filter fun p => !p.1.isNan
  match good with
  | [] => (0, true)
  | p0 :: rest =>
    if v.isNan then (0, true) else
    let lo := rest.foldl (fun m p => m.min p.1) p0.1
    let hi := rest.foldl (fun m p => m.max p.1) p0.1
    match v with
    | .inf s =>
      let target := if s then lo else hi
      (((good.find? fun p => p.1.eqv target).map (·.2)).getD 0, true)
    | _ =>
      let best := rest.foldl (fun (b : Nat × Ext) p =>
        let dist := (v.sub p.1).abs
        if dist.lt b.2 then (p.2, dist) else b) (p0.2, (v.sub p0.1).abs)
      (best.1, v.lt lo || hi.lt v)

/-- The stochastic-rounding hash of R109; its upper 16 bits are r. -/
def srHash (seed : Word) (m n : Nat) : Word :=
  let x := seed ^^^ (BitVec.ofNat 32 (m * 0x9E3779B9)) ^^^ (BitVec.ofNat 32 (n * 0x85EBCA6B))
  let x := (x ^^^ (x >>> 16)) * 0x7FEB352D
  let x := (x ^^^ (x >>> 15)) * 0x846CA68B
  x ^^^ (x >>> 16)

def srDraw (seed : Word) (m n : Nat) : Nat := (srHash seed m n).toNat / 65536

/-- The integer square root of a number below 2^62. -/
def isqrt (n : Nat) : Nat :=
  (List.range 31).foldl (fun m i => if (m + 2 ^ (30 - i)) * (m + 2 ^ (30 - i)) ≤ n then m + 2 ^ (30 - i) else m) 0

/-! ### Format codes (R113) -/

/-- Element width in bits as stored (R129, R131, R132). -/
def fmtBits (f : Nat) : Nat :=
  if f = 0 then 32 else if f = 1 ∨ f = 2 then 16 else if f = 7 ∨ f = 9 ∨ f = 11 ∨ f = 12 then 4 else 8

def isFpFmt (f : Nat) : Bool := decide (f ≤ 4)
def isMx (f : Nat) : Bool := decide (f = 5) || decide (f = 6) || decide (f = 7)
def isInt (f : Nat) : Bool := decide (f = 8) || decide (f = 9)
def isCb (f : Nat) : Bool := decide (10 ≤ f) && decide (f ≤ 12)

/-- The floating-point element format of a format code. -/
def fpOf (f : Nat) : FpFmt :=
  if f = 0 then fp32 else if f = 1 then bf16 else if f = 2 then fp16 else if f = 3 then e4m3
  else if f = 4 then e5m2 else if f = 5 then e3m2 else if f = 6 then e2m3 else e2m1

/-- qmin and qmax of an affine format (R131). -/
def qRange (f : Nat) : Int × Int := if f = 8 then (-128, 127) else (-8, 7)

/-- Rate classes (R100). -/
inductive Rate where
  | r8 | r4 | r16 | r32
  deriving DecidableEq, Repr

/-- The rate class of a pair of formats (R101). -/
def rateOf (a w : Nat) : Option Rate :=
  if (a = 3 ∨ a = 4) ∧ (w = 3 ∨ w = 4) then some .r8
  else if (a = 3 ∨ a = 4 ∨ a = 8) ∧ isCb w then some .r8
  else if a = 8 ∧ (w = 8 ∨ w = 9) then some .r8
  else if (a = 5 ∨ a = 6) ∧ (w = 5 ∨ w = 6 ∨ w = 7) then some .r8
  else if a = 7 ∧ (w = 5 ∨ w = 6) then some .r8
  else if a = 7 ∧ w = 7 then some .r4
  else if a = 9 ∧ w = 9 then some .r4
  else if a = 9 ∧ (w = 11 ∨ w = 12) then some .r4
  else if (a = 1 ∨ a = 2) ∧ (w = 1 ∨ w = 2) then some .r16
  else if a = 0 ∧ w = 0 then some .r32
  else none

/-- K_P of a weight format's packing and the size of a packing tile (R105). -/
def packK (w : Nat) : Nat := if fmtBits w = 8 then 256 else if fmtBits w = 4 then 512 else if fmtBits w = 16 then 128 else 32
def packTile (w : Nat) : Nat := if w = 0 then 4096 else 8192

/-- The ladder of a format: its next rungs (R151). -/
def ladder (f : Nat) : List Nat :=
  if f = 9 then [8, 1] else if f = 8 then [1] else if f = 7 then [6, 1] else if f = 5 ∨ f = 6 then [1]
  else if f = 3 then [1] else if f = 11 ∨ f = 12 then [10, 1] else if f = 10 then [1] else []

/-- Ladders apply to codebook formats on the output side only. -/
def ladderIn (f : Nat) : List Nat := if isCb f then [] else ladder f

end Sys2Proof.Machine
end

