-- ==== Sys2Proof/Machine/Gibex.lean ====
section
/-! DEFINITION. The Gibex engine: the parameter block of a matrix product (R114, R138), its validation
(R101, R110, R115, R139), the quantiser (R140–R146), the group-rescale arithmetic (R106–R108), the
output converter (R147) and the fit monitor (R149–R153). -/

namespace Sys2Proof.Machine

/-- The rotation size n; 1 when ROT is 0. -/
def GxParams.rotN (p : GxParams) : Nat := if p.rot = 0 then 1 else 32 * 2 ^ p.rot

/-- The group size of the command (R100, R114): 32, 64 or 128 by GSEL, 32 for MX formats. -/
def GxParams.gsize (p : GxParams) : Nat := if isMx p.afmt || isMx p.wfmt then 32 else 32 * 2 ^ p.gsel

/-- G of a rate class. -/
def GxParams.gOf (p : GxParams) (r : Rate) : Nat :=
  match r with
  | .r8 | .r4 => p.gsize
  | .r16 => 4
  | .r32 => 1

/-- Bytes of a row of `n` elements in a format. -/
def rowBytes (f n : Nat) : Nat := cdiv (n * fmtBits f) 8

/-- Whether an OFMT writes scales to YSC (R115). -/
def needsYsc (f : Nat) : Bool := isInt f || isMx f || decide (f = 12)

/-- The byte length that a matrix region needs: rows `ld` apart, the last one `rb` bytes. -/
def matLen (rows ld rb : Nat) : Nat := if rows = 0 then 0 else (rows - 1) * ld + rb

/-- Region `i` of the command is at least `n` bytes long. -/
def Cmd.long (c : Cmd) (i n : Nat) : Bool := decide (n ≤ (c.region i).len)

/-- The checks of R101, R110, R113, R115 and R139 on a class 0x01 parameter block; KV_APPEND uses them
with its own Y rules (R189), and then `kv` is set. -/
def Cmd.gxValid (c : Cmd) (kv : Bool) : Bool :=
  let p := c.gx
  let w := c.p
  let nin := c.nin
  let tot := c.ins.length + c.outs.length
  let isIn (r : Nat) : Bool := decide (r < nin)
  let isOut (r : Nat) : Bool := decide (nin ≤ r) && decide (r < tot)
  let opt (r : Nat) (need : Bool) (ok : Nat → Bool) : Bool := if need then ok r else decide (r = 0xF)
  let rsv : Bool :=
    decide ((w 0).fld 31 22 = 0) && !(w 0).bit 12 && decide ((w 1).fld 31 26 = 0) &&
    decide ((w 2).fld 31 20 = 0) && decide ((w 3).fld 31 20 = 0) && decide ((w 8).fld 31 13 = 0) &&
    decide ((w 9).fld 31 16 = 0) && decide (w 11 = 0) && decide (w 14 = 0) && decide (w 15 = 0)
  let fmts : Bool := decide (p.afmt ≤ 12) && decide (p.wfmt ≤ 12) && decide (p.ofmt ≤ 12)
  match rateOf p.afmt p.wfmt with
  | none => false
  | some r =>
    let g := p.gOf r
    let add : Bool := decide (p.op = 0x0102) || (kv && decide (p.dReg ≠ 0xF))
    let plainA := isFpFmt p.afmt
    let plainW := isFpFmt p.wfmt
    let cbW := isCb p.wfmt
    let cbOut := isCb p.ofmt
    let wsc := isInt p.wfmt || isMx p.wfmt || cbW
    let tagged := p.qen && decide (p.sfmt = 0xE)
    let kp := packK p.wfmt
    let kt := cdiv p.k kp
    let nt := cdiv p.n 32
    let aNeeds : Bool := isInt p.afmt || isMx p.afmt
    let ascOk : Bool :=
      if p.qen then (if aNeeds then decide (p.ascReg = 0xF) || isIn p.ascReg else decide (p.ascReg = 0xF))
      else if aNeeds then isIn p.ascReg else decide (p.ascReg = 0xF)
    let srcFmt := if p.qen then p.sfmt else p.afmt
    let aRows := if p.transA then p.k else p.m
    let aCols := if p.transA then p.m else p.k
    let wLen := if p.wPacked then kt * nt * packTile p.wfmt
      else if p.transW then matLen p.n p.ldw (rowBytes p.wfmt p.k) else matLen p.k p.ldw (rowBytes p.wfmt p.n)
    let outRungs := if p.oesc then p.ofmt :: ladder p.ofmt else [p.ofmt]
    (kv || decide (c.params.length = 64)) && rsv && fmts && decide (p.gsel ≤ 2) && decide (p.round ≤ 2) &&
    decide (1 ≤ p.m) && decide (1 ≤ p.k) && decide (1 ≤ p.n) &&
    (!(isMx p.afmt || isMx p.wfmt) || decide (p.gsel = 0)) &&
    ((decide (r = .r16) || decide (r = .r32)) || decide (p.k % g = 0)) &&
    -- R110
    (!p.transW || !p.wPacked) && (plainA || !p.transA) && (plainW || (!p.transW && p.wPacked)) &&
    -- R115: regions
    isIn p.aReg && isIn p.wReg && opt p.wscReg wsc isIn && opt p.cbReg (cbW || cbOut) isIn &&
    opt p.dReg add isIn && ascOk &&
    (if kv then decide (p.yReg = 0xF) && decide (p.yscReg = 0xF) && decide (p.ldy = 0)
     else isOut p.yReg && opt p.yscReg (outRungs.any needsYsc) isOut) &&
    decide (p.dfmt ≤ 2) && (add || decide (p.dfmt = 0)) &&
    -- lengths
    (tagged || c.long p.aReg (matLen aRows p.lda (rowBytes srcFmt aCols))) &&
    c.long p.wReg wLen &&
    (!wsc || c.long p.wscReg (kt * nt * (32 * kp / g) * 4)) &&
    (!(decide (p.ascReg ≠ 0xF)) || c.long p.ascReg (p.m * cdiv p.k g * 4)) &&
    (!add || c.long p.dReg (if p.ldd = 0 then rowBytes p.dfmt p.n else matLen p.m p.ldd (rowBytes p.dfmt p.n))) &&
    (kv || outRungs.all fun f => c.long p.yReg (matLen p.m p.ldy (rowBytes f p.n)) &&
      (!p.oesc || decide (p.m ≤ 1) || decide (rowBytes f p.n ≤ p.ldy))) &&
    (kv || decide (p.yscReg = 0xF) || c.long p.yscReg (p.m * nt * 4)) &&
    -- R139
    (if p.qen then decide (p.afmt ∈ [8, 9, 5, 6, 7, 3, 4]) && !p.transA && decide (p.sfmt ∈ [0, 1, 2, 0xE])
     else decide (p.rot = 0) && !p.smooth && !p.aesc && !p.qgran && decide (p.sfmt = 0)) &&
    (decide (p.rot = 0) || decide (p.k % p.rotN = 0)) &&
    (if p.smooth then isIn p.smfReg && c.long p.smfReg (4 * p.k) else decide (p.smfReg = 0xF)) &&
    (if tagged then isIn p.tagReg && isIn p.sscReg else decide (p.tagReg = 0xF) && decide (p.sscReg = 0xF)) &&
    (decide (p.fitReg = 0xF) || (isOut p.fitReg && c.long p.fitReg 32)) &&
    (!p.oesc || decide (p.fitReg ≠ 0xF))

/-! ### Reading operands (R116, R105) -/

/-- The code of an element `i` of a row of `f`-format elements at byte address `a` (R129, R131, R132). -/
def Dev.elem (d : Dev) (f a i : Nat) : Nat :=
  let b := fmtBits f
  if b = 4 then (d.rd8 (a + i / 2)).toNat / (if i % 2 = 0 then 1 else 16) % 16
  else if f = 5 ∨ f = 6 then (d.rd8 (a + i)).toNat % 64
  else d.rdLe (a + i * (b / 8)) (b / 8)

/-- The affine code of an element as a signed integer. -/
def affCode (f code : Nat) : Int := sext (fmtBits f) code

/-- An entry of side data in the ASC layout (R116): FP16 scale code, zero point, E8M0 byte, CB_SEL. -/
structure Side where
  s : Nat
  z : Int
  x : Nat
  sel : Nat
  deriving DecidableEq, Repr, Inhabited

def Side.of (w : Word) : Side := ⟨w.fld 15 0, sext 8 (w.fld 23 16), w.fld 7 0, w.fld 29 24⟩

/-- The term (va or vw), zero point and scale of R106 for an element of a format: `side` is its group's
side data, `book` decodes a codebook index. -/
def term (f code : Nat) (side : Side) (book : Nat → Ext) : Ext × Int × Ext :=
  if isInt f then (.ofInt (affCode f code), side.z, fp16.decode side.s)
  else if isMx f then ((fpOf f).decode code, 0, e8m0 side.x)
  else if f = 12 then (book code, side.z, fp16.decode side.s)
  else if isCb f then (book code, 0, .one)
  else ((fpOf f).decode code, 0, .one)

/-- The side data entry of row m and group g (R116). -/
def Dev.sideAt (d : Dev) (base m ng g : Nat) : Side := Side.of (d.rd32 (base + (m * ng + g) * 4))

/-- One row of activations ready for R106: value, zero point and scale of each element, and the number
of clip marks. -/
structure ActRow where
  v : List Ext
  z : List Int
  s : List Ext
  clips : Nat := 0
  deriving Inhabited

/-- Smoothing and block rotation of a row (R141). -/
def butterfly (h : Nat) (y : List Ext) : List Ext :=
  (List.range y.length).map fun i =>
    if i % (2 * h) < h then add32 (y.getD i .zero) (y.getD (i + h) .zero)
    else sub32 (y.getD (i - h) .zero) (y.getD i .zero)

/-- The stages of a block rotation of size n, in ascending h. A lone infinity spreads as infinities of both
signs (R141). Log entry 125 (DEDUCED). -/
def hadamard : Nat → Nat → Nat → List Ext → List Ext
  | 0, _, _, y => y
  | fuel + 1, n, h, y => if h < n then hadamard fuel n (2 * h) (butterfly h y) else y

def rotateRow (x sigma : List Ext) (n : Nat) (smooth : Bool) : List Ext :=
  let y := if smooth then (x.zip sigma).map fun p => mul32 p.1 p.2 else x
  if n ≤ 1 then y
  else (List.range (y.length / n)).flatMap fun b => hadamard 9 n 1 ((y.drop (b * n)).take n)

/-- The rungs in force for a run: the activation format, the output format, and whether the input or
output side has been escalated (R150, R152). -/
def Cmd.runFmts (c : Cmd) : Nat × Nat × Bool × Bool :=
  let p := c.gx
  (c.rungIn.getD p.afmt, c.rungOut.getD p.ofmt, c.rungIn.isSome && c.rungIn ≠ some p.afmt, c.rungOut.isSome && c.rungOut ≠ some p.ofmt)

/-- The clipping factor c of R138 and R144. -/
def GxParams.clipC (p : GxParams) (escalated : Bool) : Ext :=
  if escalated || p.clipf = 0 then .one else .mk false p.clipf 65536

/-- Least and greatest of a list of values. -/
def extMin (l : List Ext) : Ext := match l with | [] => .zero | x :: t => t.foldl Ext.min x
def extMax (l : List Ext) : Ext := match l with | [] => .zero | x :: t => t.foldl Ext.max x

/-- Special sets hold a NaN or an infinity (R145). -/
def special (l : List Ext) : Bool := l.any fun x => !x.isFin

/-- Consecutive parts of a list, `n` long. -/
def chunks (n : Nat) (l : List Ext) : List (List Ext) :=
  if n = 0 then [] else (List.range (cdiv l.length n)).map fun i => (l.drop (i * n)).take n

/-- Conversion of one group of rotated values to an activation format with its scale; a special group
gives a NaN scale with codes 0 (R145). -/
def quantGroup (f : Nat) (side : Side) (vals : List Ext) : ActRow :=
  if isInt f then
    let s := fp16.decode side.s
    if special vals || !s.isFin then
      { v := vals.map fun _ => .zero, z := vals.map fun _ => 0, s := vals.map fun _ => .nan }
    else
      let q := qRange f
      let cs := vals.map fun x => encAffine x side.s side.z q.1 q.2 0 0
      { v := cs.map fun p => .ofInt p.1, z := vals.map fun _ => side.z, s := vals.map fun _ => s,
        clips := (cs.filter (·.2)).length }
  else
    let xs := e8m0 side.x
    if special vals || xs.isNan then
      { v := vals.map fun _ => .zero, z := vals.map fun _ => 0, s := vals.map fun _ => .nan }
    else
      let cs := vals.map fun x => (fpOf f).encode (x.div xs) 0 0
      { v := cs.map fun p => (fpOf f).decode p.1, z := vals.map fun _ => 0, s := vals.map fun _ => xs,
        clips := (cs.filter (·.2)).length }

/-- The side data that derivation gives for a statistics set (R143, R144). -/
def deriveSide (f : Nat) (vals : List Ext) (sym : Bool) (c : Ext) : Side :=
  if special vals then ⟨0x7E00, 0, 255, 0⟩
  else if isInt f then
    let q := qRange f
    let r := deriveAffine (extMin vals) (extMax vals) q.1 q.2 sym c
    ⟨r.1, r.2, 0, 0⟩
  else ⟨0, 0, deriveMx (extMin vals) (extMax vals) (fpOf f) c, 0⟩

def ActRow.append (a b : ActRow) : ActRow := ⟨a.v ++ b.v, a.z ++ b.z, a.s ++ b.s, a.clips + b.clips⟩

/-- The source row of the quantiser, decoded and rounded to FP32 (R140, R154). `sf` is the format in
force: SFMT, or the format that the tag names. -/
def Dev.srcRow (d : Dev) (c : Cmd) (p : GxParams) (sf m : Nat) : List Ext :=
  let a := (c.region p.aReg).base + m * p.lda
  (c.kList p.k).map fun k =>
    let code := d.elem sf a k
    let v :=
      if isInt sf then
        let sd := d.sideAt (c.region p.sscReg).base m (cdiv p.k 32) (k / 32)
        ((fp16.decode sd.s).mul (.ofInt (affCode sf code - sd.z)))
      else if isMx sf then
        let sd := d.sideAt (c.region p.sscReg).base m (cdiv p.k 32) (k / 32)
        ((fpOf sf).decode code).mul (e8m0 sd.x)
      else (fpOf sf).decode code
    rne32 v

/-- Row m of the activations as R106 takes them, with the rungs in force. -/
def Dev.actRow (d : Dev) (c : Cmd) (p : GxParams) (af : Nat) (escd : Bool) (g sf m : Nat) : ActRow :=
  if p.qen then
    let n := p.rotN
    let sigma := if p.smooth then (c.kList p.k).map fun k => fp32.decode (d.rd32 ((c.region p.smfReg).base + 4 * k)).toNat else []
    let y := rotateRow (d.srcRow c p sf m) sigma n p.smooth
    if af = 1 then
      let cs := y.map fun x => bf16.decode (bf16.rne x)
      { v := cs, z := cs.map fun _ => 0, s := cs.map fun _ => .one }
    else if af = 3 ∨ af = 4 then
      let cs := y.map fun x => (fpOf af).encode x 0 0
      { v := cs.map fun q => (fpOf af).decode q.1, z := cs.map fun _ => 0, s := cs.map fun _ => .one,
        clips := (cs.filter (·.2)).length }
    else
      let gq := if isMx af then 32 else g
      let groups := chunks gq y
      let cc := p.clipC escd
      if p.ascReg ≠ 0xF && !escd then
        (groups.zipIdx.map fun q => quantGroup af (d.sideAt (c.region p.ascReg).base m (cdiv p.k gq) ((c.kList p.k).headD 0 / gq + q.2)) q.1).foldl ActRow.append ⟨[], [], [], 0⟩
      else if p.qgran then
        (groups.map fun q => quantGroup af (deriveSide af q p.qsym cc) q).foldl ActRow.append ⟨[], [], [], 0⟩
      else
        let sd := deriveSide af y p.qsym cc
        -- one statistics set is the whole row; a special row makes every group of it special
        if special y then { v := y.map fun _ => .zero, z := y.map fun _ => 0, s := y.map fun _ => .nan }
        else (groups.map fun q => quantGroup af sd q).foldl ActRow.append ⟨[], [], [], 0⟩
  else
    let base := (c.region p.aReg).base
    let ts := (c.kList p.k).map fun k =>
      let code := if p.transA then d.elem p.afmt (base + k * p.lda) m else d.elem p.afmt (base + m * p.lda) k
      let sd := if p.ascReg = 0xF then default else d.sideAt (c.region p.ascReg).base m (cdiv p.k g) (k / g)
      term p.afmt code sd fun _ => .zero
    { v := ts.map (·.1), z := ts.map (·.2.1), s := ts.map (·.2.2) }

/-- A codebook of the codebook region, entries decoded (R104, R132). -/
def Dev.book (d : Dev) (base sel n : Nat) : List Ext := (List.range n).map fun i => e4m3.decode (d.rd8 (base + sel * 256 + i)).toNat

/-- Column n of the weights as R106 takes them (R105, R116). `gw` is the group size of the side data. -/
def Dev.wCol (d : Dev) (c : Cmd) (p : GxParams) (gw n : Nat) : List (Ext × Int × Ext) :=
  let base := (c.region p.wReg).base
  let kp := packK p.wfmt
  let ktn := cdiv p.k kp
  (c.kList p.k).map fun k =>
    let tile := n / 32 * ktn + k / kp
    let code :=
      if p.wPacked then
        let t := base + tile * packTile p.wfmt
        let b := fmtBits p.wfmt
        d.elem p.wfmt (t + n % 32 * (kp * b / 8)) (k % kp)
      else if p.transW then d.elem p.wfmt (base + n * p.ldw) k
      else d.elem p.wfmt (base + k * p.ldw) n
    let ent (g : Nat) : Side :=
      if p.wscReg = 0xF then default
      else Side.of (d.rd32 ((c.region p.wscReg).base + (tile * (32 * kp / gw) + n % 32 * (kp / gw) + g) * 4))
    let sd := ent (k % kp / gw)
    let sel := (ent 0).sel
    term p.wfmt code sd fun i => e4m3.decode (d.rd8 ((c.region p.cbReg).base + sel * 256 + i)).toNat

/-- One group of R106: the exact sum, rounded once, times the product of the scales. -/
def groupSum (gs : List ((Ext × Int × Ext) × (Ext × Int × Ext))) : Ext :=
  match gs with
  | [] => .zero
  | x :: _ =>
    let e := gs.foldl (fun acc q =>
      acc.add ((q.1.1.sub (.ofInt q.1.2.1)).mul (q.2.1.sub (.ofInt q.2.2.1)))) Ext.zero
    mul32 (rne32 e) (mul32 x.1.2.2 x.2.2.2)

/-- The groups of R106 over the reduction, in ascending k. -/
def dotGroups (g : Nat) (ps : List ((Ext × Int × Ext) × (Ext × Int × Ext))) (acc : Ext) : Ext :=
  if g = 0 then acc else
  (List.range (cdiv ps.length g)).foldl (fun a i => add32 a (groupSum ((ps.drop (i * g)).take g))) acc

/-- The accumulator value of element (m, n) of a matrix product (R106). -/
def gxElement (g : Nat) (row : ActRow) (col : List (Ext × Int × Ext)) (d0 : Ext) : Ext :=
  dotGroups g ((row.v.zip (row.z.zip row.s)).zip col) d0

/-- The starting accumulator value of column n in row m (R106, R112): of a part that goes on along K, the partial result of the part
before it (R225). -/
def Dev.gxInit (d : Dev) (c : Cmd) (p : GxParams) (m n : Nat) : Ext :=
  if !c.firstK then
    match c.node, c.part with
    | some x, some y =>
      let ws := ((d.graphs.look x.1).bind fun g => g.partials.look (partKey x.2.2 (y.idx - 1))).getD []
      let cols := c.colList p.n
      fp32.decode (ws.getD ((m - (c.rowList p.m).headD 0) * cols.length + (n - cols.headD 0)) 0).toNat
    | _, _ => .zero
  else if p.dReg = 0xF then .zero
  else (fpOf p.dfmt).decode (d.elem p.dfmt ((c.region p.dReg).base + m * p.ldd) n)

/-- The rate class, or the 16-bit class of an escalated BF16 rung, and the group size it uses (R152). -/
def GxParams.groupOf (p : GxParams) (af : Nat) (escd : Bool) : Nat :=
  match rateOf af p.wfmt with
  | some r => if escd && (decide (r = .r16)) then 4 else p.gOf r
  | none => p.gsize

/-! ### Output conversion (R109, R134–R137, R147) -/

/-- What a group of 32 output columns becomes: codes, the YSC word, clip marks. -/
structure OutGroup where
  codes : List Nat
  ysc   : Word := 0
  clips : Nat := 0

/-- Conversion of one output group: `m` the row, `n0` its first column. Log entry 37 (DESIGN CHOICE). -/
def convGroup (p : GxParams) (of_ : Nat) (escd : Bool) (book : List Ext) (m n0 : Nat) (vals : List Ext) : OutGroup :=
  let draw (i : Nat) : Nat := srDraw p.seed m (n0 + i)
  let count (l : List (Nat × Bool)) : Nat := (l.filter (·.2)).length
  let cc := p.clipC escd
  if isInt of_ then
    let q := qRange of_
    let sz := deriveAffine (extMin vals) (extMax vals) q.1 q.2 p.qsym cc
    if special vals || !(fp16.decode sz.1).isFin then { codes := vals.map fun _ => 0, ysc := 0x7E00 }
    else
      let cs := vals.zipIdx.map fun x => encAffine x.1 sz.1 sz.2 q.1 q.2 p.round (draw x.2)
      { codes := cs.map fun x => ofInt (fmtBits of_) x.1, clips := (cs.filter (·.2)).length,
        ysc := BitVec.ofNat 32 (ofInt 8 sz.2 * 65536 + sz.1) }
  else if isMx of_ then
    if special vals then { codes := vals.map fun _ => 0, ysc := 255 }
    else
      let x := deriveMx (extMin vals) (extMax vals) (fpOf of_) cc
      let cs := vals.zipIdx.map fun v => (fpOf of_).encode (v.1.div (e8m0 x)) p.round (draw v.2)
      { codes := cs.map (·.1), clips := count cs, ysc := BitVec.ofNat 32 x }
  else if of_ = 12 then
    let good := book.filter fun b => !b.isNan
    let lo := (extMin vals).min .zero |>.mul cc
    let hi := (extMax vals).max .zero |>.mul cc
    let span := (extMax good).sub (extMin good)
    let s := if good.isEmpty || span.isZero then 0 else ruFp16 ((hi.sub lo).div span)
    let z := if s = 0 then 0 else clampInt (-128) 127 (roundInt ((extMin good).sub (lo.div (fp16.decode s))) 0 0)
    if special vals then { codes := vals.map fun _ => 0, ysc := 0x7E00 }
    else
      let cs := vals.map fun v =>
        encCb (if s = 0 then .ofInt z else (v.div (fp16.decode s)).add (.ofInt z)) book
      { codes := cs.map (·.1), clips := count cs, ysc := BitVec.ofNat 32 (ofInt 8 z * 65536 + s) }
  else if isCb of_ then
    let cs := vals.map fun v => encCb v book
    { codes := cs.map (·.1), clips := count cs }
  else if of_ = 0 then { codes := vals.map fp32.rne }
  else
    let cs := vals.zipIdx.map fun v => (fpOf of_).encode v.1 p.round (draw v.2)
    { codes := cs.map (·.1), clips := count cs }

/-- Row bytes of a list of codes: 4-bit codes two to a byte, low nibble first. The high nibble that an odd count leaves over is 0. Log entry 124 (DESIGN CHOICE). -/
def packNibbles : List Nat → List Byte
  | [] => []
  | [a] => [BitVec.ofNat 8 (a % 16)]
  | a :: b :: t => BitVec.ofNat 8 (a % 16 + b % 16 * 16) :: packNibbles t

def packRow (f : Nat) (codes : List Nat) : List Byte :=
  if fmtBits f = 4 then packNibbles codes else codes.flatMap fun c => leBytes (fmtBits f / 8) c

/-- The source format in force: SFMT, or the OFMT_USED of the tag (R154). -/
def Dev.tagFmt (d : Dev) (c : Cmd) (p : GxParams) : Nat :=
  if p.qen && p.sfmt = 0xE then (d.rd32 (c.region p.tagReg).base).fld 7 4 else p.sfmt

/-- R154: a TAGGED source that makes the command refused at dispatch. -/
def Dev.tagBad (d : Dev) (c : Cmd) : Bool :=
  let p := c.gx
  if p.qen && p.sfmt = 0xE then
    let f := d.tagFmt c p
    isCb f || decide (12 < f) || !c.long p.aReg (matLen p.m p.lda (rowBytes f p.k)) ||
      ((isInt f || isMx f) && !c.long p.sscReg (p.m * cdiv p.k 32 * 4))
  else false

/-- The FP32 results of rows `ms` of a matrix product, each with its row, and the input clip marks (R106, R149). -/
def Dev.gxRows (d : Dev) (c : Cmd) (ms : List Nat) : List (Nat × List Ext) × Nat :=
  let p := c.gx
  let fm := c.runFmts
  let g := p.groupOf fm.1 fm.2.2.1
  let sf := d.tagFmt c p
  let cols := (c.colList p.n).map fun n => (n, d.wCol c p p.gsize n)
  let rows := ms.map fun m =>
    let r := d.actRow c p fm.1 fm.2.2.1 g sf m
    ((m, cols.map fun col => gxElement g r col.2 (d.gxInit c p m col.1)), r.clips)
  (rows.map (·.1), rows.foldl (fun a r => a + r.2) 0)

/-- A codebook that a column selects lies beyond the codebook region (R85, R104). -/
def Dev.bookBeyond (d : Dev) (c : Cmd) : Bool :=
  let p := c.gx
  let len := (c.region p.cbReg).len
  let kp := packK p.wfmt
  let wBad := isCb p.wfmt && (List.range (cdiv p.k kp)).any fun kt =>
    (c.colList p.n).any fun n =>
      let tile := n / 32 * cdiv p.k kp + kt
      let sel := (Side.of (d.rd32 ((c.region p.wscReg).base + (tile * (32 * kp / p.gsize) + n % 32 * (kp / p.gsize)) * 4))).sel
      decide (len < sel * 256 + (if p.wfmt = 10 then 256 else 16))
  wBad || (isCb p.ofmt && decide (len < p.cbSelOut * 256 + (if c.runFmts.2.1 = 10 then 256 else 16)))

/-- The bytes that more than one of `rows` rows of `rb` bytes cover, where the rows lie less than `rb` apart: which row's write
comes last is not stated, so they are free values. Log entry 127 (DESIGN CHOICE). -/
def Dev.mixRows (d : Dev) (a rows ld rb : Nat) : Dev :=
  if rb ≤ ld then d else
  forUpTo (rows - 1) (fun i d =>
    let f := d.freshBytes (rb - ld)
    f.2.wrN (a + (i + 1) * ld) f.1) d

/-- The engines of a command with the rank of each, and the number of ranks (R219): the two engines of a pair of a twinned group
have one rank (R245). -/
def Dev.ranksOf (d : Dev) (q : Nat) (es : List Nat) : Nat × List (Nat × Nat) :=
  let per := if d.twinnedQ q then 2 else 1
  (es.length / per, es.zipIdx.map fun e => (e.1, e.2 / per))

/-- The rank that computes column tile `t` of `nt`, or output row `t` of `nt`, of `e` ranks (R207, R219). -/
def tileRank (nt e t : Nat) : Nat := ((List.range e).find? fun i => decide (i * nt / e ≤ t) && decide (t < (i + 1) * nt / e)).getD 0

/-- The clip marks of a run in the counters of its engines (R156): each quantises the activations for its own column tiles, and
its output marks are those of its tiles. Log entry 128 (DEDUCED). -/
def Dev.countClips (d : Dev) (q : Nat) (es : List Nat) (cin : Nat) (tiles : List Nat) : Dev :=
  let r := d.ranksOf q es
  let mine (i : Nat) : List Nat := (tiles.zipIdx.filter fun t => decide (tileRank tiles.length r.1 t.2 = i)).map (·.1)
  forEach r.2 (fun e d =>
    let ts := mine e.2
    (d.count 0x03 (16 * e.1 + 5) (if ts = [] then 0 else cin)).count 0x03 (16 * e.1 + 6) (ts.foldl (· + ·) 0)) d

/-- Sums of two lists, element by element; the longer one's rest stays. -/
def addLists : List Nat → List Nat → List Nat
  | a :: s, b :: t => (a + b) :: addLists s t
  | [], t => t
  | s, [] => s

/-- Results of row m from column n0 on converted and written, with their YSC entries, and the clip marks of each column tile. Where the
output side has escalated, the bytes of the row beyond the rung's width are undefined (R152). Log entry 45 (DESIGN CHOICE). -/
def Dev.gxWriteRow (d : Dev) (c : Cmd) (p : GxParams) (of_ : Nat) (escd : Bool) (book : List Ext) (m n0 : Nat) (vals : List Ext) :
    Dev × List Nat :=
  let gs := (chunks 32 vals).zipIdx.map fun q => convGroup p of_ escd book m (n0 + q.2 * 32) q.1
  let bytes := packRow of_ (gs.flatMap (·.codes))
  let off := m * p.ldy + n0 * fmtBits of_ / 8
  let d := d.wrN ((c.region p.yReg).base + off) bytes
  let rest := min p.ldy ((c.region p.yReg).len - m * p.ldy) - (n0 * fmtBits of_ / 8 + bytes.length)
  let d := if escd && decide (p.n ≤ n0 + vals.length) && decide (0 < rest) then
      let f := d.freshBytes rest
      f.2.wrN ((c.region p.yReg).base + off + bytes.length) f.1
    else d
  let d := if p.yscReg = 0xF then d
    else d.wrWords ((c.region p.yscReg).base + (m * cdiv p.n 32 + n0 / 32) * 4) (gs.map fun g => if needsYsc of_ then g.ysc else 0)
  (d, gs.map (·.clips))

/-- A run of a class 0x01 command: every output row written under its locks, the clip counts kept in the command for step 3 (R149).
A part that another goes on with along K keeps its FP32 results in place of writing rows (R225). -/
def Dev.gxRun (d : Dev) (q : Nat) (c : Cmd) : Dev :=
  let p := c.gx
  let fm := c.runFmts
  let res := d.gxRows c (c.rowList p.m)
  if !c.lastK p.k then
    let d := d.countClips q c.engines res.2 (((c.colList p.n).map (· / 32)).eraseDups.map fun _ => 0)
    d.updCmd q c.seq fun c =>
      { c with cIn := res.2, cOut := 0, partials := res.1.flatMap fun r => r.2.map fun x => BitVec.ofNat 32 (fp32.rne x) }
  else
  let n0 := (c.colList p.n).headD 0
  let book := if isCb p.ofmt then d.book (c.region p.cbReg).base p.cbSelOut (if fm.2.1 = 10 then 256 else 16) else []
  let out := res.1.foldl (fun (acc : Dev × List Nat) r =>
    let x := acc.1.gxWriteRow c p fm.2.1 fm.2.2.2 book r.1 n0 r.2
    (x.1, addLists acc.2 x.2)) (d, [])
  let d := out.1.mixRows ((c.region p.yReg).base + (c.rowList p.m).headD 0 * p.ldy) (c.rowList p.m).length p.ldy (rowBytes fm.2.1 p.n)
  let d := d.countClips q c.engines res.2 out.2
  d.updCmd q c.seq fun c => { c with cIn := res.2, cOut := out.2.foldl (· + ·) 0 }

/-! ### Functions of the Sebry image (R175) -/

/-- An image function applied to a value rounded to FP32. Log entry 38 (DESIGN CHOICE). -/
def image (f : Word → Word) (x : Ext) : Ext := fp32.decode (f (BitVec.ofNat 32 (fp32.rne x))).toNat

/-- The FP32 exponential (R195): the image's, with exp32(−∞) = +0 and NaN for NaN.
Log entry 38 (DESIGN CHOICE). -/
def exp32 (x : Ext) : Ext :=
  match x with
  | .nan => .nan
  | .inf true => .zero
  | x => image Config.exp32 x

/-- The sum of values in the image's order. Log entry 48 (DESIGN CHOICE). -/
def imageSum (l : List Ext) : Ext := fp32.decode (Config.sum32 (l.map fun x => BitVec.ofNat 32 (fp32.rne x))).toNat

/-! ### The fit monitor (R149–R153) -/

/-- The fit threshold t (R138). -/
def GxParams.thr (p : GxParams) : Nat := if p.fitThr = 0 then 64 else p.fitThr

/-- Which sides fail (R150); a part of a cut node is judged on its own counts (R508). -/
def Cmd.fitFails (c : Cmd) : Bool × Bool :=
  let p := c.gx
  let m := (c.rowList p.m).length
  let nIn := if p.qen then m * (c.kList p.k).length else 0
  if p.fitEn then (decide (c.cIn * 65536 > p.thr * nIn), decide (c.cOut * 65536 > p.thr * (m * (c.colList p.n).length)))
  else (false, false)

/-- The next rung of a ladder above the format in force, if any. -/
def nextRung (l : List Nat) (cur first : Nat) : Option Nat :=
  if cur = first then l.head? else ((l.zip (l.drop 1)).find? fun q => q.1 = cur).map (·.2)

/-- The rungs of the re-run when the fit monitor refuses the commit, or none if step 3 passes (R150). -/
def Cmd.fitRefusal (c : Cmd) : Option (Nat × Nat) :=
  let p := c.gx
  let fm := c.runFmts
  let f := c.fitFails
  let inNext := if p.aesc then nextRung (ladderIn p.afmt) fm.1 p.afmt else none
  let outNext := if p.oesc then nextRung (ladder p.ofmt) fm.2.1 p.ofmt else none
  if (f.1 && inNext.isSome) || (f.2 && outNext.isSome) then
    if c.esc = 0 then
      some (if f.1 then inNext.getD fm.1 else fm.1, if f.2 then outNext.getD fm.2.1 else fm.2.1)
    else
      some (if p.aesc then ((ladderIn p.afmt).getLast?).getD fm.1 else fm.1,
            if p.oesc then ((ladder p.ofmt).getLast?).getD fm.2.1 else fm.2.1)
  else none

/-- The fit status word (R153). -/
def Cmd.fitWord (c : Cmd) : List Byte :=
  let fm := c.runFmts
  let f := c.fitFails
  let w0 := b2n f.2 * 2 ^ 11 + b2n f.1 * 2 ^ 10 + c.esc % 4 * 2 ^ 8 + fm.2.1 % 16 * 16 + fm.1 % 16
  leBytes 8 w0 ++ leBytes 8 c.cIn ++ leBytes 8 c.cOut ++ leBytes 8 0

end Sys2Proof.Machine
end

