-- ==== Sys2Proof/Machine/Conv.lean ====
section
/-! DEFINITION. Convolution chains (R199–R209), UNFOLD (R211) and the feature-map layout. -/

namespace Sys2Proof.Machine

/-- The row stride of a feature map (R199). -/
def mapLdr (w c f : Nat) : Nat := 64 * cdiv (w * c * fmtBits f) 512

/-- An output dimension of R204; 0 where it would be below 1. -/
def outDim (inp pad dil k stride : Nat) : Nat :=
  if inp + pad < dil * (k - 1) + 1 then 0 else (inp + pad - dil * (k - 1) - 1) / stride + 1

/-- A layer of a chain (R203), with the dimensions of its input and output maps (R204). -/
structure ConvLayer where
  relu : Bool
  bias : Bool
  round : Nat
  gsel : Nat
  ofmt : Nat
  wfmt : Nat
  afmt : Nat
  dx : Nat
  dy : Nat
  sx : Nat
  sy : Nat
  kw : Nat
  kh : Nat
  cout : Nat
  pr : Nat
  pl : Nat
  pb : Nat
  pt : Nat
  woff : Nat
  wscoff : Nat
  boff : Nat
  oz : Int
  os : Nat
  moff : Nat
  foff : Nat
  h : Nat
  w : Nat
  c : Nat
  ho : Nat
  wo : Nat
  deriving DecidableEq, Repr, Inhabited

/-- Layer l of a command, given the dimensions of its input map. -/
def Cmd.convLayer (c : Cmd) (l h w ch : Nat) : ConvLayer :=
  let x (i : Nat) : Word := c.p (16 + 16 * l + i)
  let dx := (x 1).fld 21 20 + 1
  let dy := (x 1).fld 19 18 + 1
  let sx := (x 1).fld 17 16 + 1
  let sy := (x 1).fld 15 14 + 1
  let kw := (x 1).fld 11 6
  let kh := (x 1).fld 5 0
  let pr := (x 2).fld 15 12
  let pl := (x 2).fld 11 8
  let pb := (x 2).fld 7 4
  let pt := (x 2).fld 3 0
  { relu := (x 0).bit 17, bias := (x 0).bit 16, round := (x 0).fld 15 14, gsel := (x 0).fld 13 12,
    ofmt := (x 0).fld 11 8, wfmt := (x 0).fld 7 4, afmt := (x 0).fld 3 0, dx, dy, sx, sy, kw, kh,
    cout := (x 2).fld 27 16, pr, pl, pb, pt, woff := (x 3).toNat, wscoff := (x 4).toNat,
    boff := (x 5).toNat, oz := sext 8 ((x 6).fld 23 16), os := (x 6).fld 15 0, moff := (x 7).toNat,
    foff := (x 8).toNat, h, w, c := ch, ho := outDim h (pt + pb) dy kh sy, wo := outDim w (pl + pr) dx kw sx }

/-- The layers from layer `l` on, each reading the output of the one before (R204). -/
def Cmd.convFrom (c : Cmd) : Nat → Nat → Nat → Nat → Nat → List ConvLayer
  | 0, _, _, _, _ => []
  | n + 1, l, h, w, ch =>
    let x := c.convLayer l h w ch
    x :: c.convFrom n (l + 1) x.ho x.wo x.cout

def Cmd.convNl (c : Cmd) : Nat := (c.p 0).fld 2 0 + 1

/-- The layers of a CONV_CHAIN. -/
def Cmd.convLayers (c : Cmd) : List ConvLayer :=
  c.convFrom c.convNl 0 ((c.p 1).fld 15 0) ((c.p 1).fld 31 16) ((c.p 2).fld 11 0)

/-- The layers of a CONV_CHAIN that a command runs, with their numbers (R225). -/
def Cmd.myLayers (c : Cmd) : List (Nat × ConvLayer) :=
  let ls := c.convLayers
  (within (c.part.bind (·.layers)) ls.length).filterMap fun l => (ls[l]?).map fun x => (l, x)

/-- Reduction length of a layer. -/
def ConvLayer.k (x : ConvLayer) : Nat := x.kh * x.kw * x.c

/-- G of a layer (R100). -/
def ConvLayer.g (x : ConvLayer) : Nat :=
  match rateOf x.afmt x.wfmt with
  | some .r16 => 4
  | some .r32 => 1
  | _ => 32 * 2 ^ x.gsel

/-- The group size of the weight side data's layout: G of GSEL (R116). -/
def ConvLayer.gw (x : ConvLayer) : Nat := 32 * 2 ^ x.gsel

def ConvLayer.outLdr (x : ConvLayer) : Nat := mapLdr x.wo x.cout x.ofmt
def ConvLayer.outBytes (x : ConvLayer) : Nat := x.ho * x.outLdr

/-- The weights of a layer need side data: scales, zero points or codebook selections (R116). -/
def ConvLayer.needsWsc (x : ConvLayer) : Bool := isInt x.wfmt || isCb x.wfmt

/-- The checks of R206 on a CONV_CHAIN; `twinned` tells the context's group. Log entry 37 (DESIGN CHOICE). -/
def Cmd.convValid (c : Cmd) (d : Dev) (twinned : Bool) : Bool :=
  let w := c.p
  let ls := c.convLayers
  let nin := c.nin
  let tot := c.ins.length + c.outs.length
  let isIn (r : Nat) : Bool := decide (r < nin)
  let isOut (r : Nat) : Bool := decide (nin ≤ r) && decide (r < tot)
  let outReg := (w 0).fld 31 28
  let flgReg := (w 0).fld 27 24
  let scrReg := (w 0).fld 23 20
  let cbReg := (w 0).fld 19 16
  let sdReg := (w 0).fld 15 12
  let wtReg := (w 0).fld 11 8
  let inReg := (w 0).fld 7 4
  let nl := c.convNl
  let fit := (w 9).fld 7 4
  let anyCb := ls.any fun x => isCb x.wfmt
  let rsv : Bool := !(w 0).bit 3 && decide ((w 2).fld 31 12 = 0) && decide ((w 4).fld 31 24 = 0) &&
    ([5, 6, 7, 11, 12, 13, 14, 15].all fun i => decide (w i = 0)) &&
    decide (w 8 &&& ~~~ (0x1000#32) = 0) && decide (w 9 &&& ~~~ (0xF0#32) = 0) && decide ((w 10).fld 31 16 = 0)
  let copies := if twinned then 2 else 1
  let layerOk (x : ConvLayer) (l : Nat) : Bool :=
    let y (i : Nat) : Word := w (16 + 16 * l + i)
    let last := decide (l + 1 = nl)
    let kp := packK x.wfmt
    let tiles := cdiv x.k kp * cdiv x.cout 32
    decide ((y 0).fld 31 18 = 0) && decide ((y 1).fld 31 22 = 0) && decide ((y 1).fld 13 12 = 0) &&
    decide ((y 2).fld 31 28 = 0) && decide ((y 6).fld 31 24 = 0) &&
    ((List.range 7).all fun i => decide (y (9 + i) = 0)) &&
    decide (x.round ≤ 2) && decide (x.gsel ≤ 2) && (rateOf x.afmt x.wfmt).isSome &&
    !isMx x.afmt && !isMx x.wfmt && decide (x.ofmt ≤ 9) && !isMx x.ofmt &&
    (match rateOf x.afmt x.wfmt with
     | some .r8 | some .r4 => decide (x.c % x.g = 0)
     | _ => true) &&
    decide (1 ≤ x.kh) && decide (x.kh ≤ 28) && decide (1 ≤ x.kw) && decide (x.kw ≤ 28) &&
    decide (8 ≤ x.cout) && decide (x.cout ≤ 4088) && decide (x.cout % 8 = 0) &&
    decide (1 ≤ x.ho) && decide (1 ≤ x.wo) &&
    decide (x.woff % 64 = 0) && decide (x.wscoff % 64 = 0) &&
    c.long wtReg (x.woff + tiles * packTile x.wfmt) &&
    (!x.needsWsc || c.long sdReg (x.wscoff + tiles * (32 * kp / x.gw) * 4)) &&
    (!x.bias || (decide (x.boff % 64 = 0) && c.long sdReg (x.boff + 4 * x.cout))) &&
    (last || (decide (x.moff % 64 = 0) && c.long scrReg (copies * (x.moff + x.outBytes)) &&
      c.long flgReg (copies * (4 * (x.foff + x.ho)))))
  let fmtChain : Bool := (ls.zip (ls.drop 1)).all fun p => decide (p.2.afmt = p.1.ofmt)
  decide (c.params.length = 64 + 64 * nl) && rsv && fmtChain &&
  decide (1 ≤ (w 1).fld 15 0) && decide (1 ≤ (w 1).fld 31 16) &&
  decide (8 ≤ (w 2).fld 11 0) && decide ((w 2).fld 11 0 ≤ 4088) && decide ((w 2).fld 11 0 % 8 = 0) &&
  isIn inReg && isIn wtReg && isIn sdReg && isOut outReg &&
  (if nl = 1 then decide (flgReg = 0xF) && decide (scrReg = 0xF)
   else isOut flgReg && isOut scrReg && d.mapped (c.region flgReg).base (c.region flgReg).len) &&
  (if anyCb then isIn cbReg else decide (cbReg = 0xF)) &&
  (decide (fit = 0xF) || (isOut fit && c.long fit 32)) &&
  ((ls.zipIdx).all fun p => layerOk p.1 p.2) &&
  (match ls.head?, ls.getLast? with
   | some x, some y => c.long inReg (x.h * mapLdr x.w x.c x.afmt) && c.long outReg y.outBytes
   | _, _ => false)

/-- The taps of a kernel in pass order (R204). Log entry 37 (DESIGN CHOICE). -/
def convTaps (kh kw : Nat) : List (Nat × Nat) :=
  (List.range (cdiv kh 7)).flatMap fun pa => (List.range (cdiv kw 7)).flatMap fun pb =>
    (List.range (min 7 (kh - 7 * pa))).flatMap fun i => (List.range (min 7 (kw - 7 * pb))).map fun j => (7 * pa + i, 7 * pb + j)

/-- Column n of packed weights (R105, R116): `wb` the weights, `wsc` the side data, `cb` the codebooks. -/
def Dev.wColAt (d : Dev) (f wb k gw : Nat) (wsc : Option Nat) (cb n : Nat) : List (Ext × Int × Ext) :=
  let kp := packK f
  let ktn := cdiv k kp
  (List.range k).map fun i =>
    let tile := n / 32 * ktn + i / kp
    let t := wb + tile * packTile f
    let code := d.elem f (t + n % 32 * (kp * fmtBits f / 8)) (i % kp)
    let ent (g : Nat) : Side :=
      match wsc with
      | some b => Side.of (d.rd32 (b + (tile * (32 * kp / gw) + n % 32 * (kp / gw) + g) * 4))
      | none => default
    term f code (ent (i % kp / gw)) fun j => e4m3.decode (d.rd8 (cb + (ent 0).sel * 256 + j)).toNat

/-- The activation row of output pixel (oy, ox) (R204). `inp` is the input map's base, `side` its scale
and zero point; a padded tap contributes exactly 0. -/
def Dev.convActs (d : Dev) (x : ConvLayer) (inp : Nat) (side : Side) (oy ox : Nat) : ActRow :=
  let ts := (convTaps x.kh x.kw).flatMap fun t =>
    let iy : Int := (oy * x.sy + t.1 * x.dy : Nat) - (x.pt : Int)
    let ix : Int := (ox * x.sx + t.2 * x.dx : Nat) - (x.pl : Int)
    let inside := decide (0 ≤ iy) && decide (iy < x.h) && decide (0 ≤ ix) && decide (ix < x.w)
    (List.range x.c).map fun ch =>
      if inside then
        term x.afmt (d.elem x.afmt (inp + iy.toNat * mapLdr x.w x.c x.afmt) (ix.toNat * x.c + ch)) side fun _ => .zero
      else if isInt x.afmt then (.ofInt side.z, side.z, fp16.decode side.s)
      else (.zero, 0, .one)
  { v := ts.map (·.1), z := ts.map (·.2.1), s := ts.map (·.2.2) }

/-- Conversion of up to 32 channels of one output pixel: codes and clip marks (R134, R136). -/
def ConvLayer.convert (x : ConvLayer) (seed : Word) (m n0 : Nat) (vals : List Ext) : List Nat × Nat :=
  let vals := if x.relu then vals.map fun v => if v.lt .zero || v.isZero then Ext.zero else v else vals
  let cnt (l : List (Nat × Bool)) : List Nat × Nat := (l.map (·.1), (l.filter (·.2)).length)
  if isInt x.ofmt then
    let q := qRange x.ofmt
    if special vals || !(fp16.decode x.os).isFin then (vals.map fun _ => 0, 0)
    else cnt (vals.zipIdx.map fun v =>
      let r := encAffine v.1 x.os x.oz q.1 q.2 x.round (srDraw seed m (n0 + v.2))
      (ofInt (fmtBits x.ofmt) r.1, r.2))
  else if x.ofmt = 0 then (vals.map fp32.rne, 0)
  else cnt (vals.zipIdx.map fun v => (fpOf x.ofmt).encode v.1 x.round (srDraw seed m (n0 + v.2)))

/-- Output row oy of a layer written at `out`; the bytes up to LDR hold undefined values (R199).
Log entry 45 (DESIGN CHOICE). -/
def Dev.convRow (d : Dev) (c : Cmd) (x : ConvLayer) (inp : Nat) (side : Side) (out : List Nat)
    (cols : List (List (Ext × Int × Ext))) (bias : List Ext) (oy : Nat) : Dev × Nat :=
  let px := (List.range x.wo).map fun ox =>
    let a := d.convActs x inp side oy ox
    let vals := cols.zipIdx.map fun col => gxElement x.g a col.1 (bias.getD col.2 .zero)
    let gs := (chunks 32 vals).zipIdx.map fun q => x.convert (c.p 3) (oy * x.wo + ox) (q.2 * 32) q.1
    (gs.flatMap (·.1), gs.foldl (fun n g => n + g.2) 0)
  let bytes := packRow x.ofmt (px.flatMap (·.1))
  let f := d.freshBytes (x.outLdr - bytes.length)
  (forEach out (fun o d => d.wrN (o + oy * x.outLdr) (bytes ++ f.1)) f.2, px.foldl (fun n p => n + p.2) 0)

/-- The copies of a chain's scratch region: one, or two halves in a twinned context (R209). -/
def halves (r : Region) (twinned : Bool) : List Nat :=
  if twinned then [r.base, r.base + r.len / 2] else [r.base]

/-- Step 1 of R208: at dispatch every flag word of the command is written 0. -/
def Dev.clearFlags (d : Dev) (c : Cmd) (twinned : Bool) : Dev :=
  let flg := c.region ((c.p 0).fld 27 24)
  forEach (c.myLayers.filter fun x => decide (x.1 + 1 < c.convNl)) (fun x d =>
    forEach (halves flg twinned) (fun b d =>
      forEach (c.rowList x.2.ho) (fun r d => d.wr32 (b + 4 * (x.2.foff + r)) 0) d) d) d

/-- The part of a chain's scratch or flag region that a copy uses: all of it, or, in a twinned context, the first half for the
leading copy and the second for the trailing one (R209). -/
def copyBase (r : Region) (twinned : Bool) (copy : Nat) : Nat := (halves r twinned).getD copy r.base

/-- One layer run by one copy: its rows in ascending order, and the ready flag of each row after it (R208 step 2). -/
def Dev.convLayerRun (d : Dev) (c : Cmd) (twinned : Bool) (copy : Nat) (last : Bool) (x : ConvLayer) (inp : Nat) (side : Side) : Dev × Nat :=
  let wt := (c.region ((c.p 0).fld 11 8)).base
  let sd := (c.region ((c.p 0).fld 15 12)).base
  let cb := (c.region ((c.p 0).fld 19 16)).base
  let scr := c.region ((c.p 0).fld 23 20)
  let flg := c.region ((c.p 0).fld 27 24)
  let out := if last then [(c.region ((c.p 0).fld 31 28)).base] else [copyBase scr twinned copy + x.moff]
  let cols := (List.range x.cout).map fun n =>
    d.wColAt x.wfmt (wt + x.woff) x.k x.gw (if x.needsWsc then some (sd + x.wscoff) else none) cb n
  let bias := if x.bias then (List.range x.cout).map fun n => fp32.decode (d.rd32 (sd + x.boff + 4 * n)).toNat else []
  (c.rowList x.ho).foldl (fun (acc : Dev × Nat) oy =>
    let r := acc.1.convRow c x inp side out cols bias oy
    let d := if last then r.1 else r.1.wr32 (copyBase flg twinned copy + 4 * (x.foff + oy)) 1
    (d, acc.2 + r.2)) (d, 0)

/-- The layers in ascending order, each reading the copy's own map of the one before. -/
def Dev.convChainRun (c : Cmd) (twinned : Bool) (copy : Nat) (inp : Nat) (side : Side) (d : Dev) (clips : Nat) :
    List (Nat × ConvLayer) → Dev × Nat
  | [] => (d, clips)
  | x :: rest =>
    let r := d.convLayerRun c twinned copy (decide (c.convNl ≤ x.1 + 1)) x.2 inp side
    Dev.convChainRun c twinned copy (copyBase (c.region ((c.p 0).fld 23 20)) twinned copy + x.2.moff) ⟨x.2.os, x.2.oz, 0, 0⟩ r.1
      (clips + r.2) rest

/-- Where the first layer of a command reads its map, for a copy, and the side data of that map. -/
def Cmd.convInput (c : Cmd) (twinned : Bool) (copy : Nat) : Nat × Side :=
  match (c.myLayers.head?).bind fun x => if x.1 = 0 then none else c.convLayers[x.1 - 1]? with
  | some y => (copyBase (c.region ((c.p 0).fld 23 20)) twinned copy + y.moff, ⟨y.os, y.oz, 0, 0⟩)
  | none => ((c.region ((c.p 0).fld 7 4)).base, ⟨(c.p 4).fld 15 0, sext 8 ((c.p 4).fld 23 16), 0, 0⟩)

/-- A run of a CONV_CHAIN (R204–R209): every map and flag written under its locks, C_OUT kept. Each copy of a twinned command reads
its own intermediate maps alone. -/
def Dev.convRun (d : Dev) (q : Nat) (c : Cmd) : Dev :=
  let twinned := d.twinnedQ q
  let run (copy : Nat) (d : Dev) : Dev × Nat :=
    let x := c.convInput twinned copy
    Dev.convChainRun c twinned copy x.1 x.2 d 0 c.myLayers
  let r := if twinned then run 0 (run 1 d).1 else run 0 d
  r.1.updCmd q c.seq fun c => { c with cOut := r.2, haloWait := [] }

/-- N_OUT of a chain (R206). -/
def Cmd.convNout (c : Cmd) : Nat := c.myLayers.foldl (fun n x => n + (c.rowList x.2.ho).length * x.2.wo * x.2.cout) 0

/-- The ready flag of row r of layer l (R208): in a twinned context, 0 while either copy's flag is. -/
def Dev.haloFlag (d : Dev) (c : Cmd) (twinned : Bool) (l r : Nat) : Word :=
  match c.convLayers[l]? with
  | some x =>
    let fs := (halves (c.region ((c.p 0).fld 27 24)) twinned).map fun b => d.rd32 (b + 4 * (x.foff + r))
    if fs.any (· = 0) then 0 else fs.headD 0
  | none => 0

/-- A rank of a chain waits on a row that another rank's stripe produces (R207, R208). -/
def Cmd.haloRow (c : Cmd) (ranks rank l r : Nat) : Bool :=
  match c.convLayers[l]? with
  | some x => decide (l + 1 < c.convNl) && decide (rank < ranks) && decide (r < x.ho) && decide (tileRank x.ho ranks r ≠ rank)
  | none => false

/-! ### UNFOLD (R211) -/

structure UnfoldP where
  bits : Nat
  yReg : Nat
  xReg : Nat
  w : Nat
  h : Nat
  c : Nat
  dx : Nat
  dy : Nat
  sx : Nat
  sy : Nat
  kw : Nat
  kh : Nat
  pr : Nat
  pl : Nat
  pb : Nat
  pt : Nat
  pad : Nat
  ldy : Nat
  ho : Nat
  wo : Nat
  deriving DecidableEq, Repr, Inhabited

def Cmd.unfold (c : Cmd) : UnfoldP :=
  let x := c.p
  let w := (x 1).fld 31 16
  let h := (x 1).fld 15 0
  let dx := (x 3).fld 31 28 + 1
  let dy := (x 3).fld 27 24 + 1
  let sx := (x 3).fld 23 20 + 1
  let sy := (x 3).fld 19 16 + 1
  let kw := (x 3).fld 13 8
  let kh := (x 3).fld 5 0
  let pr := (x 4).fld 29 24
  let pl := (x 4).fld 21 16
  let pb := (x 4).fld 13 8
  let pt := (x 4).fld 5 0
  { bits := 4 * 2 ^ (x 0).fld 9 8, yReg := (x 0).fld 7 4, xReg := (x 0).fld 3 0, w, h,
    c := (x 2).fld 11 0, dx, dy, sx, sy, kw, kh, pr, pl, pb, pt, pad := (x 5).toNat,
    ldy := (x 6).toNat, ho := outDim h (pt + pb) dy kh sy, wo := outDim w (pl + pr) dx kw sx }

/-- Row stride of a map of `b`-bit elements (R199). -/
def ldrBits (w c b : Nat) : Nat := 64 * cdiv (w * c * b) 512

def Cmd.unfoldValid (c : Cmd) : Bool :=
  let x := c.p
  let u := c.unfold
  let k := u.kh * u.kw * u.c
  decide (c.params.length = 64) &&
  decide (x 0 &&& ~~~ (0x3FF#32) = 0) && decide ((x 2).fld 31 12 = 0) &&
  decide (x 3 &&& ~~~ (0xFFFF3F3F#32) = 0) && decide (x 4 &&& ~~~ (0x3F3F3F3F#32) = 0) &&
  ((List.range 9).all fun i => decide (x (7 + i) = 0)) &&
  decide (1 ≤ u.w) && decide (1 ≤ u.h) && decide (1 ≤ u.c) && decide (1 ≤ u.kw) && decide (1 ≤ u.kh) &&
  decide (1 ≤ u.ho) && decide (1 ≤ u.wo) && (decide (u.bits ≠ 4) || decide (k % 2 = 0)) &&
  decide (u.xReg < c.nin) && decide (c.nin ≤ u.yReg) && decide (u.yReg < c.ins.length + c.outs.length) &&
  c.long u.xReg (u.h * ldrBits u.w u.c u.bits) && c.long u.yReg (matLen (u.ho * u.wo) u.ldy (cdiv (k * u.bits) 8))

/-- An element of a map of `b`-bit elements, whole code. -/
def Dev.rawElem (d : Dev) (b a i : Nat) : Nat :=
  if b = 4 then (d.rd8 (a + i / 2)).toNat / (if i % 2 = 0 then 1 else 16) % 16 else d.rdLe (a + i * (b / 8)) (b / 8)

/-- The window rows of the map, copied exactly (R211). -/
def Dev.unfoldRun (d : Dev) (c : Cmd) : Dev :=
  let u := c.unfold
  let inp := (c.region u.xReg).base
  let out := (c.region u.yReg).base
  let rs := c.rowList (u.ho * u.wo)
  let d := forEach rs (fun r d =>
    let codes := (List.range u.kh).flatMap fun ky => (List.range u.kw).flatMap fun kx =>
      let iy : Int := (r / u.wo * u.sy + ky * u.dy : Nat) - (u.pt : Int)
      let ix : Int := (r % u.wo * u.sx + kx * u.dx : Nat) - (u.pl : Int)
      let inside := decide (0 ≤ iy) && decide (iy < u.h) && decide (0 ≤ ix) && decide (ix < u.w)
      (List.range u.c).map fun ch =>
        if inside then d.rawElem u.bits (inp + iy.toNat * ldrBits u.w u.c u.bits) (ix.toNat * u.c + ch)
        else u.pad % 2 ^ u.bits
    d.wrN (out + r * u.ldy) (if u.bits = 4 then packNibbles codes else codes.flatMap fun x => leBytes (u.bits / 8) x)) d
  d.mixRows (out + rs.headD 0 * u.ldy) rs.length u.ldy (cdiv (u.kh * u.kw * u.c * u.bits) 8)

end Sys2Proof.Machine
end

