-- ==== Sys2Proof/Machine/Kern.lean ====
section
/-! DEFINITION. The vector-core kernels of class 0x04 (R172–R175, R212, R213), the sort unit's TOPK and
NMS (R214–R216) and the COPY of class 0x05 (R315). -/

namespace Sys2Proof.Machine

/-! ### Class 0x04: validation (R172, R173, R212) -/

/-- The pooling and depthwise word (R212). -/
structure PoolP where
  bias : Bool
  kind : Nat
  pad : Nat
  sx : Nat
  sy : Nat
  kw : Nat
  kh : Nat
  c : Nat
  h : Nat
  w : Nat
  ho : Nat
  wo : Nat
  dil : Nat
  deriving DecidableEq, Repr, Inhabited

def Cmd.pool (c : Cmd) : PoolP :=
  let p := c.kernelP
  let x := c.p 7
  let ch := x.fld 11 0
  let kind := x.fld 25 24
  let glob := decide (c.op = 0x0408) && decide (kind = 3)
  let dil := if c.op = 0x0407 then kind + 1 else 1
  let sx := x.fld 21 20 + 1
  let sy := x.fld 19 18 + 1
  let kw := x.fld 17 15 + 1
  let kh := x.fld 14 12 + 1
  let pad := x.fld 23 22
  let w := if ch = 0 then 0 else p.n / ch
  { bias := x.bit 26, kind, pad, sx, sy, kw, kh, c := ch, h := p.m, w,
    ho := if glob then 1 else outDim p.m (2 * pad) dil kh sy,
    wo := if glob then 1 else outDim w (2 * pad) dil kw sx, dil }

/-- Rows and columns of a kernel's output. -/
def Cmd.kernelOut (c : Cmd) : Nat × Nat :=
  let p := c.kernelP
  if c.op = 0x0407 ∨ c.op = 0x0408 then (c.pool.ho, c.pool.wo * c.pool.c) else (p.m, p.n)

/-- The rotation size of ROTATE. -/
def Cmd.rotateN (c : Cmd) : Nat := 32 * 2 ^ (c.p 7).fld 1 0

/-- Log entry 39 (DESIGN CHOICE). -/
def Cmd.kernelValid (c : Cmd) : Bool :=
  let p := c.kernelP
  let w := c.p
  let nin := c.nin
  let tot := c.ins.length + c.outs.length
  let isIn (r : Nat) : Bool := decide (r < nin)
  let isOut (r : Nat) : Bool := decide (nin ≤ r) && decide (r < tot)
  let adam := decide (c.op = 0x0409)
  let rungs := if p.oesc then p.ofmt :: ladder p.ofmt else [p.ofmt]
  let out := c.kernelOut
  let pNone := decide (p.dReg = 0xF)
  let qNone := decide (p.wReg = 0xF)
  let pIs (n : Nat) : Bool := isIn p.dReg && c.long p.dReg n
  let pl := c.pool
  let rsv : Bool := decide ((w 0).fld 31 24 = 0) && decide ((w 0).fld 15 12 = 0) && decide ((w 0).fld 9 0 = 0) &&
    decide ((w 1).fld 31 20 = 0) && decide ((w 2).fld 31 20 = 0) && decide ((w 3).fld 31 30 = 0) &&
    decide (w 8 &&& ~~~ (0x1900#32) = 0) && decide (w 9 &&& ~~~ (0xF0#32) = 0) && decide (w 11 = 0) &&
    (if adam then (List.range 14).all fun i => decide (w (18 + i) = 0)
     else [12, 13, 14, 15].all fun i => decide (w i = 0))
  let opOk : Bool :=
    match c.op with
    | 0x0401 | 0x0406 => pNone && qNone && (decide (c.op = 0x0401) || decide (w 7 = 0))
    | 0x0402 => pIs (4 * p.n) && qNone
    | 0x0403 => pIs (8 * p.n) && qNone
    | 0x0404 => pNone && decide ((w 7).toNat ≤ 2) && (qNone || (isIn p.wReg && c.long p.wReg (matLen p.m p.lda (rowBytes p.afmt p.n))))
    | 0x0405 => (pNone || pIs (4 * p.n)) && qNone && decide ((w 7).fld 31 2 = 0) && decide ((w 7).fld 1 0 ≠ 0) &&
        decide (p.n % c.rotateN = 0)
    | 0x0407 => pIs (4 * (pl.kh * pl.kw * pl.c + if pl.bias then pl.c else 0)) && qNone && decide ((w 7).fld 31 27 = 0)
    | 0x0408 => pNone && qNone && decide ((w 7).fld 31 26 = 0) && (decide (pl.kind ≠ 3) || decide ((w 7).fld 23 12 = 0))
    | 0x0409 => pIs (12 * p.m * p.n) && isOut p.wReg && c.long p.wReg (12 * p.m * p.n) && decide (p.afmt = 1)
    | _ => false
  decide (c.params.length = if adam then 128 else 64) && rsv && opOk &&
  decide (p.afmt ≤ 4) && decide (p.ofmt ≤ 12) && decide (p.round ≤ 2) && decide (1 ≤ p.m) && decide (1 ≤ p.n) &&
  isIn p.aReg && isOut p.yReg && c.long p.aReg (matLen p.m p.lda (rowBytes p.afmt p.n)) &&
  (if isCb p.ofmt then isIn p.cbReg else decide (p.cbReg = 0xF)) &&
  (if rungs.any needsYsc then isOut p.yscReg && c.long p.yscReg (out.1 * cdiv out.2 32 * 4) else decide (p.yscReg = 0xF)) &&
  (rungs.all fun f => c.long p.yReg (matLen out.1 p.ldy (rowBytes f out.2)) && (!p.oesc || decide (out.1 ≤ 1) || decide (rowBytes f out.2 ≤ p.ldy))) &&
  (decide (p.fitReg = 0xF) || (isOut p.fitReg && c.long p.fitReg 32)) && (!p.oesc || decide (p.fitReg ≠ 0xF)) &&
  (if c.op = 0x0407 ∨ c.op = 0x0408 then
     decide (1 ≤ pl.c) && decide (p.n % pl.c = 0) && decide (1 ≤ pl.ho) && decide (1 ≤ pl.wo)
   else true)

/-! ### Class 0x04: values -/

/-- Input X at (m, n), widened exactly. -/
def Dev.kernelX (d : Dev) (c : Cmd) (m n : Nat) : Ext :=
  let p := c.kernelP
  (fpOf p.afmt).decode (d.elem p.afmt ((c.region p.aReg).base + m * p.lda) n)

/-- The taps of a window that lie inside the map, as (ky, kx, value) in order (R213). -/
def Dev.poolTaps (d : Dev) (c : Cmd) (oy ox ch : Nat) : List (Nat × Nat × Ext) :=
  let q := c.pool
  (List.range q.kh).flatMap fun ky => (List.range q.kw).filterMap fun kx =>
    let iy : Int := (oy * q.sy + ky * q.dil : Nat) - (q.pad : Int)
    let ix : Int := (ox * q.sx + kx * q.dil : Nat) - (q.pad : Int)
    if 0 ≤ iy ∧ iy < q.h ∧ 0 ≤ ix ∧ ix < q.w then some (ky, kx, d.kernelX c iy.toNat (ix.toNat * q.c + ch)) else none

/-- A depthwise output value (R213). -/
def Dev.dwconvVal (d : Dev) (c : Cmd) (oy ox ch : Nat) : Ext :=
  let q := c.pool
  let pb := (c.region c.kernelP.dReg).base
  let init := if q.bias then fp32.decode (d.rd32 (pb + (q.kh * q.kw * q.c + ch) * 4)).toNat else .zero
  let ts := d.poolTaps c oy ox ch
  if ts.isEmpty then .zero
  else ts.foldl (fun acc t =>
    add32 acc (mul32 t.2.2 (fp32.decode (d.rd32 (pb + ((t.1 * q.kw + t.2.1) * q.c + ch) * 4)).toNat))) init

/-- The mean of a list of taps, formed in order. -/
def meanOf (l : List Ext) (n : Nat) : Ext := div32 (l.foldl add32 .zero) (.ofInt n)

/-- A pooled value (R213). -/
def Dev.poolVal (d : Dev) (c : Cmd) (oy ox ch : Nat) : Ext :=
  let q := c.pool
  if q.kind = 3 then
    meanOf ((List.range q.h).flatMap fun y => (List.range q.w).map fun x => d.kernelX c y (x * q.c + ch)) (q.h * q.w)
  else
    let ts := (d.poolTaps c oy ox ch).map (·.2.2)
    if ts.isEmpty then .zero
    else if q.kind = 0 then (if ts.any (·.isNan) then .nan else extMax ts)
    else meanOf ts (if q.kind = 1 then ts.length else q.kh * q.kw)

/-- Value i of an FP32 table at a region. -/
def Dev.kernelP32 (d : Dev) (r : Region) (i : Nat) : Ext := fp32.decode (d.rd32 (r.base + 4 * i)).toNat

/-- FP32 pattern `w` as a value. -/
def f32 (w : Nat) : Ext := fp32.decode w

/-- SOFTMAX of a row: the factor, 0 meaning 1.0, before the exponent (R172). Log entry 48 (DESIGN CHOICE). -/
def softmaxRow (factor : Word) (xs : List Ext) : List Ext :=
  let ys := if factor = 0 then xs else xs.map (mul32 (f32 factor.toNat))
  let mx := if ys.any (·.isNan) then .nan else extMax ys
  let es := ys.map fun y => exp32 (sub32 y mx)
  let s := imageSum es
  es.map fun e => div32 e s

/-- RMSNORM of a row. Log entry 48 (DESIGN CHOICE). -/
def rmsRow (eps : Ext) (gamma xs : List Ext) : List Ext :=
  let r := image Config.rsqrt32 (add32 (div32 (imageSum (xs.map fun x => mul32 x x)) (.ofInt xs.length)) eps)
  (xs.zip gamma).map fun x => mul32 (mul32 x.1 r) x.2

/-- LAYERNORM of a row. Log entry 48 (DESIGN CHOICE). -/
def layerRow (eps : Ext) (gamma beta xs : List Ext) : List Ext :=
  let mean := div32 (imageSum xs) (.ofInt xs.length)
  let cs := xs.map fun x => sub32 x mean
  let r := image Config.rsqrt32 (add32 (div32 (imageSum (cs.map fun x => mul32 x x)) (.ofInt xs.length)) eps)
  (cs.zip (gamma.zip beta)).map fun x => add32 (mul32 (mul32 x.1 r) x.2.1) x.2.2

/-- The functions of ACTIVATION (R172): ReLU, GELU in tanh form, SiLU. Log entry 48 (DESIGN CHOICE). -/
def actFn (kind : Nat) (x : Ext) : Ext :=
  if kind = 0 then (if x.lt .zero || x.isZero then .zero else x)
  else if kind = 1 then
    -- ½ x (1 + tanh (√(2 ÷ π) (x + 0.044715 x³)))
    let u := mul32 (f32 0x3F4C422A) (add32 x (mul32 (f32 0x3D372713) (mul32 x (mul32 x x))))
    mul32 (mul32 (f32 0x3F000000) x) (add32 .one (image Config.tanh32 u))
  else div32 x (add32 .one (exp32 (sub32 .zero x)))

/-- ACTIVATION of a value with its gate input, if there is one. Log entry 129 (DESIGN CHOICE). -/
def gatedAct (kind : Nat) (x : Ext) (gate : Option Ext) : Ext :=
  match gate with
  | none => actFn kind x
  | some g => if Config.gateActs then mul32 (actFn kind g) x else mul32 (actFn kind x) g

/-- The ADAMW step of one element (R172): its gradient and its master weight and moments give the new triple.
Log entry 48 (DESIGN CHOICE). -/
def adamStep (lr b1 b2 eps wd c1 c2 g w m v : Ext) : Ext × Ext × Ext :=
  let m1 := add32 (mul32 b1 m) (mul32 (sub32 .one b1) g)
  let v1 := add32 (mul32 b2 v) (mul32 (sub32 .one b2) (mul32 g g))
  let u := div32 (mul32 m1 c1) (add32 (image Config.sqrt32 (mul32 v1 c2)) eps)
  (sub32 w (mul32 lr (add32 u (mul32 wd w))), m1, v1)

/-- The new triples of row m of ADAMW. -/
def Dev.adamRow (d : Dev) (c : Cmd) (m : Nat) : List (Ext × Ext × Ext) :=
  let p := c.kernelP
  let w (i : Nat) : Ext := f32 (c.p i).toNat
  (List.range p.n).map fun n =>
    let o (k : Nat) : Ext := d.kernelP32 (c.region p.dReg) (3 * (m * p.n + n) + k)
    adamStep (w 7) (w 12) (w 13) (w 14) (w 15) (w 16) (w 17) (d.kernelX c m n) (o 0) (o 1) (o 2)

/-- Row m of a kernel's result in FP32, before the output conversion. The order of the image's operations in a row operation is
the model's. Log entries 38 (DESIGN CHOICE), 48 (DESIGN CHOICE). -/
def Dev.kernelRow (d : Dev) (c : Cmd) (m : Nat) : List Ext :=
  let p := c.kernelP
  let q := c.pool
  let xs := (List.range p.n).map (d.kernelX c m)
  let tab (off : Nat) : List Ext := (List.range p.n).map fun k => d.kernelP32 (c.region p.dReg) (off + k)
  match c.op with
  | 0x0401 => softmaxRow (c.p 7) xs
  | 0x0402 => rmsRow (f32 (c.p 7).toNat) (tab 0) xs
  | 0x0403 => layerRow (f32 (c.p 7).toNat) (tab 0) (tab p.n) xs
  | 0x0404 =>
    let gate (n : Nat) : Option Ext :=
      if p.wReg = 0xF then none
      else some ((fpOf p.afmt).decode (d.elem p.afmt ((c.region p.wReg).base + m * p.lda) n))
    xs.zipIdx.map fun x => gatedAct ((c.p 7).fld 1 0) x.1 (gate x.2)
  | 0x0405 => rotateRow xs (if p.dReg = 0xF then [] else tab 0) c.rotateN (p.dReg ≠ 0xF)
  | 0x0407 => (List.range (q.wo * q.c)).map fun n => d.dwconvVal c m (n / q.c) (n % q.c)
  | 0x0408 => (List.range (q.wo * q.c)).map fun n => d.poolVal c m (n / q.c) (n % q.c)
  | 0x0409 => (d.adamRow c m).map (·.1)
  | _ => xs

/-- The core of rank r: VQCLIP at the end of the kernel holds the clip marks of its rows, row m being of rank (m div 8) mod 4E (R174). -/
def Dev.kernelClips (d : Dev) (q : Nat) (c : Cmd) (rows : List Nat) : Dev :=
  let r := d.ranksOf q c.engines
  let mine (rank : Nat) : Nat := ((rows.zipIdx.filter fun x => decide (x.2 / 8 % (4 * r.1) = rank)).map (·.1)).foldl (· + ·) 0
  let d := forEach r.2 (fun e d => forUpTo 4 (fun k d =>
    let v := 4 * e.1 + k
    { d with vcs := d.vcs.put v { d.vcs.lookD v {} with vqclip := BitVec.ofNat 64 (min (2 ^ 64 - 1) (mine (4 * e.2 + k))) } })
    (d.count 0x03 (16 * e.1 + 6) ((List.range 4).foldl (fun n k => n + mine (4 * e.2 + k)) 0))) d
  let sum := (List.range (4 * r.1)).foldl (fun n i => n + min (2 ^ 64 - 1) (mine i)) 0
  d.updCmd q c.seq fun c => { c with cOut := sum }

/-- A run of a class 0x04 kernel: its output rows converted by R147 and written under its locks, and C_OUT, the sum of the cores'
VQCLIP. -/
def Dev.kernelRun (d : Dev) (q : Nat) (c : Cmd) : Dev :=
  let p := c.kernelP
  let fm := c.runFmts
  let book := if isCb p.ofmt then d.book (c.region p.cbReg).base p.cbSelOut (if fm.2.1 = 10 then 256 else 16) else []
  let ms := c.rowList c.kernelOut.1
  let rows := ms.map fun m => (m, d.kernelRow c m)
  let trip := if c.op = 0x0409 then ms.map fun m => (m, d.adamRow c m) else []
  let out := rows.foldl (fun (acc : Dev × List Nat) r =>
    let x := acc.1.gxWriteRow c { p with n := c.kernelOut.2 } fm.2.1 fm.2.2.2 book r.1 0 r.2
    (x.1, acc.2 ++ [x.2.foldl (· + ·) 0])) (d, [])
  let d := out.1.mixRows ((c.region p.yReg).base + ms.headD 0 * p.ldy) ms.length p.ldy (rowBytes fm.2.1 c.kernelOut.2)
  let d := trip.foldl (fun d t =>
    d.wrWords ((c.region p.wReg).base + 12 * t.1 * p.n) (t.2.flatMap fun x => [x.1, x.2.1, x.2.2].map fun y => BitVec.ofNat 32 (fp32.rne y))) d
  d.kernelClips q c out.2

/-! ### The sort unit (R214–R216) -/

def Cmd.topkBits (c : Cmd) : Nat := if (c.p 0).fld 9 8 = 0 then 32 else 16

def Cmd.topkValid (c : Cmd) : Bool :=
  let w := c.p
  let n := (w 1).fld 20 0
  let k := (w 2).fld 12 0
  let m := (w 5).fld 12 0
  let s := (w 0).fld 3 0
  let o := (w 0).fld 7 4
  decide (c.params.length = 64) && decide (w 0 &&& ~~~ (0x33FF#32) = 0) && decide ((w 1).fld 31 21 = 0) &&
  decide ((w 2).fld 31 13 = 0) && decide ((w 5).fld 31 13 = 0) && ((List.range 9).all fun i => decide (w (7 + i) = 0)) &&
  decide ((w 0).fld 9 8 ≤ 2) && decide (1 ≤ n) && decide (n ≤ 1048576) && decide (1 ≤ k) && decide (k ≤ 4096) && decide (k ≤ n) &&
  !(fp32.decode (w 3).toNat).isNan && decide (1 ≤ m) && decide (m ≤ 4096) &&
  decide (s < c.nin) && decide (c.nin ≤ o) && decide (o < c.ins.length + c.outs.length) &&
  c.long s (matLen m (w 6).toNat (n * c.topkBits / 8)) && c.long o (m * (8 + 8 * k))

def Cmd.nmsValid (c : Cmd) : Bool :=
  let w := c.p
  let n := (w 1).fld 20 0
  let mo := (w 2).fld 28 16
  let pk := (w 2).fld 12 0
  let o := (w 0).fld 15 12
  let cl := (w 0).fld 11 8
  let s := (w 0).fld 7 4
  let b := (w 0).fld 3 0
  let iou := fp32.decode (w 4).toNat
  decide (c.params.length = 64) && decide ((w 0).fld 31 18 = 0) && decide ((w 1).fld 31 21 = 0) &&
  decide ((w 2).fld 31 29 = 0) && decide ((w 2).fld 15 13 = 0) && ((List.range 11).all fun i => decide (w (5 + i) = 0)) &&
  decide (1 ≤ n) && decide (n ≤ 1048576) && decide (1 ≤ mo) && decide (mo ≤ pk) && decide (pk ≤ 4096) &&
  !(fp32.decode (w 3).toNat).isNan && Ext.zero.le iou && iou.le .one &&
  decide (s < c.nin) && decide (b < c.nin) && (decide (cl = 0xF) || (decide (cl < c.nin) && c.long cl (2 * n))) &&
  decide (c.nin ≤ o) && decide (o < c.ins.length + c.outs.length) &&
  c.long s (4 * n) && c.long b (16 * n) && c.long o (8 + 8 * mo)

/-- The die of a sort command. -/
def Cmd.sortDieOf (c : Cmd) : Nat := if c.op = 0x0202 then (c.p 0).fld 13 12 else (c.p 0).fld 17 16

/-- The k greatest scores that are not NaN and not below a threshold, equal scores to the lower index.
Log entry 39 (DESIGN CHOICE). -/
def topSelect (scores : List Ext) (thr : Ext) (k : Nat) : List (Ext × Nat) :=
  let good := scores.zipIdx.filter fun s => !s.1.isNan && !s.1.lt thr
  (sortBy (fun a b => b.1.le a.1) good).take k

/-- Count word, reserved word, records, and the filling records (R214). -/
def sortRecords (l : List (Ext × Nat)) (ibase : Word) (k : Nat) : List Word :=
  [BitVec.ofNat 32 l.length, 0] ++
  (l.flatMap fun r => [BitVec.ofNat 32 (fp32.rne r.1), BitVec.ofNat 32 r.2 + ibase]) ++
  (List.replicate (k - l.length) [0x7FC00000#32, 0xFFFFFFFF#32]).flatten

def Dev.topkRun (d : Dev) (c : Cmd) : Dev :=
  let w := c.p
  let n := (w 1).fld 20 0
  let k := (w 2).fld 12 0
  let fmt := (w 0).fld 9 8
  let b := c.topkBits / 8
  let sb := (c.region ((w 0).fld 3 0)).base
  let ob := (c.region ((w 0).fld 7 4)).base
  let rows := (List.range ((w 5).fld 12 0)).map fun m =>
    let sc := (List.range n).map fun i => (fpOf fmt).decode (d.rdLe (sb + m * (w 6).toNat + i * b) b)
    sortRecords (topSelect sc (fp32.decode (w 3).toNat) k) (w 4) k
  rows.zipIdx.foldl (fun d r => d.wrWords (ob + r.2 * (8 + 8 * k)) r.1) d

/-- A box (x1, y1, x2, y2). -/
abbrev Box := Ext × Ext × Ext × Ext

def boxArea (b : Box) : Ext :=
  mul32 (Ext.zero.max (sub32 b.2.2.1 b.1)) (Ext.zero.max (sub32 b.2.2.2 b.2.1))

/-- The IoU test of R215. Log entry 39 (DESIGN CHOICE). -/
def suppresses (thr : Ext) (a b : Box) : Bool :=
  let iw := Ext.zero.max (sub32 (a.2.2.1.min b.2.2.1) (a.1.max b.1))
  let ih := Ext.zero.max (sub32 (a.2.2.2.min b.2.2.2) (a.2.1.max b.2.1))
  let inter := mul32 iw ih
  let u := sub32 (add32 (boxArea a) (boxArea b)) inter
  Ext.zero.lt u && (mul32 thr u).lt inter

/-- The kept candidates of NMS, in visiting order. -/
def nmsKeep (thr : Ext) (boxes : List Box) (cls : List Nat) (anyClass : Bool) (maxOut : Nat) (cands : List (Ext × Nat)) : List (Ext × Nat) :=
  cands.foldl (fun kept x =>
    if maxOut ≤ kept.length then kept
    else if kept.any fun k =>
        (anyClass || decide (cls.getD k.2 0 = cls.getD x.2 0)) &&
          suppresses thr (boxes.getD k.2 (.zero, .zero, .zero, .zero)) (boxes.getD x.2 (.zero, .zero, .zero, .zero)) then kept
    else kept ++ [x]) []

def Dev.nmsRun (d : Dev) (c : Cmd) : Dev :=
  let w := c.p
  let n := (w 1).fld 20 0
  let mo := (w 2).fld 28 16
  let f (r i : Nat) : Ext := fp32.decode (d.rd32 ((c.region r).base + 4 * i)).toNat
  let br := (w 0).fld 3 0
  let boxes : List Box := (List.range n).map fun i => (f br (4 * i), f br (4 * i + 1), f br (4 * i + 2), f br (4 * i + 3))
  let scores := boxes.zipIdx.map fun b =>
    if b.1.1.isNan || b.1.2.1.isNan || b.1.2.2.1.isNan || b.1.2.2.2.isNan then Ext.nan else f ((w 0).fld 7 4) b.2
  let cr := (w 0).fld 11 8
  let cls := if cr = 0xF then [] else (List.range n).map fun i => d.rdLe ((c.region cr).base + 2 * i) 2
  let kept := nmsKeep (fp32.decode (w 4).toNat) boxes cls (cr = 0xF) mo
    (topSelect scores (fp32.decode (w 3).toNat) ((w 2).fld 12 0))
  d.wrWords (c.region ((w 0).fld 15 12)).base (sortRecords kept 0 mo)

/-! ### COPY (R315) -/

def Cmd.copyValid (c : Cmd) : Bool :=
  let w := c.p
  let rows := (w 1).fld 19 0
  let rl := (w 2).fld 23 0
  decide (c.params.length = 64) && decide (w 0 &&& ~~~ (0x3FF#32) = 0) && decide ((w 1).fld 31 20 = 0) &&
  decide ((w 2).fld 31 24 = 0) && ((List.range 11).all fun i => decide (w (5 + i) = 0)) &&
  decide (c.ins.length = 1) && decide (c.outs.length = 1) && decide ((w 0).fld 7 4 = 1) && decide ((w 0).fld 3 0 = 0) &&
  decide (1 ≤ rows) && decide (1 ≤ rl) && c.long 0 (matLen rows (w 3).toNat rl) && c.long 1 (matLen rows (w 4).toNat rl)

def Dev.copyRun (d : Dev) (c : Cmd) : Dev :=
  let w := c.p
  let rl := (w 2).fld 23 0
  let rows := (List.range ((w 1).fld 19 0)).map fun r => d.rdN ((c.region 0).base + r * (w 3).toNat) rl
  rows.zipIdx.foldl (fun d r => d.wrN ((c.region 1).base + r.2 * (w 4).toNat) r.1) d

end Sys2Proof.Machine
end

