-- ==== Sys2Proof/Machine/Kv.lean ====
section
/-! DEFINITION. Class 0x03: key-value append, attention, truncation and the ring all-reduce (R181–R196). -/

namespace Sys2Proof.Machine

/-- What KV_TRUNCATE lists: (sequence, NEWLEN). The MAP region's whole pairs of words are the list.
Log entry 43 (DESIGN CHOICE). -/
def Dev.truncList (d : Dev) (c : Cmd) : List (Nat × Nat) :=
  let r := c.region c.kvMapReg
  (List.range (r.len / 8)).map fun i =>
    ((d.rd32 (r.base + 8 * i)).fld 23 0, (d.rd32 (r.base + 8 * i + 4)).toNat)

/-! ### Validation at the taking (R187, R188, R189, R194, R196) -/

/-- Words 16 to 31 (R188). `seqOut` tells that SEQ_REG is an output region. -/
def Cmd.kvWordsValid (c : Cmd) (seqOut : Bool) (dd : Nat) : Bool :=
  let w := c.p
  let isIn (r : Nat) : Bool := decide (r < c.nin)
  let isOut (r : Nat) : Bool := decide (c.nin ≤ r) && decide (r < c.ins.length + c.outs.length)
  decide (c.params.length = 128) && decide ((w 17).fld 31 17 = 0) && decide ((w 18).fld 31 22 = 0) &&
  decide ((w 18).fld 19 18 = 0) && decide ((w 18).fld 15 12 = 0) && decide ((w 19).fld 31 20 = 0) &&
  ((List.range 12).all fun i => decide (w (20 + i) = 0)) &&
  decide (1 ≤ c.kvMaxp) && decide (c.kvMaxp ≤ 65536) &&
  isIn c.kvMapReg && (if seqOut then isOut c.kvSeqReg else isIn c.kvSeqReg) &&
  (if c.kvRope then isIn c.kvRopeReg && c.long c.kvRopeReg (c.kvNpos * (dd / 2) * 8) else decide (c.kvRopeReg = 0xF))

/-- An engine group of the queue's context has an engine on a die (R187, R216). -/
def Dev.egOnDie (d : Dev) (q die : Nat) : Bool :=
  match d.ctx? (d.ctxOfQ q) with
  | some x =>
    match d.eg? x.eg with
    | some g => (List.range 16).any fun e => bitOf g.engines (16 * die + e)
    | none => false
  | none => false

def Dev.kvAppendValid (d : Dev) (q : Nat) (c : Cmd) : Bool :=
  let p := c.gx
  match d.kvPool q c with
  | none => false
  | some pl =>
    let dd := d.poolD c.kvDie pl
    d.egOnDie q c.kvDie && c.kvWordsValid true dd && c.gxValid true &&
    decide (p.ofmt = if d.poolFmt c.kvDie pl = 0 then 3 else 8) &&
    decide (p.n = 2 * d.poolHkv c.kvDie pl * dd) && (decide (p.dReg = 0xF) || decide (p.ldd = 0)) &&
    !p.oesc && c.long c.kvMapReg (4 * p.m)

def Dev.attentionValid (d : Dev) (q : Nat) (c : Cmd) : Bool :=
  let w := c.p
  match d.kvPool q c with
  | none => false
  | some pl =>
    let dd := d.poolD c.kvDie pl
    let m := (w 1).fld 19 0
    let hq := (w 2).fld 7 0
    let oReg := (w 3).fld 7 4
    let qReg := (w 3).fld 3 0
    let ofmt := (w 0).fld 23 20
    let ob := fmtBits ofmt / 8
    d.egOnDie q c.kvDie && c.kvWordsValid false dd &&
    decide (w 0 &&& ~~~ (0x00F00C00#32) = 0) && decide ((w 1).fld 31 20 = 0) && decide ((w 2).fld 31 8 = 0) &&
    decide ((w 3).fld 31 8 = 0) && decide ((w 8).fld 31 20 = 0) &&
    ((List.range 7).all fun i => decide (w (9 + i) = 0)) &&
    decide (ofmt ≤ 2) && decide ((w 0).fld 11 10 ≤ 2) && decide (1 ≤ hq) && decide (hq ≤ 128) &&
    decide (hq % d.poolHkv c.kvDie pl = 0) &&
    decide (qReg < c.nin) && decide (c.nin ≤ oReg) && decide (oReg < c.ins.length + c.outs.length) &&
    c.long qReg (matLen m (w 4).toNat (hq * dd * 2)) && c.long oReg (matLen m (w 5).toNat (hq * dd * ob)) && c.long c.kvMapReg (4 * m)

def Dev.truncateValid (d : Dev) (q : Nat) (c : Cmd) : Bool :=
  d.egOnDie q c.kvDie && (d.kvPool q c).isSome && c.kvWordsValid true 64 && !c.kvRope

/-- A region lies stack-local in Mk. -/
def Region.inStack (r : Region) (k : Nat) : Bool := decide (k * gib36 ≤ r.base) && decide (r.base + r.len ≤ (k + 1) * gib36)

def Cmd.ringFmt (c : Cmd) : Nat := (c.p 0).fld 3 0
def Cmd.ringE (c : Cmd) : Nat := (c.p 1).fld 23 0

def Dev.ringValid (d : Dev) (q : Nat) (c : Cmd) : Bool :=
  let b := if c.ringFmt = 0 then 4 else 2
  decide (c.params.length = 64) && decide ((c.p 0).fld 31 4 = 0) && decide (c.ringFmt ≤ 1) &&
  decide ((c.p 1).fld 31 24 = 0) && ((List.range 14).all fun i => decide (c.p (2 + i) = 0)) &&
  decide (1 ≤ c.ringE) && decide (c.ringE % 64 = 0) &&
  decide (c.ins.length = 4) && decide (c.outs.length = 4) && !d.twinnedQ q &&
  (List.range 4).all fun k =>
    (c.region k).inStack k && (c.region (4 + k)).inStack k && c.long k (c.ringE * b) && c.long (4 + k) (c.ringE * b)

/-- The sequence of each row of an ATTENTION. -/
def Dev.attnSeqs (d : Dev) (c : Cmd) : List Nat := (List.range ((c.p 1).fld 19 0)).map (d.mapSeq c)

/-! ### The checks at dispatch (R191) -/

def Cmd.seqInside (c : Cmd) (s : Nat) : Bool := decide ((s + 1) * seqBytes c.kvMaxp ≤ (c.region c.kvSeqReg).len)

/-- A class 0x03 command that R191 refuses at dispatch. -/
def Dev.kvRefused (d : Dev) (c : Cmd) : Bool :=
  if c.op = 0x0301 then
    let rs := d.kvRuns c
    rs.any (fun r => !c.seqInside r.1) || decide (¬ ((d.kvMap c).map (·.1)).Nodup) ||
    rs.any fun r => decide (16 * c.kvMaxp < d.seqLen c r.1 + r.2) ||
      (c.kvRope && decide (c.kvNpos < d.seqLen c r.1 + r.2))
  else if c.op = 0x0302 then
    (c.partSeqs (d.attnSeqs c)).any fun s => !c.seqInside s || (c.kvRope && decide (c.kvNpos < d.seqLen c s))
  else if c.op = 0x0303 then
    let l := d.truncList c
    l.any (fun r => !c.seqInside r.1 || decide (d.seqLen c r.1 < r.2)) || decide (¬ (l.map (·.1)).Nodup)
  else false

/-- The page-table entries that a command reads, as (sequence, entry): R183 checks each. -/
def Dev.kvReads (d : Dev) (c : Cmd) : List (Nat × Nat) :=
  if c.op = 0x0301 then
    (d.kvRuns c).filterMap fun r => if d.seqLen c r.1 % 16 = 0 then none else some (r.1, d.seqLen c r.1 / 16)
  else if c.op = 0x0302 then
    let win := (c.p 8).fld 19 0
    let seqs := d.attnSeqs c
    (c.partSeqs seqs).flatMap fun s =>
      let len := d.seqLen c s
      let first := len - seqs.count s
      let lo := if win = 0 then 0 else first + 1 - win
      (List.range (cdiv len 16 - lo / 16)).map fun i => (s, lo / 16 + i)
  else
    (d.truncList c).flatMap fun r =>
      (List.range (cdiv (d.seqLen c r.1) 16 - cdiv r.2 16)).map fun i => (r.1, cdiv r.2 16 + i)

/-- A page-table entry that fails the check of R183. -/
def Dev.badPte (d : Dev) (c : Cmd) (pl : Nat) : Option Nat :=
  ((d.kvReads c).find? fun e =>
    let w := d.pte c e.1 e.2
    !w.bit 31 || decide (d.poolCount c.kvDie pl ≤ w.fld 17 0) || decide (d.pageState c.kvDie pl (w.fld 17 0) ≠ 2)).map
    fun e => (d.pte c e.1 e.2).fld 17 0

/-! ### Reservation (R184, R185) -/

/-- A command of a step of the serving service; its runs carry the number 0. -/
def Cmd.served (c : Cmd) : Bool := c.node.any fun (n : Nat × Nat × Nat) => decide (n.2.1 = 0)

/-- Commands that wait for pages of a pool come before this one. A command that is run again goes first, and a step of the serving
service never waits. -/
def Dev.kvAhead (d : Dev) (key q : Nat) (c : Cmd) : Bool :=
  if 0 < c.reruns || c.served then false
  else match d.kvWait.filter fun w => w.1 = key with
    | [] => false
    | w :: _ => !(decide (w.2.1 = q) && decide (w.2.2.1 = c.seq))

/-- The waiting commands with one more: a command that is run again behind the others of its kind that wait, any other last. -/
def kvQueue (ws : List (Nat × Nat × Nat × Nat)) (rerun : Nat × Nat × Nat × Nat → Bool) (w : Nat × Nat × Nat × Nat) :
    List (Nat × Nat × Nat × Nat) :=
  if rerun w then ws.filter rerun ++ [w] ++ ws.filter (!rerun ·) else ws ++ [w]

/-- The reservation of a KV_APPEND: all the pages or none. `none` means that it waits, as it does while KV_CTRL.EN is 0 and the
allocator serves no reservation (R197). Log entry 43 (DESIGN CHOICE). -/
def Dev.kvReserve (d : Dev) (q pl : Nat) (c : Cmd) : Option Dev :=
  let key := poolKey c.kvDie pl
  if d.kvAhead key q c || !d.getB (aKvCtrl c.kvDie) 0 then none else
  match d.popPages c.kvDie pl (d.kvNeeds c).length with
  | none => none
  | some (pgs, d) =>
    let since := (d.kvWait.find? fun w => decide (w.2.1 = q) && decide (w.2.2.1 = c.seq)).map (·.2.2.2)
    let d := { d with kvWait := d.kvWait.filter fun w => !(decide (w.2.1 = q) && decide (w.2.2.1 = c.seq)) }
    let d := match since with
      | some t => d.countMax 0x05 (160 * c.kvDie + 5 * pl + 4) ((d.now - t) / 1000)
      | none => d
    some ((d.updCmd q c.seq fun c => { c with pages := pgs.map fun p => (c.kvDie, pl, p), waitPages := false }).kvRefresh c.kvDie pl)

/-- A KV_APPEND that finds too few pages gives back the locks it took and waits (R185).
Log entry 43 (DESIGN CHOICE). -/
def Dev.kvWaitFor (d : Dev) (q pl : Nat) (c : Cmd) : Dev :=
  let key := poolKey c.kvDie pl
  let d := d.updCmd q c.seq fun c => { c with waitPages := true, locked := false, stage := .taken }
  if d.kvWait.any fun w => decide (w.2.1 = q) && decide (w.2.2.1 = c.seq) then d
  else
    let rerun (w : Nat × Nat × Nat × Nat) : Bool := (d.cmd? w.2.1 w.2.2.1).any fun x => decide (0 < x.reruns)
    (({ d with kvWait := kvQueue d.kvWait rerun (key, q, c.seq, d.now) } : Dev).count 0x05 (160 * c.kvDie + 5 * pl + 1) 1).kvRefresh c.kvDie pl

/-! ### KV_APPEND (R189–R193) -/

/-- The rotary embedding of R190 at a position. -/
def Dev.rope (d : Dev) (c : Cmd) (y : List Ext) (p : Nat) : List Ext :=
  let n := y.length
  let tab := (c.region c.kvRopeReg).base
  let co (i : Nat) : Ext := fp32.decode (d.rd32 (tab + (p * (n / 2) + i) * 8)).toNat
  let si (i : Nat) : Ext := fp32.decode (d.rd32 (tab + (p * (n / 2) + i) * 8 + 4)).toNat
  let at_ (k : Nat) : Ext := y.getD k .zero
  (List.range n).map fun k =>
    let i := if c.kvRopeMode then k % (n / 2) else k / 2
    let first := if c.kvRopeMode then decide (k < n / 2) else decide (k % 2 = 0)
    let a := if c.kvRopeMode then i else 2 * i
    let b := if c.kvRopeMode then i + n / 2 else 2 * i + 1
    if first then sub32 (mul32 (at_ a) (co i)) (mul32 (at_ b) (si i))
    else add32 (mul32 (at_ a) (si i)) (mul32 (at_ b) (co i))

/-- Conversion of one 32-dimension group of one token to the pool's format: codes, scale entry, clips. -/
def kvConv (p : GxParams) (fmt m n0 : Nat) (vals : List Ext) : List Nat × Word × Nat :=
  let draw (i : Nat) : Nat := srDraw p.seed m (n0 + i)
  if fmt = 0 then
    let cs := vals.zipIdx.map fun v => e4m3.encode v.1 p.round (draw v.2)
    (cs.map (·.1), 0, (cs.filter (·.2)).length)
  else
    let q := qRange 8
    let sz := deriveAffine (extMin vals) (extMax vals) q.1 q.2 p.qsym (p.clipC false)
    if special vals || !(fp16.decode sz.1).isFin then (vals.map fun _ => 0, 0x7E00, 0)
    else
      let cs := vals.zipIdx.map fun v => encAffine v.1 sz.1 sz.2 q.1 q.2 p.round (draw v.2)
      (cs.map fun v => ofInt 8 v.1, BitVec.ofNat 32 (ofInt 8 sz.2 * 65536 + sz.1), (cs.filter (·.2)).length)

/-- One accumulator row through the append stage: codes and scale entries written into its slot; the clip marks of each column
tile, which is one group of 32 dimensions of one head and kind.
Log entry 45 (DESIGN CHOICE). -/
def Dev.kvWriteRow (d : Dev) (c : Cmd) (pl : Nat) (row : Nat × Nat × Nat) (vals : List Ext) : Dev × List Nat :=
  let p := c.gx
  let die := c.kvDie
  let fmt := d.poolFmt die pl
  let hkv := d.poolHkv die pl
  let dd := d.poolD die pl
  let t := row.2.2 % 16
  let base := d.pageAddr die pl (d.kvPage c row.2.1 (row.2.2 / 16))
  (List.range (2 * hkv)).foldl (fun (acc : Dev × List Nat) kh =>
    let kind := kh / hkv
    let h := kh % hkv
    let raw := (vals.drop (kh * dd)).take dd
    let y := if kind = 0 && c.kvRope then d.rope c raw row.2.2 else raw
    (chunks 32 y).zipIdx.foldl (fun (acc : Dev × List Nat) gq =>
      let r := kvConv p fmt row.1 (kh * dd + 32 * gq.2) gq.1
      let dv := acc.1.wrN (base + (2 * h + kind) * 16 * dd + t * dd + 32 * gq.2) (r.1.map (BitVec.ofNat 8 ·))
      let dv := if fmt = 0 then dv
        else dv.wr32 (base + 32 * hkv * dd + (((2 * h + kind) * 16 + t) * (dd / 32) + gq.2) * 4) r.2.1
      (dv, acc.2 ++ [r.2.2])) acc) (d, [])

/-- The page-table entries and lengths that step 4 of the press writes (R189, R192). -/
def Dev.kvHeld (d : Dev) (c : Cmd) : List HeldWrite :=
  ((d.kvNeeds c).zipIdx.map fun e =>
    { addr := c.seqAddr e.1.1 + 16 + 4 * e.1.2,
      data := leBytes 4 (2 ^ 31 + ((c.pages[e.2]?).map (·.2.2)).getD 0) }) ++
  (d.kvRuns c).map fun r => { addr := c.seqAddr r.1, data := leBytes 4 (d.seqLen c r.1 + r.2) }

/-- A run of a KV_APPEND. -/
def Dev.kvAppendRun (d : Dev) (q pl : Nat) (c : Cmd) : Dev :=
  let rows := d.kvRows c
  let res := d.gxRows c (rows.map (·.1))
  let out := (rows.zip res.1).foldl (fun (acc : Dev × List Nat) r =>
    let x := acc.1.kvWriteRow c pl r.1 r.2.2
    (x.1, addLists acc.2 x.2)) (d, [])
  let held := d.kvHeld c
  let d := out.1.countClips q c.engines res.2 out.2
  -- the fit monitor takes the rows of the part that ran (R508)
  d.updCmd q c.seq fun c => { c with cIn := res.2, cOut := out.2.foldl (· + ·) 0, held := held,
                                     part := c.part.map fun p => { p with rows := some (0, rows.length) } }

/-! ### ATTENTION (R194, R195) -/

/-- A code of the cache with its terms (R181, R195): kind 0 K, 1 V. -/
def Dev.kvTerm (d : Dev) (die pl page kind h t dim : Nat) : Ext × Int × Ext :=
  let hkv := d.poolHkv die pl
  let dd := d.poolD die pl
  let base := d.pageAddr die pl page
  let code := (d.rd8 (base + (2 * h + kind) * 16 * dd + t * dd + dim)).toNat
  if d.poolFmt die pl = 0 then (e4m3.decode code, 0, .one)
  else
    let sd := Side.of (d.rd32 (base + 32 * hkv * dd + (((2 * h + kind) * 16 + t) * (dd / 32) + dim / 32) * 4))
    term 8 code sd fun _ => .zero

def plainRow (l : List Ext) : ActRow := { v := l, z := l.map fun _ => 0, s := l.map fun _ => .one }

/-- The running state of R195 over the pages. -/
structure AttnAcc where
  mx : Ext := .inf true
  l  : Ext := .zero
  o  : List Ext

/-- One page of one query row and head. -/
def Dev.attnPage (d : Dev) (c : Cmd) (pl s h : Nat) (scale : Ext) (qb : List Ext) (lo p i : Nat) (a : AttnAcc) : AttnAcc :=
  let die := c.kvDie
  let page := (d.pte c s i).fld 17 0
  let ts := (List.range 16).filter fun t => decide (lo ≤ 16 * i + t) && decide (16 * i + t ≤ p)
  let sc := ts.map fun t =>
    mul32 (gxElement 32 (plainRow qb) ((List.range qb.length).map fun k => d.kvTerm die pl page 0 h t k) .zero) scale
  let mn := sc.foldl (fun m x => if x.isNan || m.isNan then .nan else m.max x) a.mx
  let al := exp32 (sub32 a.mx mn)
  let al := if a.mx = .inf true then .zero else al
  let pr := sc.map fun x => bf16.decode (bf16.rne (exp32 (sub32 x mn)))
  let ps := pr.foldl add32 .zero
  let g := if d.poolFmt die pl = 0 then ts.length else 1
  { mx := mn, l := add32 (mul32 a.l al) ps,
    o := a.o.zipIdx.map fun q =>
      add32 (mul32 q.1 al) (gxElement g (plainRow pr) (ts.map fun t => d.kvTerm die pl page 1 h t q.2) .zero) }

/-- One query row and head: the values before the output conversion. -/
def Dev.attnHead (d : Dev) (c : Cmd) (pl s h : Nat) (p : Int) (qv : List Ext) : List Ext :=
  let win := (c.p 8).fld 19 0
  let scale := if c.p 7 = 0 then
      -- 1 ÷ √D rounded to FP32, D being 32 to 256
      fp32.decode (sqrtRecip qv.length) else fp32.decode (c.p 7).toNat
  let qv := if c.kvRope && decide (0 ≤ p) then d.rope c qv p.toNat else qv
  let qb := qv.map fun x => bf16.decode (bf16.rne x)
  let a0 : AttnAcc := { o := qv.map fun _ => .zero }
  if p < 0 then a0.o.map fun o => div32 o a0.l
  else
    let pn := p.toNat
    let lo := if win = 0 then 0 else pn + 1 - win
    let a := (List.range (pn / 16 + 1 - lo / 16)).foldl (fun a i => d.attnPage c pl s h scale qb lo pn (lo / 16 + i) a) a0
    a.o.map fun o => div32 o a.l
where
  /-- The FP32 pattern nearest 1 ÷ √n: the greatest pattern whose square does not pass 1 ÷ n, or the next. -/
  sqrtRecip (n : Nat) : Nat :=
    -- m is 2^30 ÷ √n rounded down; half a unit more rounds to the same FP32 value
    let m := isqrt (2 ^ 60 / n)
    fp32.rne (.mk false (2 * m + 1) (2 ^ 31))

/-- A run of an ATTENTION command. -/
def Dev.attentionRun (d : Dev) (pl : Nat) (c : Cmd) : Dev :=
  let w := c.p
  let dd := d.poolD c.kvDie pl
  let hkv := d.poolHkv c.kvDie pl
  let hq := (w 2).fld 7 0
  let ofmt := (w 0).fld 23 20
  let round := (w 0).fld 11 10
  let qb := (c.region ((w 3).fld 3 0)).base
  let ob := (c.region ((w 3).fld 7 4)).base
  let seqs := d.attnSeqs c
  let rows := seqs.zipIdx.map fun r =>
    (r.1, (d.seqLen c r.1 : Int) - (seqs.count r.1 : Int) + (((seqs.take r.2).count r.1 : Nat) : Int))
  let outs := (rows.zipIdx.filter fun r => decide (r.1.1 ∈ c.partSeqs seqs)).map fun r =>
    let codes := (List.range hq).flatMap fun hd =>
      let qv := (List.range dd).map fun k => bf16.decode (d.rdLe (qb + r.2 * (w 4).toNat + (hd * dd + k) * 2) 2)
      let o := d.attnHead c pl r.1.1 (hd / (hq / hkv)) r.1.2 qv
      o.zipIdx.map fun x =>
        if ofmt = 0 then fp32.rne x.1 else ((fpOf ofmt).encode x.1 round (srDraw (w 6) r.2 (hd * dd + x.2))).1
    (r.2, packRow ofmt codes)
  (forEach outs (fun r d => d.wrN (ob + r.1 * (w 5).toNat) r.2) d).mixRows ob seqs.length (w 5).toNat (hq * dd * (fmtBits ofmt / 8))

/-! ### KV_TRUNCATE (R184, R186) -/

/-- At the dispatch of a KV_TRUNCATE the pages it releases become FREEING. Log entry 43 (DESIGN CHOICE). -/
def Dev.truncMark (d : Dev) (q pl : Nat) (c : Cmd) : Dev :=
  let pgs := (d.kvReads c).map fun e => (d.pte c e.1 e.2).fld 17 0
  let d := forEach pgs (fun pg d => d.setPageState c.kvDie pl pg 3) d
  d.updCmd q c.seq fun c => { c with pages := pgs.map fun p => (c.kvDie, pl, p) }

/-- The entries that its press marks invalid and the lengths that it sets. -/
def Dev.truncHeld (d : Dev) (c : Cmd) : List HeldWrite :=
  ((d.kvReads c).map fun e => { addr := c.seqAddr e.1 + 16 + 4 * e.2, data := leBytes 4 0 }) ++
  ((d.truncList c).filter fun r => decide (r.2 < d.seqLen c r.1)).map fun r =>
    { addr := c.seqAddr r.1, data := leBytes 4 r.2 }

/-! ### RING_ALLREDUCE (R196) -/

def ringAdd (fmt : Nat) (a b : Ext) : Ext := if fmt = 0 then add32 a b else bf16.decode (bf16.rne (add32 a b))

/-- The sum of one element: chunk by its index. Log entry 46 (DESIGN CHOICE). -/
def Dev.ringElem (d : Dev) (c : Cmd) (i : Nat) : Nat :=
  let f := c.ringFmt
  let b := if f = 0 then 4 else 2
  let k := i / (c.ringE / 4)
  let x (j : Nat) : Ext := (fpOf f).decode (d.rdLe ((c.region ((k + j) % 4)).base + i * b) b)
  let t := ringAdd f (ringAdd f (ringAdd f (x 1) (x 2)) (x 3)) (x 0)
  (fpOf f).rne t

/-- Log entry 46 (DESIGN CHOICE). -/
def Dev.ringRun (d : Dev) (c : Cmd) : Dev :=
  let b := if c.ringFmt = 0 then 4 else 2
  let bytes := (List.range c.ringE).flatMap fun i => leBytes b (d.ringElem c i)
  forUpTo 4 (fun k d => d.wrN (c.region (4 + k)).base bytes) d

end Sys2Proof.Machine
end

