-- ==== Sys2Proof/Machine/Est.lean ====
section
/-! DEFINITION. Sebry's estimate of a command (R222), from the time lines of the engine (R100, R103, R117, R118, R148, R192, R216). -/

namespace Sys2Proof.Machine

/-- The engines of a group, and its number of engines or pairs. -/
def EngineGroup.engineList (g : EngineGroup) : List Nat := (List.range 64).filter (bitOf g.engines)
def EngineGroup.units (g : EngineGroup) : Nat := if g.twin then popcount g.engines 64 / 2 else popcount g.engines 64

/-! ### Time lines -/

/-- The rows of each chunk (R103). -/
def chunkRows (m : Nat) : List Nat := List.replicate (m / 2048) 2048 ++ (if m % 2048 = 0 then [] else [m % 2048])

/-- Cycles at a duty of `d` sixteenths (R118). -/
def stretch (d n : Nat) : Nat := cdiv (16 * n) d

/-- The longest write-acknowledge time A of a die's own stack, 40 GXCLK cycles and 28 of MEMCLK at 1 GHz: 60 ns, or 75 GXCLK cycles
(R117, R484). Log entry 21 (DESIGN CHOICE). -/
def ackGx : Nat := 40
/-- The cycles of MEMCLK in A, in ns. Log entry 21 (DESIGN CHOICE). -/
def ackMem : Nat := 28
/-- A in GXCLK cycles at 1.25 GHz. Log entry 21 (DESIGN CHOICE). -/
def ackCycles : Nat := 75

/-- The first pass over `r` rows in blocks of 32 (R148): K, L and S. -/
def firstPass (x : Nat × Nat × Nat) (r : Nat) : Nat :=
  let block (n : Nat) : Nat := 16 + cdiv (n * x.1 * (2 + x.2.1 + x.2.2)) 64
  r / 32 * block 32 + (if r % 32 = 0 then 0 else block (r % 32))

/-- The cycle after the one in which the last of `m` rows enters the array, for `passes` tile passes of each chunk at a duty (R117,
R118). Rows enter `q` cycles later than of themselves, take `num ÷ den` cycles each, and wait for the first pass where it derives
scales row by row (R148). A pass holds the array for 32 rows at least, and the last of fewer rows enters before its pass ends: the
fold keeps when the array is free, the end of the first pass and the last entry. Log entry 21 (DESIGN CHOICE). -/
def lastEntry (duty m passes q : Nat) (first : Option (Nat × Nat × Nat)) (num den : Nat) : Nat :=
  ((chunkRows m).foldl (fun (acc : Nat × Nat × Nat) r =>
    let pass := stretch duty (cdiv (max r 32 * num) den)
    let own := stretch duty (cdiv (r * num) den)
    let fp := match first with
      | none => acc.2.1
      | some x => acc.2.1 + stretch duty (firstPass x r)
    let entered := match first with
      | none => acc.1 + own
      | some _ => max (acc.1 + own) (fp + stretch duty (24 + (if r % 32 = 0 then 32 else r % 32)))
    let free := max (acc.1 + pass) entered + (passes - 1) * pass
    (free, fp, if passes = 1 then entered else free - pass + own))
    (stretch duty (45 + q), stretch duty 45, 0)).2.2

/-- From the last row's entry to its last byte's hand-over at the write port: cycle 124 + Mp (R117).
Log entry 150 (DEDUCED). -/
def lineDrain (duty : Nat) : Nat := stretch duty 79

/-- From there, without A, to step 6 of the press (R117). Log entry 150 (DEDUCED). -/
def linePress (duty : Nat) : Nat := stretch duty 9

/-- A layer of a chain, from its last row's entry: the next begins when its writes are acknowledged. -/
def lineTail (duty : Nat) : Nat := lineDrain duty + linePress duty + ackCycles

/-- K_T of a rate class (R100). -/
def Rate.kt : Rate → Nat
  | .r8 => 256 | .r4 => 512 | .r16 => 128 | .r32 => 32

/-- The rate class of a command at the rungs in force (R152). -/
def Cmd.rate (c : Cmd) : Rate := (rateOf c.runFmts.1 c.gx.wfmt).getD .r16

/-- A matrix product of `m` rows on `n` engines or pairs, in cycles to the hand-over of its last row (R117). The scales of the first pass are those that R148 tells apart. -/
def Cmd.gxLine (c : Cmd) (m duty n : Nat) : Nat :=
  let p := c.gx
  let fm := c.runFmts
  let kp := packK p.wfmt
  let tiles := cdiv (c.kList p.k).length kp * max 1 (kp / c.rate.kt)
  let passes := tiles * cdiv (cdiv (c.colList p.n).length 32) (max 1 n)
  let flat := isFpFmt fm.1 || p.qgran || (decide (p.ascReg ≠ 0xF) && !fm.2.2.1)
  let log := if p.rot = 0 then 0 else 5 + p.rot
  let last :=
    if !p.qen then lastEntry duty m passes 0 none 1 1
    else if flat then lastEntry duty m passes 24 none 1 1
    else lastEntry duty m passes 24 (some (p.k, log, b2n p.smooth)) 1 1
  last + lineDrain duty

/-- Channels that one cycle of the window sequencer takes (R111). -/
def ConvLayer.seqQ (x : ConvLayer) : Nat :=
  match rateOf x.afmt x.wfmt with
  | some .r4 => 128
  | some .r16 => 32
  | _ => 64

/-- One layer of a chain on `n` engines or pairs, each with its stripe of the rows, in cycles (R111, R205, R207). -/
def ConvLayer.line (x : ConvLayer) (rows duty n : Nat) : Nat :=
  let kp := packK x.wfmt
  let passes := cdiv x.k kp * max 1 (kp / ((rateOf x.afmt x.wfmt).getD .r16).kt) * cdiv x.cout 32
  let plain := decide (x.kh = 1) && decide (x.kw = 1) && decide (x.sx = 1) && decide (x.sy = 1) && decide (x.pt + x.pb + x.pl + x.pr = 0)
  let num := if plain then 1 else cdiv x.c x.seqQ * x.seqQ
  lastEntry duty (cdiv rows (max 1 n) * x.wo) passes 0 none num (if plain then 1 else max 1 x.c) + lineTail duty

/-- The bounds of R216 on TOPK and NMS, in cycles. -/
def Cmd.sortLine (c : Cmd) : Nat :=
  let cand := cdiv ((c.p 1).fld 20 0) 16
  if c.op = 0x0202 then 200 + (c.p 5).fld 12 0 * (3 * cand + 2 * (c.p 2).fld 12 0)
  else 200 + 3 * cand + 2 * (c.p 2).fld 12 0 + (c.p 2).fld 12 0 * cdiv ((c.p 2).fld 28 16) 16

/-- The rows of a part of a node, of `m`: those of its bounds, or its share of a row map (R225). -/
def Cmd.estRows (c : Cmd) (m : Nat) : Nat :=
  match c.part with
  | some p => if c.cls = 3 then cdiv m (max 1 p.of_) else (c.rowList m).length
  | none => m

/-! ### Duties, clocks and reads -/

/-- The least duty in force of some engines, in sixteenths (R118). -/
def Dev.dutyOf (d : Dev) (es : List Nat) : Nat :=
  es.foldl (fun m e => min m (1 + min (d.getF (aGxDuty e) 11 8) (d.getF (aGxDuty e) 3 0))) 16

/-- The GXCLK frequency of a die, and of a gated die that at which it is set to run. Log entry 21 (DESIGN CHOICE). -/
def Dev.gxKhz (d : Dev) (die : Nat) : Nat :=
  let f := d.getF (aClkStatus die) 23 0
  if f = 0 then d.getF (aClkCtrl die) 23 0 else f

/-- Cycles of the slowest of some dies in ns. Log entry 21 (DESIGN CHOICE). -/
def Dev.nsOf (d : Dev) (dies : List Nat) (cycles : Nat) : Nat :=
  let f := dies.foldl (fun m x => min m (d.gxKhz x)) 1250000
  cycles * 10 ^ 6 / max 1 f

/-- Bytes of a command's inputs that lie in no operand buffer of some engines. Log entry 21 (DESIGN CHOICE). -/
def Dev.nonResident (d : Dev) (es : List Nat) (c : Cmd) : Nat :=
  let rs := d.resid.filter fun r => decide (r.1 ∈ es)
  c.ins.foldl (fun n r => n + ((rs.foldl (fun ps x => ps.flatMap (outside x.2.1 x.2.2)) [(r.base, r.len)]).foldl (fun m p => m + p.2) 0)) 0

/-- The rate at which a group's engines read what is not resident, in GB/s: r of R222. -/
def Dev.readRate (d : Dev) (eg n : Nat) : Nat :=
  let w := d.getF (aBwrMwin eg) 16 0 * 10
  let b := if w = 0 then 0 else cdiv ((d.reg (aBwrMeff eg)).toNat * 64) w
  if b = 0 then 64 * n else min b (64 * n)

/-- The share of its node's work that a part is, as a fraction. -/
def Cmd.share (c : Cmd) : Nat × Nat :=
  if c.part.isNone then (1, 1) else
  if c.cls = 1 then ((c.rowList c.gx.m).length * (c.colList c.gx.n).length * (c.kList c.gx.k).length, max 1 (c.gx.m * c.gx.n * c.gx.k))
  else (1, max 1 ((c.part.map (·.of_)).getD 1))

/-- Input bytes of a part: of a matrix product its rows and reduction indices of A and its columns of W, else its share. -/
def Dev.partBytes (d : Dev) (es : List Nat) (c : Cmd) : Nat :=
  let all := d.nonResident es c
  match c.part with
  | none => all
  | some _ =>
    if c.cls ≠ 1 then all * c.share.1 / c.share.2 else
    let p := c.gx
    let a := min all (c.region p.aReg).len
    let w := min all (c.region p.wReg).len
    let k := (c.kList p.k).length
    a * ((c.rowList p.m).length * k) / max 1 (p.m * p.k) + w * ((c.colList p.n).length * k) / max 1 (p.n * p.k) + (all - a - w)

/-- Sebry's own estimate on `n` engines or pairs out of `es`, in ns (R222): the time line, or the reads where they take longer. Of a
matrix product the reads and the rows go together, and the last write's acknowledgement and the press follow both; a trailing copy
starts 128 cycles later (R242). The line of an operation that R117 and R148 do not give is a free value. Log entries 21 (DESIGN CHOICE)
and 150 (DEDUCED). -/
def Dev.sebryEst (d : Dev) (eg : Nat) (es : List Nat) (c : Cmd) (n : Nat) : Nat :=
  let duty := d.dutyOf es
  let dies := (es.map (· / 16)).eraseDups
  let twin := ((d.eg? eg).map (·.twin)).getD false
  let matrix := decide (c.cls = 1) || decide (c.op = 0x0301)
  let line :=
    if c.op = 0 then 0
    else if c.cls = 1 then d.nsOf dies (c.gxLine (c.rowList c.gx.m).length duty n + (if twin then 128 else 0))
    else if c.op = 0x0301 then d.nsOf dies (c.gxLine (c.estRows c.gx.m) duty n + stretch duty 8 + (if twin then 128 else 0))
    else if c.op = 0x0201 then d.nsOf dies (c.myLayers.foldl (fun s x => s + x.2.line (c.rowList x.2.ho).length duty n) 0)
    else if c.isSort then
      d.nsOf [c.sortDieOf] (stretch ((List.range 16).foldl (fun m e => min m (1 + d.getF (aGxDuty (16 * c.sortDieOf + e)) 3 0)) 16) c.sortLine)
    else if c.op = 0x0304 then 6 * (c.ringE * (if c.ringFmt = 0 then 4 else 2) / 4 / 500 + 400)
    else Config.sebryEst c.desc c.params (match c.part with | some p => cdiv 1000000 (max 1 p.of_) | none => 1000000) n
  -- in a twinned group both copies read, and the sort unit runs a command twice (R216, R242)
  let copies := if twin then 2 else 1
  let line := if c.isSort then copies * line else line
  let tail := if matrix then d.nsOf dies (linePress duty + ackGx) + ackMem else 0
  if c.op = 0 then 0 else max line (cdiv (copies * d.partBytes es c) (max 1 (d.readRate eg (copies * n)))) + tail

/-- est(c, E) of R222, in ns: the larger of EST_US and Sebry's own estimate. A part takes its share of its node's EST_US. The estimate
of a graphics job is its EST_US, and CMDLEN where that is 0. Log entry 21 (DESIGN CHOICE). -/
def Dev.est (d : Dev) (eg : Nat) (es : List Nat) (c : Cmd) (n cmdlenUs : Nat) : Nat :=
  if c.isJob then (if c.estUs = 0 then cmdlenUs * 1000 else c.estUs * 1000)
  else max (cdiv (c.estUs * 1000 * c.share.1) c.share.2) (d.sebryEst eg es c n)

end Sys2Proof.Machine
end

