-- ==== Sys2Proof/Machine/Cuts.lean ====
section
/-! DEFINITION. The cut of a graph's nodes into parts (R225), and the bytes that a part writes (R89, R508). -/

namespace Sys2Proof.Machine

/-! ### Cutting (R225) -/

/-- Bounds of the bands of `b` of `n`, in ascending order. -/
def bands (n b : Nat) : List (Nat × Nat) := (List.range (cdiv n (max 1 b))).map fun i => (i * b, min n ((i + 1) * b))

/-- Parts with their numbers. -/
def numbered (ps : List Part) : List Part := ps.zipIdx.map fun x => { x.1 with idx := x.2, of_ := ps.length }

/-- The largest band of `n` in multiples of `step` for which the part that has it fits, the fewest bands first. -/
def widest (n step : Nat) (fits : Nat → Nat → Bool) : Option Nat :=
  let u := cdiv n (max 1 step)
  ((List.range u).find? fun i => fits (step * cdiv u (i + 1)) (i + 1)).map fun i => step * cdiv u (i + 1)

/-- A matrix product: along M in multiples of 32, then also along N in whole column tiles, then also along K at multiples of K_T and of
the rotation size, where the scales of a group do not depend on the whole row. Log entry 31 (DESIGN CHOICE). -/
def Cmd.cutGx (c : Cmd) (fits : Part → Bool) : Option (List Part) :=
  let p := c.gx
  let one (r n k : Option (Nat × Nat)) : Part := { idx := 0, of_ := 1, rows := r, cols := n, ks := k }
  match widest p.m 32 fun b _ => fits (one (some (0, min p.m b)) none none) with
  | some b => some (numbered ((bands p.m b).map fun r => one (some r) none none))
  | none =>
    let r0 := (0, min p.m 32)
    match widest p.n 32 fun b _ => fits (one (some r0) (some (0, min p.n b)) none) with
    | some b => some (numbered ((bands p.m 32).flatMap fun r => (bands p.n b).map fun n => one (some r) (some n) none))
    | none =>
      if p.qen && decide (p.ascReg = 0xF) && !p.qgran then none else
      match widest p.k (Nat.lcm c.rate.kt p.rotN) fun b _ => fits (one (some r0) (some (0, min p.n 32)) (some (0, min p.k b))) with
      | some b => some (numbered ((bands p.m 32).flatMap fun r => (bands p.n 32).flatMap fun n => (bands p.k b).map fun k =>
          one (some r) (some n) (some k)))
      | none => none

/-- The chains of consecutive layers, each as long as fits, and at least one layer. -/
def cutChains (fits : Nat → Nat → Bool) (n : Nat) : List (Nat × Nat) :=
  let r := (List.range n).foldl (fun (acc : List (Nat × Nat) × Nat) l =>
    if acc.2 = l || fits acc.2 (l + 1) then acc else (acc.1 ++ [(acc.2, l)], l)) ([], 0)
  r.1 ++ [(r.2, n)]

/-- A CONV_CHAIN: at layer boundaries, then a single layer into bands of output rows. Log entry 31 (DESIGN CHOICE). -/
def Cmd.cutConv (c : Cmd) (fits : Part → Bool) : Option (List Part) :=
  let ls := c.convLayers
  let one (a : Nat × Nat) (r : Option (Nat × Nat)) : Part := { idx := 0, of_ := 1, layers := some a, rows := r }
  let per := (cutChains (fun a b => fits (one (a, b) none)) ls.length).map fun a =>
    if fits (one a none) then some [one a none]
    else
      let ho := ((ls[a.1]?).map (·.ho)).getD 0
      (widest ho 1 fun b _ => fits (one a (some (0, b)))).map fun b => (bands ho b).map fun r => one a (some r)
  if per.any (·.isNone) then none else some (numbered (per.flatMap (·.getD [])))

/-- ATTENTION and KV_APPEND by sequences. Log entry 31 (DESIGN CHOICE). -/
def cutSeqs (m : Nat) (fits : Part → Bool) : Option (List Part) :=
  ((List.range m).find? fun i => fits { idx := 0, of_ := i + 1 }).map fun i => (List.range (i + 1)).map fun j => { idx := j, of_ := i + 1 }

/-- Class 0x04 and UNFOLD into bands of rows in multiples of 8. Log entry 31 (DESIGN CHOICE). -/
def cutRows (m : Nat) (fits : Part → Bool) : Option (List Part) :=
  (widest m 8 fun b n => fits { idx := 0, of_ := n, rows := some (0, min m b) }).map fun b =>
    numbered ((bands m b).map fun r => { idx := 0, of_ := 1, rows := some r })

/-- The engines or pairs of a group that a node's est is taken on (R207, R219, R225). -/
def EngineGroup.estUnits (g : EngineGroup) (c : Cmd) : Nat :=
  let on (die : Nat) : Nat := ((List.range 16).filter fun e => bitOf g.engines (16 * die + e)).length / (if g.twin then 2 else 1)
  if c.op = 0x0201 then min 16 g.units
  else if c.op = 0x0301 ∨ c.op = 0x0302 then min 16 (on c.kvDie)
  else (List.range 4).foldl (fun m die => max m (min 16 (on die))) 0

/-- The parts into which a node is cut so that the est of each does not pass the instance's default CMDLEN; none where the node needs no
cut. No value where no cut achieves it. Log entry 31 (DESIGN CHOICE). -/
def Dev.cutNode (d : Dev) (eg len : Nat) (c : Cmd) : Option (List Part) :=
  match d.egs.look eg with
  | none => some []
  | some g =>
    let fitsC (c : Cmd) : Bool := decide (d.est eg g.engineList c (g.estUnits c) len ≤ len * 1000)
    let fits (p : Part) : Bool := fitsC { c with part := some p }
    if fitsC c then some []
    else if c.isJob then none
    else if c.cls = 1 then c.cutGx fits
    else if c.op = 0x0201 then c.cutConv fits
    else if c.op = 0x0301 then cutSeqs c.gx.m fits
    else if c.op = 0x0302 then cutSeqs ((c.p 1).fld 19 0) fits
    else if c.op = 0x0204 then cutRows (c.unfold.ho * c.unfold.wo) fits
    else if c.cls = 4 then cutRows c.kernelOut.1 fits
    else none

/-! ### What a part writes -/

/-- Rows of a region from an offset on, each of the same length. -/
def Region.rowsOf (r : Region) (ms : List Nat) (ld off rb : Nat) : List Region := ms.map fun m => ⟨r.base + m * ld + off, rb⟩

/-- The bytes of its output regions that a part of a queue writes before step 4 of its press. -/
def Dev.partOuts (d : Dev) (q : Nat) (c : Cmd) : List Region :=
  let twinned := d.twinnedQ q
  let p := c.gx
  let of_ := c.runFmts.2.1
  let y (out n n0 : Nat) (ns : Nat) : List Region :=
    let ms := c.rowList out
    (c.region p.yReg).rowsOf ms p.ldy (n0 * fmtBits of_ / 8) (rowBytes of_ ns) ++
    (if p.yscReg = 0xF then [] else (c.region p.yscReg).rowsOf ms (cdiv n 32 * 4) (n0 / 32 * 4) (cdiv ns 32 * 4))
  if c.cls = 1 then (if c.lastK p.k then y p.m p.n ((c.colList p.n).headD 0) (c.colList p.n).length else [])
  else if c.cls = 4 then
    y c.kernelOut.1 c.kernelOut.2 0 c.kernelOut.2 ++
    (if c.op = 0x0409 then (c.region p.wReg).rowsOf (c.rowList p.m) (12 * p.n) 0 (12 * p.n) else [])
  else if c.op = 0x0204 then
    let u := c.unfold
    (c.region u.yReg).rowsOf (c.rowList (u.ho * u.wo)) u.ldy 0 (cdiv (u.kh * u.kw * u.c * u.bits) 8)
  else if c.op = 0x0302 then
    let w := c.p
    let seqs := d.attnSeqs c
    let ms := (seqs.zipIdx.filter fun r => decide (r.1 ∈ c.partSeqs seqs)).map (·.2)
    let dd := ((d.kvPool q c).map (d.poolD c.kvDie)).getD 0
    (c.region ((w 3).fld 7 4)).rowsOf ms (w 5).toNat 0 ((w 2).fld 7 0 * dd * fmtBits ((w 0).fld 23 20) / 8)
  else if c.op = 0x0201 then
    c.myLayers.flatMap fun x =>
      let rs := c.rowList x.2.ho
      if c.convNl ≤ x.1 + 1 then (c.region ((c.p 0).fld 31 28)).rowsOf rs x.2.outLdr 0 x.2.outLdr
      else
        ((halves (c.region ((c.p 0).fld 23 20)) twinned).flatMap fun b => (⟨b, 0⟩ : Region).rowsOf rs x.2.outLdr x.2.moff x.2.outLdr) ++
        ((halves (c.region ((c.p 0).fld 27 24)) twinned).flatMap fun b => (⟨b, 0⟩ : Region).rowsOf rs 4 (4 * x.2.foff) 4)
  else []

end Sys2Proof.Machine
end

