-- ==== Sys2Proof/Machine/Work.lean ====
section
/-! DEFINITION. Contexts, queues and the commands in their windows: lookup, region locks (R83, R84),
kills (R89, R90), squashes, context teardown (R92, R227), parking (R95–R98). -/

namespace Sys2Proof.Machine

/-! ### Region locks (R78, R83, R84) -/

/-- The first byte of a region's first line, and the length of its lines. -/
def Region.lineBase (r : Region) : Nat := alignDown r.base 64
def Region.lineLen (r : Region) : Nat := alignUp (r.base + r.len) 64 - alignDown r.base 64

/-- Two regions share a line. -/
def Region.meets (r s : Region) : Bool := rangesMeet r.lineBase r.lineLen s.lineBase s.lineLen

def regionsMeet (l k : List Region) : Bool := l.any fun r => k.any r.meets

/-- The lock tables, 0–3 for the stacks and 4–7 for the map stores, whose memory holds a line of a
region (R84). -/
def Dev.tablesOf (d : Dev) (r : Region) : List Nat :=
  ((pageStarts r.lineBase r.lineLen).filterMap fun x =>
    (d.phys x).map fun k => if isDram k then stackOf k else 4 + (k - 0x4000000000) / 0x04000000).eraseDups

/-- The entries that a command takes in one lock table. -/
def Dev.entriesIn (d : Dev) (c : Cmd) (t : Nat) : Nat :=
  ((c.ins ++ c.outs).filter fun r => t ∈ d.tablesOf r).length

/-- The entries in use in one lock table. -/
def Dev.lockUsed (d : Dev) (t : Nat) : Nat :=
  (d.allCmds.filter (·.2.locked)).foldl (fun n p => n + d.entriesIn p.2 t) 0

/-- The lock tables that have no room for a command. -/
def Dev.fullTables (d : Dev) (c : Cmd) : List Nat :=
  (List.range 8).filter fun t => decide (0 < d.entriesIn c t) && decide (1024 < d.lockUsed t + d.entriesIn c t)

/-- An access by a master that is not the locking command must wait: a read of an exclusively locked
line, a write to any locked line (R84). Log entry 49 (DESIGN CHOICE). -/
def Dev.lockHit (d : Dev) (a n : Nat) (write : Bool) : Bool :=
  let r : Region := ⟨a, n⟩
  d.allCmds.any fun p => p.2.locked && (regionsMeet [r] p.2.outs || (write && regionsMeet [r] p.2.ins))

/-- The outcome of the dispatch check (R83). -/
inductive DispCheck where
  | go | wait | refuse
  deriving DecidableEq, Repr

/-- The dispatch check of R83 on command `c` of queue `q`. Where it meets several locking commands of which one makes it wait
and another refuses it, the first in the order of queue numbers and windows decides: R83 names no order.
Log entry 116 (DESIGN CHOICE). -/
def Dev.dispCheck (d : Dev) (q : Nat) (c : Cmd) : DispCheck :=
  if regionsMeet c.outs c.ins then .refuse
  else
    (d.allCmds.filter fun p => p.2.locked && !(decide (p.1 = q) && decide (p.2.seq = c.seq))).foldl
      (fun acc p =>
        match acc with
        | .go =>
          if regionsMeet c.ins p.2.outs then .wait
          else if regionsMeet c.outs (p.2.ins ++ p.2.outs) then (if p.1 = q then .wait else .refuse)
          else .go
        | r => r) .go

/-! ### Engines -/

/-- An engine's STATE, SLOT and SEQ (R122). Log entry 28 (DESIGN CHOICE). -/
def Dev.setEngine (d : Dev) (e st slot seq : Nat) : Dev :=
  (((d.setF (aGxStatus e) 7 4 st).setF (aGxStatus e) 27 16 slot)).setReg (aGxSeq e) (BitVec.ofNat 32 seq)

/-- Engines become ready again after a press, a kill or FINISHED (R119). -/
def Dev.freeEngines (d : Dev) (es : List Nat) : Dev :=
  forEach es (fun e d =>
    forUpTo 4 (fun k d => d.setF (aVcStatus (4 * e + k)) 7 4 0) (d.setF (aGxStatus e) 7 4 0)) d

/-- The sort unit that a command held becomes idle. -/
def Dev.freeSort (d : Dev) : Option Nat → Dev
  | some die => d.setF (aSortStatus die) 7 4 0
  | none => d

/-- The state of a twin pair (R255). -/
def Dev.pairState (d : Dev) (p : Nat) : Nat := d.getF (aTwinPstatus p) 2 0
def Dev.pairSt (d : Dev) (p : Nat) : PairState := d.pairs.lookD p {}
def Dev.testSt (d : Dev) (u : Nat) : TestState := d.tests.lookD u {}

/-- The UNTESTED mark of a unit: engines 0–63, sort units 64–67. -/
def Dev.untested (d : Dev) (u : Nat) : Bool :=
  if u < 64 then d.getB (aGxStatus u) 0 else d.getB (aSortStatus (u - 64)) 0
def Dev.setUntested (d : Dev) (u : Nat) (b : Bool) : Dev :=
  if u < 64 then d.setB (aGxStatus u) 0 b else d.setB (aSortStatus (u - 64)) 0 b

/-! ### Kills (R89, R90) -/

/-- Causes of a kill, in the order of the table of R90. -/
inductive KillCause where
  | preempt | boundary | guardTime | mismatch | fit | link | squash | orphan
  deriving DecidableEq, Repr

def KillCause.row : KillCause → Nat
  | .preempt => 1 | .boundary => 2 | .guardTime => 3 | .mismatch => 4 | .fit => 5 | .link => 6
  | .squash => 7 | .orphan => 8

/-- The accounting of a run that did not press: engine-ns (R477). -/
def Dev.acctKilled (d : Dev) (inst : Nat) (c : Cmd) : Dev :=
  if c.stage = .taken then d else d.countAcct inst 1 (((if c.stage = .finished then c.finT else d.now) - c.dispT) * c.nEng)

/-- After a kill the local data RAM of each core that ran holds undefined values, and its wait is abandoned (R169, R176).
Log entry 29 (DESIGN CHOICE). -/
def Dev.wheyCore (d : Dev) (v : Nat) : Dev :=
  let c := d.vcs.lookD v {}
  { d with freeCtr := d.freeCtr + 65536, vcs := d.vcs.put v { c with lram := [], lramFree := some d.freeCtr, wait := none } }

/-- The output regions of a killed run hold undefined values (R89). Log entry 23 (DESIGN CHOICE). -/
def Dev.whey (d : Dev) (rs : List Region) : Dev :=
  forEach rs (fun r d =>
    let x := d.freshBytes r.len
    ((x.2.wrRaw r.base x.1).uncache r.base r.len).logDirty r.base r.len) d

/-- The parts of a command's output regions that only step 4 of its press writes: the fit status word, and the sequence table of
a class 0x03 command (R89, R153, R192). -/
def Cmd.heldParts (c : Cmd) : List Region :=
  if c.isJob then [] else
  let fit (r : Nat) : List Region := if r = 0xF then [] else [⟨(c.region r).base, 32⟩]
  (if c.cls = 1 ∨ c.cls = 4 ∨ c.op = 0x0301 then fit c.gx.fitReg else if c.op = 0x0201 then fit ((c.p 9).fld 7 4) else []) ++
  (if c.op = 0x0301 ∨ c.op = 0x0303 then [c.region c.kvSeqReg] else [])

/-- What is undefined after a kill or a refusal: the output regions but for those parts, of a part of a node only what it writes
itself, and the slots of a KV_APPEND (R89, R193, R508). -/
def Dev.wheyParts (d : Dev) (q : Nat) (c : Cmd) : List Region :=
  (if c.part.isSome then d.partOuts q c else
    c.outs.flatMap fun r =>
      (c.heldParts.foldl (fun rs h => rs.flatMap (outside h.base h.len)) [(r.base, r.len)]).map fun x => ⟨x.1, x.2⟩) ++
  (if !c.isJob && decide (c.op = 0x0301) then d.kvSlots q c else [])

/-- What any kill does to the parts of the device a command holds: engines and sort unit ready, pages
returned, held writes discarded, whey in the output regions (R89). -/
def Dev.releaseRun (d : Dev) (q : Nat) (c : Cmd) : Dev :=
  let d := if c.stage = .taken then d else d.whey (d.wheyParts q c)
  let d := (d.freeEngines c.engines).freeSort c.sortDie
  let d := if c.isJob && decide (c.stage = .dispatched) && c.suspended.isNone then d.setF aGfxStatus 2 0 0 else d
  let d := forEach c.engines (fun e d => d.count 0x03 (16 * e + 1) 1) d
  let d := if c.isJob then d else forEach c.engines (fun e d => forUpTo 4 (fun k d => d.wheyCore (4 * e + k)) d) d
  d.returnPages c.pages

/-- The command as it stands for its re-run: first among its queue's taken commands with its SEQ, its
locks kept unless the kill is by orphaning (R89, R90). -/
def Cmd.forRerun (c : Cmd) (cause : KillCause) : Cmd :=
  { c with
    stage := .taken, engines := [], sortDie := none, held := [], pages := [], rerunOn := [],
    haloWait := [], cIn := 0, cOut := 0, partials := [], suspended := none, agreed := false,
    locked := c.locked && decide (cause ≠ .orphan),
    reruns := c.reruns + 1,
    preempts := if cause = .preempt then c.preempts + 1 else c.preempts,
    faultReruns := if cause = .mismatch ∨ cause = .link then c.faultReruns + 1 else c.faultReruns }

/-- A kill for a cause other than a finding ends a twinned run: the records that both copies had closed are still judged (R249). -/
def Dev.noteEnded (d : Dev) (q : Nat) (c : Cmd) (cause : KillCause) : Dev :=
  if c.stage = .taken || c.agreed || cause = .mismatch || cause = .fit || !d.twinnedQ q then d else
  forEach ((c.engines.map (· / 2)).eraseDups) (fun p d =>
    { d with pairs := d.pairs.put p { d.pairSt p with ended := some (q, c, cause.row) } }) d

/-- A kill whose outcome is a re-run (R90). Log entry 27 (DEDUCED). -/
def Dev.killRerun (d : Dev) (q seq : Nat) (cause : KillCause) : Dev :=
  match d.cmd? q seq with
  | none => d
  | some c =>
    if c.stage = .taken && !c.locked then d else
    let inst := d.instOfQ q
    let d := ((d.acctKilled inst c).noteEnded q c cause).releaseRun q c
    let d := if c.isJob then d.count 0x08 (1 + cause.row) 1 else d
    (d.updCmd q seq (·.forRerun cause)).countInst inst cause.row

/-- A squash: the command is discarded, its locks are released and no record is written (R90). -/
def Dev.squash (d : Dev) (q seq : Nat) : Dev :=
  match d.cmd? q seq with
  | none => d
  | some c =>
    let inst := d.instOfQ q
    let d := ((d.acctKilled inst c).noteEnded q c .squash).releaseRun q c
    let d := if c.isJob then d.count 0x08 (1 + KillCause.squash.row) 1 else d
    let d := { d with kvWait := d.kvWait.filter fun w => !(decide (w.2.1 = q) && decide (w.2.2.1 = seq)) }
    (d.dropCmd q seq).countInst inst KillCause.squash.row

/-- Every taken command of a queue squashed. -/
def Dev.squashQueue (d : Dev) (q : Nat) : Dev :=
  match d.queue? q with
  | none => d
  | some x => forEach x.window (fun c d => d.squash q c.seq) d

/-- The queues of a context. -/
def Dev.queuesOf (d : Dev) (c : Nat) : List Nat := (d.queues.filter (·.2.ctx = c)).map (·.1)

/-! ### Serving records (R236) -/

/-- The descriptor entry of a ring count: base + (k mod N) × 64 (R73). -/
def Queue.entry (q : Queue) (k : Nat) : Nat := q.ring + k % 2 ^ q.log2n * 64

/-- Writes one response record into the next released entry of the response ring; nothing where no
entry is released. Log entry 121 (DESIGN CHOICE). -/
def Dev.respond (d : Dev) (rspQ : Nat) (reqId : Word) (token pos endCode : Nat) : Dev :=
  match d.queue? rspQ with
  | none => d
  | some q =>
    if q.head = q.tail then d else
    if !d.linesUp (q.entry q.head) 64 then d else
    let ws := [reqId, BitVec.ofNat 32 token, BitVec.ofNat 32 pos, BitVec.ofNat 32 endCode] ++
      dwordWords d.now ++ [BitVec.ofNat 32 q.head] ++ List.replicate 9 0
    (d.wrWords (q.entry q.head) ws).setQueue rspQ { q with head := (q.head + 1) % 2 ^ 32 }

/-- What a service has submitted and has not pressed is no more. -/
def Dev.dropServed (d : Dev) (n : Nat) : Dev :=
  match (d.serving.look n).bind fun sv => d.graphs.look sv.graph with
  | none => d
  | some g =>
    let mine (c : Cmd) : Bool := c.served
    let d := forEach (((d.queue? g.queue).map (·.window.filter mine)).getD []) (fun c d => d.squash g.queue c.seq) d
    { d with queues := d.queues.adjust g.queue fun x => { x with feed := x.feed.filter (!mine ·) } }

/-- The serving service of an instance is no more, and a SERVE_STOP that waits for it is done (R53). -/
def Dev.endServing (d : Dev) (n : Nat) : Dev :=
  let d := d.dropServed n
  { d with serving := d.serving.del n,
           done := d.done.map fun x => if x.opcode = 0x0404 && x.arg = n then { x with ready := true } else x }

/-- The records of END 5 that a service owes, written as response entries are released (R227).
Log entry 136 (DEDUCED). -/
def Dev.payOwed (d : Dev) (inst : Nat) : Dev :=
  match d.serving.look inst with
  | none => d
  | some sv =>
    if sv.owed = [] then d else
    let room := match d.queue? sv.rspQ with
      | some q => (q.tail + 2 ^ 32 - q.head) % 2 ^ 32
      | none => 0
    let d := forEach (sv.owed.take room) (fun s d => d.respond sv.rspQ s.reqId 0 (s.prompt.length + s.out.length) 5) d
    { d with serving := d.serving.adjust inst fun v => { v with owed := v.owed.drop room } }

/-- The serving service of an instance ends with a fault: each request of the batch that has not ended gets a record with
END 5, and the service stops as under SERVE_STOP (R227). Log entry 136 (DEDUCED). -/
def Dev.serveFault (d : Dev) (inst : Nat) : Dev :=
  match d.serving.look inst with
  | none => d
  | some sv =>
    let left := (sv.batch.filter fun s => decide (s.ended = 0)) ++ sv.requeued
    ({ d with serving := d.serving.put inst { sv with batch := [], requeued := [], rows := [], owed := sv.owed ++ left, stopping := true } } : Dev).payOwed inst

/-! ### Context teardown (R92, R227) -/

/-- A context is torn down with a fault code: its taken commands are squashed, its queues halt, event 6
goes to the owner; a SAFETY context is reported (code 9), held if a fall-back is bound, FAULT otherwise. -/
def Dev.teardown (d : Dev) (c code : Nat) : Dev :=
  match d.ctx? c with
  | none => d
  | some x =>
    if x.torn then d else
    let d := forEach (d.queuesOf c) (fun q d => d.squashQueue q) d
    let d := forEach (d.queuesOf c) (fun q d =>
      { d with queues := d.queues.adjust q fun y => { y with halted := true, feed := [] } }) d
    let d := d.setCtx c { x with torn := true, waitSince := none }
    let d := (d.post x.inst 6 code (d.handleOf c)).countInst x.inst 9
    let d : Dev := match x.graph with
      | some g =>
        -- its runs have ended (R227)
        let d := { d with graphs := d.graphs.adjust g fun y => { y with runs := [], pressed := [], partials := [] } }
        if (d.serving.look x.inst).any (·.graph = g) then d.serveFault x.inst else d
      | none => d
    if d.ctxKind c = some .safety then
      let bound := match x.graph with
        | some g => ((d.graphs.look g).bind (·.fallback)).isSome
        | none => false
      d.reportAs (if bound then .heldC else .fault) 9 (d.handleOf c)
    else d

/-- A kill of the twin-mismatch or link row; the sixteenth tears the context down (R91). -/
def Dev.killFault (d : Dev) (q seq : Nat) (cause : KillCause) : Dev :=
  let d := d.killRerun q seq cause
  match d.cmd? q seq with
  | some c => if 16 ≤ c.faultReruns then d.teardown (d.ctxOfQ q) 8 else d
  | none => d

/-- A halt of a queue, with event 6 to the owner (R74, R79, R83). -/
def Dev.halt (d : Dev) (q code : Nat) : Dev :=
  match d.queue? q with
  | none => d
  | some x => (d.setQueue q { x with halted := true }).post x.inst 6 code (d.handleOf x.ctx)

/-! ### Completion records (R80) -/

/-- A completion record written at completion area + (SEQ mod N) × 32; an area in a stack that does not answer takes none (R20).
A refusal has no run and no press: its RUN_US is 0 and its PRESS_TIME the time of the refusal. Log entry 115 (DESIGN CHOICE). Log entry 121 (DESIGN CHOICE). -/
def Dev.record (d : Dev) (q : Queue) (c : Cmd) (st : Status) (runUs : Nat) (pressT : Nat) : Dev :=
  let ws := [BitVec.ofNat 32 c.seq,
    BitVec.ofNat 32 (st.code * 2 ^ 16 + min 255 c.reruns * 256 + c.esc % 4 * 64 + 1),
    c.w 1, BitVec.ofNat 32 (min runUs (2 ^ 32 - 1))] ++ dwordWords pressT ++ dwordWords c.ageStamp
  let a := q.compl + c.seq % 2 ^ q.log2n * 32
  if d.linesUp a 32 then d.wrWords a ws else d

/-- A refusal at the taking or at dispatch: a record with the status, the command gone, the queue
halted, and the event (R79, R83). Log entry 115 (DESIGN CHOICE). -/
def Dev.refuseCmd (d : Dev) (q : Nat) (c : Cmd) (st : Status) (code : Nat) : Dev :=
  match d.queue? q with
  | none => d
  | some x =>
    let d := (d.acctKilled x.inst c).returnPages c.pages
    let d := d.record x c st 0 d.now
    let d := { d with kvWait := d.kvWait.filter fun w => !(decide (w.2.1 = q) && decide (w.2.2.1 = c.seq)) }
    (d.dropCmd q c.seq).halt q code

/-! ### Context slots and the cave (R93–R98) -/

/-- A context is idle: every queue empty, HEAD equal to TAIL, no taken command (R95). -/
def Dev.ctxIdle (d : Dev) (c : Nat) : Bool :=
  (d.queuesOf c).all fun q =>
    match d.queue? q with
    | some x => decide (x.head = x.tail) && x.window.isEmpty && x.feed.isEmpty
    | none => true

/-- Contexts of SAFETY and DISPLAY partitions are pinned (R96). -/
def Dev.pinned (d : Dev) (c : Nat) : Bool :=
  match d.ctxKind c with
  | some .safety => true
  | some .display => true
  | _ => false

def Dev.tracked (d : Dev) : List (Nat × Ctx) := d.ctxs.filter fun p => !p.2.parked

/-- The lowest free context slot. -/
def Dev.freeSlot (d : Dev) : Option Nat :=
  let used := d.tracked.map (·.2.slot)
  if 4096 ≤ used.length then none else (List.range (used.length + 1)).find? fun s => decide (s ∉ used)

/-- The least recently used idle unpinned context that is tracked; on equal times the lower index (R98). -/
def Dev.lruIdle (d : Dev) : Option Nat :=
  let cs := d.tracked.filter fun p => !d.pinned p.1 && d.ctxIdle p.1
  (cs.foldl (fun best p =>
    match best with
    | none => some (p.1, p.2.lastUse)
    | some (_, t) => if p.2.lastUse < t then some (p.1, p.2.lastUse) else best) (none : Option (Nat × Nat))).map (·.1)

/-- A context parked in the cave (R95). -/
def Dev.park (d : Dev) (c : Nat) : Dev :=
  match d.ctx? c with
  | some x => (d.setCtx c { x with parked := true, slot := 0 }).countInst x.inst 11
  | none => d

/-- A slot made free if it can be: a free one, or the slot of the least recently used idle unpinned
context, which is parked. -/
def Dev.makeSlot (d : Dev) : Option (Nat × Dev) :=
  match d.freeSlot with
  | some s => some (s, d)
  | none =>
    match d.lruIdle with
    | some c =>
      match d.ctx? c with
      | some x => some (x.slot, d.park c)
      | none => none
    | none => none

/-- A parked context brought into a slot if one can be had (R98). Log entry 50 (DESIGN CHOICE). -/
def Dev.unpark (d : Dev) (c : Nat) : Dev :=
  match d.ctx? c with
  | none => d
  | some x =>
    if !x.parked then d else
    match d.makeSlot with
    | some (s, d) =>
      let d := match x.waitSince with
        | some t => d.countMax (0x80 + x.inst) 14 ((d.now - t) / 1000)
        | none => d
      (d.setCtx c { x with parked := false, slot := s, waitSince := none }).countInst x.inst 12
    | none =>
      if x.waitSince.isSome then d
      else (d.setCtx c { x with waitSince := some d.now }).countInst x.inst 13

/-- The waiting parked contexts in the order in which they are unparked: PRIO, highest first, then the
first waiting doorbell (R98). -/
def Dev.unparkOrder (d : Dev) : List Nat :=
  let ws := d.ctxs.filterMap fun p => if p.2.parked then p.2.waitSince.map fun t => (p.1, p.2.prio, t) else none
  (sortBy (fun a b => decide (a.2.1 > b.2.1) || (decide (a.2.1 = b.2.1) && decide (a.2.2 ≤ b.2.2))) ws).map (·.1)

/-- Waiting contexts take the slots that have become free. -/
def Dev.serveUnparks (d : Dev) : Dev := forEach d.unparkOrder (fun c d => d.unpark c) d

end Sys2Proof.Machine
end

