-- ==== Sys2Proof/Machine/Routes.lean ====
section
/-! DEFINITION. The fabric's routes (R15, R18): the links that a transfer takes, and whether one of them, or the
interface of the stack at its end, holds traffic or carries none (R17, R18, R291). -/

namespace Sys2Proof.Machine

def Dev.link (d : Dev) (l : Nat) : LinkState := d.links.lookD l {}
def Dev.stackIf (d : Dev) (n : Nat) : LinkState := d.stackIfs.lookD n {}
def Dev.linkUp (d : Dev) (l : Nat) : Bool := !(d.link l).down

/-- The ring link between CDn and CD(n+1 mod 4). -/
def ringLink (n : Nat) : Nat := 4 + n % 4

/-- The hub link and both ring links of a die are DOWN. Log entry 57 (DESIGN CHOICE). -/
def Dev.isolated (d : Dev) (die : Nat) : Bool := !d.linkUp die && !d.linkUp (ringLink die) && !d.linkUp (ringLink (die + 3))

/-- The first path of a list whose links are all up; the first of the list where none is.
Log entry 112 (DESIGN CHOICE). -/
def Dev.firstUp (d : Dev) (ps : List (List Nat)) : List Nat := (ps.find? fun p => p.all d.linkUp).getD (ps.headD [])

/-- The links of the route from the hub to CDm, its stack or a resource on it, and back: its hub link; where that is DOWN,
those of R18's table in its order. Where the hub link of the die it leads through is DOWN too, the table names no route: the
path then goes on around the ring. Log entry 112 (DESIGN CHOICE). -/
def Dev.routeHd (d : Dev) (m : Nat) : List Nat :=
  let up : List Nat := [ringLink m, ringLink (m + 1), ringLink (m + 2)]
  let dn : List Nat := [ringLink (m + 3), ringLink (m + 2), ringLink (m + 1)]
  d.firstUp [[m], [(m + 1) % 4, ringLink m], [(m + 3) % 4, ringLink (m + 3)],
    (m + 2) % 4 :: up.take 2, (m + 2) % 4 :: dn.take 2, (m + 3) % 4 :: up, (m + 1) % 4 :: dn]

/-- The links of the route from CDn to CDm or its stack (R15, R18). Where an XL is DOWN together with a hub link of its two
dies, the hub part of the path is that die's own route to the hub. Log entry 112 (DESIGN CHOICE). -/
def Dev.routeCd (d : Dev) (n m : Nat) : List Nat :=
  let hub := d.routeHd n ++ d.routeHd m
  if n = m then []
  else if m = (n + 1) % 4 then d.firstUp [[ringLink n], hub]
  else if n = (m + 1) % 4 then d.firstUp [[ringLink m], hub]
  else
    -- the die whose hub link is DOWN: the ring hops go through the die after it
    let k := if d.linkUp n then m else n
    d.firstUp [[n, m], [ringLink k, ringLink (k + 1)], [ringLink (k + 3), ringLink (k + 2)], hub]

/-- The links of the route from a requester, a compute die or the hub, to CDm or its stack. -/
def Dev.routeFrom (d : Dev) (src : Option Nat) (m : Nat) : List Nat :=
  match src with
  | some n => d.routeCd n m
  | none => d.routeHd m

/-- The dies in whose memory a range lies. -/
def Dev.diesOf (d : Dev) (a n : Nat) : List Nat :=
  ((pageStarts a n).filterMap fun x => (d.phys x).map fun k => if isDram k then stackOf k else storeOf k).eraseDups

/-- Some stack's interface retrains, or some link does: whether anything can hold traffic at all. -/
def Dev.anyTraining (d : Dev) : Bool := (d.links.any fun l => l.2.training) || d.stackIfs.any fun s => s.2.training

/-- The path from a requester to a range holds its traffic: a link of it or the stack's interface retrains (R17, R291). -/
def Dev.pathHeld (d : Dev) (src : Option Nat) (a n : Nat) : Bool :=
  d.anyTraining && (d.diesOf a n).any fun m => (d.stackIf m).training || (d.routeFrom src m).any fun l => (d.link l).training

/-- No path from a requester to a range is left. Log entry 112 (DESIGN CHOICE). -/
def Dev.pathLost (d : Dev) (src : Option Nat) (a n : Nat) : Bool :=
  (d.links.any fun l => l.2.down) && (d.diesOf a n).any fun m => (d.routeFrom src m).any fun l => !d.linkUp l

end Sys2Proof.Machine
end

