-- ==== Sys2Proof/Machine/Traffic.lean ====
section
/-! DEFINITION. What the bandwidth regulator sees of an access: its class (R295), the count of its master's
window (R297) and the latency monitor (R301). -/

namespace Sys2Proof.Machine

/-- Masters whose traffic is budgeted: valid and not firmware's (R294). -/
def Dev.budgeted (d : Dev) (m : Nat) : Bool :=
  d.getB (aBwrMcfg m) 31 && decide (¬ (71 ≤ m ∧ m ≤ 75)) && decide (m < 76 ∨ 128 ≤ m)

/-- The regulator stalls the master: budgets apply, and that of a master without OVF is used up (R297).
Log entry 149 (DEDUCED). -/
def Dev.stalled (d : Dev) (m : Nat) : Bool :=
  d.getB aBwrCtrl 0 && d.budgeted m && !d.getB (aBwrMcfg m) 30 && decide ((d.reg (aBwrMeff m)).toNat ≤ (d.reg (aBwrMused m)).toNat)

/-- The class of an address: that of the lowest-numbered valid descriptor that holds it, or 0. -/
def Dev.classOf (d : Dev) (a : Nat) : Nat :=
  let base (k : Nat) : Nat := d.getF (aBwrClass k 0) 31 12 * 4096 + d.getF (aBwrClass k 1) 7 0 * 2 ^ 32
  let limit (k : Nat) : Nat := d.getF (aBwrClass k 2) 31 12 * 4096 + d.getF (aBwrClass k 3) 7 0 * 2 ^ 32
  match (List.range 32).find? fun k => d.getB (aBwrClass k 3) 31 && decide (base k ≤ a) && decide (a < limit k + 4096) with
  | some k => d.getF (aBwrClass k 3) 18 16
  | none => 0

/-- The latency of one access is not part of the model: the monitor keeps the greater of what it holds and a
free value (R301). -/
def Dev.latency (d : Dev) (m cls : Nat) : Dev :=
  let f := d.fresh
  f.2.setF (aBwrLat m cls) 15 0 (max (d.getF (aBwrLat m cls) 15 0) (f.1 % 65536))

/-- An access of `n` bytes by a master to DRAM: each line adds 1 to its count (R297). -/
def Dev.traffic (d : Dev) (m a n : Nat) : Dev :=
  if n = 0 then d else
  let lines := (a + n - 1) / 64 + 1 - a / 64
  (d.setReg (aBwrMused m) (BitVec.ofNat 32 (min (2 ^ 32 - 1) ((d.reg (aBwrMused m)).toNat + lines)))).latency m (d.classOf a)

/-- The accesses of a command's run. How many lines it reads and writes is not stated: the count becomes a
free value. Log entry 26 (DESIGN CHOICE). Log entry 149 (DEDUCED). -/
def Dev.trafficFree (d : Dev) (m : Nat) (rs : List Region) : Dev :=
  let f := d.fresh
  let d := f.2.setReg (aBwrMused m) (BitVec.ofNat 32 f.1)
  forEach rs (fun r d => d.latency m (d.classOf r.base)) d

end Sys2Proof.Machine
end

