-- ==== Sys2Proof/Machine/Access.lean ====
section
/-! DEFINITION. Accesses of hosts to DRAM: the checks of R281 to R288, the region locks of R84, poison
(R293), and the accesses that wait for a lock or a link. -/

namespace Sys2Proof.Machine

/-- A byte that a master carrying a partition and an instance may reach (R281, R283, R286, R288). -/
def Dev.accOk (d : Dev) (pt inst x : Nat) : Bool :=
  match d.phys x with
  | some k => isDram k && d.stackUp (stackOf k) && ownPasses (d.ownOf k) pt inst
  | none => false

/-- The first address of a range that the checks refuse. Log entry 104 (DESIGN CHOICE). -/
def Dev.accBad (d : Dev) (pt inst a n : Nat) : Option Nat := (pageStarts a n).find? fun x => !d.accOk pt inst x

/-- An access must wait: a region lock or a retraining path. Log entry 49 (DESIGN CHOICE). -/
def Dev.mustWaitFrom (d : Dev) (src : Option Nat) (a n : Nat) (write : Bool) : Bool := d.lockHit a n write || d.pathHeld src a n

/-- The same for an access from the hub. Log entry 49 (DESIGN CHOICE). -/
def Dev.mustWait (d : Dev) (a n : Nat) (write : Bool) : Bool := d.mustWaitFrom none a n write

/-- A later transfer of a core to a target waits behind an earlier one of it that waits (R16). Log entry 114 (DEDUCED). -/
def Dev.behindCore (d : Dev) (core a n : Nat) : Bool :=
  d.waiting.any fun w =>
    match w with
    | .coreAcc c _ x k _ => decide (c = core) && (d.diesOf x k).any fun m => decide (m ∈ d.diesOf a n)
    | _ => false

/-- The instance bound to a host (R374). -/
def Dev.boundTo (d : Dev) (kind idx : Nat) : Option Nat :=
  (d.insts.find? fun p => decide ((d.page p.1).state ≠ .free) && decide (p.2.bindKind = kind) && decide (p.2.bindIdx = idx)).map (·.1)

/-- The instance of a core's cluster. -/
def Dev.coreInst (d : Dev) (core : Nat) : Option Nat := d.boundTo 0 (core / 8)

/-- The outcome of a load, store or fetch by a core that no check refuses and nothing holds.
Log entry 51 (DESIGN CHOICE). -/
def Dev.coreGo (d : Dev) (a n : Nat) (store : Bool) (data : List Byte) : Dev :=
  if store then { d.wrN a (data.take n) with lastAcc := .written }
  else if d.poisoned a n then { d with lastAcc := .coreFault a }
  else { d with lastAcc := .read (d.rdN a n) }

/-- The core is of an application core pair that runs twinned (R241, R260). -/
def Dev.twinnedCore (d : Dev) (core : Nat) : Bool := decide (core < 24) && decide (d.getF (aTwinHstatus (core / 2)) 2 0 = 2)

/-- The queues of a pair, with CQ_USED (R252, R260). -/
def Dev.setHostQ (d : Dev) (h : Nat) (q : HostQueue) : Dev :=
  { d with hostQs := d.hostQs.put h q }.setF (aTwinHstatus h) 14 8 q.writes.length

/-- The result of a leading core's load enters the load-value queue of its pair (R252). -/
def Dev.keepLoad (d : Dev) (core : Nat) (store : Bool) (a n : Nat) : Dev :=
  if store || decide (d.lastAcc = .waits) then d
  else
    let q := d.hostQs.lookD (core / 2) {}
    d.setHostQ (core / 2) { q with loads := q.loads ++ [(a, n, d.lastAcc)] }

/-- An application core's access to memory (R282, R84, R297). A core whose cluster no instance is bound to
carries no partition, and the check refuses it. -/
def Dev.coreTry (d : Dev) (core : Nat) (store : Bool) (a n : Nat) (data : List Byte) : Dev :=
  let bad := match d.coreInst core with
    | some i => d.accBad (d.inst i).pt i a n
    | none => some a
  if d.quietAt a n then { d with lastAcc := .coreFault a } else
  match bad with
  | some x => { (d.refuse (68 + core / 8) x store) with lastAcc := .coreFault x }
  | none =>
    if d.mustWait a n store || d.behindCore core a n || d.stalled (68 + core / 8) then
      { d with waiting := d.waiting ++ [.coreAcc core store a n data], lastAcc := .waits }
    else if d.pathLost none a n then { d with lastAcc := .coreFault a }
    else (d.coreGo a n store data).traffic (68 + core / 8) a n

/-- The access, and what a load leaves for the trailing core. -/
def Dev.coreMem (d : Dev) (core : Nat) (store : Bool) (a n : Nat) (data : List Byte) : Dev :=
  let e := d.coreTry core store a n data
  if d.twinnedCore core then e.keepLoad core store a n else e

/-! ### PCIe window accesses (R379, R380) -/

/-- The pieces of a window range, each inside one 4 KiB page, as (device address or none, length). -/
def Inst.winPieces (i : Inst) (off len : Nat) : List (Option Nat × Nat) :=
  (pageStarts off len).map fun x => (i.winDev x, min (off + len) ((x / 4096 + 1) * 4096) - x)

/-- The address that a refused window access records: the device address where there is one, else the offset. -/
def Dev.winBad (d : Dev) (inst off len : Nat) : Option Nat :=
  let i := d.inst inst
  match (i.winPieces off len).find? fun p =>
      match p.1 with
      | some a => (d.accBad i.pt inst a p.2).isSome
      | none => true with
  | some p => some (p.1.getD off)
  | none => none

/-- The completion of a read reaches the requester, with EP where its data is poisoned or told so (R293, R447). -/
def cplOut (u : FiUnit) (ep : Bool) (d : Dev) : Dev :=
  match u with
  | .cpl bs bad inst _ =>
    let k := (d.inst inst).bindKind
    let port := if k = 1 ∨ k = 2 then k - 1 else d.boot.mgrIdx % 2
    let d := if bad || ep then (d.countHost inst 2).setB (aPcieErr port) 1 true else d
    { d with lastAcc := if bad || ep then .poisoned bs else .read bs }
  | _ => d

/-- A completion that is not sent. -/
def cplDropped (d : Dev) : Dev := { d with lastAcc := .dropped }

/-- A completion with Successful Completion status on a function's path (R447). The rows give no request tag: it is free.
Log entry 51 (DESIGN CHOICE). -/
def Dev.complete (d : Dev) (inst g : Nat) (bs : List Byte) (bad : Bool) : Dev :=
  let f := d.fresh
  ({ f.2 with lastAcc := .waits } : Dev).fiPass ⟨3, g, 0⟩ (.cpl bs bad inst (f.1 % 1024)) cplOut cplOut cplDropped

/-- A window access that nothing holds: the data, the poisoned mark, the host's counters. -/
def Dev.winGo (d : Dev) (inst g off : Nat) (write : Option (List Byte)) (len : Nat) : Dev :=
  let ps := (d.inst inst).winPieces off len
  match write with
  | some bs =>
    let r := ps.foldl (fun (acc : Dev × List Byte) p => (acc.1.wrN (p.1.getD 0) (acc.2.take p.2), acc.2.drop p.2)) (d, bs)
    { r.1.countAcct inst 9 len with lastAcc := .written }
  | none =>
    let bs := ps.flatMap fun p => d.rdN (p.1.getD 0) p.2
    let bad := ps.any fun p => d.poisoned (p.1.getD 0) p.2
    (d.countAcct inst 10 len).complete inst g bs bad

/-- The number under which the model keeps the physical function of the manager port, to which R294 gives no master.
Log entry 89 (DESIGN CHOICE). -/
def pfMaster : Nat := 192

/-- The master of a virtual function (R374). Log entry 89 (DESIGN CHOICE). -/
def Dev.vfMaster (d : Dev) (port vf : Nat) : Nat := 128 + d.getF (aPcieVfcfg port) 14 8 + (vf - 1)

/-- The port of a function, and its number on the port as PCIE_ERR_SRC has it (R374, R376). -/
def Dev.funcOf (d : Dev) (master : Nat) : Nat × Nat :=
  if master = pfMaster then (d.boot.mgrIdx % 2, 128)
  else
    let n0 := d.boot.totalVf.getD 0 0
    if master - 128 < n0 then (0, master - 128 + 1) else (1, master - 128 - n0 + 1)

/-- A refused request in the port's registers (R396): a read completes with Unsupported Request. -/
def Dev.pcieRefused (d : Dev) (port src off : Nat) (write : Bool) : Dev :=
  let d := (d.setPair (aPcieErrLo port) (aPcieErrHi port) (off % 2 ^ 40)).setReg (aPcieErrSrc port) (BitVec.ofNat 32 src)
  let d := if write then d else d.setB (aPcieErr port) 0 true
  { d with lastAcc := if write then .discarded else .unsupported }

/-- The regulator's record of a window access that the check refuses. -/
def Dev.refuseWin (d : Dev) (master x : Nat) (write : Bool) : Dev :=
  if master < pfMaster then d.refuse master x write
  else
    let f := d.fresh
    let cs := d.cnts
    { f.2.refuse (f.1 % 256) x write with cnts := cs }

/-- The dies that a window access reaches. -/
def Dev.winDies (d : Dev) (inst off len : Nat) : List Nat :=
  ((d.inst inst).winPieces off len).flatMap fun p =>
    match p.1 with
    | some a => d.diesOf a p.2
    | none => []

/-- An earlier request of the function to the same target waits (R16). Log entry 114 (DEDUCED). -/
def Dev.behindWin (d : Dev) (inst master off len : Nat) : Bool :=
  d.waiting.any fun w =>
    match w with
    | .pcieAcc i m o _ k => decide (m = master) && (d.winDies i o k).any fun x => decide (x ∈ d.winDies inst off len)
    | _ => false

/-- A posted write of the function waits before this request (R381). Log entry 50 (DESIGN CHOICE). -/
def Dev.behind (d : Dev) (master : Nat) : Bool :=
  d.waiting.any fun w =>
    match w with
    | .pcieAcc _ m _ wr _ | .pciePage m _ _ wr _ => decide (m = master) && wr.isSome
    | _ => false

/-- A window access of a function bound to an instance, with its fabric master. -/
def Dev.winAcc (d : Dev) (inst master off : Nat) (write : Option (List Byte)) (len : Nat) : Dev :=
  if d.behind master || d.behindWin inst master off len then
    { d with waiting := d.waiting ++ [.pcieAcc inst master off write len], lastAcc := .waits }
  else if ((d.inst inst).winPieces off len).any fun p => p.1.any fun a => d.quietAt a p.2 then { d with lastAcc := .error } else
  match d.winBad inst off len with
  | some x =>
    let d := (d.refuseWin master x write.isSome).countHost inst 1
    let f := d.funcOf master
    d.pcieRefused f.1 f.2 off write.isSome
  | none =>
    let held := ((d.inst inst).winPieces off len).any fun p => d.mustWait (p.1.getD 0) p.2 write.isSome
    if held || (decide (master < pfMaster) && d.stalled master) then { d with waiting := d.waiting ++ [.pcieAcc inst master off write len], lastAcc := .waits }
    else if ((d.inst inst).winPieces off len).any fun p => d.pathLost none (p.1.getD 0) p.2 then { d with lastAcc := .error }
    else
      let d := d.winGo inst (if master < pfMaster then master - 128 else 256) off write len
      if master < pfMaster then d.traffic master (((d.inst inst).winDev off).getD 0) len else d

end Sys2Proof.Machine
end

