-- ==== Sys2Proof/Machine/Dma.lean ====
section
/-! DEFINITION. The DMA engines (R305 to R318): fetching and validating descriptors, requests, bursts, write-back and errors. -/

namespace Sys2Proof.Machine

/-! ### Channels -/

/-- The engine of a channel: 0 the hub, 1 to 4 the compute dies. -/
def dmaEngine (ch : Nat) : Nat := if ch < 128 then 0 else 1 + (ch - 128) / 96

/-- The channels of an engine. -/
def dmaChannels (e : Nat) : List Nat := if e = 0 then List.range 128 else (List.range 96).map fun c => 128 + 96 * (e - 1) + c

def Dev.dmaState (d : Dev) (ch : Nat) : Nat := d.getF (aDmaStatus ch) 6 4
def Dev.dmaSetState (d : Dev) (ch st : Nat) : Dev := d.setF (aDmaStatus ch) 6 4 st
def Dev.dmaEn (d : Dev) (ch : Nat) : Bool := d.getB (aDmaCtrl ch) 0
def Dev.dmaFw (d : Dev) (ch : Nat) : Bool := d.getB (aDmaCfg ch) 23
def Dev.dmaPt (d : Dev) (ch : Nat) : Nat := d.getF (aDmaCfg ch) 19 16
def Dev.dmaInst (d : Dev) (ch : Nat) : Nat := d.getF (aDmaCfg ch) 13 8
def Dev.dmaCur (d : Dev) (ch : Nat) : Nat := d.pair (aDmaCurLo ch) (aDmaCurHi ch)
def Dev.dmaNext (d : Dev) (ch : Nat) : Nat := d.pair (aDmaNextLo ch) (aDmaNextHi ch)

/-- The master of a channel's accesses (R294). Log entry 58 (DESIGN CHOICE). -/
def Dev.dmaMaster (d : Dev) (ch : Nat) : Nat := 32 + d.dmaPt ch

/-! ### Descriptors (R307) -/

def DmaCh.w (c : DmaCh) (i : Nat) : Word := c.words.getD i 0
def DmaCh.src (c : DmaCh) : Nat := (c.w 0).toNat + (c.w 1).fld 7 0 * 2 ^ 32
def DmaCh.dst (c : DmaCh) : Nat := (c.w 2).toNat + (c.w 3).fld 7 0 * 2 ^ 32
def DmaCh.len (c : DmaCh) : Nat := (c.w 1).fld 31 8
def DmaCh.chain (c : DmaCh) : Bool := (c.w 3).bit 31
def DmaCh.irq (c : DmaCh) : Bool := (c.w 3).bit 30
def DmaCh.dmode (c : DmaCh) : Nat := (c.w 3).fld 27 26
def DmaCh.smode (c : DmaCh) : Nat := (c.w 3).fld 25 24
def DmaCh.bsz (c : DmaCh) : Nat := (c.w 3).fld 23 21
def DmaCh.req (c : DmaCh) : Nat := (c.w 3).fld 15 8
def DmaCh.next (c : DmaCh) : Nat := (c.w 4).fld 31 5 * 32 + (c.w 5).fld 7 0 * 2 ^ 32

/-- The bytes of the next burst (R310), and its addresses. -/
def DmaCh.burst (c : DmaCh) : Nat := min (64 * 2 ^ c.bsz) (c.len - c.done)
def DmaCh.srcAt (c : DmaCh) : Nat := if c.smode = 0 then c.src + c.done else c.src
def DmaCh.dstAt (c : DmaCh) : Nat := if c.dmode = 0 then c.dst + c.done else c.dst

/-- The channel is enabled and its descriptor in progress names a line. -/
def Dev.dmaUses (d : Dev) (ch r : Nat) : Bool :=
  d.dmaEn ch && decide (d.dmaState ch ∈ [2, 3]) && (d.dmaCh.look ch).any fun c => decide (c.req = r)

/-- The enabled channel that uses a request line. -/
def Dev.dmaUser (d : Dev) (r : Nat) : Option Nat := (d.dmaCh.keys).find? fun ch => d.dmaUses ch r

/-- The validation of R308; lines 108 to 254 are reserved or no lines (R309). -/
def Dev.dmaValid (d : Dev) (ch : Nat) (c : DmaCh) : Bool :=
  decide ((c.w 3).fld 29 28 = 0) && decide ((c.w 3).fld 20 16 = 0) && decide ((c.w 4).fld 4 0 = 0) &&
  decide ((c.w 5).fld 31 8 = 0) && decide ((c.w 7).fld 30 24 = 0) && decide ((c.w 7).fld 15 1 = 0) &&
  decide (0 < c.len) && decide (c.bsz ≠ 7) && decide (c.dmode ≤ 1) && decide (c.smode ≤ 1) &&
  (decide (c.req = 0xFF) ||
    (decide (c.req < 108) && decide (ch < 128) &&
      !(d.dmaCh.keys.any fun k => decide (k ≠ ch) && d.dmaUses k c.req)))

/-! ### Accesses (R306) -/

/-- A byte that the channel may reach: DRAM under the check of R286, or as a firmware master any memory. -/
def Dev.dmaOk (d : Dev) (ch x : Nat) : Bool :=
  if d.dmaFw ch then
    match d.phys x with
    | some k => !isDram k || d.stackUp (stackOf k)
    | none => false
  else d.accOk (d.dmaPt ch) (d.dmaInst ch) x

/-- The first address of a range that the channel may not reach. -/
def Dev.dmaBad (d : Dev) (ch a n : Nat) : Option Nat := (pageStarts a n).find? fun x => !d.dmaOk ch x

/-- The channel takes its data from its request line: a fixed source and a receive path (R307, R309). -/
def DmaCh.fromLine (c : DmaCh) : Bool :=
  decide (c.smode = 1) && (decide (c.req < 64) || (decide (c.req < 108) && decide (c.req % 2 = 0)))

/-- The channel gives its data to its request line: a fixed destination and a transmit path. -/
def DmaCh.toLine (c : DmaCh) : Bool := decide (c.dmode = 1) && decide (64 ≤ c.req) && decide (c.req < 108) && decide (c.req % 2 = 1)

/-! ### The end of a descriptor -/

/-- The requester of a channel's transfers (R15): a compute die, or the hub. -/
def dmaSrc (ch : Nat) : Option Nat := if dmaEngine ch = 0 then none else some (dmaEngine ch - 1)

/-- Words 6 and 7 in memory, OWN last. -/
def Dev.dmaStoreBack (d : Dev) (a xfer w7 : Nat) : Dev :=
  let d := d.wrWords (a + 24) [BitVec.ofNat 32 xfer, BitVec.ofNat 32 (2 ^ 31 + w7)]
  d.wr32 (a + 28) (BitVec.ofNat 32 w7)

/-- Words 6 and 7 written back (R312), once no lock and no link holds the line (R84). -/
def Dev.dmaWriteBack (d : Dev) (ch xfer err : Nat) (done : Bool) : Dev :=
  let a := d.dmaCur ch
  if (d.dmaBad ch a 32).isSome || d.quietAt a 32 then d else
  let w7 := err * 2 ^ 16 + b2n done
  if d.mustWaitFrom (dmaSrc ch) a 32 true then { d with waiting := d.waiting ++ [.dmaBack a xfer w7] } else d.dmaStoreBack a xfer w7

/-- A descriptor ends in error (R313). -/
def Dev.dmaError (d : Dev) (ch code addr : Nat) : Dev :=
  let xfer := ((d.dmaCh.look ch).map (·.done)).getD 0
  let d := d.dmaWriteBack ch xfer code false
  let d := ((d.setF (aDmaStatus ch) 23 16 code).setB (aDmaStatus ch) 2 true).dmaSetState ch 0
  let d := (d.setReg (aDmaErrLo ch) (BitVec.ofNat 32 addr)).setReg (aDmaErrHi ch) (BitVec.ofNat 32 (addr / 2 ^ 32 % 256))
  let d := (d.count 0x07 (16 * dmaEngine ch + 2 + code) 1).logE 6 0 ch addr code
  let d := { d with dmaCh := d.dmaCh.del ch }
  if d.getB (aDmaCfg ch) 1 then d.raise (.dma ch) else d

/-- The state of a channel that holds a descriptor. -/
def Dev.dmaReady (d : Dev) (ch : Nat) : Dev :=
  match d.dmaCh.look ch with
  | none => d
  | some c =>
    if c.len ≤ c.done then d.dmaSetState ch 4
    else if c.req = 0xFF ∨ 0 < d.getF (aDmaReq c.req) 7 0 then
      { d.dmaSetState ch 3 with dmaCh := d.dmaCh.put ch { c with since := if d.dmaState ch = 3 then c.since else d.now } }
    else d.dmaSetState ch 2

/-- A descriptor fetched at an address (R308). The channel stays in FETCH while the line must wait (R84). -/
def Dev.dmaFetch (d : Dev) (ch a : Nat) : Dev :=
  let d := d.setPair (aDmaNextLo ch) (aDmaNextHi ch) a
  if (d.dmaBad ch a 32).isNone && d.mustWaitFrom (dmaSrc ch) a 32 false then
    { d.dmaSetState ch 1 with waiting := d.waiting ++ [.dmaFetch ch a] } else
  let c : DmaCh := { words := d.rdWords a 8, since := d.now }
  let cur := d.setPair (aDmaCurLo ch) (aDmaCurHi ch) a
  if d.quietAt a 32 then cur.dmaError ch 5 a else
  match d.dmaBad ch a 32 with
  | some x => (cur.refuse (d.dmaMaster ch) x false).dmaError ch 1 x
  | none =>
    if d.poisoned a 32 then cur.dmaError ch 2 a
    else if !(c.w 7).bit 31 then
      ((d.setB (aDmaStatus ch) 3 true).dmaSetState ch 0).count 0x07 (16 * dmaEngine ch + 10) 1
    else if !d.dmaValid ch c then cur.dmaError ch 3 a
    else
      let d := { cur with dmaCh := cur.dmaCh.put ch c }
      (d.setReg (aDmaRemain ch) (BitVec.ofNat 32 c.len)).dmaReady ch

/-- A write of START (R308, R316). -/
def Dev.dmaStart (d : Dev) (ch : Nat) : Dev := if d.dmaEn ch && decide (d.dmaState ch = 0) then d.dmaFetch ch (d.dmaNext ch) else d

/-- DMA_START. -/
def execDmaStart (ch : Fin 512) (t : Nat) (s : State) : Host.Outcome State Fault Refusal := s.act t fun d => d.dmaStart ch.val

/-! ### Disabling (R314) -/

/-- A channel is disabled. REMAIN, words 6 and 7 but for OWN, and the destination range of an interrupted descriptor hold
undefined values. Log entry 58 (DESIGN CHOICE). -/
def Dev.dmaDisable (d : Dev) (ch : Nat) : Dev :=
  let d := d.setB (aDmaCtrl ch) 0 false
  match d.dmaCh.look ch with
  | none => d.dmaSetState ch 0
  | some c =>
    let a := d.dmaCur ch
    let f := d.fresh
    let d := f.2.setReg (aDmaRemain ch) (BitVec.ofNat 32 (f.1 % 2 ^ 24))
    let d := { d.dmaSetState ch 0 with dmaCh := d.dmaCh.del ch }
    let r : Region := if c.dmode = 0 then ⟨c.dst, c.len⟩ else ⟨c.dst, min c.len (64 * 2 ^ c.bsz)⟩
    let d := if c.toLine || (d.dmaBad ch r.base r.len).isSome then d else d.whey [r]
    if (d.dmaBad ch a 32).isSome then d else
    let w := d.freshBytes 8
    w.2.wrN (a + 24) ((w.1.take 7) ++ [(w.1.getD 7 0) ||| 0x80])

/-- DMA_DISABLE (R314). -/
def execDmaDisable (ch : Fin 512) (s : State) : Host.Outcome State Fault Refusal := s.act 0 fun d => d.dmaDisable ch.val

/-- The channels that an instance's CFG names are disabled at the squash (R314). -/
def Dev.stopDma (d : Dev) (n : Nat) : Dev :=
  forUpTo 512 (fun ch d => if decide (d.dmaInst ch = n) && decide (d.reg (aDmaCfg ch) ≠ 0) && d.dmaEn ch then d.dmaDisable ch else d) d

/-- The channels of a compute die reset to IDLE (R315). -/
def Dev.dmaResetDie (d : Dev) (die : Nat) : Dev :=
  forEach (dmaChannels (die + 1)) (fun ch d =>
    let d := { d with dmaCh := d.dmaCh.del ch }
    if d.dmaState ch = 0 then d else d.dmaSetState ch 0) d

/-! ### Requests (R310) -/

/-- A request on a line. -/
def Dev.dmaRequest (d : Dev) (r : Nat) : Dev :=
  let n := d.getF (aDmaReq r) 7 0
  match d.dmaUser r with
  | some ch =>
    if n < 255 then
      let d := d.setF (aDmaReq r) 7 0 (n + 1)
      if d.dmaState ch = 2 then d.dmaReady ch else d
    else d.dmaError ch 4 (d.dmaCur ch)
  | none => if n < 255 then d.setF (aDmaReq r) 7 0 (n + 1) else d.setB (aDmaReq r) 8 true

/-- DMA_REQUEST (R310). -/
def execDmaRequest (line : Fin 192) (t : Nat) (s : State) : Host.Outcome State Fault Refusal := s.act t fun d => d.dmaRequest line.val

/-- DMA_REQ.CLR (R317). -/
def execDmaReqClr (line : Fin 192) (s : State) : Host.Outcome State Fault Refusal :=
  s.act 0 fun d => d.setF (aDmaReq line.val) 7 0 0

/-! ### Bursts (R311) -/

/-- A burst reaches a resource on HD: the request line of a peripheral. -/
def DmaCh.lineUse (c : DmaCh) : Bool := c.fromLine || c.toLine

/-- The route of a compute die's channel to HD (R15) retrains. -/
def Dev.hubHeld (d : Dev) (ch : Nat) : Bool :=
  match dmaSrc ch with
  | some n => d.anyTraining && (d.routeHd n).any fun l => (d.link l).training
  | none => false

/-- A channel whose burst can start: ready, not stalled, and its addresses held by no lock and no retraining path. -/
def Dev.dmaCan (d : Dev) (ch : Nat) : Bool :=
  match d.dmaCh.look ch with
  | none => false
  | some c =>
    d.dmaEn ch && decide (d.dmaState ch = 3) && !d.stalled (d.dmaMaster ch) &&
    (c.fromLine || !d.mustWaitFrom (dmaSrc ch) c.srcAt c.burst false) && (c.toLine || !d.mustWaitFrom (dmaSrc ch) c.dstAt c.burst true) &&
    !(c.lineUse && d.hubHeld ch)

/-- The channel that an engine serves next: the highest PRIO, then round robin by channel number. -/
def Dev.dmaPick (d : Dev) (e : Nat) : Option Nat :=
  let last := (d.dmaLast.look e).getD 511
  let cs := (dmaChannels e).filter d.dmaCan
  let key (ch : Nat) : Nat × Nat := (7 - d.getF (aDmaCfg ch) 22 20, (ch + 511 - last) % 512)
  (sortBy (fun (a b : Nat × Nat × Nat) => decide (a.1 < b.1) || (decide (a.1 = b.1) && decide (a.2.1 ≤ b.2.1)))
    (cs.map fun ch => ((key ch).1, (key ch).2, ch))).head?.map (·.2.2)

/-- The bytes that a receive path gives: a camera stream's buffered bytes; what another peripheral gives is not part of the
model, and neither are bytes beyond the buffer. Log entry 58 (DESIGN CHOICE). -/
def Dev.lineBytes (d : Dev) (r n : Nat) : List Byte × Dev :=
  if r < 64 then
    let x := d.cams.lookD r {}
    let f := d.freshBytes (n - x.buf.length)
    (x.buf.take n ++ f.1, { f.2 with cams := f.2.cams.put r { x with buf := x.buf.drop n } })
  else d.freshBytes n

/-- The clock of an engine in kHz: MFCLK, slower in PARK, or the die's GXCLK (R305, R398). -/
def Dev.dmaKhz (d : Dev) (e : Nat) : Nat :=
  if e = 0 then d.getF (aClkStatus 4) 23 0 else d.getF (aClkStatus (e - 1)) 23 0

/-- The peripheral whose transmit line a burst writes is in reset or quiesces for one (R370, R408): a CAN controller or the switch. -/
def Dev.lineDown (d : Dev) (r : Nat) : Bool :=
  let dom := if decide (64 ≤ r) && decide (r < 96) then some 16 else if decide (96 ≤ r) && decide (r < 104) then some 15 else none
  dom.any fun x => decide (d.getF (aRstDomStatus x) 2 0 ≠ 0)

/-- One burst of a channel (R310, R311, R313, R370). Log entry 58 (DESIGN CHOICE). -/
def Dev.dmaMove (d : Dev) (ch : Nat) (c : DmaCh) : Dev :=
  let n := c.burst
  let e := dmaEngine ch
  let m := d.dmaMaster ch
  let d := { d with dmaLast := d.dmaLast.put e ch }
  let d := d.countMax 0x07 (16 * e + 9) ((d.now - c.since) * d.dmaKhz e / 10 ^ 6)
  let d := if c.req = 0xFF then d else d.setF (aDmaReq c.req) 7 0 (d.getF (aDmaReq c.req) 7 0 - 1)
  let d := d.count 0x07 (16 * e) 1
  let lost (a : Nat) : Bool := d.quietAt a n || d.pathLost (dmaSrc ch) a n
  if !c.fromLine && lost c.srcAt then d.dmaError ch 5 c.srcAt
  else if !c.toLine && lost c.dstAt then d.dmaError ch 5 c.dstAt
  else if c.toLine && d.lineDown c.req then d.dmaError ch 6 c.dstAt else
  let rbad := if c.fromLine then none else d.dmaBad ch c.srcAt n
  let wbad := if c.toLine then none else d.dmaBad ch c.dstAt n
  match rbad, wbad with
  | some x, _ => (d.refuse m x false).dmaError ch 1 x
  | none, some x => (d.refuse m x true).dmaError ch 1 x
  | none, none =>
    if !c.fromLine && d.poisoned c.srcAt n then d.dmaError ch 2 c.srcAt
    else
      let r := if c.fromLine then d.lineBytes c.req n else (d.rdN c.srcAt n, d.traffic m c.srcAt n)
      let d := if c.toLine then r.2 else (r.2.wrN c.dstAt r.1).traffic m c.dstAt n
      let d := d.count 0x07 (16 * e + 1) n
      let d := if d.dmaFw ch then d else d.countAcct (d.dmaInst ch) 4 n
      let d := { d with dmaCh := d.dmaCh.put ch { c with done := c.done + n, since := d.now } }
      (d.setReg (aDmaRemain ch) (BitVec.ofNat 32 (c.len - (c.done + n)))).dmaReady ch

/-- An engine starts a burst. -/
def Dev.dmaBurst (d : Dev) (e : Nat) : Dev :=
  match d.dmaPick e with
  | none => d
  | some ch =>
    match d.dmaCh.look ch with
    | some c => d.dmaMove ch c
    | none => d

/-- DMA_BURST (R311). -/
def execDmaBurst (engine : Fin 5) (t : Nat) (s : State) : Host.Outcome State Fault Refusal := s.act t fun d => d.dmaBurst engine.val

/-! ### Completion (R312) -/

/-- The last burst of a descriptor has been acknowledged: write-back, interrupt, chain. -/
def Dev.dmaDescComplete (d : Dev) (ch : Nat) : Dev :=
  match d.dmaCh.look ch with
  | none => d
  | some c =>
    -- the line that the write-back goes to is held (R17, R84): the descriptor completes later
    if d.dmaState ch ≠ 4 || ((d.dmaBad ch (d.dmaCur ch) 32).isNone && d.mustWaitFrom (dmaSrc ch) (d.dmaCur ch) 32 true) then d else
    let d := (d.dmaWriteBack ch c.done 0 true).count 0x07 (16 * dmaEngine ch + 2) 1
    let d := if c.irq && d.getB (aDmaCfg ch) 0 then d.raise (.dma ch) else d
    let d := { d with dmaCh := d.dmaCh.del ch }
    if c.chain then d.dmaFetch ch c.next else (d.dmaSetState ch 0).setB (aDmaStatus ch) 1 true

/-- DMA_DESC_COMPLETE (R312). -/
def execDmaDescComplete (ch : Fin 512) (t : Nat) (s : State) : Host.Outcome State Fault Refusal :=
  s.act t fun d => d.dmaDescComplete ch.val

/-- A peripheral signals an error to the channel that uses its line (R313). -/
def Dev.dmaPeriph (d : Dev) (r : Nat) : Dev :=
  match d.dmaUser r with
  | some ch => d.dmaError ch 6 (((d.dmaCh.look ch).map (·.srcAt)).getD 0)
  | none => d

end Sys2Proof.Machine
end

