-- ==== Sys2Proof/Machine/Graphs.lean ====
section
/-! DEFINITION. Graphs that Sebry runs: buffers and their status words (R228), ages (R229, R230), the
submission of a run's nodes (R235), and the prediction of a miss with its fall-back (R231, R232). -/

namespace Sys2Proof.Machine

/-! ### Buffers and status words (R228) -/

/-- Where a buffer's status word lies: the first 64-byte boundary after its end. -/
def Buf.status (b : Buf) : Nat := alignUp (b.addr + b.size) 64

def Dev.stampOf (d : Dev) (b : Buf) : Nat := d.rd64 (b.status + 8)

/-- A buffer holds (part of) a region. -/
def Buf.holds (b : Buf) (r : Region) : Bool := rangesMeet b.addr b.size r.base r.len

def Dev.graph? (d : Dev) (g : Nat) : Option Graph := d.graphs.look g
def Dev.setGraph (d : Dev) (g : Nat) (x : Graph) : Dev := { d with graphs := d.graphs.put g x }

/-- The buffers of a graph of one kind, in table order: outputs are KIND 3. -/
def Graph.ofKind (g : Graph) (k : Nat) : List Buf := g.bufs.filter (·.kind = k)

/-- The bound graph whose number the runs carry: the primary of a fall-back, or the graph itself. -/
def Dev.primaryOf (d : Dev) (g : Nat) : Nat := ((d.graph? g).bind (·.primary)).getD g

/-- The buffers that a node's inputs, or its outputs, lie in, by index. -/
def Graph.nodeBufs (g : Graph) (idx : Nat) (out : Bool) : List Nat :=
  match g.nodes[idx]? with
  | some x => ((if out then x.regions.drop x.nin else x.regions.take x.nin).map (·.1)).eraseDups
  | none => []

/-- The AGE_STAMP of a command (R229): of a graph's, the least stamp among the buffers of KIND 1, 2 and 3 that its input regions lie in,
and the start of its run where there is none; of any other, the time of its taking. -/
def Dev.ageOf (d : Dev) (c : Cmd) : Nat :=
  match c.node with
  | none => c.ageStamp
  | some n =>
    match d.graph? n.1 with
    | none => c.ageStamp
    | some g =>
      let bs := ((g.nodeBufs n.2.2 false).filterMap fun i => g.bufs[i]?).filter fun b => decide (1 ≤ b.kind) && decide (b.kind ≤ 3)
      match bs.map d.stampOf with
      | [] => (((d.graph? (d.primaryOf n.1)).bind fun p => p.runs.look n.2.1).map (·.start)).getD c.ageStamp
      | x :: t => t.foldl min x

/-- An age monitor failed (R230): log entry of KIND 5, counter, report code 7. -/
def Dev.ageFail (d : Dev) (g : Nat) (inst out : Nat) : Dev :=
  ((d.logE 5 0 g 0 out).countInst inst 15).report 7 g out

/-- R230 item 2: at the dispatch of a consumer, each age-limited output of another graph among its inputs. -/
def Dev.ageAtDispatch (d : Dev) (g : Nat) (ins : List Region) : Dev :=
  forEach d.graphs (fun p d =>
    if p.1 = g ∨ p.1 = d.primaryOf g then d else
    forEach p.2.ageLimits (fun l d =>
      match (p.2.ofKind 3)[l.1]? with
      | some b => if ins.any b.holds && decide (d.now - d.stampOf b > l.2 * 1000) then d.ageFail p.1 p.2.inst l.1 else d
      | none => d) d) d

/-- R228, R230 item 1: the status words of the buffers that a graph's command writes, as step 4 of its press writes them. A map whose
place in a map store another map has taken is no such buffer. -/
def Dev.writeStatus (d : Dev) (c : Cmd) : Dev :=
  match c.node.bind fun n => (d.graph? n.1).map fun g => (n, g) with
  | none => d
  | some (n, g) =>
    let ph := d.primaryOf n.1
    let limits := ((d.graph? ph).map (·.ageLimits)).getD []
    forEach (g.nodeBufs n.2.2 true) (fun i d =>
      match g.bufs[i]? with
      | none => d
      | some b =>
        if b.kind = 1 ∨ b.kind = 3 then
          let o := ((g.bufs.take i).filter (·.kind = 3)).length
          let lim := if b.kind = 3 then (Tab.look limits o).getD 0 else 0
          let stale := decide (lim ≠ 0) && decide (d.now - c.ageStamp > lim * 1000)
          let d := d.wrWords b.status ([BitVec.ofNat 32 (b2n g.primary.isSome * 2 + b2n stale), BitVec.ofNat 32 lim] ++ dwordWords c.ageStamp)
          if stale then d.ageFail ph g.inst o else d
        else d) d

/-! ### Runs (R235) -/

/-- A node as a command of run `k`: its regions at the addresses of the buffers. -/
def Graph.cmdOf (g : Graph) (gh k idx : Nat) (n : Node) (now : Nat) : Cmd :=
  let rs := n.regions.map fun r => (⟨((g.bufs[r.1]?).map (·.addr)).getD 0 + r.2.1, r.2.2⟩ : Region)
  { seq := 0, desc := n.desc, ins := rs.take n.nin, outs := rs.drop n.nin, params := n.params,
    takenT := now, node := some (gh, k, idx), ageStamp := now }

/-- A command as the commands of its node's parts, or as it is where Sebry has not cut the node (R225).
Log entry 31 (DESIGN CHOICE). -/
def Graph.partCmds (g : Graph) (idx : Nat) (c : Cmd) : List Cmd :=
  match g.cuts.look idx with
  | some ps => ps.map fun p => { c with part := some p }
  | none => [c]

/-- The nodes of a graph as the commands of run `k`, in table order. -/
def Graph.runCmds (g : Graph) (gh k now : Nat) : List Cmd :=
  g.nodes.zipIdx.flatMap fun n => g.partCmds n.2 (g.cmdOf gh k n.2 n.1 now)

/-- Commands that Sebry submits to a graph's queue, after those already submitted or before them. -/
def Dev.submitCmds (d : Dev) (q : Nat) (cs : List Cmd) (front : Bool) : Dev :=
  match d.queue? q with
  | some x =>
    let cs := cs.zipIdx.map fun c => { c.1 with seq := (x.head + c.2) % 2 ^ 32 }
    let n := (x.head + cs.length) % 2 ^ 32
    d.setQueue q { x with feed := if front then cs ++ x.feed else x.feed ++ cs, head := n, tail := n }
  | none => d

/-- Submits run `k` with the nodes of graph `ex` to the queue of the graph `gh`. Log entry 31 (DESIGN CHOICE). -/
def Dev.submitRun (d : Dev) (gh ex k : Nat) (front : Bool) : Dev :=
  match d.graph? gh, d.graph? ex with
  | some g, some e => d.submitCmds g.queue (e.runCmds ex k d.now) front
  | _, _ => d

/-- The stamp against which a run's age limits are predicted: the least stamp of the graph's input buffers,
or the start of the run. -/
def Dev.runStampOf (d : Dev) (g : Graph) : Nat :=
  match (g.ofKind 2).map d.stampOf with
  | [] => d.now
  | x :: t => t.foldl min x

/-! ### Prediction (R231, R232) -/

/-- The longest chain of estimates through commands in order, to those that write a buffer: a command
depends on an earlier one whose output it reads, and on the earlier parts of its node. -/
def chainTo (est : Cmd → Nat) (target : Buf) (cs : List Cmd) : Nat :=
  let ds := cs.foldl (fun (acc : List (Cmd × Nat)) c =>
    let before := acc.foldl (fun m p => if regionsMeet c.ins p.1.outs || (c.part.isSome && decide (p.1.node = c.node)) then max m p.2 else m) 0
    acc ++ [(c, before + est c)]) []
  ds.foldl (fun m p => if p.1.outs.any target.holds then max m p.2 else m) 0

/-- The outputs of a graph that have an age limit, with their buffers. -/
def Graph.limited (g : Graph) : List (Nat × Nat × Buf) :=
  g.ageLimits.filterMap fun l => ((g.ofKind 3)[l.1]?).map fun b => (l.1, l.2, b)

/-- The first output whose limit a list of commands would miss from now on. -/
def Dev.missOf (d : Dev) (g : Graph) (stamp : Nat) (cs : List Cmd) : Option Nat :=
  match d.eg? g.eg with
  | none => none
  | some e =>
    let len := ((d.ctx? g.ctx).map (·.cmdlen)).getD 1000
    let est (c : Cmd) : Nat := d.est g.eg e.engineList c (e.estUnits c) len
    (g.limited.find? fun l => decide (stamp + l.2.1 * 1000 < d.now + chainTo est l.2.2 cs)).map (·.1)

/-- A command of run `k` of graph `ex`. -/
def Cmd.ofRun (c : Cmd) (ex k : Nat) : Bool := c.node.any fun (n : Nat × Nat × Nat) => decide (n.1 = ex) && decide (n.2.1 = k)

/-- The unpressed commands of a run, in order. -/
def Dev.runRest (d : Dev) (q : Nat) (ex k : Nat) : List Cmd :=
  match d.queue? q with
  | some x => (x.window ++ x.feed).filter (·.ofRun ex k)
  | none => []

/-- The unpressed commands of a run are no more: those that have been taken are squashed, with whey in their outputs (R232). -/
def Dev.dropRun (d : Dev) (q ex k : Nat) : Dev :=
  let d := forEach (d.runRest q ex k) (fun c d => d.squash q c.seq) d
  let d := { d with queues := d.queues.adjust q fun x => { x with feed := x.feed.filter fun c => !c.ofRun ex k } }
  { d with graphs := d.graphs.adjust ex fun g => { g with pressed := g.pressed.filter fun p => decide (p.run ≠ k) } }

/-- The runs of a graph from number `k` on that have started leave the nodes of graph `old` for those of graph `ex` (R232).
Log entry 134 (DEDUCED). -/
def Dev.moveRuns (d : Dev) (gh old ex k : Nat) : Dev :=
  match d.graph? gh with
  | none => d
  | some g =>
    let ks := (g.runs.map (·.1)).filter fun j => decide (k ≤ j) && (decide (j = k) || !(d.runRest g.queue old j).isEmpty)
    let d := forEach ks (fun j d => d.dropRun g.queue old j) d
    forEach ks (fun j d => d.submitRun gh ex j false) d

/-- R232: the switch to the fall-back in the middle of run `k`; the runs after it use the fall-back too. -/
def Dev.switchFallback (d : Dev) (gh : Nat) (g : Graph) (fb k out : Nat) : Dev :=
  let d := d.setGraph gh { g with onFallback := true, goodRuns := 0 }
  let d := ((d.logE 5 0 gh 0 (out + 2 ^ 16)).countInst g.inst 16).report 8 gh out
  d.moveRuns gh gh fb k

/-- R231: a checkpoint of a run of graph `ex` with number `k`. `first` marks the dispatch of the run's
first command, at which a run on the fall-back is judged, once, for the return to the primary (R232).
Log entry 151 (DEDUCED). -/
def Dev.checkpoint (d : Dev) (ex k : Nat) (first : Bool) : Dev :=
  let gh := d.primaryOf ex
  match (d.graph? gh).bind fun g => (g.runs.look k).map fun r => (g, r) with
  | none => d
  | some (g, r) =>
    if ex = gh then
      match g.fallback, d.missOf g r.stamp (d.runRest g.queue gh k) with
      | some fb, some out =>
        -- when the fall-back itself would miss, the run continues (R232)
        match (d.graph? fb).bind fun f => d.missOf g r.stamp (f.runCmds fb k d.now) with
        | none => d.switchFallback gh g fb k out
        | some _ => d
      | _, _ => d
    else if first && g.onFallback && decide (g.goodRun < k) then
      let ok := (d.missOf g r.stamp (g.runCmds gh k d.now)).isNone
      let n := if ok then g.goodRuns + 1 else 0
      if 8 ≤ n then
        let d := d.setGraph gh { g with onFallback := false, goodRuns := 0, goodRun := k }
        (((d.logE 5 0 gh 0 (2 ^ 17)).countInst g.inst 16).endCond 8 gh).moveRuns gh ex gh (k + 1)
      else d.setGraph gh { g with goodRuns := n, goodRun := k }
    else d

/-! ### The parts of a cut node (R508) -/

/-- The append of a KV_APPEND undone: the lengths that it published, and the pages that they need no more.
Log entry 135 (DESIGN CHOICE). -/
def Dev.unappend (d : Dev) (q : Nat) (c : Cmd) : Dev :=
  match d.kvPool q c with
  | none => d
  | some pl =>
    forEach (d.kvRuns c) (fun r d =>
      let len := d.seqLen c r.1
      let d := forEach (List.range (cdiv len 16 - cdiv (len - r.2) 16)).reverse (fun i d =>
        let e := cdiv (len - r.2) 16 + i
        (d.pushPage c.kvDie pl ((d.pte c r.1 e).fld 17 0)).wr32 (c.seqAddr r.1 + 16 + 4 * e) 0) d
      d.wr32 (c.seqAddr r.1) (BitVec.ofNat 32 (len - r.2))) d

/-- A part of a cut node has pressed. Once no other part of the node is left, the parts that pressed at narrower rungs are submitted
again at the rungs that this one has reached, as new commands before any consumer; of parts cut along K, those after them too.
Log entry 135 (DESIGN CHOICE). -/
def Dev.partPress (d : Dev) (q : Nat) (c : Cmd) : Dev :=
  match c.node, c.part with
  | some n, some p =>
    match d.graph? n.1 with
    | none => d
    | some g =>
      let mine (x : PartPress) : Bool := decide (x.run = n.2.1) && decide (x.node = n.2.2)
      let ps := g.pressed.filter (fun x => !(mine x && decide (x.part.idx = p.idx))) ++ [⟨n.2.1, n.2.2, p, c.rungIn, c.rungOut⟩]
      let kept := if c.partials = [] then g.partials else g.partials.put (partKey n.2.2 p.idx) c.partials
      let d := d.setGraph n.1 { g with pressed := ps, partials := kept }
      if (d.runRest q n.1 n.2.1).any fun x => decide (x.node = c.node) then d else
      let narrow (x : PartPress) : Bool := mine x && decide ((x.rungIn, x.rungOut) ≠ (c.rungIn, c.rungOut))
      let again := ps.filter fun x => narrow x || (mine x && x.part.ks.isSome && ps.any fun y =>
        narrow y && decide (y.part.rows = x.part.rows) && decide (y.part.cols = x.part.cols) && decide (y.part.idx < x.part.idx))
      if again = [] then d.setGraph n.1 { g with pressed := ps.filter (!mine ·), partials := [] } else
      let cmd (x : PartPress) : Cmd :=
        { seq := 0, desc := c.desc, ins := c.ins, outs := c.outs, params := c.params, takenT := d.now, node := c.node, ageStamp := c.ageStamp,
          part := some (if c.cls = 3 then { x.part with rows := none } else x.part), rungIn := c.rungIn, rungOut := c.rungOut }
      let cs := (sortBy (fun (a b : PartPress) => decide (a.part.idx ≤ b.part.idx)) again).map cmd
      let d := if c.op = 0x0301 then forEach cs (fun x d => d.unappend q x) d else d
      d.submitCmds q cs true
  | _, _ => d

/-- A part has been refused: the later parts of its node are dispatched at the rungs that it has reached.
Log entry 135 (DESIGN CHOICE). -/
def Dev.partRefused (d : Dev) (q : Nat) (c : Cmd) (r : Nat × Nat) : Dev :=
  match c.part with
  | none => d
  | some p =>
    let up (x : Cmd) : Cmd :=
      if x.node = c.node ∧ x.part.any fun (y : Part) => p.idx < y.idx then { x with rungIn := some r.1, rungOut := some r.2 } else x
    { d with queues := d.queues.adjust q fun x => { x with window := x.window.map up, feed := x.feed.map up } }

/-- A command reads what a part of another node of its run, taken and not pressed, writes (R508 item 1). -/
def Queue.awaitsParts (x : Queue) (c : Cmd) : Bool :=
  x.window.any fun y => y.part.isSome && decide (y.node ≠ c.node) && decide (y.node.map (fun n => (n.1, n.2.1)) = c.node.map fun n => (n.1, n.2.1)) &&
    regionsMeet c.ins y.outs

end Sys2Proof.Machine
end

