-- ==== Sys2Proof/Machine/Streams.lean ====
section
/-! DEFINITION. The signature streams of a twinned pair (R243, R245 to R247, R269, R505): writes as doublewords, records, the two
signatures, the delay buffer, and when step 2 of the press passes. -/

namespace Sys2Proof.Machine

/-! ### The two signatures (R246) -/

/-- One byte of the CRC-64: the polynomial of ECMA-182, reflected. -/
def crc64Byte (c : Dword) (b : Byte) : Dword :=
  forUpTo 8 (fun _ x => if x.getLsbD 0 then (x >>> 1) ^^^ 0xC96C5795D7870F42#64 else x >>> 1) (c ^^^ b.setWidth 64)

/-- SIG_A: the CRC-64 over the bytes of the doublewords, all ones at its start and inverted at its end. -/
def sigA (ds : List Dword) : Dword :=
  ((ds.flatMap fun x => leBytes 8 x.toNat).foldl crc64Byte (BitVec.allOnes 64)) ^^^ BitVec.allOnes 64

/-- SIG_B: Σ (j + 1) × d_j modulo 2⁶⁴. -/
def sigB (ds : List Dword) : Dword := ds.zipIdx.foldl (fun s x => s + BitVec.ofNat 64 (x.2 + 1) * x.1) 0

/-! ### Writes and records (R245) -/

/-- The write of line `l` that stores the bytes `bs` at address `a`, as far as they lie in it: ten doublewords. -/
def lineWrite (a : Nat) (bs : List Byte) (l : Nat) : List Dword :=
  let lo := max a (64 * l)
  let hi := min (a + bs.length) (64 * l + 64)
  let data := List.replicate (lo - 64 * l) 0 ++ (bs.drop (lo - a)).take (hi - lo) ++ List.replicate (64 * l + 64 - hi) 0
  BitVec.ofNat 64 (64 * l) :: BitVec.ofNat 64 ((2 ^ (hi - lo) - 1) * 2 ^ (lo - 64 * l)) ::
    (List.range 8).map fun i => BitVec.ofNat 64 (leNat ((data.drop (8 * i)).take 8))

/-- The writes that store bytes at an address: one for each line, in ascending address (R505). -/
def lineWrites (a : Nat) (bs : List Byte) : List (List Dword) :=
  if bs = [] then [] else (List.range ((a + bs.length - 1) / 64 + 1 - a / 64)).map fun i => lineWrite a bs (a / 64 + i)

/-- A stream as records: one for every 64 writes, and the last with what is left, what the unit adds and the number of records.
Log entry 138 (DEDUCED). -/
def closeRecords (ws : List (List Dword)) (tail : List Dword) : List (List Dword) :=
  let n := ws.length / 64 + 1
  (List.range n).map fun i =>
    ((ws.drop (64 * i)).take 64).flatten ++ if i + 1 = n then tail ++ [BitVec.ofNat 64 n] else []

/-- The fit status word of step 4, where FIT_REG names a region: for a chain, the formats of its first and
last layers and the count over every layer (R153, R206). Log entry 138 (DEDUCED). -/
def Cmd.fitHeld (c : Cmd) : List HeldWrite :=
  if !c.isJob && (decide (c.cls = 1) || decide (c.op = 0x0301) || decide (c.cls = 4)) && decide (c.gx.fitReg ≠ 0xF) then
    [⟨(c.region c.gx.fitReg).base, c.fitWord⟩]
  else if decide (c.op = 0x0201) && decide ((c.p 9).fld 7 4 ≠ 0xF) then
    let ls := c.myLayers.map (·.2)
    let thr := if (c.p 10).fld 15 0 = 0 then 64 else (c.p 10).fld 15 0
    let bad := (c.p 8).bit 12 && decide (c.cOut * 65536 > thr * c.convNout)
    let w0 := b2n bad * 2 ^ 11 + ((ls.getLast?).map (·.ofmt)).getD 0 * 16 + ((ls.head?).map (·.afmt)).getD 0
    [⟨(c.region ((c.p 9).fld 7 4)).base, leBytes 8 w0 ++ leBytes 8 0 ++ leBytes 8 c.cOut ++ leBytes 8 0⟩]
  else []

/-- What the engine stream's last record takes in besides the record count: the clip counts of the engine's share, and at rank 0 the
page numbers and the held writes of the command. Log entry 138 (DEDUCED). -/
def Cmd.recordTail (c : Cmd) (rank : Nat) (cIn cOut : Dword) : List Dword :=
  [cIn, cOut] ++
  if rank = 0 then
    (c.pages.map fun p => BitVec.ofNat 64 p.2.2) ++ (c.held ++ c.fitHeld).flatMap fun h => (lineWrites h.addr h.data).flatten
  else []

/-- Rows in chunks of the accumulator's 2,048 (R103). -/
def rowChunks (rows : List (Nat × List Ext)) : List (List (Nat × List Ext)) :=
  (List.range (cdiv rows.length 2048)).map fun i => (rows.drop (2048 * i)).take 2048

/-- The records of the engine stream of one rank of a class 0x01 command, from the memory as it is (R245, R505).
Log entry 138 (DEDUCED). -/
def Dev.gxRecords (d : Dev) (c : Cmd) (rank ranks : Nat) : List (List Dword) :=
  let p := c.gx
  let fm := c.runFmts
  let res := d.gxRows c (c.rowList p.m)
  let tiles := ((c.colList p.n).map (· / 32)).eraseDups
  let mine := tiles.zipIdx.filter fun t => decide (tileRank tiles.length ranks t.2 = rank)
  let book := if isCb p.ofmt then d.book (c.region p.cbReg).base p.cbSelOut (if fm.2.1 = 10 then 256 else 16) else []
  let group (r : Nat × List Ext) (t : Nat × Nat) : OutGroup :=
    convGroup p fm.2.1 fm.2.2.2 book r.1 (t.1 * 32) ((r.2.drop (32 * t.2)).take 32)
  let row (t : Nat × Nat) (r : Nat × List Ext) : List (List Dword) :=
    let g := group r t
    lineWrites ((c.region p.yReg).base + r.1 * p.ldy + t.1 * 32 * fmtBits fm.2.1 / 8) (packRow fm.2.1 g.codes) ++
      if p.yscReg = 0xF then []
      else lineWrites ((c.region p.yscReg).base + (r.1 * cdiv p.n 32 + t.1) * 4)
        (leBytes 4 (if needsYsc fm.2.1 then g.ysc else 0).toNat)
  let clips (ts : List (Nat × Nat)) : Nat :=
    res.1.foldl (fun n r => n + ts.foldl (fun k t => k + (group r t).clips) 0) 0
  let whole := { c with cIn := res.2, cOut := if c.lastK p.k then clips tiles.zipIdx else 0 }
  let writes := if c.lastK p.k then (rowChunks res.1).flatMap fun ch => mine.flatMap fun t => ch.flatMap (row t) else []
  closeRecords writes (whole.recordTail rank (BitVec.ofNat 64 (if mine = [] then 0 else res.2))
    (BitVec.ofNat 64 (if c.lastK p.k then clips mine else 0)))

/-! ### Reference runs (R269) -/

/-- An address for reference data where none of some regions lies. -/
def Dev.refScratch (d : Dev) (rs : List Region) (n : Nat) : Nat :=
  ((0 :: rs.map fun r => alignUp (r.base + r.len) 4096).find? fun a =>
    d.mapped a n && !rs.any fun r => rangesMeet a n r.base r.len).getD 0

/-- The regions of a reference node: those in KIND 0 buffers in place, the other inputs in the reference data one after another, and
output i of the list at i × 2⁴⁰, so that a line's address is the doubleword 0 of R269. -/
def Graph.refRegions (g : Graph) (x : Node) (data : Nat) : List Region :=
  let kind (r : Nat × Nat × Nat) : Option Nat := (g.bufs[r.1]?).map (·.kind)
  x.regions.zipIdx.map fun r =>
    if x.nin ≤ r.2 then ⟨r.2 * 2 ^ 40, r.1.2.2⟩
    else if kind r.1 = some 0 then ⟨((g.bufs[r.1.1]?).map (·.addr)).getD 0 + r.1.2.1, r.1.2.2⟩
    else ⟨data + (((x.regions.take r.2).filter fun y => kind y ≠ some 0).foldl (fun n y => n + y.2.2) 0), r.1.2.2⟩

/-- The records of the engine stream of a reference run, with E = 1. -/
def Dev.refRecords (d : Dev) (g : Graph) (b : RefBlock) : List (List Dword) :=
  match g.nodes[b.node]? with
  | none => []
  | some x =>
    let fixed := ((x.regions.take x.nin).filter fun r => ((g.bufs[r.1]?).map (·.kind)) = some 0).map fun r =>
      (⟨((g.bufs[r.1]?).map (·.addr)).getD 0 + r.2.1, r.2.2⟩ : Region)
    let a := d.refScratch fixed b.data.length
    let rs := g.refRegions x a
    let c : Cmd := { seq := 0, desc := x.desc, ins := rs.take x.nin, outs := rs.drop x.nin, params := x.params }
    (d.wrRaw a b.data).gxRecords c 0 1

/-! ### The pairs of a command, and its records (R219, R245, R505) -/

def Cmd.pairs (c : Cmd) : List Nat := (c.engines.map (· / 2)).eraseDups

/-- The pair whose signatures the two runs of a twinned TOPK or NMS enter: the lowest TWINNED pair of the group on the die.
Log entry 139 (DESIGN CHOICE). -/
def Dev.sortPair (d : Dev) (q : Nat) (c : Cmd) : Option Nat :=
  match (d.ctx? (d.ctxOfQ q)).bind fun x => d.eg? x.eg with
  | some g => (List.range 8).map (· + 8 * c.sortDieOf) |>.find? fun p => bitOf g.engines (2 * p) && decide (d.pairState p = 2)
  | none => none

/-- The pairs whose records a command's step 2 waits for. -/
def Dev.twinPairs (d : Dev) (q : Nat) (c : Cmd) : List Nat :=
  if !d.twinnedQ q then [] else if c.isSort then (d.sortPair q c).toList else c.pairs

/-- The streams in which a command closes records: the engine's, and for a kernel those of the four cores. -/
def Cmd.streams (c : Cmd) : List Nat := if c.cls = 4 ∨ c.op = 0x0204 then [0, 1, 2, 3, 4] else [0]

/-- A pair has passed the last record of every stream in which records close. -/
def PairState.done (x : PairState) (c : Cmd) : Bool :=
  (c.streams ++ x.records.map (·.1)).all fun s => decide (s ∈ x.closed)

/-- A pair begins a run: no record has closed. -/
def PairState.begin (x : PairState) : PairState :=
  { x with records := [], closed := [], stream := [], sigs := [], delay := [], ended := none }

/-! ### The delay buffer (R243, R247) -/

/-- DB_USED follows the buffer. -/
def Dev.putPair (d : Dev) (p : Nat) (x : PairState) : Dev :=
  { d with pairs := d.pairs.put p x }.setF (aTwinPstatus p) 14 8 x.delay.length

/-- A pair begins a run. -/
def Dev.beginPair (d : Dev) (p : Nat) : Dev := d.putPair p (d.pairSt p).begin

/-- 4,096 GXCLK cycles of a pair's die in ns. -/
def Dev.holdNs (d : Dev) (p : Nat) : Nat := 4096 * 10 ^ 6 / max 1 (d.getF (aClkStatus (p / 8)) 23 0)

/-- The leading copy is held: its buffer is full, or its oldest record has waited 4,096 GXCLK cycles (R243). -/
def Dev.leadHeld (d : Dev) (p : Nat) (es : List DelayEntry) : Bool :=
  decide (64 ≤ es.length) || es.any fun e => decide (e.since + d.holdNs p ≤ d.now)

/-- The leading copy closes records until it is held or has closed them all. Log entry 140 (DESIGN CHOICE). -/
def Dev.fillDelay (d : Dev) (p : Nat) : Dev :=
  let x := d.pairSt p
  let n := (Tab.look x.records 0).getD 0 + x.delay.length
  let es := (x.stream.drop n).zipIdx.foldl (fun (es : List DelayEntry) r =>
    if d.leadHeld p es then es else es ++ [⟨0, n + r.2, sigA r.1, sigB r.1, d.now⟩]) x.delay
  d.putPair p { x with delay := es }

/-- A command's run has issued its writes: the records of each pair's engine stream, where the manual orders them. -/
def Dev.closeStreams (before d : Dev) (q : Nat) (c : Cmd) : Dev :=
  let r := before.ranksOf q c.engines
  forEach (d.twinPairs q c) (fun p d =>
    if c.cls = 1 then
      let rank := ((r.2.find? fun e => decide (e.1 / 2 = p)).map (·.2)).getD 0
      (d.putPair p { d.pairSt p with stream := before.gxRecords c rank r.1 }).fillDelay p
    else d) d

end Sys2Proof.Machine
end

