-- ==== Sys2Proof/Machine/Gfx.lean ====
section
/-! DEFINITION. The graphics unit's jobs: surfaces (R331, R332), RENDER (R323–R330) and KERNEL (R333). -/

namespace Sys2Proof.Machine

/-! ### Surfaces (R331, R332) -/

/-- Bytes per pixel of a format code without bit 7; 0 for a reserved code. NV12 counts its Y plane. -/
def pixBytes (f : Nat) : Nat :=
  match f with
  | 0x01 | 0x02 | 0x04 => 4
  | 0x03 | 0x11 => 2
  | 0x10 => 1
  | _ => 0

def surfComp (f : Nat) : Bool := bitOf f 7
def surfCode (f : Nat) : Nat := f % 128

/-- A display format: every code, compressed with codes 1, 2 and 4 only. -/
def dispFmt (f : Nat) : Bool :=
  decide (0 < pixBytes (surfCode f)) && (!surfComp f || decide (surfCode f ∈ [1, 2, 4]))
/-- A render format: codes 1 to 4 and their compressed forms. -/
def rendFmt (f : Nat) : Bool := dispFmt f && decide (surfCode f ≤ 4)

def surfLds (w b : Nat) : Nat := 64 * ((w * b + 63) / 64)
def surfBlocks (w h : Nat) : Nat := ((w + 7) / 8) * ((h + 7) / 8)

/-- The bytes of a compressed surface, and of any surface. -/
def compBytes (w h : Nat) : Nat := 4096 * ((surfBlocks w h + 4095) / 4096) + 256 * surfBlocks w h
def surfBytes (f w h : Nat) : Nat :=
  if surfComp f then compBytes w h
  else surfLds w (pixBytes (surfCode f)) * (if f = 0x10 then h + h / 2 else h)

/-- The four channel bytes of pixel i of a compressed block, as one number (R332): `hdr` the header, `data`
the block's 256 bytes. -/
def blockPixel (hdr : Nat) (data : List Byte) (i : Nat) : Nat :=
  if bitOf hdr 3 then leNat ((data.drop (4 * i)).take 4)
  else
    let fld (ch : Nat) : Nat := leNat ((data.drop (2 * ch)).take 2)
    let b (ch : Nat) : Nat := fld ch / 256 % 16
    let all := leNat (data.drop 8)
    let off (ch : Nat) : Nat := 64 * ((List.range ch).foldl (fun n k => n + b k) 0)
    (List.range 4).foldl (fun n ch => n + (fld ch % 256 + all / 2 ^ (off ch + i * b ch) % 2 ^ b ch) % 256 * 256 ^ ch) 0

/-- Packs values of `b` bits from the least significant bit. -/
def packBits (b : Nat) (vs : List Nat) : Nat := vs.foldr (fun v acc => v % 2 ^ b + 2 ^ b * acc) 0

/-- A block compressed: header byte and data bytes (R332). `px` holds its 64 pixels. -/
def packBlock (px : List Nat) : Nat × List Byte :=
  let ch (k : Nat) : List Nat := px.map fun p => p / 256 ^ k % 256
  let base (k : Nat) : Nat := (ch k).foldl min 255
  let wid (k : Nat) : Nat :=
    let r := (ch k).foldl max 0 - base k
    if r = 0 then 0 else Nat.log2 r + 1
  let sum := wid 0 + wid 1 + wid 2 + wid 3
  let len := 8 + 8 * sum
  if 256 ≤ len then (0xF, px.flatMap (leBytes 4))
  else
    let flds := (List.range 4).flatMap fun k => leBytes 2 (wid k * 256 + base k)
    let deltas := (List.range 4).foldl (fun (acc : Nat × Nat) k =>
      (acc.1 + packBits (wid k) ((ch k).map (· - base k)) * 2 ^ acc.2, acc.2 + 64 * wid k)) (0, 0)
    ((len + 31) / 32 - 1, flds ++ leBytes (8 * sum) deltas.1)

/-- The pixel at (x, y) of a surface of one plane. -/
def Dev.pixel (d : Dev) (f base w x y : Nat) (h : Nat) : Nat :=
  if surfComp f then
    let j := y / 8 * ((w + 7) / 8) + x / 8
    let data := base + 4096 * ((surfBlocks w h + 4095) / 4096) + 256 * j
    blockPixel (d.rd8 (base + j)).toNat (d.rdN data 256) (y % 8 * 8 + x % 8)
  else
    let b := pixBytes (surfCode f)
    d.rdLe (base + y * surfLds w b + x * b) b

/-- A whole surface written: `px` its pixels, row by row. The rest of a compressed block's last sector
holds undefined values. -/
def Dev.writeSurf (d : Dev) (f base w h : Nat) (px : List Nat) : Dev :=
  if surfComp f then
    let bw := (w + 7) / 8
    forUpTo (surfBlocks w h) (fun j d =>
      let blk := (List.range 64).map fun i =>
        let x := j % bw * 8 + i % 8
        let y := j / bw * 8 + i / 8
        if x < w ∧ y < h then px.getD (y * w + x) 0 else 0
      let r := packBlock blk
      let fb := d.freshBytes (32 * (r.1 % 8 + 1) - r.2.length)
      (fb.2.wrN (base + j) [BitVec.ofNat 8 r.1]).wrN (base + 4096 * ((surfBlocks w h + 4095) / 4096) + 256 * j) (r.2 ++ fb.1)) d
  else
    let b := pixBytes (surfCode f)
    forUpTo h (fun y d => d.wrN (base + y * surfLds w b) (((px.drop (y * w)).take w).flatMap (leBytes b))) d

/-! ### The parameter blocks (R323, R333) -/

structure RenderP where
  zReg : Nat
  rtReg : Nat
  binReg : Nat
  txReg : Nat
  vbReg : Nat
  prgReg : Nat
  dlReg : Nat
  h : Nat
  w : Nat
  zLoad : Bool
  rtLoad : Bool
  zen : Bool
  fmt : Nat
  clear : Word
  clearZ : Word
  ndraw : Nat
  layer : Nat
  pipe : Nat
  flip : Bool
  deriving DecidableEq, Repr, Inhabited

def Cmd.render (c : Cmd) : RenderP :=
  let w := c.p
  { zReg := (w 0).fld 27 24, rtReg := (w 0).fld 23 20, binReg := (w 0).fld 19 16, txReg := (w 0).fld 15 12,
    vbReg := (w 0).fld 11 8, prgReg := (w 0).fld 7 4, dlReg := (w 0).fld 3 0, h := (w 1).fld 31 16,
    w := (w 1).fld 15 0, zLoad := (w 2).bit 10, rtLoad := (w 2).bit 9, zen := (w 2).bit 8,
    fmt := (w 2).fld 7 0, clear := w 3, clearZ := w 4, ndraw := (w 5).fld 19 0, layer := (w 6).fld 5 3,
    pipe := (w 6).fld 2 1, flip := (w 6).bit 0 }

/-- The format of a RENDER job's depth surface: four bytes, compressed when RTFMT is (log entry 24).
Log entry 24 (DESIGN CHOICE). -/
def RenderP.zFmt (p : RenderP) : Nat := if surfComp p.fmt then 0x81 else 0x01

/-- The checks of R320, R323 and R333 on a job's parameter block; `layerOk` tells that the layer to be
flipped belongs to the context's partition. -/
def Cmd.jobValid (c : Cmd) (layerOk : Bool) : Bool :=
  let w := c.p
  let isIn (r : Nat) : Bool := decide (r < c.nin)
  let isOut (r : Nat) : Bool := decide (c.nin ≤ r) && decide (r < c.ins.length + c.outs.length)
  let long (i n : Nat) : Bool := decide (n ≤ (c.region i).len)
  if c.op = 0x10001 then
    let p := c.render
    let bin := (c.region p.binReg).len
    decide (c.params.length = 64) && decide ((w 0).fld 31 28 = 0) && decide ((w 2).fld 31 11 = 0) &&
    decide ((w 5).fld 31 20 = 0) && decide ((w 6).fld 31 6 = 0) && ((List.range 9).all fun i => decide (w (7 + i) = 0)) &&
    isIn p.dlReg && isIn p.prgReg && isIn p.vbReg && (decide (p.txReg = 0xF) || isIn p.txReg) &&
    isOut p.binReg && isOut p.rtReg && (if p.zen then isOut p.zReg else decide (p.zReg = 0xF) && !p.zLoad) &&
    decide (1 ≤ p.w) && decide (p.w ≤ 8192) && decide (1 ≤ p.h) && decide (p.h ≤ 8192) && rendFmt p.fmt &&
    decide (1 ≤ p.ndraw) && decide (4 * 2 ^ 20 ≤ bin) && decide (bin ≤ 256 * 2 ^ 20) &&
    long p.dlReg (64 * p.ndraw) && long p.rtReg (surfBytes p.fmt p.w p.h) &&
    (!p.zen || long p.zReg (surfBytes p.zFmt p.w p.h)) && (!p.flip || layerOk)
  else if c.op = 0x10002 then
    decide (c.params.length = 64) && decide ((w 0).fld 31 4 = 0) && isIn ((w 0).fld 3 0) &&
    decide ((w 2).fld 31 24 = 0) && decide (1 ≤ (w 2).fld 23 0)
  else false

/-! ### RENDER -/

structure Draw where
  cull : Bool
  lock : Bool
  blend : Nat
  zfunc : Nat
  zwrite : Bool
  ztest : Bool
  indexed : Bool
  strip : Bool
  count : Nat
  vs : Nat
  fs : Nat
  voff : Nat
  nvary : Nat
  vstride : Nat
  ioff : Nat
  const : List Word
  deriving DecidableEq, Repr, Inhabited

/-- Draw record i of a job (R324); none where the record breaks the table. -/
def Dev.draw (d : Dev) (c : Cmd) (i : Nat) : Option Draw :=
  let p := c.render
  let x (k : Nat) : Word := d.rd32 ((c.region p.dlReg).base + 64 * i + 4 * k)
  let r : Draw :=
    { cull := (x 0).bit 10, lock := (x 0).bit 9, blend := (x 0).fld 8 7, zfunc := (x 0).fld 6 4,
      zwrite := (x 0).bit 3, ztest := (x 0).bit 2, indexed := (x 0).bit 1, strip := (x 0).bit 0,
      count := (x 1).fld 23 0, vs := (x 2).toNat, fs := (x 3).toNat, voff := (x 4).toNat,
      nvary := (x 5).fld 20 16, vstride := (x 5).fld 15 0, ioff := (x 6).toNat,
      const := (List.range 8).map fun k => x (8 + k) }
  if (x 0).fld 31 11 = 0 ∧ (x 1).fld 31 24 = 0 ∧ (x 5).fld 31 21 = 0 ∧ x 7 = 0 ∧ r.blend ≤ 2 ∧ 3 ≤ r.count ∧
     r.nvary ≤ 16 ∧ (p.zen ∨ (!r.ztest ∧ !r.zwrite)) then some r else none

/-- A vertex as the vertex program returns it, with its window coordinates (R326): sx and sy in units of
1/256 pixel. -/
structure Vtx where
  w  : Ext
  sx : Int
  sy : Int
  sz : Ext
  ok : Bool
  vary : List Ext
  deriving Inhabited

/-- Vertex k of a draw (R325, R326). Log entry 24 (DESIGN CHOICE). -/
def vertex (p : RenderP) (dr : Draw) (ins : List (List Byte)) (index : Nat) : Vtx :=
  let out (k : Nat) : Ext := fp32.decode (Config.shaderVertex ins dr.vs
    ([BitVec.ofNat 32 index, BitVec.ofNat 32 (dr.voff + index * dr.vstride)] ++ dr.const) k).toNat
  let x := out 0
  let y := out 1
  let z := out 2
  let w := out 3
  let lim := mul32 (.ofInt 64) w
  let ok := Ext.zero.lt w && x.abs.le lim && y.abs.le lim
  let half (v : Ext) (n : Nat) : Int := roundInt ((div32 (mul32 v (.ofInt n)) (.ofInt 2)).mul (.ofInt 256)) 0 0
  { w, sx := half (add32 (div32 x w) .one) p.w, sy := half (sub32 .one (div32 y w)) p.h, sz := div32 z w, ok,
    vary := (List.range dr.nvary).map fun i => out (4 + i) }

/-- The vertex indices of the triangles of a draw, in order; every second triangle of a strip is taken
with its first two vertices exchanged (log entry 24). Log entry 24 (DESIGN CHOICE). -/
def triIndices (dr : Draw) : List (Nat × Nat × Nat) :=
  if dr.strip then (List.range (dr.count - 2)).map fun t => if t % 2 = 0 then (t, t + 1, t + 2) else (t + 1, t, t + 2)
  else (List.range (dr.count / 3)).map fun t => (3 * t, 3 * t + 1, 3 * t + 2)

/-- The edge function of the directed edge (x0, y0) → (x1, y1) at a point. -/
def edgeFn (x0 y0 x1 y1 px py : Int) : Int := (x0 - px) * (y1 - py) - (x1 - px) * (y0 - py)

/-- A centre on an edge is covered only if the edge is a top or a left edge, y increasing downward. -/
def edgeIn (e a dx dy : Int) : Bool :=
  let s : Int := if 0 < a then 1 else -1
  decide (0 < e * s) || (decide (e = 0) && (decide (dy * s < 0) || (decide (dy = 0) && decide (0 < dx * s))))

/-- The barycentric weights of a covered pixel, or none (R326). -/
def coverage (v0 v1 v2 : Vtx) (a : Int) (px py : Nat) : Option (Ext × Ext × Ext) :=
  let x : Int := px * 256 + 128
  let y : Int := py * 256 + 128
  let e0 := edgeFn v1.sx v1.sy v2.sx v2.sy x y
  let e1 := edgeFn v2.sx v2.sy v0.sx v0.sy x y
  let e2 := edgeFn v0.sx v0.sy v1.sx v1.sy x y
  if edgeIn e0 a (v2.sx - v1.sx) (v2.sy - v1.sy) && edgeIn e1 a (v0.sx - v2.sx) (v0.sy - v2.sy) &&
     edgeIn e2 a (v1.sx - v0.sx) (v1.sy - v0.sy) then
    let b (e : Int) : Ext := rne32 ((Ext.ofInt e).div (.ofInt a))
    some (b e0, b e1, b e2)
  else none

/-- Depth comparison under ZFUNC (R324). -/
def zPass (f : Nat) (frag stored : Ext) : Bool :=
  match f with
  | 0 => false
  | 1 => frag.lt stored
  | 2 => frag.eqv stored
  | 3 => frag.le stored
  | 4 => stored.lt frag
  | 5 => !frag.eqv stored
  | 6 => stored.le frag
  | _ => true

/-- The bit width and place of channel k (R, G, B, A) in a pixel of a render format. -/
def chanBits (f k : Nat) : Nat × Nat :=
  match surfCode f with
  | 0x01 => (8, 8 * k)
  | 0x02 => (8, if k = 0 then 16 else if k = 2 then 0 else 8 * k)
  | 0x03 => if k = 0 then (5, 11) else if k = 1 then (6, 5) else if k = 2 then (5, 0) else (0, 0)
  | _ => if k = 3 then (2, 30) else (10, 10 * k)

/-- Channels of a tile-memory pixel as FP32 values; formats without alpha give 1. -/
def decodePix (f px : Nat) : List Ext :=
  (List.range 4).map fun k =>
    let b := chanBits f k
    if b.1 = 0 then .one else rne32 ((Ext.ofInt (px / 2 ^ b.2 % 2 ^ b.1 : Nat)).div (.ofInt (2 ^ b.1 - 1 : Nat)))

/-- Encoding of channels (R327). Log entry 24 (DESIGN CHOICE). -/
def encodePix (f : Nat) (v : List Ext) : Nat :=
  (List.range 4).foldl (fun n k =>
    let b := chanBits f k
    if b.1 = 0 then n
    else n + (roundInt (mul32 (v.getD k .zero) (.ofInt (2 ^ b.1 - 1 : Nat))) 0 0).toNat % 2 ^ b.1 * 2 ^ b.2) 0

/-- A colour clamped to [0, 1], NaN as 0. -/
def clamp01 (x : Ext) : Ext := if x.isNan || x.lt .zero then .zero else if Ext.one.lt x then .one else x

/-- The blend of R327. Log entry 24 (DESIGN CHOICE). -/
def blendPix (mode : Nat) (c d : List Ext) : List Ext :=
  let a := c.getD 3 .zero
  (List.range 4).map fun k =>
    let ck := c.getD k .zero
    let dk := d.getD k .zero
    if mode = 0 then ck
    else if mode = 1 then add32 (mul32 ck a) (mul32 dk (sub32 .one a))
    else Ext.one.min (add32 ck dk)

/-- A pixel of the tile memory: colour word, depth. -/
abbrev TilePix := Nat × Ext

/-- One fragment at one pixel (R325–R328). -/
def fragment (p : RenderP) (dr : Draw) (ins : List (List Byte)) (v0 v1 v2 : Vtx) (b : Ext × Ext × Ext) (px py : Nat)
    (t : TilePix) : TilePix :=
  let sum3 (x y z : Ext) : Ext := add32 (add32 x y) z
  let z := sum3 (mul32 b.1 v0.sz) (mul32 b.2.1 v1.sz) (mul32 b.2.2 v2.sz)
  if !(Ext.zero.le z && z.le .one) || (dr.ztest && !zPass dr.zfunc z t.2) then t else
  let den := sum3 (div32 b.1 v0.w) (div32 b.2.1 v1.w) (div32 b.2.2 v2.w)
  let vary := (List.range dr.nvary).map fun i =>
    let g (v : Vtx) (w : Ext) : Ext := div32 (mul32 w (v.vary.getD i .zero)) v.w
    div32 (sum3 (g v0 b.1) (g v1 b.2.1) (g v2 b.2.2)) den
  let dst := decodePix p.fmt t.1
  let bits (x : Ext) : Word := BitVec.ofNat 32 (fp32.rne x)
  let args := [BitVec.ofNat 32 px, BitVec.ofNat 32 py] ++ dr.const ++ vary.map bits ++ (if dr.lock then dst.map bits else [])
  let out := Config.shaderFragment ins dr.fs args
  if (out 4).bit 0 then t else
  let c := (List.range 4).map fun k => clamp01 (fp32.decode (out k).toNat)
  let dst := if dr.lock then (List.range 4).map fun k => fp32.decode (out (5 + k)).toNat else dst
  (encodePix p.fmt (blendPix dr.blend c dst), if dr.zwrite then z else t.2)

/-- One triangle over the whole surface. -/
def triangle (p : RenderP) (dr : Draw) (ins : List (List Byte)) (v0 v1 v2 : Vtx) (img : List TilePix) : List TilePix :=
  let a := (v1.sx - v0.sx) * (v2.sy - v0.sy) - (v2.sx - v0.sx) * (v1.sy - v0.sy)
  if !v0.ok || !v1.ok || !v2.ok || decide (a = 0) || (dr.cull && decide (a < 0)) then img
  else img.zipIdx.map fun q =>
    match coverage v0 v1 v2 a (q.2 % p.w) (q.2 / p.w) with
    | some b => fragment p dr ins v0 v1 v2 b (q.2 % p.w) (q.2 / p.w) q.1
    | none => q.1

/-- The bytes of the input regions of a command. -/
def Dev.inBytes (d : Dev) (c : Cmd) : List (List Byte) := c.ins.map fun r => d.rdN r.base r.len

/-- A draw record that breaks R324. -/
def Dev.drawBad (d : Dev) (c : Cmd) : Bool := (List.range c.render.ndraw).any fun i => (d.draw c i).isNone

/-- A run of a RENDER job: colour and depth surfaces written under its locks. The bin store holds
undefined values (R329), and each of its bytes is a free value. -/
def Dev.renderRun (d : Dev) (c : Cmd) : Dev :=
  let p := c.render
  let ins := d.inBytes c
  let rt := (c.region p.rtReg).base
  let zb := (c.region p.zReg).base
  let vb := (c.region p.vbReg).base
  let img0 : List TilePix := (List.range (p.w * p.h)).map fun i =>
    (if p.rtLoad then d.pixel p.fmt rt p.w (i % p.w) (i / p.w) p.h else p.clear.toNat % 256 ^ pixBytes (surfCode p.fmt),
     if p.zLoad then fp32.decode (d.pixel p.zFmt zb p.w (i % p.w) (i / p.w) p.h) else fp32.decode p.clearZ.toNat)
  let img := ((List.range p.ndraw).filterMap (d.draw c)).foldl (fun img dr =>
    (triIndices dr).foldl (fun img t =>
      let v (k : Nat) : Vtx := vertex p dr ins (if dr.indexed then (d.rd32 (vb + dr.ioff + 4 * k)).toNat else k)
      triangle p dr ins (v t.1) (v t.2.1) (v t.2.2) img) img) img0
  let d := (d.whey [c.region p.binReg]).writeSurf p.fmt rt p.w p.h (img.map (·.1))
  if p.zen then d.writeSurf p.zFmt zb p.w p.h (img.map fun q => fp32.rne q.2) else d

/-- A run of a KERNEL job (R333). -/
def Dev.kernelJobRun (d : Dev) (c : Cmd) : Dev :=
  let ins := d.inBytes c
  let outs := c.outs.map fun r => d.rdN r.base r.len
  (c.outs.zipIdx).foldl (fun d r =>
    d.wrN r.1.base ((List.range r.1.len).map fun i => Config.shaderKernel c.params ins outs r.2 i)) d

end Sys2Proof.Machine
end

