-- ==== Sys2Proof/Machine/Taking.lean ====
section
/-! DEFINITION. Taking a descriptor: the copy into the window (R76), its layout (R77, R78, R320) and its
validation (R79 with the checks of each class). -/

namespace Sys2Proof.Machine

/-- Entry i of a region list (R78): the region, and whether its reserved bits are 0. -/
def Dev.regionAt (d : Dev) (a : Nat) : Region × Bool :=
  let b := d.rd64 a
  let l := d.rd64 (a + 8)
  (⟨b % 2 ^ 40, l % 2 ^ 40⟩, decide (b / 2 ^ 40 = 0) && decide (l / 2 ^ 40 = 0))

/-- A command as its 16 descriptor words name it, copied with its region list and its parameter block; the
flag tells that no reserved bit of the region list is set. Log entry 17 (DESIGN CHOICE). -/
def Dev.copyDesc (d : Dev) (seq : Nat) (ws : List Word) : Cmd × Bool :=
  let w (i : Nat) : Word := ws.getD i 0
  let nin := (w 4).fld 23 16
  let nout := (w 4).fld 31 24
  let plen := (w 4).fld 15 0
  let paddr := dword (w 2) (w 3) % 2 ^ 40
  let raddr := dword (w 6) (w 7) % 2 ^ 40
  let rs := (List.range (min 16 (nin + nout))).map fun i => d.regionAt (raddr + 16 * i)
  let regs := rs.map (·.1)
  ({ seq, desc := ws, ins := regs.take nin, outs := (regs.drop nin).take nout,
     params := d.rdN paddr (min plen 4096), takenT := d.now, ageStamp := d.now },
   rs.all (·.2))

/-- A range lies inside the owned ranges of a partition. -/
def Partition.covers (p : Partition) (a n : Nat) : Bool :=
  (pageStarts a n).all fun x => p.ranges.any fun r => decide (r.1 ≤ x) && decide (x ≤ r.2)

/-- A region shares a line with the ring or the completion area of a queue of the instance. -/
def Dev.hitsRing (d : Dev) (n : Nat) (r : Region) : Bool :=
  d.queues.any fun p => decide (p.2.inst = n) && p.2.graph.isNone &&
    (r.meets ⟨p.2.ring, 64 * 2 ^ p.2.log2n⟩ || r.meets ⟨p.2.compl, 32 * 2 ^ p.2.log2n⟩)

/-- The fields that R77 (or R320 for a graphics group) and R79 bound in the descriptor's own words. -/
def descFieldsOk (gfx : Bool) (c : Cmd) : Bool :=
  let w := c.w
  let nin := (w 4).fld 23 16
  let nout := (w 4).fld 31 24
  let plen := (w 4).fld 15 0
  decide ((w 0).fld 31 28 = if gfx then 2 else 1) && decide ((w 0).fld 27 20 = 0) &&
  decide ((w 3).fld 31 8 = 0) && decide ((w 5).fld 31 24 = 0) && decide ((w 7).fld 31 8 = 0) &&
  decide (nin + nout ≤ 16) && (decide (0 < nout) || decide (c.cls = 0)) &&
  (decide (c.op ≠ 0) || (decide (nin + nout = 0) && decide (plen = 0))) &&
  decide (plen % 64 = 0) && decide (plen ≤ 4096) &&
  (decide (plen = 0) || decide ((w 2).fld 5 0 = 0)) && (decide (nin + nout = 0) || decide ((w 6).fld 5 0 = 0)) &&
  (!c.wait || decide (c.waitAddr % 8 = 0)) && (!c.signal || decide (c.signalAddr % 8 = 0))

/-- The operation exists, and its parameter block passes the checks of its class: R115 and R139, R206,
R211, R214 to R216, R186 to R188, R172 to R174, R315, R320. -/
def Dev.classValid (d : Dev) (q : Nat) (c : Cmd) : Bool :=
  if c.isJob then
    let layerOk :=
      let p := c.render
      decide (d.boot.layerPt.look (p.pipe * 8 + p.layer) = some (d.inst (d.instOfQ q)).pt)
    c.jobValid layerOk
  else if c.op = 0 then true
  else if c.op = 0x0101 ∨ c.op = 0x0102 then c.gxValid false
  else if c.op = 0x0201 then c.convValid d (d.twinnedQ q)
  else if c.op = 0x0202 then c.topkValid && d.egOnDie q c.sortDieOf
  else if c.op = 0x0203 then c.nmsValid && d.egOnDie q c.sortDieOf
  else if c.op = 0x0204 then c.unfoldValid
  else if c.op = 0x0301 then d.kvAppendValid q c
  else if c.op = 0x0302 then d.attentionValid q c
  else if c.op = 0x0303 then d.truncateValid q c
  else if c.op = 0x0304 then d.ringValid q c
  else if 0x0401 ≤ c.op ∧ c.op ≤ 0x0409 then c.kernelValid
  else if c.op = 0x0501 then c.copyValid
  else false

/-- The context of a queue belongs to a graphics group. -/
def Dev.gfxQ (d : Dev) (q : Nat) : Bool :=
  match d.ctx? (d.ctxOfQ q) with
  | some x => ((d.eg? x.eg).map (·.gfx)).getD false
  | none => false

/-- The validation of R79. -/
def Dev.descValid (d : Dev) (q : Nat) (c : Cmd) (regionsOk : Bool) : Bool :=
  let n := d.instOfQ q
  let plen := (c.w 4).fld 15 0
  descFieldsOk (d.gfxQ q) c && regionsOk &&
  ((c.ins ++ c.outs).all fun r => decide (0 < r.len)) &&
  (match d.part (d.inst n).pt with
   | none => false
   | some p =>
     ((c.ins ++ c.outs).all fun r => p.covers r.lineBase r.lineLen) &&
     (!c.wait || p.covers c.waitAddr 8) && (!c.signal || p.covers c.signalAddr 8) &&
     (decide (plen = 0) || p.covers (dword (c.w 2) (c.w 3)) plen)) &&
  ((c.ins ++ c.outs).all fun r => !d.hitsRing n r) &&
  d.classValid q c

/-- A queue from which the device may take: not halted, room in the window, its context tracked and not
torn down, its instance ACTIVE (R59, R76, R92), and not a ring of the serving service (R236).
Log entry 18 (DESIGN CHOICE). -/
def Dev.mayTake (d : Dev) (q : Nat) : Bool :=
  match d.queue? q with
  | none => false
  | some x =>
    !x.halted && decide (x.window.length < 8) && !(d.serving.any fun v => decide (v.2.reqQ = q) || decide (v.2.rspQ = q)) &&
    (match d.ctx? x.ctx with
     | some y => !y.parked && !y.torn
     | none => false) &&
    decide ((d.page x.inst).state = .active)

/-- The lines that a taking reads: the descriptor's, and those of its region list and parameter block. -/
def Dev.takeUp (d : Dev) (x : Queue) : Bool :=
  d.linesUp (x.entry x.head) 64 &&
    let ws := d.rdWords (x.entry x.head) 16
    let w (i : Nat) : Word := ws.getD i 0
    d.linesUp (dword (w 2) (w 3) % 2 ^ 40) (min ((w 4).fld 15 0) 4096) &&
    d.linesUp (dword (w 6) (w 7) % 2 ^ 40) (16 * min 16 ((w 4).fld 23 16 + (w 4).fld 31 24))

/-- The next descriptor of a ring is taken (R76, R79). HEAD counts it in each case. A context whose descriptor, region list
or parameter block lies in a stack that does not answer is torn down with DIE_LOST (R20). Log entries 17 (DESIGN CHOICE), 54
(DESIGN CHOICE), 121 (DESIGN CHOICE). -/
def Dev.takeRing (d : Dev) (q : Nat) (x : Queue) : Dev :=
  if x.head = x.tail then d else
  if !d.takeUp x then d.teardown x.ctx 7 else
  let r := d.copyDesc x.head (d.rdWords (x.entry x.head) 16)
  let ok := d.descValid q r.1 r.2
  let d := d.setQueue q { x with head := (x.head + 1) % 2 ^ 32, window := x.window ++ [r.1] }
  if ok then d else d.refuseCmd q r.1 .eParam 1

/-- The next node that Sebry has submitted is taken; GRAPH_LOAD has validated it (R234). Sebry submits the consumers of a cut node only
once every part of it has pressed (R508). -/
def Dev.takeFeed (d : Dev) (q : Nat) (x : Queue) : Dev :=
  match x.feed with
  | [] => d
  | c :: rest => if x.awaitsParts c then d else d.setQueue q { x with feed := rest, window := x.window ++ [{ c with takenT := d.now }] }

/-- DESCRIPTOR_TAKE on a queue. -/
def Dev.take (d : Dev) (q : Nat) : Dev :=
  if !d.mayTake q then d else
  match d.queue? q with
  | none => d
  | some x => if x.graph.isSome then d.takeFeed q x else d.takeRing q x

/-- DESCRIPTOR_TAKE (R76, R79): the device copies the next descriptor of a queue with its region list and
parameter block, and validates it. -/
def execDescriptorTake (q : QId) (t : Nat) (s : State) : Host.Outcome State Fault Refusal :=
  s.act t fun d => d.take q.val

end Sys2Proof.Machine
end

