-- ==== Sys2Proof/Machine/Waits.lean ====
section
/-! DEFINITION. The accesses that wait for a lock or a link, and how they go on (R16, R17, R84, R87). -/

namespace Sys2Proof.Machine

/-! ### Steps 6 to 8 of a press (R87) -/

/-- A fence word that its context's instance may not touch, or whose path is lost (R282, R18). -/
def Dev.fenceBad (d : Dev) (q : Nat) (c : Cmd) : Option Nat :=
  let n := d.instOfQ q
  if !c.signal then none else d.accBad (d.inst n).pt n c.signalAddr 8

/-- The fence of a command waits: its line is locked, its path retrains, or an earlier press of the queue is not complete. -/
def Dev.fenceWaits (d : Dev) (q : Nat) (c : Cmd) : Bool :=
  (c.signal && (d.fenceBad q c).isNone && d.mustWait c.signalAddr 8 true) ||
  d.waiting.any fun w =>
    match w with
    | .fence q' _ _ => decide (q' = q)
    | _ => false

/-- The master of R294 under which a command's accesses go. -/
def Dev.masterOf (d : Dev) (q : Nat) (c : Cmd) : Nat :=
  let pt := (d.inst (d.instOfQ q)).pt
  if c.isJob then 48 + pt else if c.cls = 5 ∨ c.op = 0x0304 then 32 + pt
  else ((d.ctx? (d.ctxOfQ q)).map (·.eg)).getD 0

/-- A context torn down for an access that the fabric refuses. -/
def Dev.tearAccess (d : Dev) (q : Nat) (c : Cmd) (a : Nat) (write : Bool) : Dev :=
  (d.refuse (d.masterOf q c) a write).teardown (d.ctxOfQ q) 4

/-- Step 6: the fence. A fence word that the master may not touch tears the context down. -/
def Dev.step6 (d : Dev) (q : Nat) (c : Cmd) : Dev :=
  if !c.signal then d
  else
    match d.fenceBad q c with
    | some a => d.tearAccess q c a true
    | none => d.wr64 c.signalAddr c.signalValue

/-- Steps 6 to 8: the fence, the record with its press time, the interrupt. -/
def Dev.endPress (d : Dev) (q : Nat) (c : Cmd) (pressT : Nat) : Dev :=
  match d.queue? q with
  | none => d
  | some x =>
    let d := d.step6 q c
    let d := if x.graph.isNone then d.record x c .ok ((c.finT - c.dispT) / 1000) pressT else d
    if c.irq && x.graph.isNone then d.raise (.inst x.inst (2 + x.dbidx % 30)) else d

/-! ### Accesses that wait -/

/-- A waiting access whose hold has ended completes against the memory as it is now (R84). -/
def Dev.serveWait (d : Dev) (w : WaitAcc) : Dev :=
  match w with
  | .coreAcc core store a n data =>
    if d.mustWait a n store || d.behindCore core a n || d.stalled (68 + core / 8) then { d with waiting := d.waiting ++ [w] } else d.coreMem core store a n data
  | .pcieAcc inst master off write len => d.winAcc inst master off write len
  | .pciePage _ _ _ _ _ => { d with waiting := d.waiting ++ [w] }
  | .fence q c t => if d.fenceWaits q c then { d with waiting := d.waiting ++ [w] } else d.endPress q c t
  | .dmaFetch ch a => if decide (d.dmaState ch = 1) && d.dmaEn ch then d.dmaFetch ch a else d
  | .dmaBack a xfer w7 => if d.mustWait a 32 true then { d with waiting := d.waiting ++ [w] } else d.dmaStoreBack a xfer w7

/-- Every waiting access is looked at once, oldest first. Log entry 49 (DESIGN CHOICE). -/
def Dev.serveWaits (d : Dev) : Dev :=
  let ws := d.waiting
  if ws = [] then d else forEach ws (fun w d => d.serveWait w) { d with waiting := [] }

end Sys2Proof.Machine
end

