-- ==== Sys2Proof/Machine/Sched.lean ====
section
/-! DEFINITION. Sebry's scheduler: grants of the wheel (R41 to R43), placement (R219 to R222, R226), the
dispatch of each class (R83, R84, R154, R185, R191), pre-emption (R223, R224), the sort units (R216) and
the order of graphics jobs (R334). -/

namespace Sys2Proof.Machine

/-! ### The wheel -/

def Dev.whlEn (d : Dev) : Bool := d.getB aWhlCtrl 0
def Dev.whlBank (d : Dev) : Nat := d.getF aWhlStatus 0 0
def Dev.whlSlot (d : Dev) : Nat := d.getF aWhlStatus 13 8
/-- Word w of the slot in force. -/
def Dev.slotW (d : Dev) (w : Nat) : Word := d.reg (aWhlSlot d.whlBank d.whlSlot w)
/-- The period of a bank in ns, and its number of slots. -/
def Dev.whlNs (d : Dev) (bank : Nat) : Nat := d.getF (aWhlPeriod bank) 13 0 * 10000
def Dev.whlN (d : Dev) (bank : Nat) : Nat := d.getF (aWhlPeriod bank) 22 16
def Dev.whlStart (d : Dev) (bank s : Nat) : Nat := d.getF (aWhlSlot bank s 0) 13 0 * 10000
def Dev.epoch (d : Dev) : Nat := d.pair aWhlEpochLo aWhlEpochHi

/-- The first time at or after `t` that is a period boundary (R40). -/
def boundaryFrom (phase per t : Nat) : Nat := if per = 0 then t else t + (phase % per + per - t % per) % per

/-- The latest period boundary of the bank in force, by the grid that EPOCH stands on (R40). -/
def Dev.lastBoundary (d : Dev) : Nat :=
  let per := d.whlNs d.whlBank
  if per = 0 then d.epoch else d.epoch + (d.now - d.epoch) / per * per

/-- The end of the slot in force. The last slot of a bank that gives way to another runs on to the new
bank's boundary (R40). -/
def Dev.slotEnd (d : Dev) : Nat :=
  let b := d.whlBank
  if d.whlSlot + 1 < d.whlN b then d.epoch + d.whlStart b (d.whlSlot + 1)
  else
    let t1 := d.epoch + d.whlNs b
    if d.getB aWhlStatus 1 then boundaryFrom (d.pair aWhlPhaseLo aWhlPhaseHi) (d.whlNs (1 - b)) t1 else t1

/-- The length of slot s of a bank. -/
def Dev.slotLen (d : Dev) (bank s : Nat) : Nat :=
  (if s + 1 < d.whlN bank then d.whlStart bank (s + 1) else d.whlNs bank) - d.whlStart bank s

/-- The pairs that the slot in force reserves for reference runs (R42). -/
def Dev.checkMask (d : Dev) : Nat := if d.whlEn && (d.slotW 2).bit 16 then (d.slotW 3).toNat else 0

/-- Sebry dispatches nothing while CPA is lost (R273), in PARK and on the way to it or to SLEEP (R26, R29), and in SLEEP. -/
def Dev.noDispatch (d : Dev) : Bool :=
  let leaving := match d.trans with
    | some x => decide (x.dst = .sleep) || (decide (x.dst = .park) && (decide (x.src ≠ .lease) || x.steps.any fun s => decide (s.1 = 3)))
    | none => decide (d.pers = .park)
  d.cpaLost.isSome || leaving || decide (d.pers = .sleep)

/-- A group whose commands may run now: granted by the slot, not suspended, and of a world that runs in the
personality (R26, R28, R43). -/
def Dev.granted (d : Dev) (n : Nat) (g : EngineGroup) : Bool :=
  d.whlEn && !d.noDispatch && !g.gfx && !g.suspended && (d.slotW 1).bit n &&
  !(decide (d.pers = .service) && ((d.part g.pt).map (·.worldO)).getD false)

/-! ### Engines (R219, R220) -/

/-- The engines of a group as the sets that a command holds: single engines, or whole pairs. -/
def EngineGroup.unitList (g : EngineGroup) : List (List Nat) :=
  if g.twin then
    (List.range 32).filterMap fun p => if bitOf g.engines (2 * p) && bitOf g.engines (2 * p + 1) then some [2 * p, 2 * p + 1] else none
  else (List.range 64).filterMap fun e => if bitOf g.engines e then some [e] else none

/-- An engine that is free and may take a command of the group. -/
def Dev.engineFree (d : Dev) (safety twin : Bool) (e : Nat) : Bool :=
  decide (d.getF (aGxStatus e) 7 4 = 0) && d.getB (aGxCtrl e) 0 && !d.getB (aGxCtrl e) 1 &&
  decide (e / 16 ∉ d.dieOff) && !d.dieQuiet (e / 16) && !bitOf d.checkMask (e / 2) &&
  decide (d.pairState (e / 2) = if twin then 2 else 0) && (!safety || (!d.untested e && !(d.testSt e).withdrawn && !(d.pairSt (e / 2)).refWithdrawn))

/-- A running test chunk of an engine is abandoned: it counts as not run (R250, R264). -/
def Dev.abandonChunk (d : Dev) (e : Nat) : Dev :=
  if d.getF (aGxStatus e) 7 4 = 7 then
    let d := ((d.setF (aGxStatus e) 7 4 0).setB (aGxCtrl e) 1 false).setB (aGxKat e) 0 false
    forUpTo 4 (fun k d => if d.getF (aVcStatus (4 * e + k)) 7 4 = 5 then d.setF (aVcStatus (4 * e + k)) 7 4 0 else d) d
  else d

/-- The partition of a group is a SAFETY one. -/
def Dev.safetyEg (d : Dev) (g : EngineGroup) : Bool := decide ((d.part g.pt).map (·.kind) = some .safety)

/-- The pairs of a twinned group, members and spares. -/
def EngineGroup.pairList (g : EngineGroup) : List Nat :=
  if g.twin then (List.range 32).filter fun p => bitOf g.engines (2 * p) || bitOf g.spares p else []

/-- The SAFETY groups. -/
def Dev.safetyGroups (d : Dev) : List (Nat × EngineGroup) := d.egs.filter fun g => d.safetyEg g.2

/-- The units of the SAFETY groups: the engines of member and spare pairs, and the sort units of their dies.
Log entry 80 (DESIGN CHOICE). -/
def Dev.testUnits (d : Dev) : List Nat :=
  let ps := d.safetyGroups.flatMap fun g => g.2.pairList
  let es := ps.flatMap fun p => [2 * p, 2 * p + 1]
  es ++ (List.range 4).filterMap fun die => if es.any fun e => e / 16 = die then some (64 + die) else none

/-- Commands that start kernels on the cores of their engines: class 0x04, UNFOLD, KV_APPEND and ATTENTION (R174, R186, R211). -/
def Cmd.onCores (c : Cmd) : Bool :=
  !c.isJob && (decide (c.cls = 4) || decide (c.op = 0x0204) || decide (c.op = 0x0301) || decide (c.op = 0x0302))

/-- The cores of an engine take kernel starts (R177). Log entry 130 (DEDUCED). -/
def Dev.coresEn (d : Dev) (e : Nat) : Bool := (List.range 4).all fun k => d.getB (aVcCtrl (4 * e + k)) 0

/-- An engine may take a command of a group: it is free, and where the command starts kernels its cores take them.
Log entry 130 (DEDUCED). -/
def Dev.engineFor (d : Dev) (c : Cmd) (g : EngineGroup) (e : Nat) : Bool :=
  d.engineFree (d.safetyEg g) g.twin e && (!c.onCores || d.coresEn e)

/-- The sets of a group that are free for a command, of one die. -/
def Dev.freeUnits (d : Dev) (c : Cmd) (g : EngineGroup) (die : Nat) : List (List Nat) :=
  g.unitList.filter fun u => (u.all fun e => decide (e / 16 = die)) && u.all (d.engineFor c g)

/-- Commands that hold engines (R219). -/
def Cmd.needsEngines (c : Cmd) : Bool :=
  !c.isJob && (decide (c.cls = 1) || decide (c.op = 0x0201) || decide (c.op = 0x0204) ||
    decide (c.op = 0x0301) || decide (c.op = 0x0302) || decide (c.cls = 4))

/-! ### Affinity (R221) -/

/-- The bytes of a range in each page, with the page's cell. -/
def Dev.bytesWhere (d : Dev) (f : Nat → Bool) (r : Region) : Nat :=
  (pageStarts r.base r.len).foldl (fun n x =>
    match d.phys x with
    | some k => if f k then n + (min (r.base + r.len) ((x / 4096 + 1) * 4096) - x) else n
    | none => n) 0

/-- Bytes of a command's inputs resident in an engine's operand buffer. Log entry 25 (DESIGN CHOICE). -/
def Dev.ob (d : Dev) (c : Cmd) (e : Nat) : Nat :=
  (d.resid.filter (·.1 = e)).foldl (fun n r => n + c.ins.foldl (fun m x =>
    m + (min (r.2.1 + r.2.2) (x.base + x.len) - max r.2.1 x.base)) 0) 0

def inMapStore (die k : Nat) : Bool := !isDram k && decide ((k - 0x4000000000) / 0x04000000 = die)
def inStackCell (die k : Nat) : Bool := isDram k && decide (stackOf k = die)

/-- ms(c, d) and st(c, d). -/
def Dev.msBytes (d : Dev) (c : Cmd) (die : Nat) : Nat := c.ins.foldl (fun n r => n + d.bytesWhere (inMapStore die) r) 0
def Dev.stBytes (d : Dev) (c : Cmd) (die : Nat) : Nat := c.ins.foldl (fun n r => n + d.bytesWhere (inStackCell die) r) 0

/-- E(d): the least E of at most `n`, out of the sets `us` in the order in which they are taken, with est within 10 % of the best.
The estimate on E of them is that of the first E. Log entry 21 (DESIGN CHOICE). -/
def Dev.bestE (d : Dev) (eg : Nat) (us : List (List Nat)) (c : Cmd) (n cmdlen : Nat) : Nat :=
  let est (e : Nat) : Nat := d.est eg (us.take e).flatten c e cmdlen
  let es := (List.range n).map (· + 1)
  let best := es.foldl (fun m e => min m (est e)) (est 1)
  (es.find? fun e => decide (10 * est e ≤ 11 * best)).getD 1

/-- The choice on one die: the score and the sets. Log entry 107 (DESIGN CHOICE). -/
def Dev.placeOn (d : Dev) (eg : Nat) (c : Cmd) (g : EngineGroup) (cmdlen die : Nat) : Option (Nat × List (List Nat)) :=
  match d.freeUnits c g die with
  | [] => none
  | us =>
    let ranked := sortBy (fun (a b : Nat × List Nat) => decide (b.1 ≤ a.1)) (us.map fun u => (u.foldl (fun n x => n + d.ob c x) 0, u))
    let e := d.bestE eg (ranked.map (·.2)) c (min 16 us.length) cmdlen
    let pick := ranked.take e
    let per := 2 * d.msBytes c die + d.stBytes c die
    some (pick.foldl (fun n p => n + 4 * p.1 + per * p.2.length) 0, sortBy (fun a b => decide (a.headD 0 ≤ b.headD 0)) (pick.map (·.2)))

/-- The placement of a command: the die with the greatest score, the lower on a tie. KV_APPEND and
ATTENTION go to their DIE (R187). A re-run after a twin finding has its engines given (R250). -/
def Dev.place (d : Dev) (eg : Nat) (c : Cmd) (g : EngineGroup) (cmdlen : Nat) : Option (List (List Nat)) :=
  if c.rerunOn ≠ [] then
    if c.rerunOn.all (d.engineFor c g) then
      some (g.unitList.filter fun u => u.all (· ∈ c.rerunOn))
    else none
  else
    let dies := if c.op = 0x0301 ∨ c.op = 0x0302 then [c.kvDie] else [0, 1, 2, 3]
    let r := dies.foldl (fun (best : Option (Nat × List (List Nat))) die =>
      match best, d.placeOn eg c g cmdlen die with
      | none, p => p
      | some b, some p => if b.1 < p.1 then some p else some b
      | some b, none => some b) none
    r.map (·.2)

/-- The placement of a command that finds no engine where the running chunks of the group's periodic test give way to it (R264).
Log entry 146 (DESIGN CHOICE). -/
def Dev.placeOverTests (d : Dev) (eg : Nat) (c : Cmd) (g : EngineGroup) (cmdlen : Nat) : Option (List (List Nat)) :=
  let es := g.engineList.filter fun e => (d.testSt e).subject && decide (d.getF (aGxStatus e) 7 4 = 7)
  if es = [] then none else (forEach es (fun e d => d.abandonChunk e) d).place eg c g cmdlen

/-! ### Starting a command -/

/-- The context slot of a queue's context. -/
def Dev.slotOfQ (d : Dev) (q : Nat) : Nat := ((d.ctx? (d.ctxOfQ q)).map (·.slot)).getD 0

/-- A region loaded into an engine's operand buffer of 2 MiB; the oldest entries give way (log entry 25).
Log entry 25 (DESIGN CHOICE). -/
def Dev.loadResid (d : Dev) (key : Nat) (r : Region) : Dev :=
  if r.len > 0x200000 then d else
  let mine := (d.resid.flatMap fun x =>
    if x.1 = key then (outside r.base r.len x.2).map fun y => (key, y) else []) ++ [(key, r.base, r.len)]
  let keep := mine.reverse.foldl (fun (acc : List (Nat × Nat × Nat) × Nat) x =>
    if acc.2 + x.2.2 ≤ 0x200000 then (x :: acc.1, acc.2 + x.2.2) else (acc.1, 0x200000)) ([], 0)
  { d with resid := (d.resid.filter fun x => decide (x.1 ≠ key)) ++ keep.1 }

/-- The codebook region that a command's engines use (R104): of class 0x01 and KV_APPEND, and of CONV_CHAIN (R202). -/
def Cmd.bookReg (c : Cmd) : Nat :=
  if c.isJob then 0xF else if c.cls = 1 ∨ c.op = 0x0301 then c.gx.cbReg else if c.op = 0x0201 then (c.p 0).fld 19 16 else 0xF

/-- A command loads its codebook region into the codebook RAM of an engine, which then holds no other (R104). -/
def Dev.loadBook (d : Dev) (c : Cmd) (e : Nat) : Dev :=
  if c.bookReg < c.nin then
    let r := c.region c.bookReg
    let d := (d.setPair (aGxCbTagLo e) (aGxCbTagHi e) (r.base % 2 ^ 40)).setB (aGxCbCtrl e) 1 true
    { d with resid := (d.resid.filter fun x => decide (x.1 ≠ 64 + e)) ++ [(64 + e, r.base, min r.len 16384)] }
  else d

/-- Sebry's runtime starts a kernel of class 0x04 on a core (R166, R174): the parameter block at 0xF000, a0 the rank,
a1 the number of ranks, the Tolgesko CSRs clear, U mode. Its entry address is not stated.
Log entry 39 (DESIGN CHOICE). -/
def Dev.startKernel (d : Dev) (v rank n : Nat) (params : List Byte) : Dev :=
  let c := d.vcs.lookD v {}
  let c := { c with
    pc := BitVec.ofNat 64 (Config.freeNat d.freeCtr), user := true, frm := 0, vqparam := 0, vqclip := 0, vqstat := 0, wait := none,
    x := (c.x.put 10 (BitVec.ofNat 64 rank)).put 11 (BitVec.ofNat 64 n), lram := c.lram.writeBytes 0xF000 params }
  { d with freeCtr := d.freeCtr + 1, vcs := d.vcs.put v c }

/-- The kernel starts on the cores of the engines held: rank 4i + k on core k of the i-th, of 4E ranks. -/
def Dev.startKernels (d : Dev) (q : Nat) (c : Cmd) (es : List Nat) : Dev :=
  if c.cls ≠ 4 ∨ c.isJob then d else
  let r := d.ranksOf q es
  forEach r.2 (fun e d => forUpTo 4 (fun k d => d.startKernel (4 * e.1 + k) (4 * e.2 + k) (4 * r.1) c.params) d) d

/-- The command starts on its engines. Log entry 28 (DESIGN CHOICE). -/
def Dev.startOn (d : Dev) (q : Nat) (c : Cmd) (us : List (List Nat)) : Dev :=
  let es := us.flatten
  let slot := d.slotOfQ q
  let d := forEach es (fun e d =>
    let d := d.setEngine e 2 slot c.seq
    let d := forUpTo 4 (fun k d => (d.setF (aVcStatus (4 * e + k)) 7 4 1).setF (aVcStatus (4 * e + k)) 27 16 slot) d
    let d := if d.twinnedQ q then d.beginPair (e / 2) else d
    (forEach c.ins (fun r d => d.loadResid e r) d).loadBook c e) d
  let d := d.startKernels q c es
  d.updCmd q c.seq fun x => { x with stage := .dispatched, engines := es, nEng := es.length, dispT := d.now, suspended := none }

/-- A time in GXCLK cycles of a die at its present frequency. -/
def Dev.gxCycles (d : Dev) (die ns : Nat) : Nat := ns * d.getF (aClkStatus die) 23 0 / 10 ^ 6

/-- The sort unit of a die takes the next dispatched command that waits for it: SAFETY partitions first,
then the order of dispatch. SAFETY commands wait while the unit is UNTESTED (R216, R267). -/
def Dev.startSort (d : Dev) (die : Nat) : Dev :=
  if !(decide (d.getF (aSortStatus die) 7 4 = 0) && d.getB (aSortCtrl die) 0) then d else
  let safe (q : Nat) : Bool := decide (d.ctxKind (d.ctxOfQ q) = some .safety)
  let waiting := d.allCmds.filter fun p =>
    p.2.isSort && decide (p.2.stage = .dispatched) && p.2.sortDie.isNone && decide (p.2.sortDieOf = die) &&
    !(safe p.1 && d.untested (64 + die))
  let best := waiting.foldl (fun (b : Option (Nat × Cmd)) p =>
    match b with
    | none => some p
    | some x =>
      if (safe p.1 && !safe x.1) || (safe p.1 == safe x.1 && decide (p.2.dispT < x.2.dispT)) then some p else b) none
  match best with
  | none =>
    -- a SAFETY command waits for an UNTESTED unit: Sebry starts the unit's sweep at once (R267)
    if d.untested (64 + die) && d.allCmds.any fun p => p.2.isSort && decide (p.2.stage = .dispatched) && p.2.sortDie.isNone &&
        decide (p.2.sortDieOf = die) && safe p.1 then d.setF (aSortStatus die) 7 4 6
    else d
  | some p =>
    let d := d.updCmd p.1 p.2.seq fun x => { x with sortDie := some die }
    let d := (d.setF (aSortStatus die) 7 4 1).setF (aSortStatus die) 27 16 (d.slotOfQ p.1)
    d.countMax 0x03 (1024 + 8 * die + 2) (d.gxCycles die (d.now - p.2.dispT))

/-- SORT_WAIT follows the dispatched commands that wait. -/
def Dev.sortRefresh (d : Dev) (die : Nat) : Dev :=
  d.setF (aSortWait die) 7 0 (min 255 (d.allCmds.filter fun p =>
    p.2.isSort && decide (p.2.stage = .dispatched) && p.2.sortDie.isNone && decide (p.2.sortDieOf = die)).length)

/-- A sort command is dispatched: it starts or waits for its unit. -/
def Dev.dispatchSort (d : Dev) (q : Nat) (c : Cmd) : Dev :=
  let die := c.sortDieOf
  let d := d.updCmd q c.seq fun x => { x with stage := .dispatched, dispT := d.now }
  let d := d.startSort die
  let d := if (d.cmd? q c.seq).any (·.sortDie.isNone) then d.count 0x03 (1024 + 8 * die + 1) 1 else d
  d.sortRefresh die

/-! ### Dispatch (R83, R84) -/

/-- What a class 0x03 command does at dispatch, after its locks are taken (R183 to R185, R191): refused,
torn down, with POISON where its pool is failed, made to wait for pages, or ready to start. -/
def Dev.kvAtDispatch (d : Dev) (q : Nat) (c : Cmd) : Dev × Bool :=
  if c.op = 0x0304 then (d, true) else
  match d.kvPool q c with
  | none => (d.refuseCmd q c .eParam 1, false)
  | some pl =>
    if d.getB (aKvPoolCfg c.kvDie pl) 6 then (d.teardown (d.ctxOfQ q) 5, false)
    else if d.kvRefused c then (d.refuseCmd q c .eParam 1, false)
    else
      match d.badPte c pl with
      | some pg =>
        let d := (d.setB (aKvErr c.kvDie) 3 true).setReg (aKvErrPage c.kvDie) (BitVec.ofNat 32 (pl * 2 ^ 18 + pg))
        (d.teardown (d.ctxOfQ q) 4, false)
      | none =>
        if c.op = 0x0301 then
          match d.kvReserve q pl c with
          | some d => (d, true)
          | none => ((d.kvWaitFor q pl c).countInst (d.instOfQ q) 18, false)
        else if c.op = 0x0303 then (d.truncMark q pl c, true)
        else (d, true)

/-- The dispatch of a command on a chosen set of engines: the check of R83 with the lock table entries of
R84, then what its class does at dispatch, then its start. -/
def Dev.dispatch (d : Dev) (q : Nat) (c : Cmd) (us : List (List Nat)) : Dev :=
  let check := if c.locked then .go else d.dispCheck q c
  match check with
  | .refuse => d.refuseCmd q c .eOverlap 2
  | .wait => d
  | .go =>
    match if c.locked then [] else d.fullTables c with
    | t :: ts => forEach (t :: ts) (fun t d => { d with lockFull := d.lockFull.upd t {} (·.add 1) }) d
    | [] =>
      let d := d.updCmd q c.seq fun x => { x with locked := true }
      let c := { c with locked := true }
      if (c.cls = 1 ∨ c.op = 0x0301) ∧ d.tagBad c then d.refuseCmd q c .eParam 1
      else
        let r := if c.cls = 3 then d.kvAtDispatch q c else (d, true)
        let d := r.1
        if !r.2 then d else
        let d := match c.node with
          | some n =>
            let d := d.ageAtDispatch n.1 c.ins
            d.updCmd q c.seq fun x => { x with ageStamp := d.ageOf c }
          | none => d
        let d := if c.op = 0x0201 then d.clearFlags c (d.twinnedQ q) else d
        let d := if c.isSort then d.dispatchSort q c else d.startOn q c us
        match c.node with
        | some n => if n.2.2 = 0 ∧ c.part.all (fun p => p.idx = 0) then d.checkpoint n.1 n.2.1 true else d
        | none => d

/-! ### Eligibility and the pass (R221 to R224, R226) -/

/-- A command of a queue that may be dispatched: taken, its BARRIER and WAIT satisfied, its context tracked
and not torn down, its instance ACTIVE, or DRAINING with the command already taken.
Log entry 18 (DESIGN CHOICE). Log entry 121 (DESIGN CHOICE). -/
def Dev.eligible (d : Dev) (x : Queue) (c : Cmd) : Bool :=
  decide (c.stage = .taken) &&
  (!c.barrier || decide ((x.window.head?).map (·.seq) = some c.seq)) &&
  (!c.wait || (!d.mustWait c.waitAddr 8 false && d.linesUp c.waitAddr 8 && decide (c.waitValue ≤ d.rd64 c.waitAddr))) &&
  (match d.ctx? x.ctx with
   | some y => !y.parked && !y.torn
   | none => false) &&
  (match (d.page x.inst).state with
   | .active => true
   | .draining => true
   | _ => false)

/-- The eligible commands of one engine group, by PRIO descending, then by the time they became eligible. -/
def Dev.eligibleOf (d : Dev) (eg : Nat) : List (Nat × Nat × Cmd) :=
  let cs := d.queues.flatMap fun p =>
    match d.ctx? p.2.ctx with
    | some y => if y.eg = eg then (p.2.window.filter (d.eligible p.2)).map fun c => (y.prio, p.1, c) else []
    | none => []
  sortBy (fun a b => decide (b.1 < a.1) || (decide (a.1 = b.1) && decide (a.2.2.eligT.getD d.now ≤ b.2.2.eligT.getD d.now))) cs

/-- Commands that have become eligible are given the time at which they did. -/
def Dev.stampEligible (d : Dev) : Dev :=
  { d with queues := d.queues.map fun p =>
      (p.1, { p.2 with window := p.2.window.map fun c =>
        if c.eligT.isNone && d.eligible p.2 c then { c with eligT := some d.now } else c }) }

/-- The longest slot of the active wheel of which a test on its number holds. -/
def Dev.longestSlot (d : Dev) (grants : Nat → Bool) : Nat :=
  (List.range (d.whlN d.whlBank)).foldl (fun m s => if grants s then max m (d.slotLen d.whlBank s) else m) 0

/-- R226: a host's command that is longer than four command lengths, or than the longest slot that grants its group: `grants` tells
which slots do. -/
def Dev.tooLong (d : Dev) (grants : Nat → Bool) (cmdlen est : Nat) (c : Cmd) : Bool :=
  let longest := d.longestSlot grants
  c.node.isNone && (decide (4000 * cmdlen < est) || decide (longest < est))

/-- The running commands of a group that R223 and R224 let a command of priority `prio` kill, in the order
in which they are killed: lowest PRIO, then latest dispatched. One that has finished and holds its engines for the press is still
one of them, its press not having reached step 4. Log entry 107 (DESIGN CHOICE). -/
def Dev.victims (d : Dev) (eg prio : Nat) : List (Nat × Cmd) :=
  let cs := d.queues.flatMap fun p =>
    match d.ctx? p.2.ctx with
    | some y =>
      if y.eg = eg ∧ y.prio < prio then
        (p.2.window.filter fun c => decide (c.stage ≠ .taken) && decide (c.engines ≠ []) && decide (c.preempts < 4)).map
          fun c => (y.prio, p.1, c)
      else []
    | none => []
  (sortBy (fun a b => decide (a.1 < b.1) || (decide (a.1 = b.1) && decide (b.2.2.dispT ≤ a.2.2.dispT))) cs).map fun x => (x.2.1, x.2.2)

/-- Victims are killed one after another until the command can be placed. -/
def Dev.preemptFor (d : Dev) (eg : Nat) (c : Cmd) (g : EngineGroup) (cmdlen : Nat) : List (Nat × Cmd) → Dev × Option (List (List Nat))
  | [] => (d, d.place eg c g cmdlen)
  | v :: vs =>
    match d.place eg c g cmdlen with
    | some us => (d, some us)
    | none => (d.killRerun v.1 v.2.seq .preempt).preemptFor eg c g cmdlen vs

/-- One command in the pass. Periodic-test chunks give way before a victim dies. Log entry 146 (DESIGN CHOICE). -/
def Dev.tryCmd (d : Dev) (eg : Nat) (g : EngineGroup) (q prio : Nat) (c : Cmd) : Dev :=
  match d.queue? q with
  | none => d
  | some x =>
    match x.cmd? c.seq with
    | none => d
    | some c =>
      if !d.eligible x c then d else
      let len := ((d.ctx? x.ctx).map (·.cmdlen)).getD 1000
      let grants (s : Nat) : Bool := (d.reg (aWhlSlot d.whlBank s 1)).bit eg
      if !c.needsEngines then
        let est := d.est eg g.engineList c 1 len
        if d.tooLong grants len est c then d.refuseCmd q c .eParam 1
        else if d.slotEnd < d.now + est then d
        else d.dispatch q c []
      else
        let enough := g.unitList.length
        if enough = 0 then d else
        let e0 := d.bestE eg g.unitList c (min 16 enough) len
        let est := d.est eg (g.unitList.take e0).flatten c e0 len
        if d.tooLong grants len est c then d.refuseCmd q c .eParam 1
        else
          let r := match d.place eg c g len with
            | some us => (d, some us)
            | none =>
              -- a chunk is abandoned, or a victim dies, only where the command would then end inside the slot
              if d.slotEnd < d.now + est then (d, none) else
              match d.placeOverTests eg c g len with
              | some us => (d, some us)
              | none => d.preemptFor eg c g len (d.victims eg prio)
          match r.2 with
          | none => r.1
          | some us => if r.1.slotEnd < r.1.now + r.1.est eg us.flatten c us.length len then r.1
            else (forEach us.flatten (fun e d => d.abandonChunk e) r.1).dispatch q c us

/-- The pass over one engine group. A command that is skipped or waits keeps its place, and no later one of its context is placed before
it; one that waits for pages lets the others by (R185, R221). Log entries 19 (DESIGN CHOICE), 137 (DEDUCED). -/
def Dev.passEg (d : Dev) (eg : Nat) (g : EngineGroup) : Dev :=
  if d.granted eg g then
    ((d.eligibleOf eg).foldl (fun (acc : Dev × List Nat) p =>
      let x := acc.1.ctxOfQ p.2.1
      if x ∈ acc.2 then acc else
      let e := acc.1.tryCmd eg g p.2.1 p.1 p.2.2
      let left := (e.cmd? p.2.1 p.2.2.seq).any fun c => decide (c.stage = .taken) && !c.waitPages
      (e, if left then x :: acc.2 else acc.2)) (d, [])).1
  else d

/-! ### The graphics unit (R319, R321, R334) -/

/-- The job that runs on the graphics unit. -/
def Dev.gfxRunning (d : Dev) : Option (Nat × Cmd) :=
  d.allCmds.find? fun p => p.2.isJob && decide (p.2.stage = .dispatched) && p.2.suspended.isNone

/-- A compositor job: a RENDER job with FLIP_EN of a DISPLAY partition (R340). Log entry 59 (DESIGN CHOICE). -/
def Dev.isComp (d : Dev) (q : Nat) (c : Cmd) : Bool :=
  decide (c.op = 0x10001) && c.render.flip && decide (d.ctxKind (d.ctxOfQ q) = some .display)

/-- The deadline of a compositor job (R340): the first latch of its pipe after its taking. Latches follow the pipe's latest
one at the frame time HTOT × VTOT ÷ PIXCLK; 2⁶⁴ while the pipe has had none. Log entry 59 (DESIGN CHOICE). -/
def Dev.deadline (d : Dev) (c : Cmd) : Nat :=
  let p := c.render.pipe
  let num := d.getF (aDispHtim p) 31 16 * d.getF (aDispVtim p) 31 16 * 10 ^ 6
  let den := d.getF (aClkStatus (10 + p)) 23 0
  match (d.pipes.lookD p {}).lastLatch with
  | some l =>
    if num = 0 ∨ den = 0 then 2 ^ 64
    else if c.takenT < l then l else l + ((c.takenT - l) * den / num + 1) * num / den
  | none => 2 ^ 64

/-- The order of R334, least first: compositor jobs by deadline, then PRIO, then the time of eligibility.
Log entry 59 (DESIGN CHOICE). -/
def Dev.gfxRank (d : Dev) (q : Nat) (c : Cmd) : List Nat :=
  let comp := d.isComp q c
  [b2n (!comp), if comp then d.deadline c else 0, 7 - ((d.ctx? (d.ctxOfQ q)).map (·.prio)).getD 0, c.eligT.getD d.now]

/-- Strict lexicographic order of keys of one length. -/
def lexLt : List Nat → List Nat → Bool
  | a :: s, b :: t => decide (a < b) || (decide (a = b) && lexLt s t)
  | _, _ => false

/-- The compositor jobs whose guard time runs: unpressed jobs of a pipe under guard (R341).
Log entry 59 (DESIGN CHOICE). -/
def Dev.guarded (d : Dev) : List (Nat × Cmd) :=
  d.allCmds.filter fun p => d.isComp p.1 p.2 && (d.pipes.lookD p.2.render.pipe {}).guarding

/-- The job that alone may run while a guard time runs; of several the first of R334. -/
def Dev.guardJob (d : Dev) : Option (Nat × Nat) :=
  ((sortBy (fun (a b : List Nat × Nat × Nat) => !lexLt b.1 a.1)
    (d.guarded.map fun p => (d.gfxRank p.1 p.2, p.1, p.2.seq))).head?).map (·.2)

/-- The wheel gives the unit to the job's partition, or it is a compositor job (R319). -/
def Dev.gfxMay (d : Dev) (q : Nat) (c : Cmd) : Bool :=
  !(decide (d.pers = .service) && ((d.part (d.inst (d.instOfQ q)).pt).map (·.worldO)).getD false) &&
  (d.isComp q c || d.whlEn && (d.slotW 2).bit 4 && decide ((d.inst (d.instOfQ q)).pt = (d.slotW 2).fld 3 0))

/-- Jobs that may start or resume, in the order of R334. -/
def Dev.gfxOrder (d : Dev) : List (Nat × Cmd) :=
  let g := d.guardJob
  let cs := d.queues.flatMap fun p =>
    if d.gfxQ p.1 && !d.noDispatch then
      (p.2.window.filter fun c =>
        (d.eligible p.2 c || (decide (c.stage = .dispatched) && c.suspended.isSome)) && d.gfxMay p.1 c &&
        (g.isNone || decide (g = some (p.1, c.seq)))).map fun c => (d.gfxRank p.1 c, p.1, c)
    else []
  (sortBy (fun (a b : List Nat × Nat × Cmd) => !lexLt b.1 a.1) cs).map (·.2)

/-- Why the running job is to stop, if it is (R335). -/
def Dev.gfxStopCause (d : Dev) (q : Nat) (c : Cmd) : Option KillCause :=
  let other := d.guardJob.any fun (g : Nat × Nat) => decide (g ≠ (q, c.seq))
  if other then some .guardTime
  else if !d.gfxMay q c then some .boundary
  else
    match d.gfxOrder.find? fun p => decide (p.2.locked = true) || decide (d.dispCheck p.1 p.2 ≠ .wait) with
    | some p =>
      if lexLt (d.gfxRank p.1 p.2) (d.gfxRank q c) then some (if d.isComp p.1 p.2 then .guardTime else .preempt) else none
    | none => none

/-- A job is killed; a kill at a slot boundary shows in WHL_STATUS (R43). -/
def Dev.killJob (d : Dev) (q seq : Nat) (k : KillCause) : Dev :=
  let d := d.killRerun q seq k
  if k = .boundary then d.setB aWhlStatus 17 true else d

/-- The running job is stopped: a KERNEL job is killed; a RENDER job has GFX_PREEMPT.WAIT to reach a boundary (R335). -/
def Dev.gfxStop (d : Dev) : Dev :=
  match d.gfxRunning with
  | none => d
  | some p =>
    if d.getF aGfxStatus 2 0 = 4 then d else
    match d.gfxStopCause p.1 p.2 with
    | none => d
    | some k =>
      if p.2.op = 0x10002 ∨ d.getF aGfxPreempt 15 0 = 0 then d.killJob p.1 p.2.seq k
      else d.setF aGfxStatus 2 0 4

/-- The unit's status while a job runs. -/
def Dev.gfxStatus (d : Dev) (q : Nat) (c : Cmd) : Dev :=
  let d := d.setF aGfxStatus 2 0 (if c.op = 0x10001 then 1 else 3)
  (d.setF aGfxStatus 27 16 (d.slotOfQ q)).setB aGfxStatus 28 (d.isComp q c)

/-- A job starts, or resumes where it stopped. -/
def Dev.startJob (d : Dev) (q : Nat) (c : Cmd) : Dev :=
  if c.stage = .dispatched then
    (d.updCmd q c.seq fun x => { x with suspended := none, dispT := d.now }).gfxStatus q c
  else
    let len := ((d.ctx? (d.ctxOfQ q)).map (·.cmdlen)).getD 1000
    let pt := (d.inst (d.instOfQ q)).pt
    let gives (s : Nat) : Bool :=
      let w := d.reg (aWhlSlot d.whlBank s 2)
      w.bit 4 && decide (w.fld 3 0 = pt)
    if d.tooLong (fun s => d.isComp q c || gives s) len (d.est 0 [] c 1 len) c then d.refuseCmd q c .eParam 1 else
    let d := d.dispatch q c []
    match d.cmd? q c.seq with
    | some c => if c.stage = .dispatched then (d.count 0x08 0 1).gfxStatus q c else d
    | none => d

/-- The graphics unit: the running job stops where it must, and a free unit takes its next job. -/
def Dev.passGfx (d : Dev) : Dev :=
  if !d.getB aGfxCtrl 0 || d.getB (aClkCtrl 9) 24 || decide (d.getF (aRstDomStatus 10) 2 0 ≠ 0) then d else
  let d := d.gfxStop
  forEach d.gfxOrder (fun p d =>
    if d.gfxRunning.isSome then d else
    match d.cmd? p.1 p.2.seq with
    | some c => d.startJob p.1 c
    | none => d) d

/-! ### The pass -/

/-- Sort units that have become free take their next command. -/
def Dev.passSort (d : Dev) : Dev := forUpTo 4 (fun die d => (d.startSort die).sortRefresh die) d

/-- The scheduler's pass (R221). Log entry 19 (DESIGN CHOICE). -/
def Dev.pass (d : Dev) : Dev :=
  if d.noDispatch then d else
  let d := d.stampEligible
  let d := forEach d.egs (fun p d => d.passEg p.1 p.2) d
  d.passSort.passGfx

/-- What follows a release of locks, a write of memory or a change of grants: the accesses that waited
complete, parked contexts take free slots, and the pass runs (R84, R98, R221).
Log entries 19 (DESIGN CHOICE), 20 (DESIGN CHOICE). -/
def Dev.settle (d : Dev) : Dev := d.serveWaits.serveUnparks.pass

end Sys2Proof.Machine
end

