-- ==== Sys2Proof/Machine/Reach.lean ====
section
/-! DEFINITION. The bytes of its regions that a run reads or writes (R85, R282, R293): the rows of matrices and maps, and the
tables that the parameter block names. A region may be longer than its operand (R115); the rest is not touched. -/

namespace Sys2Proof.Machine

/-- Bytes of a region: its index, an offset and a length. -/
abbrev Piece := Nat × Nat × Nat

/-- Rows of a matrix. -/
def rowPieces (r rows ld rb : Nat) : List Piece := (List.range rows).map fun i => (r, i * ld, rb)

/-- A whole region. -/
def Cmd.wholePiece (c : Cmd) (r : Nat) : Piece := (r, 0, (c.region r).len)

/-- A class 0x01 command, and the operands of KV_APPEND that it shares (R114, R115, R138).
Log entry 22 (DESIGN CHOICE). -/
def Dev.gxPieces (d : Dev) (c : Cmd) : List Piece :=
  let p := c.gx
  match rateOf p.afmt p.wfmt with
  | none => []
  | some r =>
    let src := if p.qen then d.tagFmt c p else p.afmt
    let kp := packK p.wfmt
    let kt := cdiv p.k kp
    let nt := cdiv p.n 32
    let of_ := c.runFmts.2.1
    (if p.transA then rowPieces p.aReg p.k p.lda (rowBytes src p.m) else rowPieces p.aReg p.m p.lda (rowBytes src p.k)) ++
    (if p.wPacked then [(p.wReg, 0, kt * nt * packTile p.wfmt)]
     else if p.transW then rowPieces p.wReg p.n p.ldw (rowBytes p.wfmt p.k) else rowPieces p.wReg p.k p.ldw (rowBytes p.wfmt p.n)) ++
    rowPieces p.dReg p.m p.ldd (rowBytes p.dfmt p.n) ++ rowPieces p.yReg p.m p.ldy (rowBytes of_ p.n) ++
    [(p.wscReg, 0, kt * nt * (32 * kp / p.gOf r) * 4), (p.ascReg, 0, p.m * cdiv p.k (p.gOf r) * 4), c.wholePiece p.cbReg,
     (p.yscReg, 0, p.m * nt * 4), (p.smfReg, 0, 4 * p.k), (p.tagReg, 0, min 32 (c.region p.tagReg).len), (p.sscReg, 0, p.m * cdiv p.k 32 * 4), (p.fitReg, 0, 32)]

/-- A class 0x04 kernel (R173). -/
def Cmd.kernelPieces (c : Cmd) : List Piece :=
  let p := c.kernelP
  let out := c.kernelOut
  rowPieces p.aReg p.m p.lda (rowBytes p.afmt p.n) ++ rowPieces p.yReg out.1 p.ldy (rowBytes c.runFmts.2.1 out.2) ++
  (if c.op = 0x0404 then rowPieces p.wReg p.m p.lda (rowBytes p.afmt p.n) else [c.wholePiece p.wReg]) ++
  [c.wholePiece p.dReg, c.wholePiece p.cbReg, (p.yscReg, 0, out.1 * cdiv out.2 32 * 4), (p.fitReg, 0, 32)]

/-- CONV_CHAIN (R202, R203): the intermediate maps and their flags are taken whole. -/
def Cmd.convPieces (c : Cmd) : List Piece :=
  let w := c.p
  let ls := c.convLayers
  let sd := (w 0).fld 15 12
  (match ls.head?, ls.getLast? with
   | some x, some y =>
     rowPieces ((w 0).fld 7 4) x.h (mapLdr x.w x.c x.afmt) (rowBytes x.afmt (x.w * x.c)) ++
     rowPieces ((w 0).fld 31 28) y.ho y.outLdr y.outLdr
   | _, _ => []) ++
  (ls.flatMap fun x =>
    let kp := packK x.wfmt
    let tiles := cdiv x.k kp * cdiv x.cout 32
    [((w 0).fld 11 8, x.woff, tiles * packTile x.wfmt)] ++
    (if x.needsWsc then [(sd, x.wscoff, tiles * (32 * kp / x.gw) * 4)] else []) ++
    (if x.bias then [(sd, x.boff, 4 * x.cout)] else [])) ++
  [c.wholePiece ((w 0).fld 27 24), c.wholePiece ((w 0).fld 23 20), c.wholePiece ((w 0).fld 19 16), ((w 9).fld 7 4, 0, 32)]

/-- The pieces of a command's regions. Commands whose operands are tables and pages take their regions whole.
Log entry 22 (DESIGN CHOICE). -/
def Dev.pieces (d : Dev) (c : Cmd) : List Piece :=
  let w := c.p
  let all := (List.range (c.ins.length + c.outs.length)).map c.wholePiece
  if c.isJob then all
  else if c.cls = 1 then d.gxPieces c
  else if c.cls = 4 then c.kernelPieces
  else
    match c.op with
    | 0x0201 => c.convPieces
    | 0x0202 =>
      let m := (w 5).fld 12 0
      rowPieces ((w 0).fld 3 0) m (w 6).toNat ((w 1).fld 20 0 * c.topkBits / 8) ++ [((w 0).fld 7 4, 0, m * (8 + 8 * (w 2).fld 12 0))]
    | 0x0203 =>
      let n := (w 1).fld 20 0
      [((w 0).fld 7 4, 0, 4 * n), ((w 0).fld 3 0, 0, 16 * n), ((w 0).fld 11 8, 0, 2 * n), ((w 0).fld 15 12, 0, 8 + 8 * (w 2).fld 28 16)]
    | 0x0204 =>
      let u := c.unfold
      rowPieces u.xReg u.h (ldrBits u.w u.c u.bits) (cdiv (u.w * u.c * u.bits) 8) ++
      rowPieces u.yReg (u.ho * u.wo) u.ldy (cdiv (u.kh * u.kw * u.c * u.bits) 8)
    | 0x0304 =>
      let n := c.ringE * (if c.ringFmt = 0 then 4 else 2)
      (List.range 8).map fun r => (r, 0, n)
    | 0x0501 =>
      let rows := (w 1).fld 19 0
      rowPieces 0 rows (w 3).toNat ((w 2).fld 23 0) ++ rowPieces 1 rows (w 4).toNat ((w 2).fld 23 0)
    | _ => all

/-- The pages that an ATTENTION reads, and the slots that a KV_APPEND writes: they count as lying in its regions (R193). -/
def Dev.kvTouched (d : Dev) (q : Nat) (c : Cmd) (out : Bool) : List Region :=
  if c.isJob then []
  else if out && decide (c.op = 0x0301) then d.kvSlots q c
  else if !out && decide (c.op = 0x0302) then
    match d.kvPool q c with
    | some pl => (d.kvReads c).map fun e => ⟨d.pageAddr c.kvDie pl ((d.pte c e.1 e.2).fld 17 0), d.poolPageBytes c.kvDie pl⟩
    | none => []
  else []

/-- The ranges of memory that a run touches, inputs alone or outputs alone. Log entry 22 (DESIGN CHOICE). -/
def Dev.touched (d : Dev) (q : Nat) (c : Cmd) (out : Bool) : List Region :=
  d.kvTouched q c out ++ ((d.pieces c).filter fun p =>
    decide (0 < p.2.2) && (if out then decide (c.nin ≤ p.1) && decide (p.1 < c.nin + c.outs.length) else decide (p.1 < c.nin))).map
      fun p => ⟨(c.region p.1).base + p.2.1, p.2.2⟩

end Sys2Proof.Machine
end

