-- ==== Sys2Proof/Machine/Press.lean ====
section
/-! DEFINITION. A dispatched command's run to its end, and the press (R85 to R91, R150, R235, R293). -/

namespace Sys2Proof.Machine

/-! ### Counts that the spec leaves open -/

/-- The DRAM lines that a run read and wrote (R477): how many is not stated, so both are free values. -/
def Dev.acctLines (d : Dev) (inst : Nat) : Dev := (d.countFree (0x40 + inst) 2).countFree (0x40 + inst) 3

/-! ### What stops a run (R85, R282, R293) -/

/-- An address that a run touches and the fabric refuses: unmapped, another's, a stack that does not
answer; a map store for a host's command (R288). Sebry has placed a graph's regions itself. -/
def Dev.refusedBy (d : Dev) (q : Nat) (c : Cmd) : Option Nat :=
  let n := d.instOfQ q
  let i := d.inst n
  let ok (x : Nat) : Bool :=
    match d.phys x with
    | some k =>
      if isDram k then d.stackUp (stackOf k) && (c.node.isSome || ownPasses (d.ownOf k) i.pt n)
      else c.node.isSome
    | none => false
  ((d.touched q c false ++ d.touched q c true).flatMap fun r => pageStarts r.lineBase r.lineLen).find? fun x => !ok x

/-- A context torn down for poisoned data; a SAFETY context is reported too (R293, R276). -/
def Dev.tearPoison (d : Dev) (q : Nat) : Dev :=
  let x := d.ctxOfQ q
  let d := d.teardown x 5
  if d.ctxKind x = some .safety then d.report 17 (d.handleOf x) else d

/-- A codebook that a layer of a chain selects lies beyond the codebook region (R85, R104). -/
def Dev.convBookBeyond (d : Dev) (c : Cmd) : Bool :=
  let len := (c.region ((c.p 0).fld 19 16)).len
  let sd := (c.region ((c.p 0).fld 15 12)).base
  (c.myLayers.map (·.2)).any fun x =>
    let kp := packK x.wfmt
    let nk := cdiv x.k kp
    isCb x.wfmt && (List.range nk).any fun kt => (List.range x.cout).any fun n =>
      let tile := n / 32 * nk + kt
      let sel := (Side.of (d.rd32 (sd + x.wscoff + (tile * (32 * kp / x.gw) + n % 32 * (kp / x.gw)) * 4))).sel
      decide (len < sel * 256 + (if x.wfmt = 10 then 256 else 16))

/-! ### The links of a run (R15, R17, R18) -/

/-- The dies from which a running command's transfers go; the hub for a graphics job. -/
def Cmd.sources (c : Cmd) : List Nat :=
  if c.op = 0x0501 then [(c.p 0).fld 9 8]
  else ((c.engines.map (· / 16)) ++ c.sortDie.toList).eraseDups

/-- The links that a running command's transfers take. The transfers of RING_ALLREDUCE go around the ring (R196).
Log entries 46 (DESIGN CHOICE), 56 (DESIGN CHOICE). -/
def Dev.linksOf (d : Dev) (c : Cmd) : List Nat :=
  let ms := ((c.ins ++ c.outs).flatMap fun r => d.diesOf r.base r.len).eraseDups
  if c.op = 0x0304 then (List.range 4).flatMap fun n => d.routeCd n ((n + 1) % 4)
  else if c.isJob then ms.flatMap d.routeHd
  else c.sources.flatMap fun n => ms.flatMap fun m => d.routeCd n m

/-- A transfer of a running command is held by a retraining link or stack interface (R17, R291). -/
def Dev.linksHeld (d : Dev) (c : Cmd) : Bool :=
  d.anyTraining && ((d.linksOf c).any (fun l => (d.link l).training) ||
    ((c.ins ++ c.outs).flatMap fun r => d.diesOf r.base r.len).any fun m => (d.stackIf m).training)

/-- A running command has a transfer for which no path is left: a link of each is DOWN (R18). -/
def Dev.linksLost (d : Dev) (c : Cmd) : Bool := (d.links.any fun l => l.2.down) && (d.linksOf c).any fun l => !d.linkUp l

/-! ### The run -/

/-- The effect of a command's operation on memory and on itself. Log entry 23 (DESIGN CHOICE).
Log entry 140 (DESIGN CHOICE). -/
def Dev.compute (d : Dev) (q : Nat) (c : Cmd) : Dev :=
  if c.isJob then (if c.op = 0x10001 then d.renderRun c else d.kernelJobRun c)
  else if c.cls = 1 then d.gxRun q c
  else if c.op = 0x0201 then d.convRun q c
  else if c.op = 0x0202 then d.topkRun c
  else if c.op = 0x0203 then d.nmsRun c
  else if c.op = 0x0204 then d.unfoldRun c
  else if c.op = 0x0304 then d.ringRun c
  else if c.cls = 3 then
    match d.kvPool q c with
    | none => d
    | some pl =>
      if c.op = 0x0301 then d.kvAppendRun q pl c
      else if c.op = 0x0302 then d.attentionRun pl c
      else d.updCmd q c.seq fun x => { x with held := d.truncHeld c }
  else if c.cls = 4 then d.kernelRun q c
  else if c.cls = 5 then d.copyRun c
  else d

/-- The command is first among its queue's taken commands (R81). -/
def Dev.isFirst (d : Dev) (q seq : Nat) : Bool :=
  match d.queue? q with
  | some x => decide ((x.window.head?).map (·.seq) = some seq)
  | none => false

/-- Step 1 of the press is complete (R87). A command behind others waits in FINISHED and releases its engines (R81), those of
a twinned run once its records have passed; the sort unit and the graphics unit are free at the end of a run.
Log entry 23 (DESIGN CHOICE). -/
def Dev.finish (d : Dev) (q : Nat) (c : Cmd) : Dev :=
  let agreed := (d.twinPairs q c).isEmpty
  let hold := d.isFirst q c.seq || !agreed
  let d := d.freeSort c.sortDie
  let d := match c.sortDie with
    | some die => d.count 0x03 (1024 + 8 * die) 1
    | none => d
  let d := if c.isJob then d.setF aGfxStatus 2 0 0 else d
  let d := if hold then
      forEach c.engines (fun e d =>
        forUpTo 4 (fun k d => d.setF (aVcStatus (4 * e + k)) 7 4 0) (d.setF (aGxStatus e) 7 4 4)) d
    else d.freeEngines c.engines
  let d := d.updCmd q c.seq fun x =>
    { x with stage := .finished, finT := d.now, sortDie := none, agreed, engines := if hold then x.engines else [] }
  (d.acctLines (d.instOfQ q)).trafficFree (d.masterOf q c) (c.ins ++ c.outs)

/-- A dispatched command runs to its end: a refused access (R85), a codebook or a draw that lies beyond its
region (R104, R324), poisoned input (R293), or its effect. -/
def Dev.runCmd (d : Dev) (q : Nat) (c : Cmd) : Dev :=
  -- a transfer to a die that answers nothing (R405), or over a link that is DOWN (R18), ends with an error completion
  if d.linksLost c || (d.touched q c false ++ d.touched q c true).any fun r => d.quietAt r.base r.len then d.killFault q c.seq .link else
  match d.refusedBy q c with
  | some a => d.tearAccess q c a false
  | none =>
    if (d.touched q c false).any fun r => d.poisoned r.base r.len then d.tearPoison q
    else if !c.isJob && (decide (c.cls = 1) || decide (c.op = 0x0301) || decide (c.cls = 4)) && d.bookBeyond c then
      d.tearAccess q c (c.region c.gx.cbReg).base false
    else if decide (c.op = 0x0201) && d.convBookBeyond c then
      d.tearAccess q c (c.region ((c.p 0).fld 19 16)).base false
    -- a draw record that breaks R324 ends the job at binning as a validation failure, and halts its queue
    else if decide (c.op = 0x10001) && d.drawBad c then (d.releaseRun q c).refuseCmd q c .eParam 1
    else (Dev.closeStreams d (d.compute q c) q c).finish q c

/-! ### The press (R87) -/

/-- Step 3: the rungs of the re-run when the fit monitor refuses (R150). Only commands with a fit control
take part; a convolution chain does not escalate (R206). -/
def Cmd.step3 (c : Cmd) : Option (Nat × Nat) :=
  if !c.isJob && (decide (c.cls = 1) || decide (c.op = 0x0301) || decide (c.cls = 4)) then c.fitRefusal else none

/-- A layer flip as DISP_FLIP makes it pending (R68). -/
def Dev.flipTo (d : Dev) (pipe layer addr : Nat) : Dev :=
  { d with pipes := d.pipes.upd pipe {} fun p => { p with flips := p.flips.put layer addr } }

/-- Step 4: held writes, status words, key-value pages, the flip of a RENDER job. -/
def Dev.step4 (d : Dev) (c : Cmd) : Dev :=
  let d := forEach (c.held ++ c.fitHeld) (fun h d => d.wrN h.addr h.data) d
  let d := (d.writeStatus c).commitPages c.pages
  if c.op = 0x10001 && c.render.flip then d.flipTo c.render.pipe c.render.layer (c.region c.render.rtReg).base else d

/-- Steps 6 to 8, or what is left of the press while the fence waits. -/
def Dev.stepFence (d : Dev) (q : Nat) (c : Cmd) : Dev :=
  if d.fenceWaits q c then { d with waiting := d.waiting ++ [.fence q c d.now] } else d.endPress q c d.now

/-- The press of a run's last command: the completion fence (R235), and the end of a torn-down context once the fall-back's first run in
the new one has pressed (R227). -/
def Dev.endRun (d : Dev) (gh k : Nat) : Dev :=
  match d.graph? gh with
  | none => d
  | some g =>
    let d := d.setGraph gh { g with finished := k, runs := g.runs.del k, oldCtx := none }
    let d := match g.oldCtx with
      | some o => ({ d with ctxs := d.ctxs.del o, queues := d.queues.filter (·.2.ctx ≠ o) } : Dev).endCond 9 (d.handleOf o)
      | none => d
    match g.bufs[g.done]? with
    | some b => if d.linesUp b.addr 8 then d.wr64 b.addr k else d
    | none => d

/-- What the press of a graph's command does for its run: the parts of its node (R508), the end of the run, and the checkpoint of R231.
A command of the serving service belongs to no numbered run. Log entry 121 (DESIGN CHOICE). -/
def Dev.runPress (d : Dev) (q : Nat) (c : Cmd) : Dev :=
  match c.node with
  | none => d
  | some n =>
    let d := d.partPress q c
    if n.2.1 = 0 then d else
    let d := if (d.runRest q n.1 n.2.1).isEmpty then d.endRun (d.primaryOf n.1) n.2.1 else d
    d.checkpoint n.1 n.2.1 false

/-- Steps 4 to 8 and the counts of a press. Log entry 23 (DESIGN CHOICE). -/
def Dev.publish (d : Dev) (q : Nat) (x : Queue) (c : Cmd) : Dev :=
  let d := d.step4 c
  let d := (d.freeEngines c.engines).dropCmd q c.seq
  let d := d.stepFence q c
  let d := { d with ctxs := d.ctxs.adjust x.ctx fun y => { y with lastUse := d.now } }
  let d := (d.countInst x.inst 0).countAcct x.inst 0 ((c.finT - c.dispT) * c.nEng)
  let d := forEach c.engines (fun e d => d.count 0x03 (16 * e) 1) d
  d.runPress q c

/-- The fit monitor refuses the commit: the command is re-run at the next rungs (R150, R156). -/
def Dev.refuseFit (d : Dev) (q : Nat) (c : Cmd) (r : Nat × Nat) : Dev :=
  let d := forEach c.engines (fun e d => d.count 0x03 (16 * e + 4) 1) d
  let d := d.killRerun q c.seq .fit
  let d := (d.updCmd q c.seq fun y => { y with esc := c.esc + 1, rungIn := some r.1, rungOut := some r.2 }).partRefused q c r
  match c.node with
  | some n => d.checkpoint n.1 n.2.1 false
  | none => d

/-- The press of a command that has finished and is first in its queue, whose records have passed (step 2, R248). -/
def Dev.press (d : Dev) (q seq : Nat) : Dev :=
  match d.queue? q with
  | none => d
  | some x =>
    match x.cmd? seq with
    | none => d
    | some c =>
      if c.stage ≠ .finished ∨ !d.isFirst q seq ∨ !c.agreed then d
      else
        match c.step3 with
        | some r => (d.refuseFit q c r).settle
        | none => (d.publish q x c).settle

/-- PRESS (R87). -/
def execPress (q : QId) (seq : Word) (t : Nat) (s : State) : Host.Outcome State Fault Refusal :=
  s.act t fun d => d.press q.val seq.toNat

/-! ### A command's row -/

/-- A row of a class command: a command that is only taken is placed by the pass if the pass chooses it; a
dispatched one runs to its end, but for one whose transfers a retraining link holds (R17). -/
def Dev.runRow (d : Dev) (q seq : Nat) (ops : Cmd → Bool) : Dev :=
  match d.cmd? q seq with
  | none => d
  | some c =>
    if !ops c then d else
    let d := if c.stage = .taken then d.pass else d
    match d.cmd? q seq with
    | some c =>
      if c.stage = .dispatched && c.suspended.isNone && !(c.isSort && c.sortDie.isNone) && !d.linksHeld c then
        (d.runCmd q c).settle
      else d
    | none => d

/-- NOP (R87): at its dispatch step 1 is complete, and the press follows. -/
def execNop (q : QId) (seq : Word) (t : Nat) (s : State) : Host.Outcome State Fault Refusal :=
  s.act t fun d => (d.runRow q.val seq.toNat fun c => decide (c.op = 0)).press q.val seq.toNat

end Sys2Proof.Machine
end

