-- ==== Sys2Proof/Machine/Alloc.lean ====
section
/-! DEFINITION. Placement of allocations (R504), the granules behind them (R287), the window table (R380)
and the memory that Sebry holds for an instance. -/

namespace Sys2Proof.Machine

/-- Bytes counted against an instance's quota: its allocations and what Sebry holds for it (R63). -/
def Inst.usedBytes (i : Inst) : Nat := i.allocs.foldl (fun n a => n + a.units * 65536) 0 + i.heldBytes

/-- The quota covers `n` more bytes. -/
def Inst.quotaFor (i : Inst) (n : Nat) : Bool := decide (i.usedBytes + n ≤ i.quotaMiB * 2 ^ 20)

/-- The bytes of a granule of a kind. -/
def granuleBytes (ilv : Bool) : Nat := if ilv then 0x800000 else 0x200000

/-- The granules that an instance owns, as (first window granule, device address): an interleaved one takes
four window granules. -/
def Inst.granules (i : Inst) (ilv : Bool) (stack : Nat) : List (Nat × Nat) :=
  i.window.filterMap fun p =>
    if p.2.ilv = ilv ∧ (if ilv then (p.2.dev - 0x5000000000) % 0x800000 = 0 else stackOf p.2.dev = stack) then some (p.1, p.2.dev)
    else none

/-- A unit of 64 KiB at a device address is in no allocation. -/
def Inst.unitFree (i : Inst) (a : Nat) : Bool :=
  i.allocs.all fun al => decide (a < al.addr) || decide (al.addr + al.units * 65536 ≤ a)

/-- The first run of `s` free units inside a granule. -/
def Inst.runIn (i : Inst) (dev upg s : Nat) : Option Nat :=
  if upg < s then none else
  (List.range (upg + 1 - s)).find? fun u => (List.range s).all fun k => i.unitFree (dev + (u + k) * 65536)

/-- Step 1 of R504: a run in one granule that the instance owns, of the lowest window offset. -/
def Inst.runOwned (i : Inst) (ilv : Bool) (stack s : Nat) : Option (Nat × Nat) :=
  let upg := granuleBytes ilv / 65536
  ((i.granules ilv stack).filterMap fun g => (i.runIn g.2 upg s).map fun u => (g.2 + u * 65536, g.1 * 32 + u)).head?

/-- A granule at a device address belongs to the partition and to no instance (R287). -/
def Dev.granuleFree (d : Dev) (pt a : Nat) : Bool :=
  (ownKeys a).all fun k =>
    let e := (d.own.lookD k 0).toNat
    bitOf e 15 && !bitOf e 14 && decide (bitsOf e 13 10 = pt) && !bitOf e 9

/-- The part of a range that lies in one stack, or all of a range of the interleaved window, as first byte and end. -/
def rangePart (ilv : Bool) (stack : Nat) (r : Nat × Nat) : Option (Nat × Nat) :=
  if ilv then (if 4 * gib36 ≤ r.1 then some (r.1, r.2 + 1) else none)
  else
    let lo := max r.1 (stack * gib36)
    let hi := min (r.2 + 1) ((stack + 1) * gib36)
    if lo < hi then some (lo, hi) else none

/-- The granule starts of a partition's ranges in rising order: of one stack, or of the interleaved window. -/
def Partition.granuleStarts (p : Partition) (ilv : Bool) (stack : Nat) : List Nat :=
  let g := granuleBytes ilv
  let rs := sortBy (fun (a b : Nat × Nat) => decide (a.1 ≤ b.1)) (p.ranges.filterMap (rangePart ilv stack))
  rs.flatMap fun r => (List.range ((r.2 - r.1) / g)).map fun i => r.1 + i * g

/-- The first of `n` consecutive free granules, by device address. -/
def Dev.freeRun (d : Dev) (pt : Nat) (ilv : Bool) (stack n : Nat) : Option Nat :=
  match d.part pt with
  | none => none
  | some p =>
    let g := granuleBytes ilv
    let starts := (p.granuleStarts ilv stack).filter (d.granuleFree pt)
    starts.find? fun a => (List.range n).all fun i => decide (a + i * g ∈ starts)

/-- The first of `n` consecutive free window granules. -/
def Inst.windowRun (i : Inst) (n : Nat) : Nat :=
  let used := i.window.keys
  ((List.range (i.window.length + 1)).map (fun k => if k = 0 then 0 else used.getD (k - 1) 0 + 1)).find?
    (fun w => (List.range n).all fun j => decide (w + j ∉ used)) |>.getD 0

/-- A granule marked in every stack's table (R287). -/
def Dev.markGranule (d : Dev) (a : Nat) (fw : Bool) (pt : Nat) (iv : Bool) (inst : Nat) : Dev := d.setOwn a (mkOwn true fw pt iv inst)

/-- The stacks that an allocation lies in answer (R20): one, or all four under the interleaved window. -/
def Dev.allocUp (d : Dev) (ilv : Bool) (stack : Nat) : Bool := if ilv then (List.range 4).all d.stackUp else d.stackUp stack

/-- R504: an allocation of `s` units, zeroed, as (allocation, device); none where no run of granules is
free. The quota has been checked. Log entry 121 (DESIGN CHOICE). -/
def Dev.allocate (d : Dev) (n : Nat) (ilv : Bool) (stack s : Nat) (kind : AllocKind) : Option (Alloc × Dev) :=
  let i := d.inst n
  if !d.allocUp ilv stack then none else
  match i.runOwned ilv stack s with
  | some r =>
    let al : Alloc := ⟨r.1, s, r.2, kind⟩
    some (al, (d.setInst n { i with allocs := i.allocs ++ [al] }).zero r.1 (s * 65536))
  | none =>
    let g := granuleBytes ilv
    let cnt := (s * 65536 + g - 1) / g
    match d.freeRun i.pt ilv stack cnt with
    | none => none
    | some a =>
      let per := g / 0x200000
      let w := i.windowRun (cnt * per)
      let d := d.zero a (cnt * g)
      let d := forUpTo cnt (fun k d => d.markGranule (a + k * g) false i.pt true n) d
      let win := forUpTo (cnt * per) (fun k (t : Tab WinGranule) => t.put (w + k) ⟨a + k * 0x200000, ilv⟩) i.window
      let al : Alloc := ⟨a, s, w * 32, kind⟩
      some (al, d.setInst n { i with allocs := i.allocs ++ [al], window := win })

/-- Granules of an instance that no allocation touches go back to the partition (R287). -/
def Dev.returnGranules (d : Dev) (n : Nat) : Dev :=
  let i := d.inst n
  let idle (g : Nat × Nat) (ilv : Bool) : Bool :=
    i.allocs.all fun al => !rangesMeet g.2 (granuleBytes ilv) al.addr (al.units * 65536)
  let loc := (List.range 4).flatMap fun s => (i.granules false s).filter fun g => idle g false
  let il := (i.granules true 0).filter fun g => idle g true
  let d := forEach (loc ++ il) (fun g d => d.markGranule g.2 false i.pt false 0) d
  let win := i.window.filter fun p =>
    !(loc.any fun g => g.1 = p.1) && !(il.any fun g => decide (g.1 ≤ p.1) && decide (p.1 < g.1 + 4))
  d.setInst n { i with window := win }

/-- An allocation ends: zeroed, returned to the quota, its idle granules to the partition (R64). -/
def Dev.freeAlloc (d : Dev) (n : Nat) (al : Alloc) : Dev :=
  let d := d.zero al.addr (al.units * 65536)
  let i := d.inst n
  (d.setInst n { i with allocs := i.allocs.filter (· ≠ al) }).returnGranules n

/-! ### Memory that Sebry holds (R180, R268, R510) -/

/-- Granules of one stack taken for Sebry's own use out of an instance's partition; no host reaches them. -/
def Dev.hold (d : Dev) (n stack bytes : Nat) : Option (Nat × Nat × Dev) :=
  let i := d.inst n
  let cnt := (bytes + 0x1FFFFF) / 0x200000
  if !d.stackUp stack then none else
  match d.freeRun i.pt false stack cnt with
  | none => none
  | some a => some (a, cnt, forUpTo cnt (fun k d => d.markGranule (a + k * 0x200000) true i.pt false n) (d.zero a (cnt * 0x200000)))

/-- Held granules go back to the partition. -/
def Dev.unhold (d : Dev) (pt : Nat) (h : Nat × Nat) : Dev :=
  forUpTo h.2 (fun k d => d.markGranule (h.1 + k * 0x200000) false pt false 0) d

/-- The quota's count of held bytes changes. -/
def Dev.addHeld (d : Dev) (n bytes : Nat) : Dev := d.setInst n { d.inst n with heldBytes := (d.inst n).heldBytes + bytes }
def Dev.subHeld (d : Dev) (n bytes : Nat) : Dev := d.setInst n { d.inst n with heldBytes := (d.inst n).heldBytes - bytes }

/-! ### Destroying what an instance has made -/

/-- A key-value pool is destroyed with its graph (R180). -/
def Dev.dropPool (d : Dev) (die q : Nat) : Dev :=
  let d := d.setReg (aKvPoolCfg die q) 0
  let d := { d with kvPages := d.kvPages.filter fun p => p.1 / 2 ^ 18 ≠ poolKey die q }
  { d with kvStacks := d.kvStacks.del (poolKey die q) }.kvRefresh die q

/-- A context and its queues removed; a report of its teardown ends with it (R276). -/
def Dev.dropCtx (d : Dev) (c : Nat) : Dev :=
  let h := d.handleOf c
  let d := forEach (d.queuesOf c) (fun q d => d.squashQueue q) d
  let inst := ((d.ctx? c).map (·.inst)).getD 0
  let qs := d.queuesOf c
  let i := d.inst inst
  let d := d.setInst inst { i with doorbells := i.doorbells.filter fun p => p.2 ∉ qs }
  ({ d with ctxs := d.ctxs.del c, queues := d.queues.filter (·.2.ctx ≠ c) } : Dev).endCond 9 h

/-- A graph unloaded: its context, its pools, its buffers and what Sebry holds for it (R180, R510). -/
def Dev.dropGraph (d : Dev) (g : Nat) : Dev :=
  match d.graph? g with
  | none => d
  | some x =>
    let d := d.dropCtx x.ctx
    let d := forEach x.pools (fun p d => d.dropPool p.1 p.2) d
    let own := (d.inst x.inst).allocs.filter fun al =>
      match al.kind with
      | .graphBuf h _ => decide (h = g)
      | _ => false
    let d := forEach own (fun al d => d.freeAlloc x.inst al) d
    let d := forEach x.held (fun h d => d.unhold (d.inst x.inst).pt h) d
    let d := d.subHeld x.inst (x.heldBytes + ((x.ref.map (fun r => r.data.length + 64)).getD 0))
    ({ d with graphs := d.graphs.del g } : Dev).endCond 8 g

end Sys2Proof.Machine
end

