-- ==== Sys2Proof/Machine/Session.lean ====
section
/-! DEFINITION. The session, memory, context and queue commands (R63, R64, R65, R72, R504), and resets of an
instance (R385 to R388). -/

namespace Sys2Proof.Machine

/-! ### Sessions (R63) -/

/-- SESSION_OPEN's effect: the page ACTIVE, heartbeat supervision from now on (R58). The HEARTBEAT value then in the register is
the first recorded one, and the count of misses, kept while the page is ORPHANED, begins again: R58 says neither.
Log entry 119 (DESIGN CHOICE). -/
def Dev.openSession (d : Dev) (m : Mbx) : SciOut :=
  let k := pgKey m.page
  let p := d.page k
  let d := d.setPage k { p with hostVer := m.req 1, tOpen := d.now, hbPeriods := 0, hbMissed := 0, hbSeen := p.heartbeat, hbWrote := false }
  let d := match m.page with
    | .inst n => d.setState n.val .active
    | .mgr => d.setPage 64 { d.page 64 with state := .active }
  .okay d [0x00020004, d.instId k]

/-- SESSION_OPEN (R63, R56, R57, R390): a LEASE instance in RESET_DONE is refused outside LEASE. -/
def Dev.sessionOpen (m : Mbx) (d : Dev) : Dev :=
  sciCmd m 0x0101 1 pagesIM
    (fun d => [ (decide ((m.req 1).fld 31 16 ≠ 2), .eVersion),
      (decide ((d.page (pgKey m.page)).state = .active), .eState),
      (match m.page with
       | .inst n => decide ((d.page n.val).state = .resetDone) && decide (d.pers ≠ .lease) &&
           decide ((d.part (d.inst n.val).pt).map (·.kind) = some .lease)
       | .mgr => false, .eDenied) ])
    (fun d => d.openSession m) d (true, false, false)

def execSessionOpen (m : Mbx) (s : State) : Host.Outcome State Fault Refusal := s.act m.t (Dev.sessionOpen m)

/-- INST_QUERY (R63). On the manager page the state and the period are the page's own, and the rest is
INST0's. -/
def Dev.instQuery (m : Mbx) (d : Dev) : Dev :=
  sciCmd m 0x0102 0 pagesIM (fun _ => [])
    (fun d =>
      let k := pgKey m.page
      let i := d.inst (pgInst m.page)
      .okay d [d.instState k, BitVec.ofNat 32 i.quotaMiB, BitVec.ofNat 32 ((i.usedBytes + (2 ^ 20 - 1)) / 2 ^ 20),
        BitVec.ofNat 32 i.qQuota, BitVec.ofNat 32 i.ctxQuota, BitVec.ofNat 32 (d.page k).hbPeriodMs, BitVec.ofNat 32 i.egMask])
    d (false, true, false)

def execInstQuery (m : Mbx) (s : State) : Host.Outcome State Fault Refusal := s.act m.t (Dev.instQuery m)

/-- EVICT_ACK (R63): the grace ends now. The commands run on until the squash. -/
def Dev.evictAck (m : Mbx) (d : Dev) : Dev :=
  sciCmd m 0x0103 0 pagesI
    (fun d => [(!(d.page (pgKey m.page)).evict, .eState)])
    (fun d =>
      let n := pgInst m.page
      .okay (d.setInst n { d.inst n with graceEnd := some d.now })) d

def execEvictAck (m : Mbx) (s : State) : Host.Outcome State Fault Refusal := s.act m.t (Dev.evictAck m)

/-! ### Resets (R385 to R388) -/

/-- The instance's commands are squashed, its serving and its graph runs end, its channels stop (R386). -/
def Dev.squashInst (d : Dev) (n : Nat) : Dev :=
  let qs := (d.queues.filter (·.2.inst = n)).map (·.1)
  let d := forEach qs (fun q d => d.squashQueue q) d
  let d := { d with queues := d.queues.map fun (p : Nat × Queue) => if p.2.inst = n then (p.1, { p.2 with feed := [] }) else p }
  let d := d.endServing n
  d.stopDma n

/-- The instance enters SQUASHING; a pending drain ends there (R385, R388). -/
def Dev.beginSquash (d : Dev) (n : Nat) : Dev :=
  let d := (d.setState n .squashing).squashInst n
  d.setInst n { d.inst n with drainT := none }

/-- The instance enters DRAINING (R385). The service takes no further requests. -/
def Dev.beginDrain (d : Dev) (n : Nat) : Dev :=
  let d := d.setState n .draining
  let d := { d with serving := d.serving.adjust n fun sv => { sv with stopping := true } }
  d.setInst n { d.inst n with drainT := some d.now }

/-- A reset requested with a MODE: 0 drains, 1 squashes. -/
def Dev.resetInst (d : Dev) (n : Nat) (squash : Bool) : Dev :=
  if squash then (d.beginSquash n).settle else d.beginDrain n

/-- INST_RESET (R63). -/
def Dev.instReset (m : Mbx) (d : Dev) : Dev :=
  sciCmd m 0x0104 1 pagesI (fun _ => [(rsvBad (m.req 1) 1, .eParam)])
    (fun d =>
      let n := pgInst m.page
      .okay ((d.begin m 0x0104 n 0 false).resetInst n ((m.req 1).bit 0))) d

def execInstReset (m : Mbx) (s : State) : Host.Outcome State Fault Refusal := s.act m.t (Dev.instReset m)

/-! ### Memory (R64, R504) -/

/-- MEM_ALLOC. -/
def Dev.memAlloc (m : Mbx) (d : Dev) : Dev :=
  let s := (m.req 1).toNat
  let ilv := (m.req 2).bit 0
  let stack := (m.req 2).fld 5 4
  sciCmd m 0x0201 2 pagesI
    (fun d =>
      let n := pgInst m.page
      [ (decide (s = 0), .eParam), (rsvBad (m.req 2) 0x31, .eParam), (ilv && decide (stack ≠ 0), .eParam),
        (!(d.inst n).quotaFor (s * 65536), .eQuota), ((d.allocate n ilv stack s .mem).isNone, .eNores) ])
    (fun d =>
      match d.allocate (pgInst m.page) ilv stack s .mem with
      | some r => .okay r.2 (dwordWords r.1.addr ++ [BitVec.ofNat 32 r.1.winOff])
      | none => .fail d .eNores) d

def execMemAlloc (m : Mbx) (s : State) : Host.Outcome State Fault Refusal := s.act m.t (Dev.memAlloc m)

/-- The allocation that an address starts and that MEM_FREE may name: a graph's buffers are not among them
(R510). -/
def Inst.freeable (i : Inst) (a : Nat) : Option Alloc :=
  i.allocs.find? fun al => decide (al.addr = a) && (match al.kind with
    | .graphBuf _ _ => false
    | _ => true)

/-- R393 item 6: freeing an allocation that holds a bitmap while logging runs clears EN and sets LOST. -/
def Dev.loseLog (d : Dev) (n : Nat) (al : Alloc) : Dev :=
  let p := d.page n
  let hit (b : Nat) : Bool := rangesMeet b (p.dl.len * 64) al.addr (al.units * 65536)
  if p.dl.en && (hit p.dl.base0 || hit p.dl.base1) then d.setPage n { p with dl := { p.dl with en := false, swapBusy := false, lost := true } } else d

/-- MEM_FREE. -/
def Dev.memFree (m : Mbx) (d : Dev) : Dev :=
  let a := addrOf (m.req 1) (m.req 2)
  sciCmd m 0x0202 2 pagesI
    (fun d =>
      (!(d.inst (pgInst m.page)).owns a 1, .eParam) ::
      match (d.inst (pgInst m.page)).freeable a with
      | some al => [(d.lockHit al.addr (al.units * 65536) true, .eBusy)]
      | none => [(true, .eHandle)])
    (fun d =>
      let n := pgInst m.page
      match (d.inst n).freeable a with
      | some al => .okay (((d.begin m 0x0202 a).freeAlloc n al).loseLog n al)
      | none => .fail d .eHandle) d

def execMemFree (m : Mbx) (s : State) : Host.Outcome State Fault Refusal := s.act m.t (Dev.memFree m)

/-! ### Contexts (R65, R93 to R97) -/

/-- A context handle of an instance: its index. -/
def Dev.ctxByHandle (d : Dev) (n h : Nat) : Option Nat :=
  match d.ctx? (h % 65536) with
  | some x => if x.inst = n ∧ x.gen % 65536 = h / 65536 then some (h % 65536) else none
  | none => none

def Dev.ctxCount (d : Dev) (n : Nat) : Nat := (d.ctxs.filter (·.2.inst = n)).length

/-- The partition of an instance pins its contexts (R96). -/
def Dev.pins (d : Dev) (n : Nat) : Bool :=
  match d.part (d.inst n).pt with
  | some p => decide (p.kind = .safety) || decide (p.kind = .display)
  | none => false

def Dev.pinnedCount (d : Dev) : Nat := (d.ctxs.filter fun p => d.pinned p.1).length

/-- What stops the creation of a context for want of a pool (R96, R97). -/
def Dev.ctxNores (d : Dev) (n : Nat) : Bool :=
  decide (65536 ≤ d.ctxs.length) || (d.pins n && (decide (1024 ≤ d.pinnedCount) || d.makeSlot.isNone))

/-- A context created: tracked in a slot, or parked where none is free and it is not pinned (R96, R97). The
generation of an index grows each time the index is used again (R93). Log entry 16 (DESIGN CHOICE). -/
def Dev.newCtx (d : Dev) (n eg prio cmdlen : Nat) (graph : Option Nat) : Option (Nat × Dev) :=
  match d.ctxs.freeKey 0 65536 with
  | none => none
  | some c =>
    let gen := match d.ctxGen.look c with
      | some g => (g + 1) % 65536
      | none => 0
    let place := if d.pins n then d.makeSlot else d.freeSlot.map fun s => (s, d)
    match place with
    | some (s, d) =>
      let d := { d with ctxGen := d.ctxGen.put c gen }
      some (c, d.setCtx c { gen, inst := n, eg, prio, cmdlen, parked := false, slot := s, lastUse := d.now, graph })
    | none =>
      let d := { d with ctxGen := d.ctxGen.put c gen }
      some (c, d.setCtx c { gen, inst := n, eg, prio, cmdlen, parked := true, lastUse := d.now, graph })

/-- CTX_CREATE. -/
def Dev.ctxCreate (m : Mbx) (d : Dev) : Dev :=
  let eg := (m.req 1).fld 4 0
  let len := (m.req 2).fld 14 0
  sciCmd m 0x0301 2 pagesI
    (fun d =>
      let n := pgInst m.page
      let i := d.inst n
      [ (rsvBad (m.req 1) 0x71F, .eParam), (rsvBad (m.req 2) 0x7FFF, .eParam),
        (decide (len ≠ 0) && (decide (len < 50) || decide (20000 < len)), .eParam),
        (!bitOf i.egMask eg, .eDenied), (decide (i.ctxQuota ≤ d.ctxCount n), .eQuota), (d.ctxNores n, .eNores) ])
    (fun d =>
      let n := pgInst m.page
      match d.newCtx n eg ((m.req 1).fld 10 8) (if len = 0 then (d.inst n).cmdlen else len) none with
      | some r => .okay r.2 [BitVec.ofNat 32 (r.2.handleOf r.1)]
      | none => .fail d .eNores) d

def execCtxCreate (m : Mbx) (s : State) : Host.Outcome State Fault Refusal := s.act m.t (Dev.ctxCreate m)

/-- CTX_DESTROY. -/
def Dev.ctxDestroy (m : Mbx) (d : Dev) : Dev :=
  sciCmd m 0x0302 1 pagesI
    (fun d => [((d.ctxByHandle (pgInst m.page) (m.req 1).toNat).isNone, .eHandle)])
    (fun d =>
      match d.ctxByHandle (pgInst m.page) (m.req 1).toNat with
      | some c => .okay (((d.begin m 0x0302 (m.req 1).toNat).dropCtx c).settle)
      | none => .fail d .eHandle) d

def execCtxDestroy (m : Mbx) (s : State) : Host.Outcome State Fault Refusal := s.act m.t (Dev.ctxDestroy m)

/-- CTX_QUERY. -/
def Dev.ctxQuery (m : Mbx) (d : Dev) : Dev :=
  sciCmd m 0x0306 1 pagesI
    (fun d => [((d.ctxByHandle (pgInst m.page) (m.req 1).toNat).isNone, .eHandle)])
    (fun d =>
      match d.ctxByHandle (pgInst m.page) (m.req 1).toNat with
      | some c =>
        let n := ((d.queues.filter (·.2.ctx = c)).map fun p => p.2.window.length).foldl (· + ·) 0
        .okay d [BitVec.ofNat 32 (b2n ((d.ctx? c).any (·.parked))), BitVec.ofNat 32 n]
      | none => .fail d .eHandle) d

def execCtxQuery (m : Mbx) (s : State) : Host.Outcome State Fault Refusal := s.act m.t (Dev.ctxQuery m)

/-! ### Queues (R65, R72) -/

def Dev.qCount (d : Dev) (n : Nat) : Nat := (d.queues.filter (·.2.inst = n)).length

/-- A torn-down context accepts only CTX_QUERY and CTX_DESTROY (R92). -/
def Dev.isTorn (d : Dev) (c : Nat) : Bool := (d.ctx? c).any (·.torn)

/-- A queue created at the lowest free number and, for a host's queue, the lowest free DBIDX.
Log entry 16 (DESIGN CHOICE). -/
def Dev.newQueue (d : Dev) (n c ring log2n compl : Nat) (graph : Option Nat) : Option (Nat × Nat × Dev) :=
  match d.queues.freeKey 0 16384 with
  | none => none
  | some q =>
    let i := d.inst n
    match graph with
    | some _ => some (q, 0, d.setQueue q { ctx := c, inst := n, dbidx := 4096, ring, log2n, compl, graph })
    | none =>
      match i.doorbells.freeKey 0 4096 with
      | none => none
      | some b =>
        let d := d.setInst n { i with doorbells := i.doorbells.put b q }
        some (q, b, d.setQueue q { ctx := c, inst := n, dbidx := b, ring, log2n, compl })

/-- Q_CREATE. -/
def Dev.qCreate (m : Mbx) (d : Dev) : Dev :=
  let ring := addrOf (m.req 2) (m.req 3)
  let l := (m.req 4).fld 4 0
  let compl := addrOf (m.req 5) (m.req 6)
  sciCmd m 0x0303 6 pagesI
    (fun d =>
      let n := pgInst m.page
      let i := d.inst n
      let c := d.ctxByHandle n (m.req 1).toNat
      [ (rsvBad (m.req 4) 0x1F, .eParam), (decide (l < 4) || decide (16 < l), .eParam), (decide (ring % 4096 ≠ 0), .eParam),
        (decide (compl % 32 ≠ 0), .eParam), (!i.owns ring (64 * 2 ^ l), .eParam), (!i.owns compl (32 * 2 ^ l), .eParam),
        (rangesMeet ring (64 * 2 ^ l) compl (32 * 2 ^ l), .eParam),
        (c.isNone, .eHandle), (c.any d.isTorn, .eState),
        (decide (i.qQuota ≤ d.qCount n), .eQuota), (decide (16384 ≤ d.queues.length), .eNores) ])
    (fun d =>
      let n := pgInst m.page
      match d.ctxByHandle n (m.req 1).toNat with
      | some c =>
        match d.newQueue n c ring l compl none with
        | some r => .okay r.2.2 [BitVec.ofNat 32 (r.2.1 % 4096 * 65536 + r.1 % 16384)]
        | none => .fail d .eNores
      | none => .fail d .eHandle) d

def execQCreate (m : Mbx) (s : State) : Host.Outcome State Fault Refusal := s.act m.t (Dev.qCreate m)

/-- The queue of a DBIDX of an instance. -/
def Dev.queueOf (d : Dev) (n b : Nat) : Option Nat := (d.inst n).doorbells.look b

/-- What refuses a command that names a DBIDX. -/
def Dev.dbChecks (d : Dev) (m : Mbx) : List (Bool × Status) :=
  match d.queueOf (pgInst m.page) (m.req 1).toNat with
  | some q => [(rsvBad (m.req 1) 0xFFF, .eParam), (d.isTorn (d.ctxOfQ q), .eState)]
  | none => [(rsvBad (m.req 1) 0xFFF, .eParam), (true, .eHandle)]

/-- Q_DESTROY. -/
def Dev.qDestroy (m : Mbx) (d : Dev) : Dev :=
  sciCmd m 0x0304 1 pagesI
    (fun d => d.dbChecks m ++
      (match (d.queueOf (pgInst m.page) (m.req 1).toNat).bind d.queue? with
       | some x => [(decide (x.head ≠ x.tail) || !x.window.isEmpty, .eBusy)]
       | none => []))
    (fun d =>
      let n := pgInst m.page
      match d.queueOf n (m.req 1).toNat with
      | some q =>
        let i := d.inst n
        let d := d.setInst n { i with doorbells := i.doorbells.del (m.req 1).toNat }
        .okay { d with queues := d.queues.del q }
      | none => .fail d .eHandle) d

def execQDestroy (m : Mbx) (s : State) : Host.Outcome State Fault Refusal := s.act m.t (Dev.qDestroy m)

/-- Q_RESET: the queue's commands are squashed, the head set equal to the tail, a halt ends (R79). -/
def Dev.qReset (m : Mbx) (d : Dev) : Dev :=
  sciCmd m 0x0305 1 pagesI (fun d => d.dbChecks m)
    (fun d =>
      match d.queueOf (pgInst m.page) (m.req 1).toNat with
      | some q =>
        let d := (d.begin m 0x0305 q).squashQueue q
        let d := { d with queues := d.queues.adjust q fun x => { x with head := x.tail, halted := false } }
        .okay d.settle
      | none => .fail d .eHandle) d

def execQReset (m : Mbx) (s : State) : Host.Outcome State Fault Refusal := s.act m.t (Dev.qReset m)

end Sys2Proof.Machine
end

