-- ==== Sys2Proof/Machine/Display.lean ====
section
/-! DEFINITION. The graphics unit's rows (R334 to R336, R347), the display pipes (R337 to R342), their commands (R68) and the
camera ports (R344, R345). -/

namespace Sys2Proof.Machine

/-! ### The graphics unit -/

/-- A write of GFX_CTRL.KILL (R347): the running job is killed; it is re-run as after a pre-emption.
Log entry 27 (DEDUCED). -/
def Dev.gfxKill (d : Dev) : Dev :=
  match d.gfxRunning with
  | some p => (d.killRerun p.1 p.2.seq .preempt).settle
  | none => d

/-- GFX_KILL. -/
def execGfxKill (t : Nat) (s : State) : Host.Outcome State Fault Refusal := s.act t Dev.gfxKill

/-- JOB_SUSPEND (R335): a RENDER job that is to stop reaches a boundary within GFX_PREEMPT.WAIT, or does not and is killed. -/
def Dev.jobSuspend (d : Dev) (boundary : Bool) : Dev :=
  if d.getF aGfxStatus 2 0 ≠ 4 then d else
  match d.gfxRunning with
  | none => d
  | some p =>
    if boundary then
      ((((d.updCmd p.1 p.2.seq fun c => { c with suspended := some 0 }).setF aGfxStatus 2 0 0).count 0x08 1 1)).settle
    else (d.killJob p.1 p.2.seq ((d.gfxStopCause p.1 p.2).getD .preempt)).settle

def execJobSuspend (boundary : Bool) (t : Nat) (s : State) : Host.Outcome State Fault Refusal :=
  s.act t fun d => d.jobSuspend boundary

/-- The start of a pipe's guard time (R341): an unpressed compositor job of the pipe waits for a deadline that is at most G
away, or for one that the model cannot know. -/
def Dev.compositorGuard (d : Dev) (p : Nat) : Dev :=
  let g := d.getF (aDispCtrl p) 23 8 * 100000
  let last := ((d.pipes.lookD p {}).lastLatch).getD 0
  let due := d.allCmds.any fun x =>
    d.isComp x.1 x.2 && decide (x.2.render.pipe = p) && decide (last ≤ x.2.takenT) &&
    (decide (d.deadline x.2 = 2 ^ 64) || (decide (d.deadline x.2 ≤ d.now + g) && decide (d.now < d.deadline x.2)))
  if due then ({ d with pipes := d.pipes.upd p {} fun x => { x with guarding := true } } : Dev).pass else d

/-- COMPOSITOR_GUARD (R341). -/
def execCompositorGuard (pipe : Fin 4) (t : Nat) (s : State) : Host.Outcome State Fault Refusal :=
  s.act t fun d => d.compositorGuard pipe.val

/-- TILE_MEM_ERROR (R336). -/
def execTileMemError (correctable : Bool) (t : Nat) (s : State) : Host.Outcome State Fault Refusal :=
  s.act t fun d =>
    if correctable then d.setB aGfxErr 0 true
    else
      let d := d.setB aGfxErr 1 true
      match d.gfxRunning with
      | some p => (d.tearPoison p.1).settle
      | none => d

/-! ### What a pipe shows (R337) -/

/-- A byte of a surface, scaled to [0, 1]. -/
def unit8 (n : Nat) : Ext := rne32 ((Ext.ofInt n).div (.ofInt 255))

/-- The limited-range matrix of ITU-R BT.709: R, G, B of Y, Cb and Cr codes, clamped to [0, 1].
Log entry 60 (DESIGN CHOICE). -/
def bt709 (y cb cr : Nat) : List Ext :=
  let q (n : Int) (m : Nat) : Ext := (Ext.ofInt n).div (.ofInt m)
  let l : Ext := q ((y : Int) - 16) 219
  let b := q ((cb : Int) - 128) 224
  let r := q ((cr : Int) - 128) 224
  let k (n : Int) : Ext := q n 100000000
  [rne32 (l.add ((k 157480000).mul r)), rne32 ((l.sub ((k 18732427).mul b)).sub ((k 46812427).mul r)),
   rne32 (l.add ((k 185560000).mul b))].map clamp01

/-- Colour and alpha of pixel (x, y) of a layer, as R, G, B, A in FP32. -/
def Dev.layerPixel (d : Dev) (l : Layer) (x y : Nat) : List Ext :=
  let f := surfCode l.fmt
  if f = 0x10 then
    let lds := surfLds l.w 1
    let c := l.addr + lds * l.h + y / 2 * lds + x / 2 * 2
    bt709 (d.rd8 (l.addr + y * lds + x)).toNat (d.rd8 c).toNat (d.rd8 (c + 1)).toNat ++ [.one]
  else if f = 0x11 then
    let a := l.addr + y * surfLds l.w 2 + x / 2 * 4
    bt709 (d.rd8 (a + x % 2 * 2)).toNat (d.rd8 (a + 1)).toNat (d.rd8 (a + 3)).toNat ++ [.one]
  else decodePix l.fmt (d.pixel l.fmt l.addr l.w x y l.h)

/-- The pixel that a pipe shows at (x, y) of its active area, as R, G, B codes: the layers in ascending order over the
background (R337). Log entry 60 (DESIGN CHOICE). A pixel that a lock keeps back is the background. Log entry 123
(DESIGN CHOICE). -/
def Dev.scanPixel (d : Dev) (p x y : Nat) : List Nat :=
  let bg := d.getF (aDispBg p) 23 0
  let start := [unit8 (bitsOf bg 23 16), unit8 (bitsOf bg 15 8), unit8 (bitsOf bg 7 0)]
  let pipe := d.pipes.lookD p {}
  -- a read of a locked line waits (R84): the pipe has no pixel in time and shows its background, as at an underrun (R339)
  let waits := pipe.cur.any fun (e : Nat × Layer) => decide (e.2.x ≤ x) && decide (x < e.2.x + e.2.w) && decide (e.2.y ≤ y) &&
    decide (y < e.2.y + e.2.h) && d.mustWait e.2.addr (surfBytes e.2.fmt e.2.w e.2.h) false
  let out := if pipe.under || waits then start else
    pipe.cur.foldl (fun (out : List Ext) (e : Nat × Layer) =>
      let l := e.2
      if l.x ≤ x ∧ x < l.x + l.w ∧ l.y ≤ y ∧ y < l.y + l.h then
        let s := d.layerPixel l (x - l.x) (y - l.y)
        let a := s.getD 3 .one
        (List.range 3).map fun k => add32 (mul32 (s.getD k .zero) a) (mul32 (out.getD k .zero) (sub32 .one a))
      else out) start
  out.map fun c => (roundInt ((clamp01 c).mul (.ofInt 255)) 0 0).toNat

/-! ### The latch (R338, R342) -/

/-- The bytes of a layer's surface. -/
def Layer.bytes (l : Layer) : Nat := surfBytes l.fmt l.w l.h

/-- A surface passes the check of R286 for the instance that set the layer, and holds no poison (R293).
Log entry 60 (DESIGN CHOICE). -/
def Dev.layerOk (d : Dev) (l : Layer) : Bool := (d.accBad (d.inst l.inst).pt l.inst l.addr l.bytes).isNone && !d.poisoned l.addr l.bytes

/-- The new set: pending settings, then the latest flips. A flip of a layer that the set does not show has nothing to show.
Log entry 60 (DESIGN CHOICE). -/
def Pipe.next (p : Pipe) : Tab Layer :=
  let t := p.pend.foldl (fun (t : Tab Layer) (e : Nat × Option Layer) =>
    match e.2 with
    | some l => t.put e.1 l
    | none => t.del e.1) p.cur
  p.flips.foldl (fun (t : Tab Layer) (f : Nat × Nat) => t.adjust f.1 fun l => { l with addr := f.2 }) t

/-- A compositor job of the pipe whose deadline is this latch has not pressed. -/
def Dev.missed (d : Dev) (p : Nat) : Bool :=
  let last := (d.pipes.lookD p {}).lastLatch
  d.allCmds.any fun x => d.isComp x.1 x.2 && decide (x.2.render.pipe = p) &&
    (match last with
     | some l => decide (l ≤ x.2.takenT)
     | none => true)

/-- Surfaces of the set in force that fail their check are disabled. -/
def Dev.keepSet (d : Dev) (cur : Tab Layer) : Tab Layer := cur.filter fun e => d.layerOk e.2

/-- A latch of a pipe that scans out. -/
def Dev.displayLatch (d : Dev) (p : Nat) : Dev :=
  if !d.getB (aDispCtrl p) 0 then d else
  let x := d.pipes.lookD p {}
  let miss := d.missed p
  let d := d.setReg (aDispFrame p) (d.reg (aDispFrame p) + 1)
  let base : Pipe := { x with under := false, guarding := false, lastLatch := some d.now }
  let put (d : Dev) (y : Pipe) : Dev := { d with pipes := d.pipes.put p y }
  let d :=
    if miss then
      let d := ((d.setB (aDispStatus p) 0 true).logE 7 0 p 0 1).count 0x08 (12 + p) 1
      put d { base with cur := d.keepSet x.cur }
    else
      let nw := x.next
      let bad := nw.find? fun (e : Nat × Layer) => !d.layerOk e.2 && !(decide (Tab.look x.cur e.1 = some e.2))
      match bad with
      | some e =>
        let d := match d.accBad (d.inst e.2.inst).pt e.2.inst e.2.addr e.2.bytes with
          | some a => d.refuse (64 + p) a false
          | none => d
        let d := (d.setB (aDispStatus p) 2 true).logE 7 0 p 0 0
        put d { base with cur := d.keepSet x.cur }
      | none => put d { base with cur := d.keepSet nw, pend := [], flips := [] }
  d.pass

/-- DISPLAY_LATCH (R338). -/
def execDisplayLatch (pipe : Fin 4) (t : Nat) (s : State) : Host.Outcome State Fault Refusal :=
  s.act t fun d => d.displayLatch pipe.val

/-- DISPLAY_UNDERRUN (R339). -/
def execDisplayUnderrun (pipe : Fin 4) (t : Nat) (s : State) : Host.Outcome State Fault Refusal :=
  s.act t fun d =>
    let p := pipe.val
    if !d.getB (aDispCtrl p) 0 then d else
    let d := (d.setB (aDispStatus p) 1 true).count 0x08 (16 + p) 1
    { d with pipes := d.pipes.upd p {} fun x => { x with under := true } }

/-! ### The display commands (R68) -/

/-- The layer belongs to another partition than the page's instance. -/
def Dev.notLayer (d : Dev) (n pipe layer : Nat) : Bool :=
  decide (Tab.look d.boot.layerPt (pipe * 8 + layer) ≠ some (d.inst n).pt)

/-- DISP_LAYER_SET. -/
def Dev.dispLayerSet (m : Mbx) (d : Dev) : Dev :=
  let pipe := (m.req 1).fld 1 0
  let layer := (m.req 1).fld 4 2
  let en := (m.req 1).bit 5
  let n := pgInst m.page
  let l : Layer := { inst := n, addr := addrOf (m.req 2) (m.req 3), w := (m.req 4).fld 15 0, h := (m.req 4).fld 31 16,
                     fmt := (m.req 5).fld 7 0, x := (m.req 6).fld 15 0, y := (m.req 6).fld 31 16 }
  sciCmd m 0x0701 6 pagesI
    (fun d =>
      [ (rsvBad (m.req 1) 0x3F, .eParam), (rsvBad (m.req 5) 0xFF, .eParam), (d.notLayer n pipe layer, .eDenied),
        (en && !dispFmt l.fmt, .eParam),
        (en && decide (surfCode l.fmt = 0x10) && (decide (l.w % 2 ≠ 0) || decide (l.h % 2 ≠ 0)), .eParam),
        (en && !(d.inst n).owns l.addr l.bytes, .eParam) ])
    (fun d => .okay { d with pipes := d.pipes.upd pipe {} fun p =>
      { p with pend := p.pend.put layer (if en then some l else none), flips := p.flips.del layer } }) d

def execDispLayerSet (m : Mbx) (s : State) : Host.Outcome State Fault Refusal := s.act m.t (Dev.dispLayerSet m)

/-- The size of a layer's surface as the next set has it; one byte where the layer is off. -/
def Dev.layerBytes (d : Dev) (pipe layer : Nat) : Nat :=
  ((Tab.look (d.pipes.lookD pipe {}).next layer).map (·.bytes)).getD 1

/-- DISP_FLIP. -/
def Dev.dispFlip (m : Mbx) (d : Dev) : Dev :=
  let pipe := (m.req 1).fld 1 0
  let layer := (m.req 1).fld 4 2
  let n := pgInst m.page
  let a := addrOf (m.req 2) (m.req 3)
  sciCmd m 0x0702 3 pagesI
    (fun d => [ (rsvBad (m.req 1) 0x1F, .eParam), (d.notLayer n pipe layer, .eDenied),
                (!(d.inst n).owns a (d.layerBytes pipe layer), .eParam) ])
    (fun d => .okay (d.flipTo pipe layer a) [d.reg (aDispFrame pipe) + 1]) d

def execDispFlip (m : Mbx) (s : State) : Host.Outcome State Fault Refusal := s.act m.t (Dev.dispFlip m)

/-! ### Cameras (R344, R345) -/

/-- Bytes per pixel and significant bits of a sample of a CSI-2 data type: YUV422 8-bit, RAW8, RAW10, RAW12, RAW16. -/
def camType : Nat → Option (Nat × Nat)
  | 0x1E => some (2, 8)
  | 0x2A => some (1, 8)
  | 0x2B => some (2, 10)
  | 0x2C => some (2, 12)
  | 0x2E => some (2, 16)
  | _ => none

/-- A row as the port stores it: samples of more than 8 bits right-aligned in two bytes. -/
def camRow (bits : Nat) : List Byte → List Byte
  | a :: b :: t => if bits ≤ 8 then a :: b :: camRow bits t else a :: (b &&& BitVec.ofNat 8 (2 ^ (bits - 8) - 1)) :: camRow bits t
  | l => l

/-- A camera frame ends in error (R345). Log entry 61 (DESIGN CHOICE). -/
def Dev.cameraError (d : Dev) (r : Nat) : Dev :=
  let d := (d.count 0x08 (64 + r) 1).dmaPeriph r
  { d with cams := d.cams.put r {} }

/-- The bytes that a port buffers for its four streams. -/
def Dev.portBuf (d : Dev) (port : Nat) : Nat := (List.range 4).foldl (fun n v => n + (d.cams.lookD (4 * port + v) {}).buf.length) 0

/-- One burst's worth of a frame buffered: the request, and the channel's burst where the engine serves it. A port buffers
64 KiB (R344). Log entry 61 (DESIGN CHOICE). -/
def Dev.cameraChunk (d : Dev) (r : Nat) (bs : List Byte) : Dev :=
  let x := d.cams.lookD r {}
  if x.error then d else
  if 65536 < d.portBuf (r / 4) + bs.length then
    let d := d.cameraError r
    { d with cams := d.cams.put r { error := true } }
  else
    let d := ({ d with cams := d.cams.put r { x with buf := x.buf ++ bs } } : Dev).dmaRequest r
    if (d.dmaUser r).isSome && decide (d.dmaPick 0 = d.dmaUser r) then d.dmaBurst 0 else d

/-- Chunks of 1 KiB, and the remainder. -/
def Dev.cameraChunks (d : Dev) (r : Nat) : Nat → List Byte → Dev
  | 0, _ => d
  | k + 1, bs => if bs.isEmpty then d else (d.cameraChunk r (bs.take 1024)).cameraChunks r k (bs.drop 1024)

/-- CAMERA_FRAME (R344): a whole frame of a stream arrives, as rows of samples. Log entry 61 (DESIGN CHOICE). -/
def Dev.cameraFrame (d : Dev) (port stream vc dt : Nat) (lines : List (List Byte)) : Dev :=
  let r := 4 * port + stream
  match Tab.look d.boot.cams r with
  | none => d
  | some c =>
    if port ∉ d.boot.camPorts ∨ vc ≠ stream ∨ dt ≠ c.dt then d else
    match camType c.dt with
    | none => d
    | some ty =>
      if lines.length ≠ c.h ∨ !lines.all fun l => decide (l.length = c.w * ty.1) then d.cameraError r
      else
        let body := if c.dt = 0x1E then lines.flatten else lines.flatMap (camRow ty.2)
        let pad := List.replicate (alignUp body.length 64 - body.length) (0 : Byte)
        let status := List.replicate 8 (0 : Byte) ++ leBytes 8 d.now ++ List.replicate 48 (0 : Byte)
        let all := body ++ pad ++ status
        let d := d.cameraChunks r (all.length / 1024 + 1) all
        { d with cams := d.cams.adjust r fun x => { x with error := false } }

def execCameraFrame (port : Fin 16) (stream : Fin 4) (vc : Fin 16) (dt : Nat) (lines : List (List Byte)) (t : Nat) (s : State) :
    Host.Outcome State Fault Refusal :=
  s.act t fun d => d.cameraFrame port.val stream.val vc.val dt lines

/-- CAMERA_FRAME_ERROR (R345). -/
def execCameraFrameError (port : Fin 16) (stream : Fin 4) (_kind : CamErr) (t : Nat) (s : State) :
    Host.Outcome State Fault Refusal :=
  s.act t fun d =>
    let r := 4 * port.val + stream.val
    if port.val ∈ d.boot.camPorts ∧ (Tab.look d.boot.cams r).isSome then d.cameraError r else d

end Sys2Proof.Machine
end

