-- ==== Sys2Proof/Machine/Gw.lean ====
section
/-! DEFINITION. The vehicle network gateway (R350–R370): Ethernet switching, CAN, bridging, the
authentication trailer, schedules and their commands. -/

namespace Sys2Proof.Machine

/-! ### Small things -/

/-- A big-endian number, as addresses and types stand in a frame. Log entry 63 (PRESUMED). -/
def beNat (l : List Byte) : Nat := l.foldl (fun n b => n * 256 + b.toNat) 0
def beBytes (k n : Nat) : List Byte := (leBytes k n).reverse
def subBytes (l : List Byte) (a n : Nat) : List Byte := (l.drop a).take n

/-- A counter of the gateway group (R477). -/
def Dev.gwCount (d : Dev) (p i : Nat) (k : Nat := 1) : Dev := d.count 0x09 (16 * p + i) k

/-- Drop causes of an Ethernet port, by counter index. -/
inductive EthDrop where
  | allow | noRoute | oversize | fcs | runt | symbol | policed | buffer | macsec
  deriving DecidableEq, Repr

def EthDrop.idx : EthDrop → Nat
  | .allow => 0 | .noRoute => 1 | .oversize => 2 | .fcs => 3 | .runt => 4 | .symbol => 5
  | .policed => 6 | .buffer => 7 | .macsec => 8

/-- A frame dropped at an Ethernet port; a TS port also counts it toward its limit (R356). -/
def Dev.ethDrop (d : Dev) (p : Nat) (c : EthDrop) : Dev :=
  let d := d.gwCount p c.idx
  if 14 ≤ p ∧ p < 18 then { d with gw := { d.gw with drops := d.gw.drops.put p (d.gw.drops.lookD p 0 + 1) } } else d

def Dev.ethCfg (d : Dev) (p : Nat) : EthPortCfg := d.boot.eth.lookD p {}
def Dev.canCfg (d : Dev) (c : Nat) : CanCfg := d.boot.can.lookD c {}
/-- The gateway's ports in the personality in force: in PARK those configured for it, in SLEEP none (R26, R369). -/
def Dev.portOn (d : Dev) (parkOn : Bool) : Bool := decide (d.pers ≠ .sleep) && (decide (d.pers ≠ .park) || parkOn)

/-- The switch forwards and the port sends and receives. -/
def Dev.swRuns (d : Dev) (p : Nat) : Bool :=
  d.getB aSwCtrl 0 && d.getB (aSwPortCtrl p) 0 && d.portOn (decide (18 ≤ p) || (d.ethCfg p).parkOn)

/-- gPTP time (R365). -/
def Dev.gptpNow (d : Dev) : Int := (d.now : Int) + sext 64 (d.pair aSwOfsLo aSwOfsHi)

/-! ### Route entries (R360) -/

abbrev RtEntry := List Word
def rw_ (e : RtEntry) (i : Nat) : Word := e.getD i 0
def rtKind (e : RtEntry) : Nat := (rw_ e 0).fld 31 28
def rtIn (e : RtEntry) : Nat := (rw_ e 0).fld 7 0
def rtTc (e : RtEntry) : Nat := (rw_ e 0).fld 21 19
def rtClass (e : RtEntry) : Nat := (rw_ e 0).fld 20 19
def rtAuthRx (e : RtEntry) : Bool := (rw_ e 0).bit 27
def rtAuthTx (e : RtEntry) : Bool := (rw_ e 0).bit 26
def rtKey (e : RtEntry) : Nat := 56 + (rw_ e 0).fld 25 22
def rtRate (e : RtEntry) : Nat := (rw_ e 5).fld 15 0
def rtPlen (e : RtEntry) : Nat := (rw_ e 5).fld 27 16

/-- Entries with their index. -/
def Dev.routes (d : Dev) : List (RtEntry × Nat) := d.gw.table.entries.zipIdx

/-- The hardware policer of an entry (R361): at most MAXRATE frames in a second of device time.
Log entry 62 (PRESUMED). -/
def Dev.police (d : Dev) (i rate : Nat) : Bool × Dev :=
  if rate = 0 then (true, d) else
  let s := d.now / 1000000000
  let p := d.gw.police.lookD i (0, 0)
  let n := if p.1 = s then p.2 else 0
  if n < rate then (true, { d with gw := { d.gw with police := d.gw.police.put i (s, n + 1) } }) else (false, d)

/-! ### Egress queues (R353) -/

def queueBytes (l : List EthFrame) : Nat := l.foldl (fun n f => n + f.bytes.length + 4) 0
def sharedFrameMem : Nat := 4 * 2 ^ 20 - 22 * 8 * 16384

/-- Shared frame memory in use. -/
def Gw.sharedUsed (g : Gw) : Nat := g.egress.foldl (fun n q => n + (queueBytes q.2 - 16384)) 0

/-- A frame put into an egress queue; one that finds no memory is dropped at its ingress port. -/
def Dev.enqueue (d : Dev) (ingress port tc : Nat) (f : EthFrame) : Dev :=
  let k := port * 8 + tc % 8
  let q := d.gw.egress.lookD k []
  let used := queueBytes q
  let more := (used + f.bytes.length + 4 - 16384) - (used - 16384)
  if sharedFrameMem < d.gw.sharedUsed + more then d.ethDrop ingress .buffer
  else { d with gw := { d.gw with egress := d.gw.egress.put k (q ++ [f]) } }

/-! ### Gates, meters, redundancy (R354, R362) -/

/-- A gate whose loaded list starts (R362). -/
def GateState.activate (g : GateState) (now : Int) : GateState :=
  match g.pending with
  | some l => if (g.at_ : Int) ≤ now then { active := some { l with base := g.at_ }, idle := l.init } else g
  | none => g

/-- ns until the loaded list of a gate starts. -/
def GateState.left (g : GateState) (t : Int) : Option Nat := g.pending.map fun _ => ((g.at_ : Int) - t).toNat

/-- The cycle of a running list that a loaded list shortens or extends (R362): true from the end of a cycle
whose extension, no longer than EXT, reaches the start of the loaded list. -/
def GateState.extends (g : GateState) (l : GateList) (t : Int) : Bool :=
  let past := (((g.at_ : Int) - (l.base : Int)) % (max 1 l.cycle : Nat)).toNat
  g.pending.isSome && decide (past ≤ l.ext) && decide ((g.at_ : Int) - past ≤ t)

/-- The states that a running list gives at a time, and the ns until they change. -/
def GateList.states (l : GateList) (t : Int) : Nat × Nat :=
  let pos := ((t - (l.base : Int)) % (max 1 l.cycle : Nat)).toNat
  let r := l.entries.foldl (fun (acc : Nat × Option (Nat × Nat)) e =>
    match acc.2 with
    | some _ => acc
    | none => if pos < acc.1 + e.2 then (acc.1, some (e.1, acc.1 + e.2 - pos)) else (acc.1 + e.2, none)) (0, none)
  match r.2 with
  | some x => x
  | none => (((l.entries.getLast?).map (·.1)).getD l.init, l.cycle - pos)

/-- The states in force of a gate and the ns until they may change; 0 for a gate whose list runs nowhere.
Log entry 63 (PRESUMED). -/
def GateState.now (g : GateState) (t : Int) : Nat × Nat :=
  let g := g.activate t
  match g.active with
  | none => (g.idle, (g.left t).getD 0)
  | some l =>
    if g.extends l t then (((l.entries.getLast?).map (·.1)).getD l.init, (g.left t).getD 0)
    else
      let x := l.states t
      (x.1, min x.2 ((g.left t).getD x.2))

/-- ns for which class `tc` stays open from a time on, following at most `fuel` intervals; none when no
list closes it. -/
def GateState.openFor (g : GateState) (tc : Nat) : Nat → Int → Option Nat
  | 0, _ => none
  | fuel + 1, t =>
    let s := g.now t
    if !bitOf s.1 tc then some 0
    else if s.2 = 0 then none
    else (GateState.openFor g tc fuel (t + s.2)).map (· + s.2)

/-- A two-rate colour-blind meter on a frame of `n` bytes: 0 green, 1 yellow, 2 red. Log entry 62 (PRESUMED). -/
def meterRun (m : MeterCfg) (s : MeterState) (now n : Nat) : Nat × MeterState :=
  let unit := 8000000
  let c := min (m.cbs * unit) (s.c + m.cir * (now - s.time))
  let e := min (m.ebs * unit) (s.e + m.eir * (now - s.time))
  if n * unit ≤ c then (0, ⟨c - n * unit, e, now⟩)
  else if n * unit ≤ e then (1, ⟨c, e - n * unit, now⟩)
  else (2, ⟨c, e, now⟩)

/-- The vector recovery algorithm on a sequence number: whether the frame is passed. Log entry 62 (PRESUMED). -/
def cbRecover (hist : Nat) (s : CbState) (seq : Nat) : Bool × CbState :=
  if s.takeAny then (true, { s with takeAny := false, seq := seq, seen := [0] })
  else
    let delta := sext 16 ((seq + 65536 - s.seq) % 65536)
    if (hist : Int) ≤ delta.natAbs then (false, s)
    else if delta ≤ 0 then
      if delta.natAbs ∈ s.seen then (false, s) else (true, { s with seen := s.seen ++ [delta.natAbs] })
    else (true, { s with seq := seq,
                         seen := 0 :: (s.seen.map (· + delta.toNat)).filter fun x => decide (x < hist) })

/-! ### CAN transmission (R358, R363, R366–R368) -/

/-- Lengths that a CAN FD frame can carry. -/
def fdLens : List Nat := [0, 1, 2, 3, 4, 5, 6, 7, 8, 12, 16, 20, 24, 32, 48, 64]
def fdLen (n : Nat) : Nat := (fdLens.find? fun l => decide (n ≤ l)).getD 64
/-- The data length of an authenticated FD frame (R366). -/
def authLen (xl : Bool) (plen : Nat) : Nat :=
  if xl then plen + 12 else ([12, 16, 20, 24, 32, 48, 64].find? fun l => decide (plen + 12 ≤ l)).getD 64

def padTo (n : Nat) (l : List Byte) : List Byte := l ++ List.replicate (n - l.length) 0

/-- The MAC input of R367. -/
def macInput (f : CanFrame) (fv plen : Nat) (payload : List Byte) : List Byte :=
  leBytes 4 ((if f.xl then 3 else 2) * 2 ^ 30 + b2n f.ext * 2 ^ 29 + f.id % 2 ^ 29) ++
  leBytes 4 (if f.xl then f.vcid.toNat * 256 + f.sdt.toNat else 0) ++ leBytes 8 fv ++ leBytes 2 plen ++ payload

/-- An authenticated frame's data: payload, padding, trailer. -/
def authData (key : List Byte) (f : CanFrame) (fv plen : Nat) (payload : List Byte) : List Byte :=
  let mac := (Config.cmac key (macInput f fv plen payload)).take 8
  padTo (authLen f.xl plen - 12) payload ++ leBytes 4 (fv % 2 ^ 32) ++ padTo 8 mac

/-- CAN_TXQ follows the transmit queues. -/
def Dev.txqRefresh (d : Dev) (ch : Nat) : Dev :=
  forUpTo 4 (fun q d => d.setF (aCanTxq ch) (8 * q + 7) (8 * q) (d.gw.canTx.lookD (ch * 4 + q) []).length) d

/-- A frame put into a transmit queue of a channel: FORMAT where the channel's mode cannot carry it,
BRIDGE_FULL where the queue is full. -/
def Dev.canQueue (d : Dev) (ch cls : Nat) (f : CanFrame) : Dev :=
  if (f.xl && !(d.canCfg ch).xl) || decide ((if f.xl then 2048 else if f.fd then 64 else 8) < f.data.length) then d.gwCount (32 + ch) 2
  else
    let k := ch * 4 + cls % 4
    let q := d.gw.canTx.lookD k []
    if 32 ≤ q.length then d.gwCount (32 + ch) 3
    else ({ d with gw := { d.gw with canTx := d.gw.canTx.put k (q ++ [f]) } } : Dev).txqRefresh ch

/-- A key slot's key; none while it is empty (R435). -/
def Dev.keyOf (d : Dev) (slot : Nat) : Option (List Byte) := d.keys.look slot

/-- A frame sent to a channel by entry i, with a trailer where the entry adds one (R368). -/
def Dev.canSend (d : Dev) (i : Nat) (e : RtEntry) (ch : Nat) (f : CanFrame) (payload : List Byte) : Dev :=
  if !rtAuthTx e then
    d.canQueue ch (rtClass e) { f with data := if f.fd then padTo (fdLen payload.length) payload else payload }
  else
    let n := d.gw.cnt.lookD i 0
    if d.gw.noTrip then d
    else if n = 2 ^ 32 - 1 then d.gwCount (32 + ch) 6
    else
      match d.keyOf (rtKey e) with
      | none => d.gwCount (32 + ch) 4
      | some key =>
        let d := { d with gw := { d.gw with cnt := d.gw.cnt.put i (n + 1) } }
        let fv := d.gw.trip * 2 ^ 32 + (n + 1)
        let pl := padTo (rtPlen e) (payload.take (rtPlen e))
        d.canQueue ch (rtClass e) { f with data := authData key f fv (rtPlen e) pl }

/-! ### Containers (R364) -/

def pduBytes (p : Pdu) : List Byte :=
  leBytes 4 p.id.toNat ++ leBytes 2 p.data.length ++ leBytes 2 (p.fmt * 2 + b2n p.ver) ++ leBytes 8 p.time ++
  padTo ((p.data.length + 3) / 4 * 4) p.data

def boxSize (l : List Pdu) : Nat := 8 + (l.foldl (fun n p => n + (pduBytes p).length) 0)

/-- The CONTAINER entry of a container number. -/
def Dev.boxEntry (d : Dev) (num : Nat) : Option RtEntry :=
  (d.gw.table.entries.find? fun e => decide (rtKind e = 5) && decide ((rw_ e 1).fld 7 0 = num))

/-- A container sent: one frame on every port of its OUT mask; its PDUs begin anew. -/
def Dev.sendBox (d : Dev) (num : Nat) : Dev :=
  match d.boxEntry num with
  | none => d
  | some e =>
    let b := d.gw.boxes.lookD num {}
    if b.pdus.isEmpty then d else
    let da := (rw_ e 2).fld 15 0 * 2 ^ 32 + (rw_ e 4).toNat
    let payload := leBytes 4 (2 ^ 24 + num % 256 * 2 ^ 16 + b.seq % 65536) ++ leBytes 4 b.pdus.length ++ b.pdus.flatMap pduBytes
    let d := { d with gw := { d.gw with boxes := d.gw.boxes.put num { pdus := [], seq := (b.seq + 1) % 65536, since := d.now } } }
    let d := forEach (maskBits (rw_ e 3).toNat 22) (fun p d =>
      d.enqueue 18 p (rtTc e) { bytes := beBytes 6 da ++ beBytes 6 (d.ethCfg p).mac ++ beBytes 2 0x88B5 ++ payload,
                                vid := (rw_ e 2).fld 27 16, prio := rtTc e }) d
    d.gwCount (rtIn e) 9

/-- A PDU added to a container; a container that would pass CLIM is sent first. -/
def Dev.addPdu (d : Dev) (num : Nat) (p : Pdu) : Dev :=
  match d.boxEntry num with
  | none => d
  | some e =>
    let b := d.gw.boxes.lookD num {}
    let d := if rtPlen e < boxSize (b.pdus ++ [p]) then d.sendBox num else d
    let b := d.gw.boxes.lookD num {}
    { d with gw := { d.gw with boxes := d.gw.boxes.put num { b with pdus := b.pdus ++ [p], since := if b.pdus.isEmpty then d.now else b.since } } }

/-! ### CAN reception (R359, R360, R366–R368) -/

def canFmt (f : CanFrame) : Nat := if f.xl then 3 else if f.fd then 2 else 1

/-- A CAN entry matches a frame received on channel `ch`. -/
def rtCanMatch (e : RtEntry) (ch : Nat) (f : CanFrame) : Bool :=
  let m := rw_ e 1
  let mask := (rw_ e 2).fld 28 0
  (decide (rtKind e = 2) || decide (rtKind e = 3)) && decide (rtIn e = 32 + ch) &&
  decide (m.bit 29 = f.ext) && (decide (m.fld 31 30 = 0) || decide (m.fld 31 30 = canFmt f)) &&
  decide (Nat.land f.id mask = Nat.land (m.fld 28 0) mask)

/-- The check of a received trailer (R368): the payload, or the counter of the drop. -/
def Dev.authCheck (d : Dev) (i : Nat) (e : RtEntry) (f : CanFrame) : (List Byte ⊕ Nat) :=
  let plen := rtPlen e
  let l := authLen f.xl plen
  let fvt := leNat (subBytes f.data (l - 12) 4)
  let payload := f.data.take plen
  match d.keyOf (rtKey e) with
  | none => .inr 4
  | some key =>
    let mac := (Config.cmac key (macInput f (d.gw.trip * 2 ^ 32 + fvt) plen payload)).take 8
    if d.gw.noTrip || decide (f.data.length ≠ l) || decide (mac ≠ subBytes f.data (l - 8) 8) then .inr 4
    else if fvt ≤ d.gw.last.lookD i 0 then .inr 5
    else .inl payload

/-- The service's handling of one received CAN frame. -/
def Dev.canHandle (d : Dev) (ch : Nat) (f : CanFrame) : Dev :=
  match d.routes.find? fun e => rtCanMatch e.1 ch f with
  | none => d.gwCount (32 + ch) 0
  | some (e, i) =>
    let pol := d.police i (rtRate e)
    if !pol.1 then pol.2.gwCount (32 + ch) 8 else
    let d := pol.2
    let checked : (List Byte ⊕ Nat) := if rtAuthRx e then d.authCheck i e f else .inl f.data
    match checked with
    | .inr k => d.gwCount (32 + ch) k
    | .inl payload =>
      let d := if rtAuthRx e then
          { d with gw := { d.gw with last := d.gw.last.put i (leNat (subBytes f.data (authLen f.xl (rtPlen e) - 12) 4)) } }
        else d
      if rtKind e = 2 then
        forEach (maskBits (rw_ e 3).toNat 16) (fun c d => d.canSend i e c f payload) d
      else
        (d.addPdu ((rw_ e 3).fld 7 0)
          { id := rw_ e 4, data := payload.take (rtPlen e), ver := rtAuthRx e, fmt := canFmt f, time := d.now }).gwCount (32 + ch) 10

/-- A received frame after injection: while CPA is lost it waits in the receive FIFO of 64; otherwise the service handles it. -/
def canIn (ch : Nat) (u : FiUnit) (_ : Bool) (d : Dev) : Dev :=
  match u with
  | .can f =>
    let d := d.gwCount (32 + ch) 11
    let fifo := d.gw.canRx.lookD ch []
    if d.cpaLost.isSome then
      if 64 ≤ fifo.length then d.gwCount (32 + ch) 1
      else { d with gw := { d.gw with canRx := d.gw.canRx.put ch (fifo ++ [(f, d.injUnit)]) } }
    else
      let inj := d.injUnit
      let d := { d with gw := { d.gw with canRx := d.gw.canRx.del ch } }
      { (forEach (fifo ++ [(f, inj)]) (fun g d => ({ d with injUnit := g.2 } : Dev).canHandle ch g.1) d) with injUnit := inj }
  | _ => d

/-- A frame received by a controller (R358, R359, R273 item 3, R447). -/
def Dev.canRx (d : Dev) (ch : Nat) (f : CanFrame) : Dev :=
  if !d.getB (aCanCtrl ch) 0 || !d.portOn (d.canCfg ch).parkOn || decide (d.getF (aCanStatus ch) 17 16 = 3) then d
  else d.fiPass ⟨2, ch, 1⟩ (.can f) (canIn ch) (canIn ch) id

/-- A controller's error counters after a transmission error; bus-off past 255 (R359, ISO 11898-1). -/
def Dev.canTxError (d : Dev) (ch : Nat) : Dev :=
  let tec := d.getF (aCanStatus ch) 7 0 + 8
  if 255 < tec then
    let d := (d.setF (aCanStatus ch) 7 0 255).setF (aCanStatus ch) 17 16 3
    let d := forUpTo 4 (fun q d => { d with gw := { d.gw with canTx := d.gw.canTx.del (ch * 4 + q) } }) d
    ((d.txqRefresh ch).gwCount (32 + ch) 7).logE 8 0 (32 + ch) 0 7
  else
    let d := d.setF (aCanStatus ch) 7 0 tec
    if 128 ≤ tec then d.setF (aCanStatus ch) 17 16 1 else d

/-- The next frame of a controller's queues, queue 3 first. -/
def Dev.canNext (d : Dev) (ch : Nat) : Option (Nat × CanFrame) :=
  ([3, 2, 1, 0].filterMap fun q => ((d.gw.canTx.lookD (ch * 4 + q) []).head?).map fun f => (q, f)).head?

/-- A frame of a controller has left on the bus, acknowledged. -/
def Dev.canSent (d : Dev) (ch : Nat) (f : Option CanFrame) : Dev :=
  let tec := d.getF (aCanStatus ch) 7 0 - 1
  let d := d.setF (aCanStatus ch) 7 0 tec
  let d := if tec < 128 && decide (d.getF (aCanStatus ch) 15 8 < 128) then d.setF (aCanStatus ch) 17 16 0 else d
  let d := match f with
    | some f => { d with gw := { d.gw with sentCan := d.gw.sentCan.put ch f } }
    | none => d
  d.gwCount (32 + ch) 12

/-- A frame put on the bus after injection: sent, or an error that leaves it first in its queue `q` (R358, R447). `fails` holds
the frame as it was, where the bus answers with an error. -/
def canOut (ch q : Nat) (fails : Option CanFrame) (u : FiUnit) (crc : Bool) (d : Dev) : Dev :=
  match u with
  | .can f =>
    if fails.isNone && !crc then d.canSent ch (some f)
    else
      let k := ch * 4 + q
      let g := fails.getD f
      (({ d with gw := { d.gw with canTx := d.gw.canTx.put k (g :: d.gw.canTx.lookD k []) } } : Dev).txqRefresh ch).canTxError ch
  | _ => d

/-- A controller sends its next frame (R358): on success it leaves its queue; an error leaves it queued. A frame that an entry
holds follows the next one of its queue (R447). -/
def Dev.canTx (d : Dev) (ch : Nat) (ok : Bool) : Dev :=
  if !d.getB (aCanCtrl ch) 0 || !d.portOn (d.canCfg ch).parkOn || decide (d.getF (aCanStatus ch) 17 16 = 3) then d else
  match d.canNext ch with
  | none => d
  | some (q, f) =>
    let k := ch * 4 + q
    let d := { d with gw := { d.gw with canTx := d.gw.canTx.put k ((d.gw.canTx.lookD k []).drop 1) } }
    (d.txqRefresh ch).fiPass ⟨2, ch, 0⟩ (.can f) (canOut ch q (if ok then none else some f)) (canOut ch q none) (·.canSent ch none)

/-- Recovery from bus-off: the controller is error active with its counters cleared. -/
def Dev.canRecovered (d : Dev) (ch : Nat) : Dev :=
  if d.getF (aCanStatus ch) 17 16 = 3 then d.setReg (aCanStatus ch) 0 else d

/-! ### Ethernet reception (R351–R357, R362) -/

/-- The PDUs of a container payload (R364). Log entry 64 (DESIGN CHOICE). -/
def parsePdus : Nat → List Byte → List (Word × List Byte)
  | 0, _ => []
  | n + 1, l =>
    let len := leNat (subBytes l 4 2)
    if l.length < 16 + len then []
    else (BitVec.ofNat 32 (leNat (l.take 4)), subBytes l 16 len) :: parsePdus n (l.drop (16 + (len + 3) / 4 * 4))

/-- Bridging of a frame with EtherType 0x88B5 (R360, R364). Log entry 64 (DESIGN CHOICE). -/
def Dev.bridgeRx (d : Dev) (port : Nat) (payload : List Byte) : Dev :=
  if d.cpaLost.isSome || decide (leNat (subBytes payload 3 1) ≠ 1) then d else
  forEach (parsePdus (leNat (subBytes payload 4 2)) (payload.drop 8)) (fun p d =>
    forEach (d.routes.filter fun e => decide (rtKind e.1 = 4) && decide (rtIn e.1 = port) && decide (rw_ e.1 1 = p.1)) (fun e d =>
      let pol := d.police e.2 (rtRate e.1)
      if !pol.1 then pol.2.ethDrop port .policed else
      let x := rw_ e.1 4
      let f : CanFrame := { id := x.fld 28 0, ext := x.bit 29, fd := decide (x.fld 31 30 = 2) || (decide (x.fld 31 30 = 0) && decide (8 < p.2.length)), xl := decide (x.fld 31 30 = 3), data := [] }
      let lim := if f.xl then 2048 else if f.fd then 64 else 8
      forEach (maskBits (rw_ e.1 3).toNat 16) (fun c d =>
        if lim < p.2.length then d.gwCount (32 + c) 2 else d.canSend e.2 e.1 c f p.2) pol.2) d) d

/-- The stream of a frame (R362): the first record that matches. -/
def Dev.streamOf (d : Dev) (port da vid : Nat) : Option (List Word) :=
  d.gw.table.streams.find? fun r =>
    decide ((rw_ r 1).fld 15 0 * 2 ^ 32 + (rw_ r 0).toNat = da) && decide ((rw_ r 1).fld 27 16 = vid) &&
    (decide ((rw_ r 2).fld 21 0 = 0) || bitOf ((rw_ r 2).fld 21 0) port)

/-- MACsec on receipt (R357): the frame as it goes on, or none where it is dropped. Log entry 63 (PRESUMED). -/
def Dev.macsecRx (d : Dev) (port : Nat) (bytes : List Byte) : Option (List Byte × Dev) :=
  let ms := d.gw.macsec.lookD port {}
  let cfg := d.ethCfg port
  if beNat (subBytes bytes 12 2) ≠ 0x88E5 then
    if ms.valid.isEmpty then (if cfg.unprotected || decide (14 ≤ port) then some (bytes, d) else none) else none
  else
    let an := (subBytes bytes 14 1).head?.map (·.toNat % 4) |>.getD 0
    let pn := beNat (subBytes bytes 16 4)
    if !decide (an ∈ ms.valid) then none else
    match d.keyOf (4 * port + an) with
    | none => none
    | some key =>
      match Config.gcmOpen key bytes with
      | none => none
      | some plain =>
        let last := ms.rxPn.lookD an 0
        if pn + cfg.replay ≤ last then none
        else some (plain, { d with gw := { d.gw with macsec := d.gw.macsec.put port { ms with rxPn := ms.rxPn.put an (max last pn) } } })

/-- The redundancy stream of a frame: whether it is passed, the R-TAG it leaves with, and its bytes
without one (R354, R362). -/
def Dev.cbRx (d : Dev) (i : Nat) (f : EthFrame) : Option (EthFrame × Dev) :=
  match d.gw.table.cb.look i with
  | none => some (f, d)
  | some c =>
    let s := d.gw.cb.lookD i {}
    let tagged := decide (beNat (subBytes f.bytes 12 2) = 0xF1C1)
    let seq := beNat (subBytes f.bytes 16 2)
    if c.recover && tagged then
      let r := cbRecover c.hist s seq
      let d := { d with gw := { d.gw with cb := d.gw.cb.put i r.2 } }
      if r.1 then some ({ f with bytes := f.bytes.take 12 ++ f.bytes.drop 18 }, d) else none
    else if c.seqgen then
      some ({ f with rtag := some s.gen },
        { d with gw := { d.gw with cb := d.gw.cb.put i { s with gen := (s.gen + 1) % 65536 } } })
    else some (f, d)

/-- The stream checks of a frame (R362): gate, meter, redundancy. Gives the frame, the internal priority
that a gate imposes, the replica ports, or the drop. -/
def Dev.streamRx (d : Dev) (port : Nat) (da len : Nat) (f : EthFrame) : (EthFrame × Option Nat × Nat × Dev) ⊕ Dev :=
  match d.streamOf port da f.vid with
  | none => .inl (f, none, 0, d)
  | some r =>
    let w := rw_ r 3
    let g := (d.gw.sgates.lookD (w.fld 7 0) {}).now d.gptpNow
    if w.bit 30 && !bitOf g.1 0 then .inr (d.ethDrop port .policed) else
    let ipv := if w.bit 30 && bitOf g.1 4 then some (bitsOf g.1 3 1) else none
    let mi := w.fld 15 8
    let mt : Nat × Bool × Dev :=
      match w.bit 29, d.gw.table.meters.look mi with
      | true, some m =>
        let r := meterRun m (d.gw.meters.lookD mi ⟨m.cbs * 8000000, m.ebs * 8000000, d.now⟩) d.now len
        (r.1, m.dropYellow, { d with gw := { d.gw with meters := d.gw.meters.put mi r.2 } })
      | _, _ => (0, false, d)
    if mt.1 = 2 ∨ (mt.1 = 1 ∧ mt.2.1) then .inr (mt.2.2.ethDrop port .policed) else
    let f := if mt.1 = 1 then { f with dei := true } else f
    if !w.bit 28 then .inl (f, ipv, 0, mt.2.2) else
    match mt.2.2.cbRx (w.fld 22 16) f with
    | none => .inr mt.2.2
    | some (f, d) => .inl (f, ipv, ((d.gw.table.cb.look (w.fld 22 16)).map (·.outMask)).getD 0, d)

/-- The port code's rate field (R371). -/
def rateCode (mbps : Nat) : Nat := if mbps < 1000 then 0 else if mbps < 2500 then 1 else if mbps < 10000 then 2 else 3

/-- A frame goes out by cut-through on a port (R352). -/
def Dev.cutThrough (d : Dev) (ingress port : Nat) (metered : Bool) : Bool :=
  (d.gw.macsec.lookD ingress {}).valid.isEmpty && (d.gw.macsec.lookD port {}).valid.isEmpty && !metered &&
  ((List.range 8).all fun t => (d.gw.egress.lookD (port * 8 + t) []).isEmpty) &&
  decide ((d.ethCfg port).rate ≤ (d.ethCfg ingress).rate)

/-- The first valid ETH_FWD entry that matches a frame (R351, R360). Log entry 63 (PRESUMED). -/
def Dev.ethRoute (d : Dev) (port da vid : Nat) : Option (RtEntry × Nat) :=
  d.routes.find? fun e =>
    decide (rtKind e.1 = 1) && decide (rtIn e.1 = port) &&
    decide ((rw_ e.1 2).fld 15 0 * 2 ^ 32 + (rw_ e.1 1).toNat = da) && decide ((rw_ e.1 2).fld 27 16 = vid)

/-- VID and priority of a frame on a port (R351): those of its tag, or the port's. -/
def Dev.frameTag (d : Dev) (port : Nat) (bytes : List Byte) : Bool × Nat × Nat × Bool :=
  let cfg := d.ethCfg port
  let tci := beNat (subBytes bytes 14 2)
  if beNat (subBytes bytes 12 2) = 0x8100 then (true, if tci % 4096 = 0 then cfg.vid else tci % 4096, tci / 8192, bitOf tci 12)
  else (false, cfg.vid, cfg.prio, false)

/-- A frame that has passed the checks of the MAC: allow-list, MACsec, streams, route, egress queues. -/
def Dev.ethIn (d : Dev) (port : Nat) (bytes : List Byte) (node : Nat) : Dev :=
  let len := bytes.length + 4
  let da := beNat (bytes.take 6)
  let sa := beNat (subBytes bytes 6 6)
  let okSrc := decide (18 ≤ port) || (d.ethCfg port).allow.any fun a => decide (a.1 = sa) && (decide (port < 14) || decide (a.2 = node))
  if !okSrc then d.ethDrop port .allow else
  match d.macsecRx port bytes with
  | none => d.ethDrop port .macsec
  | some (bytes, d) =>
    let tag := d.frameTag port bytes
    let f : EthFrame :=
      { bytes := if tag.1 then bytes.take 12 ++ bytes.drop 16 else bytes, vid := tag.2.1, prio := tag.2.2.1, dei := tag.2.2.2 }
    match d.streamRx port da len f with
    | .inr d => d
    | .inl (f, ipv, replicas, d) =>
      let isBridge := decide (beNat (subBytes f.bytes 12 2) = 0x88B5) &&
        d.gw.table.entries.any fun e => decide (rtKind e = 4) && decide (rtIn e = port)
      let d := if isBridge then d.bridgeRx port (f.bytes.drop 14) else d
      match d.ethRoute port da f.vid with
      | none => if isBridge then d else d.ethDrop port .noRoute
      | some (e, i) =>
        let pol := d.police i (rtRate e)
        if !pol.1 then pol.2.ethDrop port .policed
        else forEach (maskBits (Nat.lor (rw_ e 3).toNat replicas) 22) (fun p d =>
          d.enqueue port p (ipv.getD (rtTc e)) f) pol.2

/-- The same for a unit of an injection path. -/
def ethInOut (port : Nat) (u : FiUnit) (_ : Bool) (d : Dev) : Dev :=
  match u with
  | .ethIn bytes _ _ node => d.ethIn port bytes node
  | _ => d

/-- A frame that an injection entry discards at a port. Which of the port's drop counters counts it is not stated. -/
def ethDropped (port : Nat) (d : Dev) : Dev :=
  let f := d.fresh
  f.2.gwCount port (f.1 % 9)

/-- A received Ethernet frame: the MAC's checks, injection, and the rest. -/
def Dev.ethRx (d : Dev) (port : Nat) (bytes : List Byte) (err : EthErr) (node : Nat) : Dev :=
  if !d.swRuns port then d else
  let len := bytes.length + 4
  let da := beNat (bytes.take 6)
  let cfg := d.ethCfg port
  match err with
  | .symbol => d.ethDrop port .symbol
  | .fcs =>
    let d := d.ethDrop port .fcs
    match d.ethRoute port da cfg.vid with
    | some (e, _) =>
      forEach ((maskBits (rw_ e 3).toNat 22).filter fun p => d.cutThrough port p (d.streamOf port da cfg.vid).isSome) (fun p d => d.gwCount p 9) d
    | none => d
  | .none =>
    if len < 64 then d.ethDrop port .runt
    else if 2000 < len then d.ethDrop port .oversize
    else
      let tag := d.frameTag port bytes
      (d.gwCount port 13).fiPass ⟨1, port, 1⟩ (.ethIn bytes tag.2.1 tag.2.2.1 node) (ethInOut port) (ethInOut port) (ethDropped port)

/-! ### Ethernet transmission (R353, R354, R357, R395) -/

/-- The ns that a frame takes at a port's rate. -/
def Dev.frameNs (d : Dev) (port : Nat) (f : EthFrame) : Nat :=
  let r := (d.ethCfg port).rate
  if r = 0 then 0 else ((f.bytes.length + 8) * 8 * 1000 + r - 1) / r

/-- The highest class whose queue holds a frame and whose gate stays open for it (R354). -/
def Dev.egressPick (d : Dev) (port : Nat) : Option (Nat × EthFrame) :=
  let g := d.gw.gates.lookD port {}
  ([7, 6, 5, 4, 3, 2, 1, 0].filterMap fun tc =>
    match (d.gw.egress.lookD (port * 8 + tc) []).head? with
    | none => none
    | some f =>
      match g.openFor tc 520 d.gptpNow with
      | none => some (tc, f)
      | some ns => if 0 < ns ∧ d.frameNs port f ≤ ns then some (tc, f) else none).head?

/-- The bytes of a frame on the wire, without FCS: R-TAG and VLAN tag inserted. -/
def EthFrame.wire (f : EthFrame) : List Byte :=
  let r := match f.rtag with
    | some s => beBytes 2 0xF1C1 ++ beBytes 2 0 ++ beBytes 2 s
    | none => []
  f.bytes.take 12 ++ beBytes 2 0x8100 ++ beBytes 2 (f.prio % 8 * 8192 + b2n f.dei * 4096 + f.vid % 4096) ++ r ++ f.bytes.drop 12

/-- A frame written into an IP port's receive ring (R395). -/
def Dev.ipRxWrite (d : Dev) (i : Nat) (bytes : List Byte) : Dev :=
  match d.boot.ips.look i with
  | none => d
  | some c =>
    let k := d.gw.ipSlot.lookD (2 * i) 0
    let a := c.rxRing + k % max 1 c.nent * 2048
    let w := d.rd32 a
    if !w.bit 31 then d.gwCount (18 + i) 7
    else
      let d := { d with gw := { d.gw with ipSlot := d.gw.ipSlot.put (2 * i) ((k + 1) % max 1 c.nent) } }
      let d := (d.wrN (a + 16) bytes).wr64 (a + 8) d.now
      ((d.wr32 a (BitVec.ofNat 32 bytes.length)).raise (.ipRing i)).gwCount (18 + i) 13

/-- A frame goes out on a port: on the wire, with its FCS complemented where told, or into the receive ring of an IP port. -/
def ethOutOut (port : Nat) (u : FiUnit) (bad : Bool) (d : Dev) : Dev :=
  match u with
  | .ethOut bytes _ _ =>
    if 19 ≤ port then d.ipRxWrite (port - 18) bytes
    else
      let sb := d.gw.sentBad.filter (· ≠ port)
      ({ d with gw := { d.gw with sentEth := d.gw.sentEth.put port bytes, sentBad := if bad then port :: sb else sb } } : Dev).gwCount port 14
  | _ => d

/-- The path of a frame that leaves. -/
def Dev.ethLeave (d : Dev) (port : Nat) (bytes : List Byte) (f : EthFrame) : Dev :=
  d.fiPass ⟨1, port, 0⟩ (.ethOut bytes f.vid f.prio) (ethOutOut port) (ethOutOut port) (ethDropped port)

/-- The next frame of a port's queues is sent. -/
def Dev.ethTx (d : Dev) (port : Nat) (collision : Bool) : Dev :=
  if !d.swRuns port then d else
  match d.egressPick port with
  | none => d
  | some (tc, f) =>
    let k := port * 8 + tc
    let pop (d : Dev) : Dev :=
      { d with gw := { d.gw with egress := d.gw.egress.put k ((d.gw.egress.lookD k []).drop 1), tries := d.gw.tries.del port } }
    if collision && decide (14 ≤ port) && decide (port < 18) then
      let n := d.gw.tries.lookD port 0 + 1
      let d := d.gwCount port 10
      if 16 ≤ n then { pop d with gw := { (pop d).gw with drops := d.gw.drops.put port (d.gw.drops.lookD port 0 + 1) } } else { d with gw := { d.gw with tries := d.gw.tries.put port n } }
    else if 19 ≤ port then (pop d).ethLeave port f.bytes f
    else
      let ms := d.gw.macsec.lookD port {}
      let w := f.wire
      if ms.valid.isEmpty then
        if (d.ethCfg port).unprotected || decide (14 ≤ port) then (pop d).ethLeave port w f else (pop d).ethDrop port .macsec
      else
        let pn := ms.txPn.lookD ms.txAn 0
        match d.keyOf (4 * port + ms.txAn), decide (pn < (match d.keyOf (4 * port + ms.txAn) with
          | some k => if k.length = 28 ∨ k.length = 44 then 2 ^ 64 - 1 else 2 ^ 32 - 1
          | none => 0)) with
        | some key, true =>
          let d := pop d
          let d := { d with gw := { d.gw with macsec := d.gw.macsec.put port { ms with txPn := ms.txPn.put ms.txAn (pn + 1) } } }
          d.ethLeave port (Config.gcmSeal key (w ++ leBytes 4 (pn + 1))) f
        | _, _ => (pop d).ethDrop port .macsec

/-- Sebry sends the owned slots of an IP port's transmit ring (R395). -/
def Dev.ipPoll (d : Dev) (i : Nat) : Nat → Dev
  | 0 => d
  | n + 1 =>
    match d.boot.ips.look i with
    | none => d
    | some c =>
      let k := d.gw.ipSlot.lookD (2 * i + 1) 0
      let a := c.txRing + k % max 1 c.nent * 2048
      let w := d.rd32 a
      if !w.bit 31 then d else
      let len := w.fld 10 0
      let d0 := { d with gw := { d.gw with ipSlot := d.gw.ipSlot.put (2 * i + 1) ((k + 1) % max 1 c.nent) } }
      let d1 := if len < 60 then d0.ethDrop (18 + i) .runt
        else if 1996 < len then d0.ethDrop (18 + i) .oversize
        else (d0.ethRx (18 + i) (d0.rdN (a + 16) len) .none 0).wr64 (a + 8) d0.now
      Dev.ipPoll (d1.wr32 a (w &&& 0x7FFFFFFF#32)) i n

/-! ### The route table (R360–R362) -/

/-- A route entry obeys R360 and the authentication rules of R361. MAXRATE of a CONTAINER entry: log entry 147 (DESIGN CHOICE). -/
def rtValid (e : RtEntry) (boxes : List Nat) (isLast : Bool) : Bool :=
  let k := rtKind e
  let w := rw_ e
  let auth := rtAuthRx e || rtAuthTx e
  let fmt := if k = 4 then (w 4).fld 31 30 else (w 1).fld 31 30
  let authOk : Bool := !auth || (decide (fmt = 2) && decide (rtPlen e + 12 ≤ 64)) || (decide (fmt = 3) && decide (rtPlen e + 12 ≤ 2048))
  let ethIn := decide (rtIn e ≤ 21)
  let canIn := decide (32 ≤ rtIn e) && decide (rtIn e ≤ 47)
  let noAuth := !auth && decide ((w 0).fld 25 22 = 0)
  decide ((w 0).fld 18 8 = 0) && decide ((w 5).fld 31 28 = 0) && decide (w 7 = 0) && (decide (k = 7) = isLast) &&
  (match k with
   | 0 => decide (w 0 = 0) && ([1, 2, 3, 4, 5, 6].all fun i => decide (w i = 0))
   | 1 => ethIn && noAuth && decide ((w 2).fld 31 28 = 0) && decide ((w 3).fld 31 22 = 0) && decide (w 4 = 0) && decide (rtPlen e = 0) && decide (w 6 = 0)
   | 2 => canIn && !(w 0).bit 21 && decide ((w 2).fld 31 29 = 0) && decide ((w 3).fld 31 16 = 0) && decide (w 4 = 0) && decide (w 6 = 0) &&
          (!auth || decide (rtRate e ≠ 0)) && authOk
   | 3 => canIn && !(w 0).bit 21 && !rtAuthTx e && decide ((w 2).fld 31 29 = 0) && decide ((w 3).fld 31 8 = 0) && decide (rtRate e ≠ 0) &&
          decide ((w 3).fld 7 0 ∈ boxes) && decide (w 6 = 0) && authOk
   | 4 => ethIn && !(w 0).bit 21 && !rtAuthRx e && decide (w 2 = 0) && decide ((w 3).fld 31 16 = 0) && decide (rtRate e ≠ 0) && decide (w 6 = 0) && authOk
   | 5 => noAuth && decide ((w 1).fld 31 8 = 0) && decide ((w 2).fld 31 28 = 0) && decide ((w 3).fld 31 22 = 0) &&
          decide (64 ≤ rtPlen e) && decide (rtPlen e ≤ 1460) && decide (50 ≤ (w 6).toNat) && decide ((w 6).toNat ≤ 100000)
   | 7 => true
   | _ => false)

/-- A section's records as (offset of the record, words): `heads` records that carry NENT entries are
longer. None where a record would pass `fuel`. -/
def secRecords (words : List Word) (size : Nat) (lists : Bool) : Nat → Nat → List (List Word)
  | 0, _ => []
  | n + 1, off =>
    let head := (words.drop off).take (size / 4)
    let ents := if lists then (rw_ head 0).fld 31 16 else 0
    (head ++ (words.drop (off + size / 4)).take (2 * ents)) :: secRecords words size lists n (off + size / 4 + 2 * ents)

/-- The word length of a list of records. -/
def recWords (l : List (List Word)) : Nat := l.foldl (fun n r => n + r.length) 0

/-- A gate control or stream gate record (R362) as a list; none where it breaks the layout. -/
def gateRec (r : List Word) (port : Bool) : Option (Nat × GateList) :=
  let w := rw_ r
  let n := (w 0).fld 31 16
  let es := (List.range n).map fun i => (rw_ r (8 + 2 * i), rw_ r (9 + 2 * i))
  let cycle := (w 3).toNat
  let sum := es.foldl (fun a e => a + e.2.toNat) 0
  let headOk : Bool := if port then decide ((w 0).fld 7 0 ≤ 17) && decide ((w 4).toNat ≤ cycle)
    else decide ((w 0).fld 15 9 = 0) && decide (w 4 = 0)
  let entOk : Bool := es.all fun e => decide (e.1.toNat < (if port then 256 else 32)) && decide (e.2.toNat % 8 = 0) && decide (8 ≤ e.2.toNat)
  if decide (1 ≤ n) && decide (n ≤ 256) && decide (r.length = 8 + 2 * n) && headOk && entOk && decide (1000 ≤ cycle) &&
     decide (cycle ≤ 1000000000) && decide (sum ≤ cycle) && decide (w 5 = 0) && decide (w 6 = 0) && decide (w 7 = 0) then
    some ((w 0).fld 7 0,
      { init := if port then (w 0).fld 15 8 else b2n ((w 0).bit 8), base := dword (w 1) (w 2), cycle,
        ext := if port then (w 4).toNat else 0, entries := es.map fun e => (e.1.toNat, e.2.toNat) })
  else none

def meterRec (r : List Word) : Option (Nat × MeterCfg) :=
  let w := rw_ r
  if decide ((w 0).fld 31 9 = 0) && decide ((w 1).toNat ≤ 10000000) && decide ((w 3).toNat ≤ 10000000) &&
     decide (w 5 = 0) && decide (w 6 = 0) && decide (w 7 = 0) then
    some ((w 0).fld 7 0, { dropYellow := (w 0).bit 8, cir := (w 1).toNat, cbs := (w 2).toNat, eir := (w 3).toNat, ebs := (w 4).toNat })
  else none

def cbRec (r : List Word) : Option (Nat × CbCfg) :=
  let w := rw_ r
  let hist := (w 0).fld 20 16
  let hist := if hist = 0 then 32 else hist
  if decide (w 0 &&& ~~~ (0x001F037F#32) = 0) && decide ((w 1).fld 31 22 = 0) && decide (popcount (w 1).toNat 22 ≤ 4) &&
     decide ((w 2).fld 31 16 = 0) && decide (1 ≤ (w 2).toNat) && ([3, 4, 5, 6, 7].all fun i => decide (w i = 0)) then
    some ((w 0).fld 6 0, { hist, recover := (w 0).bit 9, seqgen := (w 0).bit 8, outMask := (w 1).toNat, resetMs := (w 2).toNat })
  else none

/-- A table read by GW_ROUTES_SET (R361, R362): `words` the whole table, `n` the entries. None: E_PARAM. -/
def parseRoutes (words : List Word) (n : Nat) : Option RouteTable :=
  let es := (List.range n).map fun i => (words.drop (8 * i)).take 8
  let boxes := (es.filter fun e => rtKind e = 5).map fun e => (rw_ e 1).fld 7 0
  let e7 := es.getLast?.getD []
  let offs := [1, 2, 3, 4, 5].map fun i => (rw_ e7 i).toNat
  let sec (i size : Nat) (lists : Bool) (limit : Nat) : Option (List (List Word)) :=
    let o := offs.getD i 0
    if o = 0 then some []
    else
      let cnt := (rw_ words (o / 4)).fld 15 0
      if o % 32 ≠ 0 ∨ o < 32 * n ∨ (rw_ words (o / 4)).fld 31 16 ≠ 0 ∨ limit < cnt ∨
         ((List.range 7).any fun j => decide (rw_ words (o / 4 + 1 + j) ≠ 0)) then none
      else
        let rs := secRecords words size lists cnt (o / 4 + 8)
        if words.length < o / 4 + 8 + recWords rs ∨ rs.any (fun r => r.length < size / 4) then none else some rs
  let spans (l : List (List (List Word))) : List (Nat × Nat) :=
    (l.zip offs).filterMap fun p => if p.2 = 0 then none else some (p.2, 32 + 4 * recWords p.1)
  let overlap (l : List (Nat × Nat)) : Bool := l.zipIdx.any fun a => l.zipIdx.any fun b => decide (a.2 < b.2) && rangesMeet a.1.1 a.1.2 b.1.1 b.1.2
  match sec 0 32 true 18, sec 1 16 false 512, sec 2 32 true 256, sec 3 32 false 256, sec 4 32 false 128 with
  | some g, some s, some sg, some m, some c =>
    let gl := g.filterMap (gateRec · true)
    let sgl := sg.filterMap (gateRec · false)
    let ml := m.filterMap meterRec
    let cl := c.filterMap cbRec
    let streamOk (r : List Word) : Bool :=
      let w := rw_ r
      decide ((w 1).fld 31 28 = 0) && decide (1 ≤ (w 1).fld 27 16) && decide ((w 1).fld 27 16 ≤ 4094) && decide ((w 2).fld 31 22 = 0) &&
      !(w 3).bit 31 && decide ((w 3).fld 27 23 = 0) &&
      (!(w 3).bit 30 || sgl.any fun x => decide (x.1 = (w 3).fld 7 0)) &&
      (!(w 3).bit 29 || ml.any fun x => decide (x.1 = (w 3).fld 15 8)) &&
      (!(w 3).bit 28 || cl.any fun x => decide (x.1 = (w 3).fld 22 16))
    if decide (1 ≤ n) && (es.zipIdx.all fun e => rtValid e.1 boxes (e.2 + 1 = n)) && decide (boxes.Nodup) &&
       decide (gl.length = g.length) && decide (sgl.length = sg.length) && decide (ml.length = m.length) && decide (cl.length = c.length) &&
       decide ((gl.map (·.1)).Nodup) && decide ((sgl.map (·.1)).Nodup) && decide ((ml.map (·.1)).Nodup) && decide ((cl.map (·.1)).Nodup) &&
       decide ((sgl.foldl (fun a x => a + x.2.entries.length) 0) ≤ 4096) && s.all streamOk &&
       !overlap (spans [g, s, sg, m, c]) then
      some { entries := es, gates := gl.foldl (fun t x => t.put x.1 x.2) [], streams := s,
             sgates := sgl.foldl (fun t x => t.put x.1 x.2) [], meters := ml.foldl (fun t x => t.put x.1 x.2) [],
             cb := cl.foldl (fun t x => t.put x.1 x.2) [] }
    else none
  | _, _, _, _, _ => none

/-- The world of a port code by the words of SEC_WORLD_ETH and SEC_WORLD_CAN: true for world O (R432, R433). -/
def portWorldO (eth can : Word) (p : Nat) : Bool := if p < 32 then eth.bit p else can.bit (p - 32)

/-- An entry names an IN port and an OUT port of different worlds, and neither of them is IP0 (R434). CAN_TO_ETH and CONTAINER entries
lead through the gateway service at IP0. Log entry 148 (DESIGN CHOICE). -/
def rtMixes (eth can : Word) (e : RtEntry) : Bool :=
  let outs := match rtKind e with
    | 1 => maskBits (rw_ e 3).toNat 22
    | 2 | 4 => (maskBits (rw_ e 3).toNat 16).map (32 + ·)
    | _ => []
  outs.any fun p => decide (rtIn e ≠ 18) && decide (p ≠ 18) && (portWorldO eth can (rtIn e) != portWorldO eth can p)

/-- The admission of R361. -/
def ratesOver (es : List RtEntry) : Bool :=
  decide (200000 < (es.filter fun e => rtKind e = 3 ∨ rtKind e = 4).foldl (fun n e => n + rtRate e) 0) ||
  decide (50000 < (es.filter fun e => rtAuthRx e || rtAuthTx e).foldl (fun n e => n + rtRate e) 0)

/-- The first time BASE + k × CYCLE at least 1 ms after now, k ≥ 0 (R362). -/
def gateStart (l : GateList) (now : Int) : Nat :=
  let x : Int := now + 1000000 - (l.base : Int)
  if x ≤ 0 then l.base else l.base + (x.toNat + l.cycle - 1) / l.cycle * l.cycle

/-- A gate given a loaded list, or kept open where the table has no record. -/
def loadGate (old : GateState) (l : Option GateList) (open_ : Nat) (now : Int) : GateState :=
  match l with
  | none => { idle := open_ }
  | some l => { old with pending := some l, at_ := gateStart l now, idle := l.init }

/-- The new table replaces the old one whole (R361): counters and containers of identical entries carry
over. -/
def Dev.loadRoutes (d : Dev) (t : RouteTable) : Dev :=
  let old := d.gw.table.entries
  let same (i : Nat) : Bool := match old[i]?, t.entries[i]? with
    | some a, some b => decide (a.take 7 = b.take 7)
    | _, _ => false
  let keepBox (n : Nat) : Bool := (List.range t.entries.length).any fun i =>
    same i && decide (rtKind (t.entries.getD i []) = 5) && decide ((rw_ (t.entries.getD i []) 1).fld 7 0 = n)
  let now := d.gptpNow
  let gates := (List.range 18).map fun p => (p, loadGate (d.gw.gates.lookD p {}) (t.gates.look p) 0xFF now)
  let sgates := t.sgates.map fun g => (g.1, loadGate (d.gw.sgates.lookD g.1 {}) (some g.2) 1 now)
  let d := { d with gw := { d.gw with
    table := t, cnt := d.gw.cnt.filter (fun p => same p.1), last := d.gw.last.filter (fun p => same p.1),
    boxes := d.gw.boxes.filter (fun p => keepBox p.1), gates := gates, sgates := sgates,
    meters := t.meters.map fun (m : Nat × MeterCfg) => (m.1, ⟨m.2.cbs * 8000000, m.2.ebs * 8000000, d.now⟩), cb := [], police := [] } }
  d.setB aSwCtrl 1 (!d.getB aSwCtrl 1)

end Sys2Proof.Machine
end

