-- ==== Sys2Proof/Machine/GraphLoad.lean ====
section
/-! DEFINITION. Graph packages (R234, R235): reading and validating one, placing its maps (R200), buffers
(R510) and pools (R180), and the commands that load, unload and query a graph (R66). -/

namespace Sys2Proof.Machine

/-! ### CRC-32C -/

def crcByte (c : Word) (b : Byte) : Word :=
  forUpTo 8 (fun _ x => if x.getLsbD 0 then (x >>> 1) ^^^ 0x82F63B78#32 else x >>> 1) (c ^^^ b.setWidth 32)

/-- CRC-32C (Castagnoli, reflected). Log entry 109 (PRESUMED). -/
def crc32c (l : List Byte) : Word := (l.foldl crcByte 0xFFFFFFFF#32) ^^^ 0xFFFFFFFF#32

/-! ### Reading a package -/

/-- A package as it was read; its buffers have no addresses yet. `srcs` holds the package offsets of the
contents of KIND 0 buffers and `cfgs` the pool words of KIND 5 buffers, by buffer index. -/
structure Pkg where
  eg    : Nat
  prio  : Nat
  bufs  : List Buf
  nodes : List Node
  trig  : Nat
  done  : Nat
  serve : Option ServeCfg
  deriving DecidableEq, Repr, Inhabited

/-- FMT, HKV and D of KV_POOL_CFG (R197). -/
def cfgFmt (cfg : Nat) : Nat := bitsOf cfg 30 30
def cfgHkv (cfg : Nat) : Nat := bitsOf cfg 29 24 + 1
def cfgD (cfg : Nat) : Nat := 32 * (bitsOf cfg 23 21 + 1)

/-- One buffer entry (R235): `aux` is (package offset of the contents, KV_POOL_CFG bits, COUNT). -/
def bufOf (w : Nat → Word) (len : Nat) : Option Buf :=
  let kind := (w 0).fld 3 0
  let size := (w 1).toNat
  let off := (w 2).toNat
  let cfg := (w 3).toNat
  let cnt := (w 4).toNat
  let ok :=
    decide ((w 0).fld 31 6 = 0) && decide (kind ≤ 5) && decide (1 ≤ size) && (decide (kind ≠ 4) || decide (8 ≤ size)) &&
    (if kind = 0 then decide (off % 64 = 0) && decide (off + size ≤ len) else decide (off = 0)) &&
    (if kind = 5 then
      !rsvBad (w 3) 0x7FE00000 && decide (1 ≤ cnt) && decide (cnt ≤ 262144) && decide (cfgHkv cfg * cfgD cfg ≤ 2048) &&
      decide (size = pageBytes (cfgFmt cfg) (cfgHkv cfg) (cfgD cfg) * cnt)
     else decide (cfg = 0) && decide (cnt = 0)) &&
    (List.range 3).all fun i => decide (w (5 + i) = 0)
  if ok then some { kind, die := (w 0).fld 5 4, size, addr := 0, aux := (off, cfg, cnt) } else none

/-- One entry of a node's region list: (buffer index, offset, length). -/
def Dev.nodeRegion (d : Dev) (bufs : List Buf) (a : Nat) : Option (Nat × Nat × Nat) :=
  let b := d.rd64 a
  let l := d.rd64 (a + 8)
  let idx := b / 2 ^ 40 % 65536
  let off := b % 2 ^ 40
  match bufs[idx]? with
  | some x =>
    if b / 2 ^ 56 = 0 ∧ l / 2 ^ 40 = 0 ∧ 0 < l ∧ off + l ≤ x.size then some (idx, off, l) else none
  | none => none

/-- One node: its descriptor with the checks of R77 and R79 on its words, its regions and its block.
Log entry 32 (DESIGN CHOICE). -/
def Dev.nodeAt (d : Dev) (base len : Nat) (bufs : List Buf) (a : Nat) : Option Node :=
  let ws := d.rdWords a 16
  let w (i : Nat) : Word := ws.getD i 0
  let nin := (w 4).fld 23 16
  let nout := (w 4).fld 31 24
  let plen := (w 4).fld 15 0
  let paddr := dword (w 2) (w 3)
  let raddr := dword (w 6) (w 7)
  let c : Cmd := { seq := 0, desc := ws, ins := [], outs := [], params := [] }
  let ok := descFieldsOk false c && !c.wait && !c.signal &&
    (decide (plen = 0) || decide (paddr + plen ≤ len)) && (decide (nin + nout = 0) || decide (raddr + 16 * (nin + nout) ≤ len))
  if !ok then none else
  match (List.range (nin + nout)).mapM fun i => d.nodeRegion bufs (base + raddr + 16 * i) with
  | some rs => some { desc := ws, nin, regions := rs, params := d.rdN (base + paddr) plen }
  | none => none

/-- The serving section (R236). -/
def Dev.serveAt (d : Dev) (a nbuf : Nat) : Option ServeCfg :=
  let w (i : Nat) : Nat := (d.rd32 (a + 4 * i)).toNat
  if 2 ≤ w 0 ∧ w 0 ≤ 2 ^ 20 ∧ w 1 < w 0 ∧ 1 ≤ w 2 ∧ w 2 ≤ 65536 ∧ 16 ≤ w 3 ∧ w 3 ≤ 4096 ∧
      w 4 < nbuf ∧ w 5 < nbuf ∧ w 6 < nbuf ∧ w 7 < nbuf then
    some ⟨w 0, w 1, w 2, w 3, w 4, w 5, w 6, w 7⟩
  else none

/-- A table of `n` entries of `sz` bytes at a package offset lies inside the package. -/
def tableIn (off n sz len : Nat) : Bool := decide (off % 64 = 0) && decide (64 ≤ off) && decide (off + n * sz ≤ len)

/-- The header and the tables of a package of `len` bytes at `base` (R234); none where a field is out of
range, the CRC fails, or an entry breaks R235. NNODE is at least 1, but for a package that declares a cache and no operations
(R180). Log entries 133 (DEDUCED), 32 (DESIGN CHOICE). -/
def Dev.readPkg (d : Dev) (base len egMask : Nat) : Option Pkg :=
  let w (i : Nat) : Word := d.rd32 (base + 4 * i)
  let nbuf := (w 2).fld 31 16
  let nnode := (w 2).fld 15 0
  let serving := (w 3).bit 16
  let eg := (w 3).fld 4 0
  let bytes := d.rdN base 20 ++ List.replicate 4 0 ++ d.rdN (base + 24) (len - 24)
  let ok :=
    decide (64 ≤ len) && decide (w 0 = 0x44424750) && decide (w 1 = 0x00010000) &&
    decide (1 ≤ nbuf) && decide (nbuf ≤ 4096) && decide (nnode ≤ 16384) &&
    !rsvBad (w 3) 0x1071F && bitOf egMask eg && decide ((w 4).toNat = len) && decide (crc32c bytes = w 5) &&
    tableIn (w 6).toNat nbuf 32 len && tableIn (w 7).toNat nnode 64 len &&
    (if serving then tableIn (w 8).toNat 1 32 len else decide (w 8 = 0)) &&
    (List.range 6).all fun i => decide (w (10 + i) = 0)
  if !ok then none else
  match (List.range nbuf).mapM fun i => bufOf (fun j => d.rd32 (base + (w 6).toNat + 32 * i + 4 * j)) len with
  | none => none
  | some bufs =>
    match (List.range nnode).mapM fun i => d.nodeAt base len bufs (base + (w 7).toNat + 64 * i) with
    | none => none
    | some nodes =>
      let trig := (w 9).fld 15 0
      let done := (w 9).fld 31 16
      let fence (i : Nat) : Bool := (bufs[i]?).any (·.kind = 4)
      let srv := if serving then d.serveAt (base + (w 8).toNat) nbuf else none
      if fence trig && fence done && (srv.isSome == serving) && (decide (1 ≤ nnode) || bufs.any (·.kind = 5)) then
        some { eg, prio := (w 3).fld 10 8, bufs, nodes, trig, done, serve := srv }
      else none

/-! ### Map store placement (R200) -/

/-- The 63 MiB of a map store that graphs may use. -/
def mapStoreBytes : Nat := 66060288

/-- The die with most of a group's engines, the lower on a tie: the producers' engines are not known before
they are placed (log entry 30). Log entry 30 (DESIGN CHOICE). -/
def EngineGroup.mainDie (g : EngineGroup) : Nat :=
  let n (die : Nat) : Nat := popcount (g.engines / 2 ^ (16 * die)) 16
  [1, 2, 3].foldl (fun b x => if n b < n x then x else b) 0

/-- A map placed in a map store: its buffer, the die, its offset there, its bytes and its last consumer. -/
structure MapPlace where
  buf  : Nat
  die  : Nat
  off  : Nat
  size : Nat
  last : Nat
  deriving DecidableEq, Repr

def Node.writes (x : Node) (b : Nat) : Bool := (x.regions.drop x.nin).any fun r => r.1 = b
def Node.uses (x : Node) (b : Nat) : Bool := x.regions.any fun r => r.1 = b

/-- The last node that uses a buffer. -/
def lastUse (nodes : List Node) (b : Nat) : Nat :=
  nodes.zipIdx.foldl (fun m x => if x.1.uses b then x.2 else m) 0

/-- The die that holds the engines of a node: DIE of the operations that name one (R187, R216), else that of the group.
Log entry 30 (DESIGN CHOICE). -/
def Node.dieIn (x : Node) (main : Nat) : Nat :=
  let c : Cmd := { seq := 0, desc := x.desc, ins := [], outs := [], params := x.params }
  if c.namesPool then c.kvDie else if c.op = 0x0202 ∨ c.op = 0x0203 then c.sortDieOf else main

/-- The die of the producer of a buffer. -/
def Pkg.mapDie (p : Pkg) (main b : Nat) : Nat := ((p.nodes.find? fun x => x.writes b).map (·.dieIn main)).getD main

/-- The bytes of a buffer with its status word (R228), 64-byte aligned. -/
def Buf.span (b : Buf) : Nat := alignUp b.size 64 + 64

/-- The first offset in a map store at which `size` bytes meet none of the given ranges.
Log entry 30 (DESIGN CHOICE). -/
def firstFit (used : List (Nat × Nat)) (size limit : Nat) : Option Nat :=
  let cands := 0 :: used.map fun r => r.1 + r.2
  let good := cands.filter fun o => decide (o + size ≤ limit) && used.all fun r => !rangesMeet o size r.1 r.2
  match good with
  | [] => none
  | x :: t => some (t.foldl min x)

/-- Ranges of a die's map store that loaded graphs use. -/
def Dev.storeUsed (d : Dev) (die : Nat) : List (Nat × Nat) :=
  let base := 0x4000000000 + die * 0x04000000
  d.graphs.flatMap fun g => g.2.bufs.filterMap fun b =>
    if b.kind = 1 ∧ base ≤ b.addr ∧ b.addr < base + 0x04000000 then some (b.addr - base, alignUp b.span 4096) else none

/-- R200: the maps of a package that lie in a map store, in execution order, each on the die of its producer, and the peak of each
die's placements. Log entry 30 (DESIGN CHOICE). -/
def Dev.placeMaps (d : Dev) (main : Nat) (p : Pkg) : List MapPlace × Tab Nat :=
  let budget (die : Nat) : Nat := mapStoreBytes - d.graphs.foldl (fun n g => n + (Tab.look g.2.msPeak die).getD 0) 0
  p.nodes.zipIdx.foldl (fun acc x =>
    (List.range p.bufs.length).foldl (fun (acc : List MapPlace × Tab Nat) b =>
      match p.bufs[b]? with
      | none => acc
      | some buf =>
        if buf.kind = 1 && x.1.writes b && acc.1.all (fun m => decide (m.buf ≠ b)) &&
            !((p.nodes.take x.2).any fun y => y.writes b) then
          let die := p.mapDie main b
          let live := acc.1.filter fun m => decide (m.die = die) && decide (x.2 ≤ m.last)
          let size := alignUp buf.span 4096
          let sum := live.foldl (fun n m => n + m.size) size
          if budget die < sum then acc
          else
            match firstFit (d.storeUsed die ++ live.map fun m => (m.off, m.size)) size mapStoreBytes with
            | some off => (acc.1 ++ [⟨b, die, off, size, lastUse p.nodes b⟩], acc.2.put die (max (acc.2.lookD die 0) sum))
            | none => acc
        else acc) acc) ([], [])

/-- The buffers that hold a flag region of a CONV_CHAIN node. -/
def Pkg.flagBufs (p : Pkg) : List Nat :=
  p.nodes.filterMap fun x =>
    let c : Cmd := { seq := 0, desc := x.desc, ins := [], outs := [], params := x.params }
    if c.op = 0x0201 then (x.regions[(c.p 0).fld 27 24]?).map (·.1) else none

/-! ### Pools (R180, R198) -/

/-- The pools of a die that are valid. -/
def Dev.validPools (d : Dev) (die : Nat) : List Nat := (List.range 32).filter (d.poolValid die)

/-- A pool's registers written, and its pages pushed. -/
def Dev.writePool (d : Dev) (die q inst tag cfg count base floff : Nat) : Dev :=
  let d := d.setReg (aKvPoolCfg die q) (BitVec.ofNat 32 (2 ^ 31 + (cfg / 2 ^ 21 % 2 ^ 10) * 2 ^ 21 + inst % 64))
  let d := d.setPair (aKvPoolBaseLo die q) (aKvPoolBaseHi die q) (base % 2 ^ 40)
  let d := d.setReg (aKvPoolCount die q) (BitVec.ofNat 32 count)
  let d := d.setReg (aKvPoolTag die q) (BitVec.ofNat 32 tag)
  (d.setReg (aKvPoolFloff die q) (BitVec.ofNat 32 floff)).fillPool die q

/-- A pool made for a graph at the lowest free number; none where the die has no room for it. -/
def Dev.addPool (d : Dev) (inst tag : Nat) (b : Buf) (base : Nat) : Option (Nat × Dev) :=
  let ps := d.validPools b.die
  let used := ps.map fun q => (d.getF (aKvPoolFloff b.die q) 18 0, d.poolCount b.die q)
  let total := used.foldl (fun n r => n + r.2) 0
  match (List.range 32).find? (· ∉ ps), firstFit used b.aux.2.2 262144 with
  | some q, some fl =>
    if total + b.aux.2.2 ≤ 262144 then some (q, d.writePool b.die q inst tag b.aux.2.1 b.aux.2.2 base fl) else none
  | _, _ => none

/-! ### Validation of the nodes (R234) -/

/-- The address of a map's first byte. -/
def MapPlace.addr (m : MapPlace) : Nat := 0x4000000000 + m.die * 0x04000000 + m.off

/-- A device on which the nodes of a package are validated: its context and queue at keys that no object
has, its buffers at addresses of their dies, its pools valid. Nothing of it is kept. -/
def Dev.pretend (d : Dev) (inst h : Nat) (p : Pkg) (main : Nat) (maps : List MapPlace) : Dev × List Buf :=
  let bufs := p.bufs.zipIdx.foldl (fun (acc : List Buf × Nat) x =>
    let b := x.1
    let a := match maps.find? (·.buf = x.2) with
      | some m => m.addr
      | none => (if b.kind = 1 then p.mapDie main x.2 else b.die) * gib36 + acc.2
    (acc.1 ++ [{ b with addr := a }], acc.2 + b.span)) ([], 0)
  let d := d.setCtx 65536 { gen := 0, inst, eg := p.eg, prio := p.prio, cmdlen := 1000, parked := false }
  let d := d.setQueue 16384 { ctx := 65536, inst, dbidx := 4096, ring := 0, log2n := 4, compl := 0 }
  let d := forEach (bufs.1.filter (·.kind = 5)) (fun b d =>
    match d.addPool inst h b b.addr with
    | some r => r.2
    | none => d.writePool b.die 31 inst h b.aux.2.1 b.aux.2.2 b.addr 0) d
  (d, bufs.1)

/-- A node as the command of a run, over given buffers. -/
def nodeCmd (bufs : List Buf) (n : Node) : Cmd :=
  let rs := n.regions.map fun r => (⟨((bufs[r.1]?).map (·.addr)).getD 0 + r.2.1, r.2.2⟩ : Region)
  { seq := 0, desc := n.desc, ins := rs.take n.nin, outs := rs.drop n.nin, params := n.params }

/-- The heads over the dies (R179), as far as a package names them: every pool holds as many key-value heads as the others, and
every ATTENTION node has as many query heads, a multiple of those. A model that the serving service runs and that declares a
cache declares it on all four dies. Log entry 132 (DEDUCED). -/
def Pkg.headsOk (p : Pkg) : Bool :=
  let pools := p.bufs.filter (·.kind = 5)
  let hkvs := (pools.map fun b => cfgHkv b.aux.2.1).eraseDups
  let hqs := ((p.nodes.map fun x => ({ seq := 0, desc := x.desc, ins := [], outs := [], params := x.params } : Cmd)).filter
    fun c => decide (c.op = 0x0302)).map (fun c => (c.p 2).fld 7 0) |>.eraseDups
  decide (hkvs.length ≤ 1) && decide (hqs.length ≤ 1) && (hqs.all fun hq => hkvs.all fun hkv => decide (hq % hkv = 0)) &&
  (p.serve.isNone || pools.isEmpty || (List.range 4).all fun die => pools.any fun b => decide (b.die = die))

/-- The nodes of a package with the parts of each, where every node passes the checks of its class and Sebry can cut it to the default
CMDLEN (R225, R234). Log entry 32 (DESIGN CHOICE). -/
def Dev.nodeCuts (d : Dev) (inst h : Nat) (p : Pkg) (main : Nat) (maps : List MapPlace) : Option (Tab (List Part)) :=
  let r := d.pretend inst h p main maps
  let cuts := p.nodes.zipIdx.map fun n =>
    let c := nodeCmd r.2 n.1
    if r.1.classValid 16384 c then (r.1.cutNode p.eg (d.inst inst).cmdlen c).map fun ps => (n.2, ps) else none
  if cuts.any (·.isNone) then none else some ((cuts.filterMap id).filter fun x => decide (x.2 ≠ []))

/-! ### Loading (R66, R234, R235, R510) -/

/-- The lowest graph handle that is not in use, from 1. -/
def Dev.newGraph (d : Dev) : Nat := (d.graphs.freeKey 1 65536).getD 0

/-- Bytes of the buffers that Sebry holds for a graph. -/
def Pkg.heldBytes (p : Pkg) (maps : List MapPlace) : Nat :=
  p.bufs.zipIdx.foldl (fun n x =>
    let b := x.1
    if b.kind = 0 ∨ b.kind = 5 then n + b.size
    else if b.kind = 1 ∧ (maps.all fun m => decide (m.buf ≠ x.2)) then n + b.span else n) 0

/-- Bytes of the allocations for buffers of KIND 2, 3 and 4. -/
def Pkg.allocBytes (p : Pkg) : Nat :=
  p.bufs.foldl (fun n b => if b.kind = 2 ∨ b.kind = 3 ∨ b.kind = 4 then n + alignUp b.span 65536 else n) 0

/-- What a load has placed so far. `room` is what is left of the granules that Sebry holds for the graph, as (stack, next address,
end). -/
structure Placing where
  bufs  : List Buf
  held  : List (Nat × Nat) := []
  room  : List (Nat × Nat × Nat) := []
  pools : List (Nat × Nat) := []
  dev   : Dev

/-- Memory that Sebry holds, in whole 64 KiB units out of granules of one stack. -/
def Placing.takeHeld (s : Placing) (inst stack bytes : Nat) : Option (Nat × Placing) :=
  let n := alignUp bytes 65536
  match s.room.find? fun r => decide (r.1 = stack) && decide (r.2.1 + n ≤ r.2.2) with
  | some r => some (r.2.1, { s with room := (stack, r.2.1 + n, r.2.2) :: s.room.filter (· ≠ r) })
  | none =>
    (s.dev.hold inst stack n).map fun r =>
      (r.1, { s with held := s.held ++ [(r.1, r.2.1)], room := (stack, r.1 + n, r.1 + r.2.1 * 0x200000) :: s.room, dev := r.2.2 })

/-- Buffer `i` has its address. -/
def Placing.settle (s : Placing) (i a pool : Nat) : Placing :=
  { s with bufs := s.bufs.zipIdx.map fun (x : Buf × Nat) => if x.2 = i then { x.1 with addr := a, pool } else x.1 }

/-- A buffer in the instance's own memory (R510). -/
def Placing.own (s : Placing) (inst h : Nat) (b : Buf) (i : Nat) : Option Placing :=
  (s.dev.allocate inst false b.die (alignUp b.span 65536 / 65536) (.graphBuf h i)).map fun r => { s with dev := r.2 }.settle i r.1.addr 0

/-- A buffer in a map store, or in memory that Sebry holds. -/
def Placing.internal (s : Placing) (inst h base die : Nat) (maps : List MapPlace) (b : Buf) (i : Nat) : Option Placing :=
  match maps.find? (·.buf = i) with
  | some m => some ({ s with dev := s.dev.zero m.addr m.size }.settle i m.addr 0)
  | none =>
    match s.takeHeld inst (if b.kind = 1 then die else b.die) (if b.kind = 1 then b.span else b.size) with
    | none => none
    | some (a, s) =>
      if b.kind = 0 then some ({ s with dev := s.dev.wrN a (s.dev.rdN (base + b.aux.1) b.size) }.settle i a 0)
      else if b.kind = 5 then
        (s.dev.addPool inst h b a).map fun r => { s with dev := r.2, pools := s.pools ++ [(b.die, r.1)] }.settle i a r.1
      else some (s.settle i a 0)

/-- The buffers of the instance's own memory in ascending index, then the others. Log entry 30 (DESIGN CHOICE). -/
def Dev.placeAll (d : Dev) (inst h base main : Nat) (maps : List MapPlace) (p : Pkg) : Option Placing :=
  let isOwn (b : Buf) : Bool := decide (b.kind = 2) || decide (b.kind = 3) || decide (b.kind = 4)
  let xs := p.bufs.zipIdx
  let s := (xs.filter fun (x : Buf × Nat) => isOwn x.1).foldl (fun (acc : Option Placing) x => acc.bind fun s => s.own inst h x.1 x.2)
    (some { bufs := p.bufs, dev := d })
  (xs.filter fun (x : Buf × Nat) => !isOwn x.1).foldl (fun acc x => acc.bind fun s => s.internal inst h base (p.mapDie main x.2) maps x.1 x.2) s

/-- The final status of a load, and the device where it succeeds. -/
def Dev.loadGraph (d : Dev) (n h base len : Nat) : Status × Dev :=
  let i := d.inst n
  match d.readPkg base len i.egMask with
  | none => (.eParam, d)
  | some p =>
    let die := ((d.eg? p.eg).map (·.mainDie)).getD 0
    let m := d.placeMaps die p
    if !p.headsOk then (.eParam, d) else
    match d.nodeCuts n h p die m.1 with
    | none => (.eParam, d)
    | some cuts =>
    if !i.quotaFor (p.heldBytes m.1 + p.allocBytes) || decide (i.ctxQuota ≤ d.ctxCount n) || decide (i.qQuota ≤ d.qCount n) then
      (.eQuota, d)
    else if d.ctxNores n || p.flagBufs.any fun b => m.1.all fun x => decide (x.buf ≠ b) then (.eNores, d)
    else
      match d.newCtx n p.eg p.prio i.cmdlen (some h) with
      | none => (.eNores, d)
      | some (c, d1) =>
        match d1.newQueue n c 0 16 0 (some h) with
        | none => (.eNores, d)
        | some (q, _, d2) =>
          match d2.placeAll n h base die m.1 p with
          | none => (.eNores, d)
          | some s =>
            let g : Graph := { inst := n, ctx := c, queue := q, prio := p.prio, eg := p.eg, bufs := s.bufs, nodes := p.nodes,
                               trig := p.trig, done := p.done, serve := p.serve, held := s.held, heldBytes := p.heldBytes m.1,
                               msPeak := m.2, pools := s.pools, cuts }
            (.ok, (s.dev.addHeld n (p.heldBytes m.1)).setGraph h g)

/-- GRAPH_LOAD: what R234 and R235 check gives its final status. Log entry 16 (DESIGN CHOICE). -/
def Dev.graphLoad (m : Mbx) (d : Dev) : Dev :=
  let base := addrOf (m.req 1) (m.req 2)
  let len := (m.req 3).toNat
  sciCmd m 0x0401 3 pagesI
    (fun d => [(!(d.inst (pgInst m.page)).owns base len, .eParam)])
    (fun d =>
      let h := d.newGraph
      let r := d.loadGraph (pgInst m.page) h base len
      .okay (r.2.begin m 0x0401 h 0 true r.1.code) [BitVec.ofNat 32 h]) d

def execGraphLoad (m : Mbx) (s : State) : Host.Outcome State Fault Refusal := s.act m.t (Dev.graphLoad m)

/-! ### Unloading and queries (R66, R510) -/

/-- A loaded graph of an instance. -/
def Dev.graphOf (d : Dev) (n h : Nat) : Option Graph := (d.graph? h).bind fun g => if g.inst = n then some g else none

/-- A graph that the serving service runs. -/
def Dev.served (d : Dev) (h : Nat) : Bool := d.serving.any fun v => v.2.graph = h

/-- A taken command names a pool of the graph (R180). -/
def Dev.poolNamed (d : Dev) (h : Nat) : Bool :=
  d.allCmds.any fun p => p.2.namesPool && decide (p.2.kvTag.toNat = h) &&
    ((d.graph? h).any fun g => decide (g.inst = d.instOfQ p.1))

/-- GRAPH_UNLOAD. -/
def Dev.graphUnload (m : Mbx) (d : Dev) : Dev :=
  let h := (m.req 1).toNat
  sciCmd m 0x0402 1 pagesI
    (fun d =>
      match d.graphOf (pgInst m.page) h with
      | none => [(true, .eHandle)]
      | some g => [(d.served h || g.primary.isSome || (g.fallback.any d.served) || d.poolNamed h || (g.fallback.any d.poolNamed), .eBusy)])
    (fun d =>
      match d.graphOf (pgInst m.page) h with
      | none => .fail d .eHandle
      | some g =>
        let d := match g.fallback with
          | some f => d.dropGraph f
          | none => d
        .okay (d.dropGraph h).settle) d

def execGraphUnload (m : Mbx) (s : State) : Host.Outcome State Fault Refusal := s.act m.t (Dev.graphUnload m)

/-- The buffer of an index that a query reports: for a bound fall-back the primary's of the same index (R66, R510). -/
def Dev.queryBuf (d : Dev) (n h i : Nat) : Option Buf :=
  match d.graphOf n h with
  | none => none
  | some g =>
    let x := (g.primary.bind d.graph?).getD g
    match x.bufs[i]? with
    | some b => if b.kind = 2 ∨ b.kind = 3 ∨ b.kind = 4 then some b else none
    | none => none

/-- GRAPH_BUF_QUERY. -/
def Dev.graphBufQuery (m : Mbx) (d : Dev) : Dev :=
  sciCmd m 0x0405 2 pagesI
    (fun d =>
      [(rsvBad (m.req 2) 0xFFF, .eParam),
       ((d.queryBuf (pgInst m.page) (m.req 1).toNat ((m.req 2).fld 11 0)).isNone, .eHandle)])
    (fun d =>
      let n := pgInst m.page
      match d.queryBuf n (m.req 1).toNat ((m.req 2).fld 11 0) with
      | some b => .okay d (dwordWords b.addr ++ [BitVec.ofNat 32 (((d.inst n).winOff b.addr).getD 0 / 65536), BitVec.ofNat 32 b.size])
      | none => .fail d .eHandle) d

def execGraphBufQuery (m : Mbx) (s : State) : Host.Outcome State Fault Refusal := s.act m.t (Dev.graphBufQuery m)

/-! ### Runs (R235, R227) -/

/-- The value of a graph's trigger fence. -/
def Dev.trigOf (d : Dev) (g : Graph) : Nat := ((g.bufs[g.trig]?).map fun b => d.rd64 b.addr).getD 0

/-- R227: a graph whose context has been torn down and that has a fall-back bound gets a new context and
queue; nothing where the quotas or the pools do not allow it. -/
def Dev.freshCtx (d : Dev) (h : Nat) (g : Graph) : Option Dev :=
  let i := d.inst g.inst
  if i.ctxQuota ≤ d.ctxCount g.inst ∨ i.qQuota ≤ d.qCount g.inst then none else
  match d.newCtx g.inst g.eg g.prio i.cmdlen (some h) with
  | none => none
  | some (c, d) =>
    match d.newQueue g.inst c 0 16 0 (some h) with
    | none => none
    | some (q, _, d) =>
      let d := d.setGraph h { g with ctx := c, queue := q, oldCtx := some g.ctx, onFallback := true, goodRuns := 0 }
      some (if g.onFallback then d else ((d.logE 5 0 h 0 (2 ^ 16)).countInst g.inst 16).report 8 h)

/-- The next run of a graph starts where its trigger fence has reached its number. -/
def Dev.startRun (d : Dev) (h : Nat) : Dev :=
  match d.graph? h with
  | none => d
  | some g =>
    if g.primary.isSome ∨ d.trigOf g < g.started + 1 ∨ (d.page g.inst).state ≠ .active then d else
    let r := if d.isTorn g.ctx then (if g.fallback.isSome then d.freshCtx h g else none) else some d
    match r with
    | none => d
    | some d =>
      match d.graph? h with
      | none => d
      | some g =>
        let d := d.setGraph h { g with started := g.started + 1, runs := g.runs.put (g.started + 1) ⟨d.now, d.runStampOf g⟩ }
        let ex := if g.onFallback then g.fallback.getD h else h
        (d.submitRun h ex (g.started + 1) false).settle

/-- GRAPH_RUN_START (R235). -/
def execGraphRunStart (graph : Nat) (t : Nat) (s : State) : Host.Outcome State Fault Refusal :=
  s.act t fun d => d.startRun graph

end Sys2Proof.Machine
end

