-- ==== Sys2Proof/Machine/FiRows.lean ====
section
/-! DEFINITION. Arming and disarming fault injection, and the release of held units (R446, R447, R451). -/

namespace Sys2Proof.Machine

/-- A held unit is released: it is delivered as a new unit of its path. Log entry 42 (DESIGN CHOICE). -/
def Dev.fiFree (d : Dev) (h : FiHeld) : Dev :=
  let p := h.path
  if p.kind = 1 then
    if p.dir = 0 then d.fiStep p h.item (ethOutOut p.index) (ethDropped p.index)
    else d.fiStep p h.item (ethInOut p.index) (ethDropped p.index)
  else if p.kind = 2 then
    if p.dir = 0 then d.fiStep p h.item (canOut p.index 0 none) (·.canSent p.index none)
    else d.fiStep p h.item (canIn p.index) id
  else d.fiStep p h.item cplOut cplDropped

/-- The held units that a condition picks are released, in their original order. Log entry 106 (DESIGN CHOICE). -/
def Dev.fiRelease (d : Dev) (which : FiHeld → Bool) : Dev :=
  let hs := d.fi.held.filter which
  forEach hs (fun h d => d.fiFree h) { d with fi := { d.fi with held := d.fi.held.filter fun h => !which h } }

/-- Every entry disarmed; held units are released at once. -/
def Dev.fiDisarm (d : Dev) : Dev := (d.setB aFiStatus 0 false).fiRelease fun _ => true

/-- The device disarms by itself: AUTO and a log entry (R446). -/
def Dev.fiAuto (d : Dev) : Dev :=
  if d.fiArmed then (d.fiDisarm.setB aFiStatus 1 true).logE 15 0 0 aFiStatus 0 else d

/-- VI is open (R437). -/
def Dev.viOpen (d : Dev) : Bool := d.getB aDbgStatus 0

/-- Injection is permitted (R446). -/
def Dev.fiPermits (d : Dev) : Bool := decide (d.pers = .service) || d.viOpen

/-- Neither condition of R446 holds any longer. -/
def Dev.fiCheck (d : Dev) : Dev := if d.fiPermits then d else d.fiAuto

/-- The valid entries armed afresh: generators seeded, counts at 0 (R448, R451). -/
def Dev.fiArm (d : Dev) : Dev :=
  let d := if d.fiArmed then d.fiDisarm else d
  let d := { d with fi := { d.fi with ks := [], xs := [] } }
  let d := forUpTo 16 (fun e d =>
    let s := (d.reg (aFiEnt e 2)).toNat
    let d := d.setReg (aFiEnt e 7) 0
    { d with fi := { d.fi with xs := d.fi.xs.put e (if s = 0 then 1 else s) } }) d
  d.setB aFiStatus 0 true

/-! ### The program (R451) -/

/-- What R447 and R451 have against an entry, by its eight words. -/
def fiEntryBad (ws : List Word) : Bool :=
  let w (i : Nat) : Word := ws.getD i 0
  let kind := (w 0).fld 25 24
  let index := (w 0).fld 7 0
  let dir := (w 0).bit 26
  let fcs := (w 0).bit 30
  let top := if kind = 0 then 7 else if kind = 1 then 21 else if kind = 2 then 15 else 63
  decide ((w 0).fld 29 28 = 0) || decide (top < index) || (decide (kind = 3) && dir) ||
  (fcs && (decide (kind = 0) || ((decide (kind = 1) || decide (kind = 2)) && dir))) ||
  (!(w 0).bit 27 && decide ((w 1).fld 31 16 ≠ 0)) || decide (w 7 ≠ 0)

/-- FI_ARM (R71, R446, R451). -/
def Dev.fiArmCmd (m : Mbx) (d : Dev) : Dev :=
  let a := addrOf (m.req 1) (m.req 2)
  sciCmd m 0x0A03 2 pagesM
    (fun d =>
      let i := d.inst (pgInst m.page)
      let n := (d.rd32 a).fld 4 0
      [ (!d.fiPermits, .eDenied), (!i.owns a 32, .eParam), (!i.owns a (32 + 32 * n), .eParam),
        (decide ((d.rd32 a).fld 31 5 ≠ 0), .eParam), ((d.rdWords (a + 4) 7).any fun w => decide (w ≠ 0), .eParam),
        (decide (n < 1) || decide (16 < n), .eParam),
        ((List.range n).any fun e => fiEntryBad (d.rdWords (a + 32 + 32 * e) 8), .eParam) ])
    (fun d =>
      let n := (d.rd32 a).fld 4 0
      let d := if d.fiArmed then d.fiDisarm else d
      let d := forUpTo 16 (fun e d => forUpTo 7 (fun i d =>
        d.setReg (aFiEnt e i) (if e < n then d.rd32 (a + 32 + 32 * e + 4 * i) else 0)) d) d
      .okay d.fiArm) d

def execFiArm (m : Mbx) (s : State) : Host.Outcome State Fault Refusal := s.act m.t (Dev.fiArmCmd m)

/-- FI_DISARM (R71). -/
def Dev.fiDisarmCmd (m : Mbx) (d : Dev) : Dev :=
  sciCmd m 0x0A04 0 pagesM (fun _ => []) (fun d => .okay d.fiDisarm) d

def execFiDisarm (m : Mbx) (s : State) : Host.Outcome State Fault Refusal := s.act m.t (Dev.fiDisarmCmd m)

/-- A write of FI_CTRL.ARM (R451): no effect unless R446 permits. -/
def Dev.fiArmReg (d : Dev) : Dev := if d.fiPermits then d.fiArm else d.noEffect 71 aFiCtrl 1

/-- FI_ARM_REG. -/
def execFiArmReg (s : State) : Host.Outcome State Fault Refusal := s.act 0 Dev.fiArmReg

/-- A write of FI_CTRL.DISARM (R451). -/
def execFiDisarmReg (s : State) : Host.Outcome State Fault Refusal := s.act 0 Dev.fiDisarm

/-- FI_HELD_RELEASE (R447): units held for 1 ms are released. -/
def execFiHeldRelease (t : Nat) (s : State) : Host.Outcome State Fault Refusal :=
  s.act t fun d => d.fiRelease fun h => decide (h.since + 1000000 ≤ d.now)

end Sys2Proof.Machine
end

