-- ==== Sys2Proof/Machine/Bwr.lean ====
section
/-! DEFINITION. The bandwidth regulator (R294 to R302): rates and reservations, the derate figure, the cut
and its event (R46), and the window of a master. -/

namespace Sys2Proof.Machine

/-! ### Rates and reservations (R298) -/

/-- The masters of R294. -/
def masters : List Nat := List.range 76 ++ (List.range 64).map (· + 128)

/-- The rate of a master in a profile in GB/s: ⌈MBUD × 64 ÷ (WIN × 10)⌉. -/
def Dev.rateIn (d : Dev) (prof m : Nat) : Nat :=
  let w := d.getF (aBwrMwin m) 16 0 * 10
  if w = 0 then 0 else ((d.reg (aBwrMbud m prof)).toNat * 64 + w - 1) / w

/-- The sum of the reservations of the partitions of a kind in a profile: R(k) of R300.
Log entry 35 (DESIGN CHOICE). -/
def Dev.rOf (d : Dev) (prof : Nat) (k : PartKind) : Nat :=
  (masters.filter fun m => d.budgeted m && decide (d.getF (aBwrMcfg m) 22 20 = k.code)).foldl (fun n m => n + d.rateIn prof m) 0

/-! ### The cut (R300) -/

/-- The outcome of R300: the factors of LEASE, BEST_EFFORT and COCKPIT in 65,536ths, and what is left. -/
structure Cut where
  lease  : Nat
  best   : Nat
  cock   : Nat
  excess : Int
  deriving DecidableEq, Repr

/-- One kind's factor from the excess left, and the excess left after it. -/
def cutStep (excess : Int) (r : Nat) : Nat × Int :=
  if excess ≤ 0 ∨ r = 0 then (65536, excess)
  else if (r : Int) ≤ excess then (0, excess - r)
  else (((r : Int) - excess).toNat * 65536 / r, 0)

/-- R300 for given reservations and figure. -/
def cutOf (safety display cock best lease fig : Nat) : Cut :=
  let e0 : Int := (safety + display + cock + best + lease : Nat) - (fig : Int)
  let a := cutStep e0 lease
  let b := cutStep a.2 best
  let c := cutStep b.2 cock
  ⟨a.1, b.1, c.1, c.2⟩

def Dev.profile (d : Dev) : Nat := d.getF aBwrStatus 2 0
def Dev.fig (d : Dev) : Nat := d.getF aBwrDerate 12 0

/-- The cut for the profile and the figure in force. -/
def Dev.cutNow (d : Dev) : Cut :=
  let r := d.rOf d.profile
  cutOf (r .safety) (r .display) (r .cockpit) (r .bestEffort) (r .lease) d.fig

/-- The factor of a master's kind. -/
def Cut.factor (c : Cut) (kind : Nat) : Nat :=
  if kind = 4 then c.lease else if kind = 3 then c.best else if kind = 2 then c.cock else 65536

/-- CUT_STAGE and the kind cut in part, with its factor (R302). -/
def Cut.stage (c : Cut) : Nat :=
  if 0 < c.excess then 4 else if c.cock < 65536 then 3 else if c.best < 65536 then 2 else if c.lease < 65536 then 1 else 0

def Cut.part (c : Cut) : Nat × Nat :=
  if c.cock < 65536 then (2, c.cock) else if c.best < 65536 then (3, c.best) else if c.lease < 65536 then (4, c.lease) else (0, 0)

/-- The effective budget of a master under a cut: ⌊MBUD × f ÷ 65,536⌋. -/
def Dev.effOf (d : Dev) (c : Cut) (m : Nat) : Nat :=
  (d.reg (aBwrMbud m d.profile)).toNat * c.factor (d.getF (aBwrMcfg m) 22 20) / 65536

/-- What never is cut. -/
def Dev.neverCut (d : Dev) : Nat := d.rOf d.profile .safety + d.rOf d.profile .display

/-- The pages that a DERATE event goes to (R62). -/
def Dev.deratePages (d : Dev) : List Nat :=
  64 :: (d.insts.filter fun p => decide ((d.page p.1).state ≠ .free) && !p.2.worldO).map (·.1)

def Dev.derateEvent (d : Dev) (arg detail : Nat) : Dev := forEach d.deratePages (fun k d => d.post k 5 arg detail) d

/-- The runs in progress, as graph and number. -/
def Dev.running (d : Dev) : List (Nat × Nat) := d.graphs.flatMap fun p => p.2.runs.map fun r => (p.1, r.1)

/-- A new evaluation of R300 after a change of the figure or of the profile from what `old` holds: the
registers, and the DERATE event of R46 with the checkpoint of R231 where a factor changed or the figure
crossed what is never cut. Log entry 35 (DESIGN CHOICE). -/
def Dev.reCut (d old : Dev) : Dev :=
  let c := d.cutNow
  let c0 := old.cutNow
  let d := d.setF aBwrStatus 6 4 c.stage
  let d := (d.setF aBwrCut 18 16 c.part.1).setF aBwrCut 15 0 (c.part.2 % 65536)
  let below (x : Dev) : Bool := decide (x.fig < x.neverCut)
  let lowered := decide (c.lease < c0.lease) || decide (c.best < c0.best) || decide (c.cock < c0.cock) || (below d && !below old)
  let changed := decide ((c.lease, c.best, c.cock) ≠ (c0.lease, c0.best, c0.cock)) || (below d != below old)
  if changed then
    let d := d.derateEvent (if lowered then 0 else 1) d.fig
    forEach d.running (fun r d => d.checkpoint r.1 r.2 false) d
  else d

/-! ### The figure (R299) -/

/-- The link figure: a ring link takes 250, a hub link 500, a lost stack 1,024 GB/s. -/
def Dev.linkFig (d : Dev) : Nat :=
  let isDown (l : Nat) : Bool := (d.links.lookD l {}).down
  let hubs := ((List.range 4).filter isDown).length
  let rings := ((List.range 4).filter fun l => isDown (4 + l)).length
  let lost := ((List.range 4).filter fun k => !d.stackUp k).length
  4096 - (250 * rings + 500 * hubs + 1024 * lost)

/-- BWR_DERATE.FIG follows its two figures. -/
def Dev.reFig (d : Dev) : Dev :=
  let f := min (d.getF aPwrTherm 12 0) d.linkFig
  if f = d.fig then d else (((d.setF aBwrDerate 12 0 f).setB aBwrStatus 8 true).reCut d)

/-! ### The profile (R297) -/

/-- A change of the profile in force: each budgeted master's new budget applies at once and its count stays.
Log entry 35 (DESIGN CHOICE). -/
def Dev.setProfile (d : Dev) (prof : Nat) : Dev :=
  if prof = d.profile then d else
  let e := (d.setF aBwrStatus 2 0 prof).reCut d
  let c := e.cutNow
  forEach (masters.filter e.budgeted) (fun m d => d.setReg (aBwrMeff m) (BitVec.ofNat 32 (e.effOf c m))) e

/-- The profile that the wheel names: profile 0 while it is not enabled (R43). -/
def Dev.wheelProfile (d : Dev) : Nat := if d.whlEn then (d.slotW 2).fld 10 8 else 0

/-! ### Rows -/

/-- A master's window boundary (R297, R300): its count returns to 0 and it takes its new effective budget. -/
def Dev.windowBoundary (d : Dev) (m : Nat) : Dev :=
  let used := (d.reg (aBwrMused m)).toNat
  let eff := (d.reg (aBwrMeff m)).toNat
  let d :=
    if d.getB aBwrCtrl 0 && d.budgeted m then
      if d.getB (aBwrMcfg m) 30 then (if eff < used then d.count 0x06 (32 + 4 * m + 2) (used - eff) else d)
      else if eff ≤ used ∧ 0 < used then d.count 0x06 (32 + 4 * m + 1) 1 else d
    else d
  let d := d.setReg (aBwrMused m) 0
  if d.budgeted m then d.setReg (aBwrMeff m) (BitVec.ofNat 32 (d.effOf d.cutNow m)) else d

/-- BWR_WINDOW_BOUNDARY (R297): accesses that the regulator stalled go on. -/
def execBwrWindowBoundary (master : Fin 192) (t : Nat) (s : State) : Host.Outcome State Fault Refusal :=
  s.act t fun d => if master.val ∈ masters then (d.windowBoundary master.val).serveWaits else d

/-- DERATE_CHANGE (R46, R299): the figure is formed again from the thermal and the link figure. -/
def execDerateChange (t : Nat) (s : State) : Host.Outcome State Fault Refusal := s.act t Dev.reFig

/-- A write of BWR_CTRL.LAT_CLR (R301): every latency monitor becomes 0. -/
def Dev.latClr (d : Dev) : Dev := forEach masters (fun m d => forUpTo 8 (fun c d => d.setReg (aBwrLat m c) 0) d) d

/-- BWR_LAT_CLR. -/
def execBwrLatClr (s : State) : Host.Outcome State Fault Refusal := s.act 0 Dev.latClr

/-- A granule of 1 GiB holds a valid ownership entry in some stack (R284). -/
def Dev.granuleOwned (d : Dev) (g : Nat) : Bool :=
  d.own.any fun p => decide (p.1 % 18432 / 512 = g) && bitOf p.2.toNat 15

/-- A write of the interleave mask (R284): a bit of a granule that holds a valid entry stays, and bit 0 stays 0;
where a bit was to change and did not, the log has an entry. -/
def Dev.ilvWrite (d : Dev) (hi : Bool) (v : Word) : Dev :=
  let a := if hi then aBwrIlvHi else aBwrIlvLo
  let n := if hi then 4 else 32
  let base := if hi then 32 else 0
  let keep (i : Nat) : Bool := decide (base + i = 0) || d.granuleOwned (base + i)
  let old := d.reg a
  let w := forUpTo n (fun i w => if keep i then w else w.putBit i (v.bit i)) old
  let blocked := (List.range n).any fun i => keep i && (old.bit i != v.bit i)
  let d := if blocked then d.noEffect 71 a v else d
  d.setReg a w

/-- A write of BWR_ILV_LO or BWR_ILV_HI (R284). -/
def execBwrIlvWrite (hi : Bool) (v : Word) (s : State) : Host.Outcome State Fault Refusal :=
  s.act 0 fun d => d.ilvWrite hi v

end Sys2Proof.Machine
end

