-- ==== Sys2Proof/Machine/Wheel.lean ====
section
/-! DEFINITION. The wheel's banks (R39, R40): validation, loading the shadow bank, the swap, and the
amendment of the wheel configurations that Sebry holds (R250). -/

namespace Sys2Proof.Machine

/-- R39: the contents of a bank are valid, by its WHL_PERIOD word and the STARTs of its slots. -/
def wheelOk (period nslot : Nat) (starts : List Nat) : Bool :=
  decide (100 ≤ period) && decide (period ≤ 10000) && decide (1 ≤ nslot) && decide (nslot ≤ 64) &&
  decide (starts.headD 1 = 0) &&
  (List.range nslot).all fun i =>
    let s := starts.getD i 0
    let e := if i + 1 < nslot then starts.getD (i + 1) 0 else period
    decide (s + 2 ≤ e)

def Dev.bankOk (d : Dev) (b : Nat) : Bool :=
  wheelOk (d.getF (aWhlPeriod b) 13 0) (d.whlN b) ((List.range (d.whlN b)).map fun s => d.getF (aWhlSlot b s 0) 13 0)

/-- PERIOD, NSLOT and the STARTs of a configuration. -/
def WheelCfg.per (c : WheelCfg) : Nat := c.period.fld 13 0
def WheelCfg.n (c : WheelCfg) : Nat := c.period.fld 22 16
def slotWord (s : List Word) (i : Nat) : Word := s.getD i 0
def WheelCfg.starts (c : WheelCfg) : List Nat := c.slots.map fun s => (slotWord s 0).fld 13 0
def WheelCfg.ok (c : WheelCfg) : Bool := wheelOk c.per c.n c.starts && decide (c.slots.length = c.n)

/-- The length of slot i in ns. -/
def WheelCfg.slotNs (c : WheelCfg) (i : Nat) : Nat :=
  ((if i + 1 < c.n then c.starts.getD (i + 1) 0 else c.per) - c.starts.getD i 0) * 10000

/-- The check slices of a configuration that name a pair of a mask, as lengths in ns. -/
def WheelCfg.slices (c : WheelCfg) (pairs : Nat) : List Nat :=
  c.slots.zipIdx.filterMap fun s =>
    if (slotWord s.1 2).bit 16 && decide (Nat.land (slotWord s.1 3).toNat pairs ≠ 0) then some (c.slotNs s.2) else none

/-- A write of WHL_CTRL.SWAP (R39). -/
def Dev.requestSwap (d : Dev) : Dev :=
  if d.getB aWhlCtrl 1 then d
  else if d.bankOk (1 - d.whlBank) then { (d.setB aWhlCtrl 1 true).setB aWhlStatus 1 true with swapT := d.now }
  else d.setB aWhlStatus 16 true

/-- WHEEL_SWAP (R39). -/
def execWheelSwap (s : State) : Host.Outcome State Fault Refusal := s.act 0 Dev.requestSwap

/-- A configuration written into the shadow bank. -/
def Dev.loadShadow (d : Dev) (c : WheelCfg) : Dev :=
  let b := 1 - d.whlBank
  let d := ((d.setReg (aWhlPeriod b) c.period).setReg aWhlPhaseLo c.phaseLo).setReg aWhlPhaseHi c.phaseHi
  forEach c.slots.zipIdx (fun s d => forUpTo 4 (fun i d => d.setReg (aWhlSlot b s.2 i) (slotWord s.1 i)) d) d

/-- A configuration loaded and its swap requested. -/
def Dev.loadWheel (d : Dev) (c : WheelCfg) : Dev := (d.loadShadow c).requestSwap

/-- The personality whose wheel configuration is to be in force: during a transition none, whose own step loads one (R250). -/
def Dev.wheelPers (d : Dev) : Option Pers := if d.trans.isSome then none else some d.pers

/-- The step of a transition that loads the configuration of its personality, as amended until then (R33, R250). -/
def Dev.loadStep (d : Dev) (p : Pers) : Dev :=
  match d.wheels.look p.code with
  | some c => { d.loadWheel c with wheelDirty := false }
  | none => { d with wheelDirty := false }

/-- A bank holds a configuration. -/
def Dev.bankIs (d : Dev) (b : Nat) (c : WheelCfg) : Bool :=
  decide (d.reg (aWhlPeriod b) = c.period) && decide (d.reg aWhlPhaseLo = c.phaseLo) && decide (d.reg aWhlPhaseHi = c.phaseHi) &&
  c.slots.zipIdx.all fun s => (List.range 4).all fun i => decide (d.reg (aWhlSlot b s.2 i) = slotWord s.1 i)

/-- The configuration of a personality is the one in force. Log entry 152 (DEDUCED). -/
def Dev.wheelIs (d : Dev) (p : Pers) : Bool := (d.wheels.look p.code).any (d.bankIs d.whlBank)
/-- The configuration of a personality is the one that a pending swap makes active. Log entry 152 (DEDUCED). -/
def Dev.swapsTo (d : Dev) (p : Pers) : Bool := d.getB aWhlCtrl 1 && (d.wheels.look p.code).any (d.bankIs (1 - d.whlBank))

/-- A configuration that waits is loaded once no swap is pending (R250). -/
def Dev.loadDirty (d : Dev) : Dev :=
  match d.wheelPers with
  | none => d
  | some p =>
    if d.wheelDirty && !d.getB aWhlCtrl 1 then
      match d.wheels.look p.code with
      | some c => { d.loadWheel c with wheelDirty := false }
      | none => { d with wheelDirty := false }
    else d

/-- The wheel configuration of the personality is to be loaded, at once or when the pending swap is complete (R39). -/
def Dev.loadPers (d : Dev) : Dev := { d with wheelDirty := true }.loadDirty

/-- In every configuration that Sebry holds, pair `s` takes the place of pair `p` in each check slice (R250). -/
def WheelCfg.amend (c : WheelCfg) (p s : Nat) : WheelCfg :=
  { c with slots := c.slots.map fun w =>
      if (slotWord w 2).bit 16 && (slotWord w 3).bit p then
        [slotWord w 0, slotWord w 1, slotWord w 2, ((slotWord w 3).putBit p false).putBit s true]
      else w }

def Dev.amendWheels (d : Dev) (p s : Nat) : Dev :=
  { d with wheels := d.wheels.map (fun (x : Nat × WheelCfg) => (x.1, x.2.amend p s)), wheelDirty := true }.loadDirty

end Sys2Proof.Machine
end

