-- ==== Sys2Proof/Machine/Twin.lean ====
section
/-! DEFINITION. Twin pairs (R240 to R261): verdicts, findings and quarantine, the spare's substitution and a
pair's release, pairing and unpairing, and host pairs. -/

namespace Sys2Proof.Machine

def Dev.setPairSt (d : Dev) (p : Nat) (x : PairState) : Dev := { d with pairs := d.pairs.put p x }
def Dev.setPairState (d : Dev) (p st : Nat) : Dev := d.setF (aTwinPstatus p) 2 0 st
def Dev.setTest (d : Dev) (u : Nat) (x : TestState) : Dev := { d with tests := d.tests.put u x }

/-- One hour of device time in ns. -/
def hourNs : Nat := 3600 * 10 ^ 9

/-! ### Groups, members and spares -/

def pairMask (p : Nat) : Nat := 3 * 2 ^ (2 * p)

/-- The group that has a pair as a member, or as a spare. -/
def Dev.memberOf (d : Dev) (p : Nat) : Option Nat := (d.egs.find? fun g => g.2.twin && bitOf g.2.engines (2 * p)).map (·.1)
def Dev.spareOf (d : Dev) (p : Nat) : Option Nat := (d.egs.find? fun g => g.2.twin && bitOf g.2.spares p).map (·.1)

/-- A unit that may run commands of a SAFETY group. -/
def Dev.unitGood (d : Dev) (u : Nat) : Bool := !d.untested u && !(d.testSt u).withdrawn && !(d.testSt u).disabled

/-- A healthy pair: TWINNED, both engines tested and not withdrawn. -/
def Dev.pairHealthy (d : Dev) (p : Nat) : Bool :=
  decide (d.pairState p = 2) && d.unitGood (2 * p) && d.unitGood (2 * p + 1) && !(d.pairSt p).refWithdrawn

/-- The lowest healthy spare of a group. -/
def Dev.healthySpare (d : Dev) (g : Nat) : Option Nat :=
  match d.eg? g with
  | some x => (maskBits x.spares 32).find? d.pairHealthy
  | none => none

/-- A SAFETY group left without a healthy spare is reported with code 3; the condition ends when it has one
again (R250, R276). Log entry 68 (DESIGN CHOICE). -/
def Dev.spareCheck (d : Dev) (g : Nat) : Dev :=
  match d.eg? g with
  | none => d
  | some x =>
    if !d.safetyEg x then d
    else if (d.healthySpare g).isSome then d.endCond 3 g
    else if (3, g) ∈ d.held then d else d.report 3 g

/-- The spare takes the place of pair `p` in its group's mask and in the check slices; none where the group
has no healthy spare (R250). A chunk that runs on the spare is abandoned. -/
def Dev.substitute (d : Dev) (p : Nat) : Option Nat × Dev :=
  match d.memberOf p with
  | none => (none, d)
  | some g =>
    match d.healthySpare g, d.eg? g with
    | some s, some x =>
      let d := (d.abandonChunk (2 * s)).abandonChunk (2 * s + 1)
      let x := { x with engines := x.engines - pairMask p + pairMask s, spares := clrBitN x.spares s }
      let d := { d with egs := d.egs.put g x }
      let d := d.setPairSt p { d.pairSt p with home := some g, subst := some (s, d.now) }
      (some s, (d.amendWheels p s).spareCheck g)
    | _, _ => (none, d.spareCheck g)

/-- A member pair of a group that is withdrawn and has not been replaced is replaced once the group has a healthy spare (R265, R271). -/
def Dev.replaceWithdrawn (d : Dev) (g : Nat) : Dev :=
  match d.eg? g with
  | none => d
  | some x =>
    match (List.range 32).find? fun p => x.twin && bitOf x.engines (2 * p) &&
        ((d.testSt (2 * p)).withdrawn || (d.testSt (2 * p + 1)).withdrawn || (d.pairSt p).refWithdrawn) with
    | some p => if (d.healthySpare g).isSome then (d.substitute p).2 else d
    | none => d

/-- A pair that is healthy again becomes its group's spare and no longer a member (R251, R258, R271). -/
def Dev.backAsSpare (d : Dev) (p : Nat) : Dev :=
  let x := d.pairSt p
  let g := match x.home with
    | some g => some g
    | none => d.memberOf p
  let d := d.setPairSt p { x with home := none }
  match g with
  | none => d
  | some g =>
    match d.eg? g with
    | none => d
    | some e =>
      let en := if bitOf e.engines (2 * p) then e.engines - pairMask p else e.engines
      (({ d with egs := d.egs.put g { e with engines := en, spares := setBitN e.spares p } } : Dev).spareCheck g).replaceWithdrawn g

/-- A finding made at the same device time on a higher pair of the group has taken its only spare: the lower pair goes first, and the
other's commands are re-run without the spare (R251). -/
def Dev.yieldSpare (d : Dev) (p : Nat) : Dev :=
  match d.memberOf p with
  | none => d
  | some g =>
    if (d.healthySpare g).isSome then d else
    match d.eg? g, (List.range 32).find? fun x => decide (p < x) && decide ((d.pairSt x).home = some g) &&
        (d.pairSt x).subst.any fun y => decide (y.2 = d.now) with
    | some e, some x =>
      let s := ((d.pairSt x).subst.getD (0, 0)).1
      if !bitOf e.engines (2 * s) then d else
      let e := { e with engines := e.engines - pairMask s + pairMask x, spares := setBitN e.spares s }
      let d := ({ d with egs := d.egs.put g e } : Dev).setPairSt x { d.pairSt x with home := none, subst := none }
      let d := forEach (d.allCmds.filter fun c => decide (2 * s ∈ c.2.rerunOn)) (fun c d =>
        let es := c.2.rerunOn.filter fun i => decide (i / 2 ≠ s)
        if es.isEmpty then d.teardown (d.ctxOfQ c.1) 8 else d.updCmd c.1 c.2.seq fun y => { y with rerunOn := es }) d
      d.amendWheels s x
    | _, _ => d

/-! ### Verdicts (R248) -/

inductive Verdict where
  | pass | mismatch | disagree | dbUe
  deriving DecidableEq, Repr

/-- The table of R248. -/
def judge (dbOk eqA eqB : Bool) : Verdict :=
  if !dbOk then .dbUe
  else match eqA, eqB with
    | true, true => .pass
    | false, false => .mismatch
    | _, _ => .disagree

/-- The doublewords of a record as a copy's faults have left them. Log entry 140 (DESIGN CHOICE). -/
def deviate (fs : List (Nat × Dword)) (ds : List Dword) : List Dword :=
  ds.zipIdx.map fun x => fs.foldl (fun v f => if f.1 = x.2 then v ^^^ f.2 else v) x.1

/-- What the comparators answer for two copies' doublewords (R247). -/
def recEqA (r : TwinRecord) (l t : List Dword) : Bool := (decide (l = t) || decide (sigA l = sigA t)) == r.cmpAOk
def recEqB (r : TwinRecord) (l t : List Dword) : Bool := (decide (l = t) || decide (sigB l = sigB t)) == r.cmpBOk

/-- The outcome for a record (R248). -/
def recVerdict (r : TwinRecord) (l t : List Dword) : Verdict :=
  match judge (decide (r.entry ≠ .bad)) (recEqA r l t) (recEqB r l t) with
  | .pass => if r.differ then .mismatch else .pass
  | v => v

def selfOk (v : SelfTest) : Bool := v.cmpA && v.cmpB && v.delay

/-! ### Findings (R249, R511) -/

/-- A finding: CAUSE, the bits of TWIN_PERR, and whether it is a checker fault. -/
structure Finding where
  cause   : Nat
  perr    : Nat
  checker : Bool
  deriving DecidableEq, Repr

def findMismatch : Finding := ⟨1, 0b00001, false⟩
def findDisagree : Finding := ⟨2, 0b00010, true⟩
def findDbUe : Finding := ⟨3, 0b01010, true⟩
def findSelftest : Finding := ⟨5, 0b00010, true⟩
def findLag : Finding := ⟨6, 0b10001, false⟩
def findFinal (checker : Bool) : Finding := ⟨4, if checker then 0b00010 else 0b00001, checker⟩

def Verdict.finding : Verdict → Option Finding
  | .pass => none
  | .mismatch => some findMismatch
  | .disagree => some findDisagree
  | .dbUe => some findDbUe

/-- The D command that asked for a pair's sequence ends with a status. -/
def Dev.pairDone (d : Dev) (p : Nat) (st : Status) : Dev :=
  { d with done := d.done.map fun x => if x.opcode = 0x090A && x.arg = p && !x.ready then { x with ready := true, status := st.code } else x }

/-- A full sweep of both engines of a pair begins anew (R258, R271). -/
def Dev.newSweep (d : Dev) (p : Nat) : Dev :=
  let one (d : Dev) (e : Nat) : Dev := d.setTest e { d.testSt e with next := 0, retry := false, swept := false }
  one (one d (2 * p)) (2 * p + 1)

/-- The registers, the counters and the record of a quarantine of pair `p` (R249 items 2 and 3, R258). A second
quarantine within one hour, or a checker fault, keeps the pair QUARANTINED. -/
def Dev.quarantine (d : Dev) (p : Nat) (f : Finding) : Dev :=
  let d := (d.setPairState p 4).setF (aTwinPstatus p) 6 4 f.cause
  let d := d.setF (aTwinPerr p) 4 0 (Nat.lor (d.getF (aTwinPerr p) 4 0) f.perr)
  let d := (d.count 0x04 (8 * p + (if f.checker then 1 else 0)) 1).count 0x04 (8 * p + 2) 1
  let d := if f.cause = 6 then d.count 0x04 (8 * p + 6) 1 else d
  let x := d.pairSt p
  let again := x.quarT.any fun t => decide (d.now < t + hourNs)
  let d := d.pairDone p .eState
  let d := d.putPair p { x.begin with quarT := d.now :: x.quarT, stuck := x.stuck || f.checker || again, sweepOk := false }
  let d := d.newSweep p
  d.report (if f.checker then 2 else 1) p

/-- An event after which an engine or sort unit is UNTESTED until a sweep that begins later passes (R121). A sweep of a pair that is
twinned is one of both its engines, so that it begins anew on both (R263). -/
def Dev.markUntested (d : Dev) (u : Nat) : Dev :=
  let us := if u < 64 ∧ d.pairState (u / 2) = 2 then [2 * (u / 2), 2 * (u / 2) + 1] else [u]
  forEach us (fun v d => d.setTest v { d.testSt v with next := 0, retry := false }) (d.setUntested u true)

/-- A reference run of pair `p` fails (R271): both engines UNTESTED, the pair withdrawn, the spare in its place,
REF_FAIL held. A second failure within one hour clears EN on both engines. -/
def Dev.refFail (d : Dev) (p : Nat) : Dev :=
  let d := (d.markUntested (2 * p)).markUntested (2 * p + 1)
  let x := d.pairSt p
  let again := x.refFailT.any fun t => decide (d.now < t + hourNs)
  let d := d.putPair p { x.begin with refFailT := d.now :: x.refFailT, refWithdrawn := true, refHeld := true, sweepOk := false }
  let d := d.newSweep p
  let d := if again then
      let d := (d.setB (aGxCtrl (2 * p)) 0 false).setB (aGxCtrl (2 * p + 1)) 0 false
      d.setPairSt p { d.pairSt p with dead := true }
    else d
  let r := d.substitute p
  let d := { r.2 with refRuns := r.2.refRuns.filter fun y => y.1 ≠ p }
  d.report 6 p

/-- The commands that hold an engine of a pair, or whose sort unit's runs enter its signatures (R216). -/
def Dev.cmdsOn (d : Dev) (p : Nat) : List (Nat × Cmd) :=
  d.allCmds.filter fun c => (c.2.engines.any fun e => decide (e / 2 = p)) ||
    (c.2.isSort && decide (c.2.stage ≠ CmdStage.taken) && !c.2.agreed && decide (p ∈ d.twinPairs c.1 c.2))

/-- Commands whose engines must all be on one die (R219, R250). -/
def Cmd.oneDie (c : Cmd) : Bool := decide (c.cls = 1) || decide (c.op = 0x0301) || decide (c.op = 0x0302)

/-- A pair leaves the work of its group: a spare loses that role, a member is replaced by the group's spare if it has a healthy one
(R250, R251). -/
def Dev.outOfWork (d : Dev) (p : Nat) : Option Nat × Dev :=
  let spare := d.spareOf p
  let d := match spare with
    | some g =>
      match d.eg? g with
      | some x => ({ d with egs := d.egs.put g { x with spares := clrBitN x.spares p } } : Dev).setPairSt p { d.pairSt p with home := some g }
      | none => d
    | none => d
  let r := (d.yieldSpare p).substitute p
  (r.1, match spare with
    | some g => r.2.spareCheck g
    | none => r.2)

/-- The engines of a command's re-run after a finding on pair `p`: the rest of those it held, and the spare's unless it lies on
another die than the command requires (R250). -/
def Cmd.rerunSet (c : Cmd) (p : Nat) (spare : Option Nat) : List Nat :=
  let rest : List Nat := c.engines.filter fun e => decide (e / 2 ≠ p)
  match spare with
  | some s => if c.oneDie && decide (s / 8 ≠ c.engines.headD 0 / 16) then rest else rest ++ [2 * s, 2 * s + 1]
  | none => rest

/-- The re-run of a command that held engines of pair `p`; without an engine left its context is torn down (R250). -/
def Dev.rerunFor (d : Dev) (p : Nat) (spare : Option Nat) (q : Nat) (c : Cmd) : Dev :=
  if c.engines = [] then d
  else
    let es := c.rerunSet p spare
    if es.isEmpty then d.teardown (d.ctxOfQ q) 8 else d.updCmd q c.seq fun x => { x with rerunOn := es }

/-- A finding on pair `p` (R249): every command on it is killed, the pair is quarantined, the spare takes its
place, and each command is to be re-run on what R250 gives it. The re-runs are dispatched with the next pass.
Log entry 141 (DESIGN CHOICE). -/
def Dev.finding (d : Dev) (p : Nat) (f : Finding) : Dev :=
  let cs := d.cmdsOn p
  let d := forEach cs (fun c d => d.killFault c.1 c.2.seq .mismatch) d
  let r := (d.quarantine p f).outOfWork p
  let d := if r.2.refRuns.any fun x => x.1 = p then r.2.refFail p else r.2
  let d := forEach cs (fun c d => d.rerunFor p r.1 c.1 c.2) d
  d.serveWaits.serveUnparks

/-- A re-run that a kill for another cause has begun is counted in the twin-mismatch row instead (R249). -/
def Dev.recount (d : Dev) (q : Nat) (c : Cmd) (row : Nat) : Dev :=
  if row = KillCause.squash.row ∨ (d.cmd? q c.seq).isNone then d else
  let inst := d.instOfQ q
  let d := (d.cntUpd (0x80 + inst) row fun x => { x with val := x.val - 1 }).countInst inst KillCause.mismatch.row
  let d := d.updCmd q c.seq fun x => { x with
    preempts := if row = KillCause.preempt.row then x.preempts - 1 else x.preempts,
    faultReruns := if row = KillCause.link.row then x.faultReruns else x.faultReruns + 1 }
  if (d.cmd? q c.seq).any fun x => decide (16 ≤ x.faultReruns) then d.teardown (d.ctxOfQ q) 8 else d

/-- A finding among the records that both copies had closed before a kill for another cause (R249). -/
def Dev.lateFinding (d : Dev) (p : Nat) (f : Finding) (q : Nat) (c : Cmd) (row : Nat) : Dev :=
  let r := (d.quarantine p f).outOfWork p
  let d := r.2.recount q c row
  let d := match d.cmd? q c.seq with
    | some x => if x.stage = CmdStage.taken then d.rerunFor p r.1 q c else d
    | none => d
  d.serveWaits.serveUnparks

/-! ### What a pair runs, and its records (R245, R269) -/

/-- The run whose records a pair closes: a command's, a reference run, or one that a kill has ended. -/
inductive PairRun where
  | cmd (q : Nat) (c : Cmd)
  | ref (graph : Nat)
  | ended (q : Nat) (c : Cmd) (row : Nat)
  deriving DecidableEq, Repr

/-- The graphs of a group that have a reference block, in rising order of handle. -/
def Dev.refGraphs (d : Dev) (g : Nat) : List Nat :=
  (d.graphs.filter fun (p : Nat × Graph) => decide (p.2.eg = g) && p.2.ref.isSome).map (·.1)

/-- The reference run that a pair makes: the first of its slice, or for a withdrawn pair whose sweep has passed the one of R271
item 4, on the first graph of its group. Log entry 142 (DESIGN CHOICE). -/
def Dev.refOf (d : Dev) (p : Nat) : Option Nat :=
  match d.refRuns.find? fun x => x.1 = p with
  | some x => some x.2
  | none =>
    let x := d.pairSt p
    if x.refWithdrawn && x.sweepOk then
      (match x.home with
        | some g => some g
        | none => d.memberOf p).bind fun g => (d.refGraphs g).head?
    else none

/-- A command that holds the pair's engines comes before one of a sort unit. -/
def Dev.pairRun (d : Dev) (p : Nat) : Option PairRun :=
  match (d.cmdsOn p).find? fun c => !c.2.isSort with
  | some c => some (.cmd c.1 c.2)
  | none =>
    match d.refOf p with
    | some g => some (.ref g)
    | none =>
      match (d.cmdsOn p).head? with
      | some c => some (.cmd c.1 c.2)
      | none => (d.pairSt p).ended.map fun e => .ended e.1 e.2.1 e.2.2

/-- The rank of a pair among those of a command, and their number (R219, R245). -/
def Cmd.rankOf (c : Cmd) (p : Nat) : Nat × Nat :=
  (((c.pairs.zipIdx.find? fun x => decide (x.1 = p)).map (·.2)).getD 0, c.pairs.length)

/-- The engine stream's records where the manual orders them: of a class 0x01 command and of a reference run (R505). -/
def Dev.knownRecords (d : Dev) (p : Nat) (run : PairRun) : List (List Dword) :=
  let x := d.pairSt p
  let ofCmd (c : Cmd) : List (List Dword) :=
    if c.cls ≠ 1 then [] else if x.stream ≠ [] then x.stream else d.gxRecords c (c.rankOf p).1 (c.rankOf p).2
  match run with
  | .cmd _ c => ofCmd c
  | .ended _ c _ => ofCmd c
  | .ref g =>
    match d.graph? g with
    | some g => (g.ref.map (d.refRecords g)).getD []
    | none => []

/-- The doublewords of a record that the manual does not fix: free values, but for what the last record of the engine stream takes in.
Log entry 143 (DESIGN CHOICE). -/
def Dev.openRecord (d : Dev) (p n : Nat) (r : TwinRecord) (c : Cmd) : List Dword :=
  let draw (i : Nat) : Dword := BitVec.ofNat 64 (Config.freeNat (d.freeCtr + i))
  let writes := if r.last then (draw 0).toNat % 64 else 64
  (List.range (10 * writes)).map (fun i => draw (i + 1)) ++
    if r.last then
      (if r.stream.val = 0 then c.recordTail (c.rankOf p).1 (draw 641) (draw 642) else []) ++ [BitVec.ofNat 64 (n + 1)]
    else []

/-- Record `n` of a stream in a pair's run, and whether it is the last: none where the stream has no such record. -/
def Dev.recordOf (d : Dev) (p n : Nat) (r : TwinRecord) (run : PairRun) : Option (List Dword × Bool) :=
  let free (c : Cmd) : Option (List Dword × Bool) :=
    if r.stream.val ∈ (d.pairSt p).closed then none else some (d.openRecord p n r c, r.last)
  let known : Option (List Dword × Bool) :=
    let rs := d.knownRecords p run
    if r.stream.val = 0 then (rs[n]?).map fun x => (x, decide (n + 1 = rs.length)) else none
  match run with
  | .ref _ => known
  | .cmd _ c => if c.cls = 1 then known else free c
  | .ended _ c _ => if c.cls = 1 then known else free c

/-- The records of a stream that have passed. -/
def PairState.passed (x : PairState) (s : Nat) : Nat := (Tab.look x.records s).getD 0

/-- The failing record is kept (R249 item 2, R259). -/
def Dev.keepRecord (d : Dev) (p stream n : Nat) (l t : List Dword) : Dev :=
  let d := d.setReg (aTwinPrec p) (BitVec.ofNat 32 (stream * 2 ^ 16 + n % 65536))
  let ws := [sigA l, sigA t, sigB l, sigB t].flatMap fun x => dwordWords x.toNat
  forUpTo 8 (fun i d => d.setReg (aTwinPsig p i) (ws.getD i 0)) d

/-- The lag of a closed record: at most 4,096 cycles (R243), otherwise not stated.
Log entry 67 (DESIGN CHOICE). -/
def Dev.seenLag (d : Dev) (p : Nat) : Dev :=
  let f := d.fresh
  let lag := f.1 % 4097
  let d := f.2.setF (aTwinPstatus p) 28 16 (max (d.getF (aTwinPstatus p) 28 16) lag)
  d.countMax 0x04 (8 * p + 4) lag

/-- Step 2 of a command's press passes once every stream of every pair has passed its last record (R248): one that is not first in
its queue then releases its engines (R81). -/
def Dev.agreeCheck (d : Dev) (q seq : Nat) : Dev :=
  match d.cmd? q seq with
  | none => d
  | some c =>
    if c.stage ≠ .finished || c.agreed || !(d.twinPairs q c).all fun p => (d.pairSt p).done c then d else
    let d := d.updCmd q seq fun x => { x with agreed := true }
    if d.isFirst q seq then d
    else ((d.freeEngines c.engines).updCmd q seq fun x => { x with engines := [] }).settle

/-- A record passes: its entry in the delay buffer is freed, and the leading copy goes on (R243, R247). -/
def Dev.recordPassed (d : Dev) (p : Nat) (run : PairRun) (s n : Nat) (last : Bool) (l : List Dword) : Dev :=
  let x := d.pairSt p
  let x := { x with
    records := x.records.put s (n + 1), closed := if last then s :: x.closed else x.closed,
    sigs := if s = 0 then x.sigs ++ [(sigA l, sigB l)] else x.sigs,
    delay := x.delay.filter fun e => !(decide (e.stream = s) && decide (e.record = n)) }
  let d := (d.putPair p x).fillDelay p
  match run with
  | .cmd q c => d.agreeCheck q c.seq
  | _ => d

/-- A correctable error in the entry is corrected and counted (R247, R511). -/
def Dev.entryRead (d : Dev) (p : Nat) (e : DelayRead) : Dev :=
  if e = .corrected then (d.setB (aTwinPerr p) 2 true).count 0x04 (8 * p + 5) 1 else d

/-- RECORD_COMPARE (R248): the next record of a stream of what the pair runs is judged. A run of a pair that splits has been ended by
a kill (R256). -/
def Dev.recordCompare (d : Dev) (p : Nat) (r : TwinRecord) : Dev :=
  if d.pairState p ≠ 2 ∧ d.pairState p ≠ 3 then d else
  match d.pairRun p with
  | none => d
  | some run =>
    let n := (d.pairSt p).passed r.stream.val
    match d.recordOf p n r run with
    | none => d
    | some (ds, last) =>
      let l := deviate r.lead ds
      let t := deviate r.trail ds
      let d := (({ d with freeCtr := d.freeCtr + 643 } : Dev).seenLag p).entryRead p r.entry
      match (recVerdict r l t).finding with
      | none => d.recordPassed p run r.stream.val n last l
      | some f =>
        let d := d.keepRecord p r.stream.val n l t
        match run with
        | .ended q c row => d.lateFinding p f q c row
        | _ => d.finding p f

def execRecordCompare (pair : Fin 32) (r : TwinRecord) (t : Nat) (s : State) : Host.Outcome State Fault Refusal :=
  s.act t fun d => d.recordCompare pair.val r

/-- LAG_TIMEOUT (R244): the leading copy of a run is held, and its pair is handled as after a copy mismatch. -/
def Dev.lagTimeout (d : Dev) (p : Nat) : Dev :=
  if decide (d.pairState p = 2) && (!(d.cmdsOn p).isEmpty || (d.refOf p).isSome) then d.finding p findLag else d

def execLagTimeout (pair : Fin 32) (t : Nat) (s : State) : Host.Outcome State Fault Refusal :=
  s.act t fun d => d.lagTimeout pair.val

/-! ### Pairing and unpairing (R256, R257) -/

/-- An engine's cached operands and codebook are gone. -/
def Dev.invalidate (d : Dev) (e : Nat) : Dev :=
  { d.setB (aGxCbCtrl e) 1 false with resid := d.resid.filter fun r => decide (r.1 ≠ e) && decide (r.1 ≠ 64 + e) }

/-- A vector core's registers after VC_CTRL.RST (R177). Log entry 5 (DESIGN CHOICE). -/
def Dev.resetCore (d : Dev) (v : Nat) : Dev := { d.setF (aVcStatus v) 7 4 0 with vcs := d.vcs.del v }

def Dev.resetCores (d : Dev) (e : Nat) : Dev := forUpTo 4 (fun k d => d.resetCore (4 * e + k)) d

/-- The commands that hold an engine of a pair are killed, where the sequence quiesces it. -/
def Dev.quiesce (d : Dev) (p : Nat) : Dev :=
  forEach (d.cmdsOn p) (fun c d => d.killRerun c.1 c.2.seq .preempt) d

/-- Steps 1 and 2 of a pairing sequence: JOINING, both engines quiet (R257). -/
def Dev.beginJoin (d : Dev) (p : Nat) : Dev :=
  if d.pairState p = 0 then (d.setPairState p 1).quiesce p else d

/-- Steps 1 and 2 of an unpairing sequence: SPLITTING, the pair quiet (R256). -/
def Dev.beginSplit (d : Dev) (p : Nat) : Dev :=
  if d.pairState p = 2 then (d.setPairState p 3).quiesce p else d

/-- The pair belongs to a group that is suspended in LEASE (R28). -/
def Dev.suspendedPair (d : Dev) (p : Nat) : Bool :=
  decide (d.pers = .lease) &&
  d.egs.any fun (g : Nat × EngineGroup) => g.2.suspended && (bitOf g.2.engines (2 * p) || bitOf g.2.spares p)

/-- Steps 3 to 5 of R257. A pair that a check slice reserves is joined only after the slice. -/
def Dev.join (d : Dev) (p : Nat) (v : SelfTest) : Dev :=
  if d.pairState p ≠ 1 then d.noEffect 71 (aTwinPctrl p) 1
  else if bitOf d.checkMask p then d
  else
    let d := ((d.resetCores (2 * p)).resetCores (2 * p + 1))
    let d := (d.invalidate (2 * p)).invalidate (2 * p + 1)
    let d := (d.setReg (aGxCtrl (2 * p + 1)) (d.reg (aGxCtrl (2 * p)))).setReg (aGxDuty (2 * p + 1)) (d.reg (aGxDuty (2 * p)))
    let d := (d.setReg (aGxKat (2 * p + 1)) (d.reg (aGxKat (2 * p)))).beginPair p
    if selfOk v then
      let d := ((d.setPairState p 2).setUntested (2 * p) true).setUntested (2 * p + 1) true
      let d := (d.setTest (2 * p) { d.testSt (2 * p) with next := 0 }).setTest (2 * p + 1) { d.testSt (2 * p + 1) with next := 0 }
      let d := d.pairDone p .ok
      -- a pair of a group that LEASE has suspended meanwhile is split (R28)
      (if d.suspendedPair p then d.beginSplit p else d).settle
    else
      let d := d.quarantine p findSelftest
      (match d.memberOf p, d.spareOf p with
        | some g, _ | none, some g => d.spareCheck g
        | none, none => d).settle

/-- What a final compare signs of one engine (R256 step 3): the RW fields of its GX_ registers, and the CSRs of R166 of its four cores.
Log entry 144 (DEDUCED). -/
def Dev.finalDwords (d : Dev) (e : Nat) : List Dword :=
  [d.getF (aGxCtrl e) 1 0, d.getF (aGxDuty e) 11 8, d.getF (aGxKat e) 23 16].map (BitVec.ofNat 64) ++
  (List.range 4).flatMap fun k =>
    let c := d.vcs.lookD (4 * e + k) {}
    [c.vqparam, c.vqclip, c.vqstat].map fun w => w.setWidth 64

/-- The scrub of R256 step 4: the trailing engine's RAMs and its cores' local RAMs hold zeros, and the cores are reset. What the
operand buffer, the accumulator and the codebook RAM hold is reached only through their entries, which are gone. -/
def Dev.scrubEngine (d : Dev) (e : Nat) : Dev :=
  forUpTo 4 (fun k d =>
    let d := d.resetCore (4 * e + k)
    { d with vcs := d.vcs.put (4 * e + k) { d.vcs.lookD (4 * e + k) {} with lram := [], lramFree := none } }) (d.invalidate e)

/-- Steps 3 to 5 of R256. -/
def Dev.split (d : Dev) (p : Nat) (r : TwinRecord) : Dev :=
  if d.pairState p ≠ 3 then d.noEffect 71 (aTwinPctrl p) 2
  else
    let l := deviate r.lead (d.finalDwords (2 * p))
    let t := deviate r.trail (d.finalDwords (2 * p + 1))
    match recVerdict r l t with
    | .pass => (((d.scrubEngine (2 * p + 1)).setPairState p 0).pairDone p .ok).settle
    | v => (((d.keepRecord p r.stream.val 0 l t).quarantine p (findFinal (decide (v ≠ .mismatch)))).outOfWork p).2.settle

/-- A quarantined pair is released (R258): TWINNED, the spare of its group or an idle pair. -/
def Dev.release (d : Dev) (p : Nat) : Dev :=
  (((d.setPairState p 2).count 0x04 (8 * p + 3) 1).setPairSt p { d.pairSt p with sweepOk := false }).backAsSpare p

/-- TWIN_SELFTEST (R259): step 4 of R257 on a TWINNED or JOINING pair that holds no command; on a quarantined
pair it is the second condition of R258. -/
def Dev.selftest (d : Dev) (p : Nat) (v : SelfTest) : Dev :=
  let st := d.pairState p
  if !(d.cmdsOn p).isEmpty then d.noEffect 71 (aTwinPctrl p) 8
  else if st = 1 ∨ st = 2 then (if selfOk v then d else d.finding p findSelftest)
  else if st = 4 then
    let x := d.pairSt p
    if selfOk v then (if x.sweepOk && !x.stuck then (d.release p).settle else d)
    else d.setPairSt p { x with stuck := true }
  else d.noEffect 71 (aTwinPctrl p) 8

/-- TWIN_QCLR (R259): in SERVICE a QUARANTINED pair becomes SPLIT (R255). -/
def Dev.qclr (d : Dev) (p : Nat) : Dev :=
  if d.pers = .service ∧ d.pairState p = 4 then (d.setPairState p 0).setPairSt p { d.pairSt p with stuck := false } else d

/-- TWIN_QCLR. -/
def execTwinQclr (pair : Fin 32) (s : State) : Host.Outcome State Fault Refusal := s.act 0 fun d => d.qclr pair.val

/-! ### Host pairs (R252, R253, R511) -/

/-- The number of a host pair in R260's numbering. Log entry 67 (DESIGN CHOICE). -/
def hpIdx : HostPair → Nat
  | .ac n => n.val
  | .cpa => 12
  | .cpb => 13

/-- Base of a host pair's counters (R477). -/
def hpCnt (h : Nat) : Nat := if h < 12 then 256 + 8 * h else 352 + 8 * (h - 12)

/-- The loss of CPA or CPB (R273, R274). -/
def Dev.loseCpa (d : Dev) : Dev :=
  if d.cpaLost.isSome then d else { d.report 14 0 with cpaLost := some d.now }
def Dev.loseCpb (d : Dev) : Dev :=
  if d.cpbLost.isSome then d else ({ d.report 15 0 with cpbLost := some d.now } : Dev).refreshWarn

/-- A finding in a twinned host pair: QUARANTINED, the error outputs, and what the pair ran is gone.
Log entry 67 (DESIGN CHOICE). -/
def Dev.hostFinding (d : Dev) (h cause herr : Nat) (checker lag : Bool) (retired : Nat) : Dev :=
  if d.getF (aTwinHstatus h) 2 0 ≠ 2 then d else
  let d := (d.setF (aTwinHstatus h) 2 0 4).setF (aTwinHstatus h) 6 4 cause
  -- the entries of the two queues are discarded, and no access of the pair that waits goes on
  let mine (w : WaitAcc) : Bool := match w with
    | .coreAcc c _ _ _ _ => decide (c / 2 = h)
    | _ => false
  let d := { d.setF (aTwinHstatus h) 14 8 0 with hostQs := d.hostQs.del h, waiting := d.waiting.filter (!mine ·) }
  let d := d.setF (aTwinHerr h) 3 0 (Nat.lor (d.getF (aTwinHerr h) 3 0) herr)
  let d := d.setPair (aTwinHretLo h) (aTwinHretHi h) retired
  let d := (d.count 0x04 (hpCnt h + (if checker then 1 else 0)) 1).count 0x04 (hpCnt h + 2) 1
  let d := if lag then d.count 0x04 (hpCnt h + 6) 1 else d
  if h = 12 then d.loseCpa
  else if h = 13 then d.loseCpb
  else
    let d := (d.raise (.cluster h)).report (if checker then 2 else 1) (32 + h)
    if d.getB aWorldHost (h / 4) then d else d.report 13 h

/-- ACPAIR_FINDING (R253). -/
def execAcpairFinding (hp : HostPair) (cause : HpCause) (retired : Dword) (t : Nat) (s : State) : Host.Outcome State Fault Refusal :=
  s.act t fun d =>
    match cause with
    | .mismatch => d.hostFinding (hpIdx hp) 1 0b0001 false false retired.toNat
    | .checker => d.hostFinding (hpIdx hp) 2 0b0010 true false retired.toNat
    | .lag => d.hostFinding (hpIdx hp) 6 0b1001 false true retired.toNat

/-- TWIN_CHECKPOINT (R252): the signatures over the two cores' registers, in their fixed order, are judged under R248. -/
def execTwinCheckpoint (hp : HostPair) (lead trail : List Dword) (cmpAOk cmpBOk : Bool) (retired : Dword) (t : Nat) (s : State) :
    Host.Outcome State Fault Refusal :=
  s.act t fun d =>
    match judge true (decide (sigA lead = sigA trail) == cmpAOk) (decide (sigB lead = sigB trail) == cmpBOk) with
    | .pass => d
    | .mismatch => d.hostFinding (hpIdx hp) 4 0b0100 false false retired.toNat
    | _ => d.hostFinding (hpIdx hp) 2 0b0010 true false retired.toNat

end Sys2Proof.Machine
end

