-- ==== Sys2Proof/Machine/Pers.lean ====
section
/-! DEFINITION. Personalities and their transitions (R26 to R36): what each entry does, the steps of the hand-over,
and the units subject to periodic test (R262). -/

namespace Sys2Proof.Machine

/-! ### Reports -/

/-- The PERSONALITY event on every page (R33, R62). -/
def Dev.persEvent (d : Dev) : Dev := d.postAll 1 (d.pers.code + 256 * b2n d.degraded) 0

/-- A PERS_SET that waits for the end of its transition ends with a status. -/
def Dev.persDone (d : Dev) (st : Nat) : Dev :=
  { d with done := d.done.map fun x => if x.opcode = 0x0802 && !x.ready then { x with ready := true, status := st } else x }

/-- A PERS_SET whose transition is abandoned: its final status is not stated. Log entry 75 (DEDUCED). -/
def Dev.persAbandon (d : Dev) : Dev :=
  if d.done.any fun x => x.opcode = 0x0802 && !x.ready then
    let f := d.fresh
    f.2.persDone (f.1 % 65536)
  else d

/-- The VIN power cap of a personality in W (R26); SLEEP's 100 mW are none. -/
def Dev.capOf (d : Dev) (p : Pers) : Nat :=
  match p with
  | .drive => d.driveCap
  | .park => 12
  | .lease | .service => 420
  | .sleep => 0

/-- At the first personality report the boot is complete (R426, R432). -/
def Dev.firstReport (d : Dev) : Dev := if d.reported then d else d.setF aBootStatus 3 0 0

/-- The new personality in force with its cap, and reported. Fault injection may lose its ground (R446). -/
def Dev.enter (d : Dev) (p : Pers) (degraded : Bool) : Dev :=
  let d := (d.firstReport).setF aPwrCtrl 8 0 (d.capOf p)
  -- FORCE reads 0 outside SERVICE (R277)
  let d := if p = .service then d else d.setF aSafeOut 5 4 0
  ({ d with pers := p, degraded, trans := none, reported := true } : Dev).fiCheck.persEvent.refreshWarn.refreshFault

/-! ### Before the first step of a transition (R437, R446) -/

/-- A halted core goes on; the watchdog of CPA or CPB has been paused meanwhile (R438). -/
def Dev.resumeCore (d : Dev) (n : Nat) : Dev :=
  match d.dbgHalt.look n with
  | none => d
  | some t =>
    let d := { d with dbgHalt := d.dbgHalt.del n }
    if n = 24 then { d with kickA := d.kickA + (d.now - t) } else if n = 25 then { d with kickB := d.kickB + (d.now - t) } else d

/-- The cores that the world-V enable lets the debug port halt: CPA, CPB and the clusters of world V. -/
def Dev.viCore (d : Dev) (n : Nat) : Bool := decide (n = 24) || decide (n = 25) || (decide (n < 24) && !d.getB aWorldHost (n / 8))

/-- Enables that are open by fuse (R437). -/
def Dev.fuseOpen (d : Dev) : Nat := Nat.land (d.fuse.dbgFuse.fld 3 0) (15 - d.fuse.dbgFuse.fld 7 4)

/-- The certificate-opened enables of a mask close; the cores that they let the port halt are resumed and its sources stop. -/
def Dev.closeDbg (d : Dev) (mask : Nat) : Dev :=
  let byc := d.getF aDbgStatus 7 4
  let left := byc - Nat.land byc mask
  let gone (b : Nat) : Bool := bitOf byc b && bitOf mask b && !bitOf d.fuseOpen b
  let d := forEach (d.dbgHalt.keys.filter fun n => if d.viCore n then gone 0 else gone 2) (fun n d => d.resumeCore n) d
  let d := { d with trace := d.trace.filter fun n => !(if d.viCore n then gone 1 else gone 3) }
  (d.setF aDbgStatus 7 4 left).setF aDbgStatus 3 0 (Nat.lor d.fuseOpen left)

/-- What the device does before the first step of a transition to a personality: VI closes, fault injection is disarmed. -/
def Dev.preTrans (d : Dev) (dst : Pers) : Dev :=
  let d := if dst = .drive ∨ dst = .lease then d.closeDbg 1 else d
  let d := if dst = .drive ∨ dst = .lease ∨ dst = .sleep then d.fiAuto else d
  d.fiCheck

/-! ### LEASE partitions -/

/-- The instance is a lease tenant. Log entry 73 (DESIGN CHOICE). -/
def Dev.isTenant (d : Dev) (n : Nat) : Bool :=
  decide ((d.page n).state ≠ .free) && decide ((d.part (d.inst n).pt).map (·.kind) = some .lease)

def Dev.tenants (d : Dev) : List Nat := d.insts.keys.filter d.isTenant

/-- Every tenant has reached RESET_DONE (R33 step 3). -/
def Dev.tenantsGone (d : Dev) : Bool := d.tenants.all fun n => decide ((d.page n).state = .resetDone)

/-- BWR_MCFG.VALID of the masters that carry a LEASE partition (R390). -/
def Dev.validLease (d : Dev) (v : Bool) : Dev :=
  forEach (masters.filter fun m => decide (d.getF (aBwrMcfg m) 22 20 = 4) && decide (d.reg (aBwrMcfg m) ≠ 0)) (fun m d =>
    if (d.part (d.getF (aBwrMcfg m) 19 16)).map (·.kind) = some .lease then d.setB (aBwrMcfg m) 31 v else d) d

/-- Every lent engine leaves the LEASE groups and is scrubbed (R28). -/
def Dev.returnLent (d : Dev) : Dev :=
  let lent := d.egs.foldl (fun m (g : Nat × EngineGroup) => Nat.lor m g.2.lent) 0
  let d := { d with egs := d.egs.map fun (g : Nat × EngineGroup) =>
    (g.1, { g.2 with engines := g.2.engines - Nat.land g.2.engines g.2.lent, lent := 0 }) }
  forEach (maskBits lent 64) (fun e d => (d.invalidate e).resetCores e) d

/-- The change away from LEASE at the end of step 3 (R28, R390). Log entry 77 (DESIGN CHOICE). -/
def Dev.leaveLease (d : Dev) : Dev := d.returnLent.validLease false

/-- An EVICT notice (R389): the flag, event 2, the end of grace. -/
def Dev.notice (d : Dev) (n graceMs : Nat) : Dev :=
  let d := d.setPage n { d.page n with evict := true }
  let d := d.setInst n { d.inst n with graceEnd := some (d.now + graceMs * 1000000) }
  d.post n 2 graceMs 0

/-- Step 1 of the hand-over (R33): admission of requests stops, and every tenant that is not RESET_DONE already is given notice;
a notice already posted keeps its grace. Log entry 73 (DESIGN CHOICE). -/
def Dev.noticeAll (d : Dev) : Dev :=
  forEach d.tenants (fun n d =>
    let d := { d with serving := d.serving.adjust n fun sv => { sv with stopping := true } }
    if decide ((d.page n).state ≠ .resetDone) && !(d.page n).evict then d.notice n 250 else d) d

/-! ### PARK (R29) -/

/-- A kill at the power-gating: it does not count toward R224. Log entry 76 (DESIGN CHOICE). -/
def Dev.parkKill (d : Dev) (q seq : Nat) : Dev :=
  match d.cmd? q seq with
  | none => d
  | some c => (d.killRerun q seq .preempt).updCmd q seq fun x => { x with preempts := c.preempts }

/-- A region in a map store. -/
def Region.inStore (r : Region) : Bool := decide (0x4000000000 ≤ r.base) && decide (r.base < 0x4010000000)

/-- A graph run that has a live map when the dies are gated starts again from its first command (R29). -/
def Dev.restartRun (d : Dev) (gh k : Nat) : Dev :=
  match d.graph? gh with
  | none => d
  | some g =>
    let ex := if g.onFallback then g.fallback.getD gh else gh
    let n := ((d.graph? ex).map fun e => (e.runCmds ex k d.now).length).getD 0
    let rest := d.runRest g.queue ex k
    if decide (rest.length < n) && rest.any fun c => c.ins.any (·.inStore) then
      let d := { d with queues := d.queues.adjust g.queue fun x =>
        { x with window := x.window.filter fun c => !c.ofRun ex k, feed := x.feed.filter fun c => !c.ofRun ex k } }
      (d.dropRun g.queue ex k).submitRun gh ex k true
    else d

/-- A map store loses its contents. Log entry 29 (DESIGN CHOICE). -/
def Dev.loseStore (d : Dev) (die : Nat) : Dev :=
  { d with msMem := d.msMem.filter (fun c => storeOf c.1 ≠ die), msFree := d.msFree.put die d.freeCtr,
           freeCtr := d.freeCtr + 0x04000000 }

/-- A clock runs at its frequency. -/
def Dev.clkRun (d : Dev) (i khz : Nat) : Dev := ((d.setF (aClkStatus i) 23 0 khz).setB (aClkStatus i) 24 true).setB (aClkStatus i) 25 true

/-- A clock is stopped; its PLL stays locked or not. -/
def Dev.clkHalt (d : Dev) (i : Nat) : Dev := (d.setF (aClkStatus i) 23 0 0).setB (aClkStatus i) 24 false

/-- The top of a clock's range on this device: GXCLK's is fused (R2). -/
def Dev.clkMax (d : Dev) (i : Nat) : Nat := if i ≤ 3 ∧ d.fuse.variant = 0x0B then 1100000 else clkTop i

/-- Clocks with steps, as (step, bottom of the range) in kHz (R398). -/
def clkStep (i : Nat) : Option (Nat × Nat) :=
  if i ≤ 3 then some (25000, 250000) else if decide (5 ≤ i) && decide (i ≤ 7) || decide (i = 9) then some (100000, 400000)
  else if 10 ≤ i ∧ i ≤ 13 then some (1, 25000) else none

/-- The sensor site that throttles a clock (R462). -/
def clkSite (i : Nat) : Nat := if i = 9 then 71 else i + 63

/-- The steps by which the rind holds a clock down (R462). -/
def Dev.clkThrottle (d : Dev) (i : Nat) : Nat := if decide (i ∈ [5, 6, 7, 9]) then d.therm.lookD (clkSite i) 0 else 0

/-- The frequency that a request gives (R399), less what the rind throttles. Log entry 91 (DESIGN CHOICE). -/
def Dev.clkFor (d : Dev) (i req : Nat) : Nat :=
  match clkStep i with
  | some (st, lo) => max lo (min (d.clkMax i) (req / st * st) - d.clkThrottle i * st)
  | none => if i = 4 ∧ d.pers = .park then 500000 else clkTop i

/-- A clock that is neither gated nor stopped runs at its requested frequency. -/
def Dev.clkOn (d : Dev) (i : Nat) : Dev :=
  if d.getB (aClkCtrl i) 24 && decide (i ∉ [4, 8, 14, 15, 20, 21]) then d else d.clkRun i (d.clkFor i (d.getF (aClkCtrl i) 23 0))

/-- The power-gated dies are powered again, and their stacks leave self-refresh (R29, R398). -/
def Dev.powerDies (d : Dev) : Dev :=
  forUpTo 4 (fun n d =>
    if d.getF (aRstDomStatus (3 + n)) 2 0 = 4 then ((d.setF (aRstDomStatus (3 + n)) 2 0 0).clkOn n).clkOn (16 + n) else d) d

/-- The clocks of a power-gated die and of its stack port. -/
def Dev.gateClocks (d : Dev) (n : Nat) : Dev :=
  (((d.setF (aRstDomStatus (3 + n)) 2 0 4).clkHalt n).setB (aClkStatus n) 25 false).clkHalt (16 + n)

/-- The clocks of a personality besides those of the dies: MFCLK, and the clusters that are stopped in PARK (R26, R398). -/
def Dev.hubClocks (d : Dev) (p : Pers) : Dev :=
  if p = .park then ((d.clkRun 4 500000).clkHalt 6).clkHalt 7
  else (((d.clkRun 4 2000000).clkOn 6).clkOn 7)

/-- Register offsets of a compute die. -/
def inDie (n a : Nat) : Bool := decide (dieBase n ≤ a) && decide (a < dieBase (n + 1))

/-- Registers of a die that Sebry has as they were when the die is powered again: what it enables, the allocator's, and the
records of quarantined pairs (R29, R255). -/
def Dev.keptReg (d : Dev) (n a : Nat) : Bool :=
  let o := a - dieBase n
  (decide (0x100000 ≤ o) && decide (o < 0x110000) && decide (o % 0x1000 = 0)) ||
  (decide (0x200000 ≤ o) && decide (o < 0x210000) && decide (o % 0x400 = 0)) ||
  (decide (0x300000 ≤ o) && decide (o < 0x401000) && decide (o ≤ 0x400000)) ||
  (decide (0x500000 ≤ o) && decide (o < 0x500800) && decide (d.pairState (8 * n + (o - 0x500000) / 0x100) = 4))

/-- The registers of a die reset but for those that a test keeps. -/
def Dev.resetRegs (d : Dev) (n : Nat) (keep : Nat → Bool) : Dev :=
  { d with regs := d.regs.filter fun p => !inDie n p.1 || keep p.1 }

def Dev.hwDuty (d : Dev) (e : Nat) : Nat := d.getF (aGxDuty e) 3 0

/-- Cycles that a duty below 16/16 has cost an engine so far; how many is open (R477).
Log entry 26 (DESIGN CHOICE). -/
def Dev.dutyCount (d : Dev) (e : Nat) : Dev :=
  if min (d.getF (aGxDuty e) 11 8) (d.hwDuty e) < 15 then d.countFree 3 (16 * e + 15) else d

def Dev.setHwDuty (d : Dev) (e x : Nat) : Dev := (d.dutyCount e).setF (aGxDuty e) 3 0 x

/-- The HW_DUTY that the thermal rule allows an engine: its own site's steps and those of its die's other logic. -/
def Dev.thermDuty (d : Dev) (e : Nat) : Nat := 15 - (d.therm.lookD e 0 + d.therm.lookD (64 + e / 16) 0)

/-- A compute die loses what it holds: registers but for those kept, map store, operand buffers, codebook RAMs, cores and local
RAMs; its pairs reset to SPLIT, a quarantine excepted (R29, R255); no sweep has passed since.
Log entry 84 (DEDUCED). A pairing that it cuts off ends with E_STATE. Log entry 122 (DESIGN CHOICE). -/
def Dev.clearDie (d : Dev) (die : Nat) (keep : Nat → Bool) : Dev :=
  let quar := (List.range 8).filter fun i => decide (d.pairState (8 * die + i) = 4)
  let d := ((d.loseStore die).dmaResetDie die).resetRegs die keep
  -- the rind goes on to throttle, and Sebry's own duties are gone
  let d := { d with capBase := d.capBase.filter fun (p : Nat × Nat) => decide (p.1 / 16 ≠ die) }
  let d := forUpTo 16 (fun i d =>
    let e := 16 * die + i
    (((d.invalidate e).setF (aGxStatus e) 7 4 0).setHwDuty e (d.thermDuty e)).setUntested e true) d
  let d := forUpTo 64 (fun i d =>
    let v := 64 * die + i
    let d := d.setF (aVcStatus v) 7 4 0
    { d with vcs := d.vcs.put v { lramFree := some d.freeCtr }, freeCtr := d.freeCtr + 65536 }) d
  let d := (d.setF (aSortStatus die) 7 4 0).setUntested (64 + die) true
  -- a pairing or unpairing that the reset cuts off ends with E_STATE
  forUpTo 8 (fun i d =>
    let p := 8 * die + i
    if i ∈ quar then d.setPairState p 4 else (d.setPairState p 0).pairDone p .eState) d

/-- A compute die loses its power in PARK (R29). Log entry 76 (DESIGN CHOICE). Log entry 84 (DEDUCED). -/
def Dev.gateDie (d : Dev) (die : Nat) : Dev := d.clearDie die (d.keptReg die)

/-- No unit is subject to periodic test (R262). -/
def Dev.noTests (d : Dev) : Dev :=
  { d with tests := d.tests.map fun (t : Nat × TestState) => (t.1, { t.2 with subject := false }) }

/-- Entry to PARK (R29). Log entry 76 (DESIGN CHOICE). -/
def Dev.enterPark (d : Dev) : Dev :=
  let cs := d.allCmds.filter fun c => !c.2.isJob && decide (c.2.stage ≠ CmdStage.taken)
  let d := forEach cs (fun c d => d.parkKill c.1 c.2.seq) d
  let d := forEach d.running (fun r d => d.restartRun r.1 r.2) d
  let d := (forUpTo 4 (fun die d => (d.gateDie die).gateClocks die) d).hubClocks .park
  let d := { d.noTests with refRuns := [] }
  (d.enter .park false).loadPers

/-- Entry to LEASE (R28): every group with TWIN is suspended, and its pairs that have joined since PARK are split. -/
def Dev.enterLease (d : Dev) : Dev :=
  let d := { d with egs := d.egs.map fun (g : Nat × EngineGroup) => (g.1, if g.2.twin then { g.2 with suspended := true } else g.2) }
  let d := forEach ((d.egs.filter (·.2.twin)).flatMap fun g => g.2.pairList) (fun p d => d.beginSplit p) d
  ((d.validLease true).enter .lease false).loadPers.settle

def Dev.enterService (d : Dev) : Dev := (d.enter .service false).loadPers.settle

/-! ### Units under periodic test (R262) -/

/-- The pairs of a group, members and spares, as a mask. -/
def EngineGroup.pairsMask (g : EngineGroup) : Nat := maskOf g.pairList

/-- Units become subject to periodic test, UNTESTED until their first sweep passes, or cease to be. -/
def Dev.markSubjects (d : Dev) : Dev :=
  let us := d.testUnits
  let d := { d with tests := d.tests.map fun (t : Nat × TestState) => (t.1, { t.2 with subject := t.2.subject && decide (t.1 ∈ us) }) }
  forEach us (fun u d =>
    let x := d.testSt u
    if x.subject then d
    else (d.setUntested u true).setTest u { x with subject := true, since := d.now, lastEnd := d.now, next := 0, retry := false }) d

/-- Tests have deadlines in DRIVE and from step 5 of a change to DRIVE on. -/
def Dev.testing (d : Dev) : Bool :=
  match d.trans with
  | none => decide (d.pers = .drive)
  | some x => decide (d.pers = .drive) || (decide (x.dst = .drive) && x.steps.any fun s => s.1 = 4)

/-! ### The change to DRIVE (R33) -/

def Transition.did (x : Transition) (n : Nat) : Bool := x.steps.any fun s => s.1 = n

/-- A step of the transition is complete. -/
def Dev.stepDone (d : Dev) (n : Nat) : Dev :=
  match d.trans with
  | some x => if x.did n then d else { d with trans := some { x with steps := x.steps ++ [(n, d.now)] } }
  | none => d

def Dev.did (d : Dev) (n : Nat) : Bool := d.trans.any (·.did n)

/-- Step 4 begins: the groups are resumed and their SPLIT pairs begin to pair (R28). -/
def Dev.beginJoins (d : Dev) : Dev :=
  let ps := (d.egs.filter (·.2.twin)).flatMap fun g => g.2.pairList
  let d := { d with egs := d.egs.map fun (g : Nat × EngineGroup) => (g.1, { g.2 with suspended := false, refOk := false }) }
  forEach ps (fun p d => d.beginJoin p) d

/-- No unit of the SAFETY groups is still in its first sweep. -/
def Dev.sweepsOver (d : Dev) : Bool :=
  d.testUnits.all fun u =>
    !d.untested u || (d.testSt u).withdrawn || (d.testSt u).disabled || (decide (u < 64) && decide (d.pairState (u / 2) = 4))

/-- The steps that have become complete are recorded, and what they start is started.
Log entries 20 (DESIGN CHOICE), 77 (DESIGN CHOICE), 152 (DEDUCED). -/
def Dev.advanceTrans (d : Dev) : Dev :=
  match d.trans with
  | none => d
  | some x =>
    let d := if x.src = .lease && !x.did 3 && d.tenantsGone then
        let d := ((d.stepDone 2).stepDone 3).leaveLease
        if x.dst = .drive then d.beginJoins else d
      else d
    if x.dst ≠ .drive then d else
    if x.src = .lease && !d.did 3 then d else
    let joining := (d.egs.filter (·.2.twin)).any fun g => g.2.pairList.any fun p => decide (d.pairState p = 1)
    let d := if !d.did 4 && !joining then (d.stepDone 4).markSubjects else d
    -- a pending swap completes before the configuration is loaded (R39); at a boot the configuration that a bank holds already stays
    let d := if d.did 4 && !d.did 5 && d.sweepsOver then
        if !d.reported && d.swapsTo .drive then d.stepDone 5
        else if d.getB aWhlCtrl 1 then d
        else if !d.reported && d.wheelIs .drive then (d.stepDone 5).stepDone 6
        else (d.stepDone 5).loadStep .drive
      else d
    -- no configuration is held for DRIVE, so no swap is awaited
    if d.did 5 && !d.did 6 && (d.wheels.look 0).isNone then d.stepDone 6 else d

/-- A set-up command of the manager has completed. During a boot to DRIVE, what the steps of the hand-over ask is then looked at again
for what is now defined (R426). Log entry 152 (DEDUCED). -/
def Dev.setupDone (d : Dev) : Dev :=
  match d.trans with
  | some x =>
    if d.reported then d
    else (({ d with setupT := d.now, trans := some { x with steps := [] } } : Dev).advanceTrans).settle
  | none => if d.pers = .drive then d.markSubjects else d

/-- Power and clocks come back before a change out of PARK. -/
def Dev.leavePark (d : Dev) : Dev := d.powerDies.hubClocks .drive

/-- A change to DRIVE begins. -/
def Dev.toDrive (d : Dev) (src : Pers) (steps : List (Nat × Nat)) : Dev :=
  let d := (d.preTrans .drive).leavePark
  let d := { d with trans := some { src, dst := .drive, t0 := d.now, steps } }
  let d := if src = .lease then (d.noticeAll).stepDone 1 else d.beginJoins
  d.advanceTrans.settle

/-! ### DRIVE ready (R33 step 7, R36) -/

/-- The group has its configured pairs, all in the pool, and a healthy spare. -/
def Dev.groupWhole (d : Dev) (n : Nat) (g : EngineGroup) : Bool :=
  ((List.range 32).all fun p => !bitOf g.engines (2 * p) || d.pairHealthy p) && (d.healthySpare n).isSome

/-- Some graph of the group has a reference block (R271). -/
def Dev.hasRef (d : Dev) (n : Nat) : Bool := d.graphs.any fun g => decide (g.2.eg = n) && g.2.ref.isSome

/-- A group that was reported DEGRADED is restored once it is whole and has passed a reference run (R276, code 12).
Log entry 71 (DESIGN CHOICE). -/
def Dev.restoreCheck (d : Dev) : Dev :=
  forEach d.safetyGroups (fun g d =>
    if decide ((12, g.1) ∈ d.held) && d.groupWhole g.1 g.2 && d.hasRef g.1 && g.2.refOk then d.endCond 12 g.1 else d) d

/-- The pipelines of a group that could not be made whole start on their fall-backs (R36). -/
def Dev.fallbackGroup (d : Dev) (n : Nat) : Dev :=
  forEach d.graphs (fun p d =>
    match d.graph? p.1 with
    | some g =>
      if g.eg = n ∧ g.fallback.isSome ∧ !g.onFallback then
        ((d.setGraph p.1 { g with onFallback := true, goodRuns := 0 }).countInst g.inst 16).report 8 p.1
      else d
    | none => d) d

/-- The subject under which the model holds R439's DEGRADED: no engine group is its cause. -/
def fusedSubject : Nat := 255

/-- DRIVE ready is reported, with DEGRADED where a SAFETY group is not whole or never passes a reference run.
Log entry 71 (DESIGN CHOICE). -/
def Dev.driveReady (d : Dev) : Dev :=
  match d.trans with
  | none => d
  | some x =>
    if x.dst ≠ .drive || !x.did 6 then d else
    let bad := d.safetyGroups.filter fun g => !d.groupWhole g.1 g.2 || !d.hasRef g.1
    let waits := d.safetyGroups.any fun g => d.groupWhole g.1 g.2 && d.hasRef g.1 && !g.2.refOk
    -- a boot is a change from SLEEP, whose bound follows the last set-up command (R426)
    let limit := if x.src = .park then x.t0 + 400000000
      else if x.src = .sleep then max (x.t0 + 1500000000) (d.setupT + 400000000)
      else x.t0 + 1500000000
    if waits && decide (d.now < limit) then d else
    let bad := bad ++ d.safetyGroups.filter fun g => d.groupWhole g.1 g.2 && d.hasRef g.1 && !g.2.refOk
    -- VI open by fuse degrades every DRIVE (R439)
    let fused := bitOf d.fuseOpen 0
    let d := ((d.stepDone 7).enter .drive (!bad.isEmpty || fused)).loadDirty
    let d := if fused && !(decide ((12, fusedSubject) ∈ d.held)) then d.report 12 fusedSubject else d
    let d := forEach bad (fun g d => (d.report 12 g.1).fallbackGroup g.1) d
    (d.persDone 0).settle

/-- DRIVE_READY (R33, R34, R36). -/
def execDriveReady (t : Nat) (s : State) : Host.Outcome State Fault Refusal := s.act t Dev.driveReady

end Sys2Proof.Machine
end

