-- ==== Sys2Proof/Machine/Slots.lean ====
section
/-! DEFINITION. The wheel in time: slot boundaries (R41, R42), period boundaries and swaps (R40), reference runs
(R269 to R271), and commands that overrun (R86). -/

namespace Sys2Proof.Machine

/-! ### Reference runs (R269) -/

/-- The group of a pair, as member or as spare. -/
def Dev.groupOfPair (d : Dev) (p : Nat) : Option Nat :=
  match d.memberOf p with
  | some g => some g
  | none => d.spareOf p

/-- Reference runs of the slot that begins: of every pair it names that is TWINNED, tested and not withdrawn. -/
def Dev.startRefs (d : Dev) : Dev :=
  let runs := (maskBits d.checkMask 32).flatMap fun p =>
    if d.pairHealthy p then
      match d.groupOfPair p with
      | some g => (d.refGraphs g).map fun h => (p, h)
      | none => []
    else []
  forEach (runs.map (·.1)).eraseDups (fun p d => d.beginPair p) { d with refRuns := d.refRuns ++ runs }

/-- Reference runs that have not passed step 2 by the end of their slice count as failed (R270). Runs outside a slice
are those of withdrawn pairs. -/
def Dev.endRefs (d : Dev) : Dev :=
  let late := (List.range 32).filter fun p => d.refRuns.any (fun x => decide (x.1 = p)) && !(d.pairSt p).refWithdrawn
  forEach late (fun p d => d.refFail p) d

/-! ### Slots (R41, R42) -/

/-- A running command that the slot in force does not allow: its group is not granted, as no group is while the wheel does not
run (R43), or an engine of it belongs to a pair of the check slice. -/
def Dev.ungranted (d : Dev) (q : Nat) (c : Cmd) : Bool :=
  decide (c.stage = CmdStage.dispatched) && !c.isJob && decide (c.engines ≠ []) &&
  (!d.whlEn || !(d.slotW 1).bit (((d.ctx? (d.ctxOfQ q)).map (·.eg)).getD 0) || c.engines.any fun e => bitOf d.checkMask (e / 2))

/-- A slot begins: its profile, the kills at the boundary, its reference runs, and the scheduler's pass. -/
def Dev.enterSlot (d : Dev) (slot : Nat) : Dev :=
  let d := (d.endRefs).setF aWhlStatus 13 8 slot
  let d := d.setProfile d.wheelProfile
  let cs := d.allCmds.filter fun c => d.ungranted c.1 c.2
  let d := forEach cs (fun c d => d.killRerun c.1 c.2.seq .boundary) d
  let d := if cs.isEmpty then d else d.setB aWhlStatus 17 true
  d.startRefs.settle

/-- The slot in force at the present time. -/
def Dev.slotNow (d : Dev) : Nat :=
  let b := d.whlBank
  (List.range (d.whlN b)).foldl (fun m s => if d.epoch + d.whlStart b s ≤ d.now then s else m) 0

/-- SLOT_BOUNDARY (R41). -/
def Dev.slotBoundary (d : Dev) : Dev :=
  if !d.whlEn then d
  else if d.slotNow = d.whlSlot then d else d.enterSlot d.slotNow

def execSlotBoundary (t : Nat) (s : State) : Host.Outcome State Fault Refusal := s.act t Dev.slotBoundary

/-! ### Periods and swaps (R40) -/

/-- The amended wheel is in force: REF_FAIL of the pairs whose spares it names ends (R271). -/
def Dev.endRefFails (d : Dev) : Dev :=
  forUpTo 32 (fun p d =>
    let x := d.pairSt p
    if x.refHeld && x.home.isSome then (d.setPairSt p { x with refHeld := false }).endCond 6 p else d) d

/-- The present time is a period boundary of the bank that a swap makes active. -/
def Dev.newBoundary (d : Dev) : Bool :=
  let per := d.whlNs (1 - d.whlBank)
  let ph := d.pair aWhlPhaseLo aWhlPhaseHi
  decide (0 < per) && decide (((d.now : Int) - ph) % per = 0)

/-- The bank swap. -/
def Dev.swapBank (d : Dev) : Dev :=
  let clean := !d.wheelDirty
  let d := d.setF aWhlStatus 0 0 (1 - d.whlBank)
  let d := (d.setB aWhlCtrl 1 false).setB aWhlStatus 1 false
  let d := d.setPair aWhlEpochLo aWhlEpochHi d.now
  let d := d.enterSlot 0
  let d := if clean then d.endRefFails else d
  (if d.did 5 then d.stepDone 6 else d).advanceTrans.loadDirty

/-- t2 of R40: the new bank's first boundary at or after t1, the old bank's first boundary after the swap was requested. -/
def Dev.swapAt (d : Dev) : Nat :=
  let t1 := boundaryFrom d.epoch (d.whlNs d.whlBank) (d.swapT + 1)
  boundaryFrom (d.pair aWhlPhaseLo aWhlPhaseHi) (d.whlNs (1 - d.whlBank)) t1

/-- PERIOD_BOUNDARY (R40): with a pending swap the new bank takes over at its own first boundary at or after the end of
the old period; without one a new period of the bank in force begins. -/
def Dev.periodBoundary (d : Dev) : Dev :=
  let per := d.whlNs d.whlBank
  let due := decide (d.epoch + per ≤ d.now)
  if d.getB aWhlStatus 1 then
    if d.newBoundary && decide (d.swapAt ≤ d.now) then d.swapBank else d
  else if d.whlEn && due && decide (0 < per) && decide ((d.now - d.epoch) % per = 0) then
    (d.setPair aWhlEpochLo aWhlEpochHi d.now).enterSlot 0
  else d

def execPeriodBoundary (t : Nat) (s : State) : Host.Outcome State Fault Refusal := s.act t Dev.periodBoundary

/-! ### Results of reference runs (R269, R271) -/

/-- A reference run passes: its group has had its first (R33 step 7). For a withdrawn pair the run of item 4 restores
it as the group's spare, if its sweep has passed too. -/
def Dev.refPass (d : Dev) (p g : Nat) : Dev :=
  let d := ({ d with refRuns := d.refRuns.filter (· ≠ (p, g)) } : Dev).beginPair p
  let x := d.pairSt p
  if x.refWithdrawn then
    if x.sweepOk && !x.dead then
      let d := d.setPairSt p { x with refWithdrawn := false, sweepOk := false, refHeld := false }
      (if x.refHeld then d.endCond 6 p else d).backAsSpare p
    else d
  else
    match d.groupOfPair p with
    | some n => { d with egs := d.egs.adjust n fun e => { e with refOk := true } }
    | none => d

/-- REF_A and REF_B of the records of a pair's run (R269). -/
def PairState.refA (x : PairState) : Dword := sigA (x.sigs.map (·.1))
def PairState.refB (x : PairState) : Dword := sigB (x.sigs.map (·.2))

/-- REFERENCE_RUN_RESULT (R271): the pair's reference run of this graph has passed step 2, and its signatures, with the bits that a fault
has changed in them, are compared with the expected values of the graph's block. -/
def Dev.refResult (d : Dev) (p g : Nat) (flipA flipB : Dword) : Dev :=
  match (d.graph? g).bind (·.ref) with
  | none => d
  | some r =>
    let x := d.pairSt p
    if d.refOf p = some g ∧ 0 ∈ x.closed then
      (if x.refA ^^^ flipA = r.expA ∧ x.refB ^^^ flipB = r.expB then (d.refPass p g).restoreCheck else d.refFail p).settle
    else d

def execReferenceRunResult (pair : Fin 32) (graph : Nat) (flipA flipB : Dword) (t : Nat) (s : State) : Host.Outcome State Fault Refusal :=
  s.act t fun d => d.refResult pair.val graph flipA flipB

/-! ### Overrun (R86) -/

/-- OVERRUN_KILL: a command unpressed 4 × CMDLEN after its latest dispatch. -/
def Dev.overrunKill (d : Dev) (q seq : Nat) : Dev :=
  match d.cmd? q seq with
  | none => d
  | some c =>
    let len := ((d.ctx? (d.ctxOfQ q)).map (·.cmdlen)).getD 1000
    if c.stage ≠ .taken ∧ c.dispT + 4000 * len ≤ d.now then (d.teardown (d.ctxOfQ q) 6).settle else d

def execOverrunKill (q : QId) (seq : Word) (t : Nat) (s : State) : Host.Outcome State Fault Refusal :=
  s.act t fun d => d.overrunKill q.val seq.toNat

end Sys2Proof.Machine
end

