-- ==== Sys2Proof/Machine/Vec.lean ====
section
/-! DEFINITION. Vector cores and shader cores (R157 to R178): the Tolgesko instructions, traps, the end of a kernel
and the reset of a core. -/

namespace Sys2Proof.Machine

/-! ### Registers of a core -/

/-- Log entry 5 (DESIGN CHOICE). -/
def Dev.core (d : Dev) (k : Nat) : VCore := d.vcs.lookD k {}
def Dev.setCore (d : Dev) (k : Nat) (c : VCore) : Dev := { d with vcs := d.vcs.put k c }

/-- x[i]; x0 reads 0. -/
def VCore.xr (c : VCore) (i : Nat) : Dword := if i = 0 then 0 else c.x.lookD i 0
/-- A write of x[i]; a write of x0 is discarded. -/
def VCore.setX (c : VCore) (i : Nat) (w : Dword) : VCore := if i = 0 then c else { c with x := c.x.put i w }

/-- The vector register r mod 32. -/
def VCore.vr (c : VCore) (r : Nat) : Nat := (c.v.lookD (r % 32) 0).toNat

/-- Element i of the register group that starts at `r`, of `w` bits. -/
def VCore.el (c : VCore) (r w i : Nat) : Nat := c.vr (r + i / (512 / w)) / 2 ^ (w * (i % (512 / w))) % 2 ^ w

/-- An FP32 element as a value. -/
def VCore.fe (c : VCore) (r i : Nat) : Ext := fp32.decode (c.el r 32 i)

/-- Element i of a group written. -/
def VCore.setEl (c : VCore) (r w i n : Nat) : VCore :=
  let k := (r + i / (512 / w)) % 32
  let sh := 2 ^ (w * (i % (512 / w)))
  let old := c.vr k
  let new := old - old / sh % 2 ^ w * sh + n % 2 ^ w * sh
  { c with v := c.v.put k (BitVec.ofNat 512 new) }

/-- LMUL × 8, from vtype. -/
def VCore.lmul8 (c : VCore) : Nat :=
  let l := c.vtype.toNat % 8
  if l ≤ 3 then 8 * 2 ^ l else if l = 4 then 8 else 2 ^ (l - 5)

def VCore.vill (c : VCore) : Bool := bitOf c.vtype.toNat 63
def VCore.vma (c : VCore) : Bool := bitOf c.vtype.toNat 7
def VCore.vta (c : VCore) : Bool := bitOf c.vtype.toNat 6
/-- SEW = 32. -/
def VCore.sew32 (c : VCore) : Bool := decide (bitsOf c.vtype.toNat 5 3 = 2)

/-- An active element (R162): unmasked, or its bit of v0 is 1. -/
def VCore.active (c : VCore) (i : Nat) (k : Nat) : Bool := decide (i = 1) || bitOf (c.vr 0) k

/-- The elements of a destination group of EEW `w`: LMUL × w ÷ 32 registers, at least one. -/
def VCore.destLen (c : VCore) (w : Nat) : Nat := max 1 (c.lmul8 * w / 256) * (512 / w)

/-- A byte of the local data RAM. -/
def VCore.ram (c : VCore) (a : Nat) : Byte :=
  match c.lram.find? (·.1 = a), c.lramFree with
  | some p, _ => p.2
  | none, some k => Config.freeByte (k + a)
  | none, none => 0

/-- A result group written: `vals i` is the value of element i, if the instruction gives it one. Elements of the
body without one follow vma and elements from `body` on follow vta: undisturbed, or, where agnostic, undisturbed
or all ones, which is a free choice (R162). The core and the number of draws. Log entry 47 (DESIGN CHOICE). -/
def VCore.writeGroup (c : VCore) (vd w body : Nat) (vals : Nat → Option Nat) (free : Nat) : VCore :=
  let n := c.destLen w
  forUpTo n (fun i (acc : VCore) =>
    match (if i < body then vals i else none) with
    | some x => acc.setEl vd w i x
    | none =>
      let agn := if i < body then c.vma else c.vta
      if agn && decide (Config.freeNat (free + i) % 2 = 1) then acc.setEl vd w i (2 ^ w - 1) else acc) c

/-- VQCLIP counts and saturates; VQSTAT.SPECIAL is sticky (R166). -/
def VCore.clip (c : VCore) (n : Nat) (special : Bool) : VCore :=
  { c with vqclip := BitVec.ofNat 64 (min (c.vqclip.toNat + n) (2 ^ 64 - 1)),
           vqstat := if special then c.vqstat ||| 1 else c.vqstat }

/-! ### Running and trapping -/

/-- The engine of a vector core, and the command that holds it. -/
def Dev.cmdOnEngine (d : Dev) (e : Nat) : Option (Nat × Cmd) := d.allCmds.find? fun p => decide (e ∈ p.2.engines)

/-- The command or job that a core runs. -/
def Dev.cmdOnCore (d : Dev) (k : Nat) : Option (Nat × Cmd) := if k < 256 then d.cmdOnEngine (k / 4) else d.gfxRunning

/-- A core executes instructions: STATE is RUN, or the graphics unit runs a job. -/
def Dev.coreRuns (d : Dev) (k : Nat) : Bool :=
  if k < 256 then decide (d.getF (aVcStatus k) 7 4 = 1) else d.gfxRunning.isSome

/-- The registers and the counter of a trap (R171, R177), in the graphics unit's registers for a shader core (R322). -/
def Dev.trapRegs (d : Dev) (k cause pc : Nat) : Dev :=
  if k < 256 then
    ((d.setPair (aVcTrapLo k) (aVcTrapHi k) pc).setF (aVcCause k) 5 0 cause).count 0x03 (16 * (k / 4) + 12) 1
  else d

/-- What a trap that ends a command adds: the error bit and the log entry (R171, R322, R507). -/
def Dev.trapEnds (d : Dev) (k cause pc : Nat) : Dev :=
  (if k < 256 then d.setB (aVcErr k) 3 true else d.setB aGfxErr 1 true).logE 3 0 k pc cause

/-- The trap in the core, as the RISC-V privileged architecture takes it to M mode (R157, R171): mepc and mcause, mstatus with
MPIE the old MIE, MIE 0 and MPP the old mode, and the pc at mtvec's base. mtval is a free value. Log entry 131 (PRESUMED). -/
def VCore.trap (c : VCore) (cause pc free : Nat) : VCore :=
  let st := (c.mstatus &&& ~~~ (0x1888#64)) ||| (if c.mstatus.getLsbD 3 then 0x80#64 else 0) ||| (if c.user then 0 else 0x1800#64)
  { c with user := false, mstatus := st, mepc := BitVec.ofNat 64 pc, mcause := BitVec.ofNat 64 cause,
           mtval := BitVec.ofNat 64 (Config.freeNat free), pc := c.mtvec &&& ~~~ (3#64), wait := none }

/-- A core traps: its STATE reads TRAP until the runtime has acted. Log entry 131 (PRESUMED). -/
def Dev.coreTraps (d : Dev) (k cause pc : Nat) : Dev :=
  let d := { d with freeCtr := d.freeCtr + 1 }.setCore k ((d.core k).trap cause pc d.freeCtr)
  if k < 256 then d.setF (aVcStatus k) 7 4 3 else d

/-- A trap that tears the command's context down (R171). -/
def Dev.trapFault (d : Dev) (k cause pc code : Nat) : Dev :=
  let c := d.cmdOnCore k
  let d := ((d.trapRegs k cause pc).trapEnds k cause pc).coreTraps k cause pc
  match c with
  | some p => (d.teardown (d.ctxOfQ p.1) code).settle
  | none => d

/-- R121 for the accumulator, the codebook RAM and a core's local RAM: a command that runs twinned is re-run on a
spare pair as after a mismatch, else its context is torn down with POISON; the engine becomes UNTESTED. -/
def Dev.engineUe (d : Dev) (e : Nat) : Dev :=
  let c := d.cmdOnEngine e
  let d := d.markUntested e
  match c with
  | none => d
  | some p =>
    if d.twinnedQ p.1 then d.finding (e / 2) findMismatch
    else (d.teardown (d.ctxOfQ p.1) 5).settle

/-- An illegal instruction, a misaligned load, an access fault (mcause 2, 4, 5). -/
def Dev.illegal (d : Dev) (k : Nat) : Dev := d.trapFault k 2 (d.core k).pc.toNat 4

/-- A Tolgesko instruction runs on a core that runs: it retires with the pc past it, or it traps.
Log entry 47 (DESIGN CHOICE). -/
def Dev.vecStep (d : Dev) (k : Nat) (ok : Bool) (f : VCore → Nat → VCore) (draws : Nat) : Dev :=
  if !d.coreRuns k then d
  else if !ok then d.illegal k
  else
    let c := f (d.core k) d.freeCtr
    { d.setCore k { c with pc := c.pc + 4 } with freeCtr := d.freeCtr + draws }

/-- Draws that one instruction may take: one per destination element, and one for the flags. -/
def vecDraws : Nat := 1024

/-- What every vector instruction of R162 requires. Log entry 47 (DESIGN CHOICE). -/
def VCore.vecOk (c : VCore) : Bool := !c.vill && c.sew32 && decide (c.vstart = 0)

/-- The exception flags accrue (R158); which of them a Tolgesko instruction raises is not stated. -/
def VCore.flags (c : VCore) (free : Nat) : VCore :=
  { c with fflags := Nat.lor c.fflags (Config.freeNat (free + vecDraws - 1) % 32) }

/-- The smaller, larger and absolute values as FP32 patterns, the first of equals kept (R163). -/
def rstat (c : VCore) (vs2 vl vm lo hi am : Nat) : Nat × Nat × Nat :=
  let acc := (List.range vl).foldl (fun (a : Bool × Nat × Nat × Nat) i =>
    if !c.active vm i then a else
    let x := c.el vs2 32 i
    let v := fp32.decode x
    if v.isNan then (true, a.2) else
    (a.1, (if v.lt (fp32.decode a.2.1) then x else a.2.1),
      (if (fp32.decode a.2.2.1).lt v then x else a.2.2.1),
      (if (fp32.decode a.2.2.2).lt v.abs then x % 2 ^ 31 else a.2.2.2)))
    ((fp32.decode lo).isNan || (fp32.decode hi).isNan || (fp32.decode am).isNan, lo, hi, am)
  if acc.1 then (0x7FC00000, 0x7FC00000, 0x7FC00000) else acc.2

/-- VRSTAT.VS (R163). -/
def VCore.vrstat (c : VCore) (vd vs2 vm free : Nat) : VCore :=
  let r := rstat c vs2 c.vl vm (c.el vd 32 0) (c.el vd 32 1) (c.el vd 32 2)
  let c := ((c.setEl vd 32 0 r.1).setEl vd 32 1 r.2.1).setEl vd 32 2 r.2.2
  let c := forUpTo 13 (fun i (a : VCore) =>
    if c.vta && decide (Config.freeNat (free + i) % 2 = 1) then a.setEl vd 32 (i + 3) (2 ^ 32 - 1) else a) c
  c.flags free

/-- The bits of a Bool field of an instruction as the number that `active` takes. -/
def vmN (i : VIns) : Nat := b2n i.vm

def execVrstat (core : Fin 288) (i : VIns) (t : Nat) (s : State) : Host.Outcome State Fault Refusal :=
  s.act t fun d => d.vecStep core.val
    ((d.core core.val).vecOk && decide (i.funct3.val = 0) && decide (i.rs1.val = 0))
    (fun c free => c.vrstat i.vd.val i.vs2.val (vmN i) free) vecDraws

/-- The number of registers of a group of LMUL. -/
def VCore.groupRegs (c : VCore) : Nat := max 1 (c.lmul8 / 8)

/-- Two groups of EEW 32 share a register. -/
def VCore.overlap (c : VCore) (a b : Nat) : Bool := rangesMeet a c.groupRegs b c.groupRegs

def isPow2 (n : Nat) : Bool := decide (n ≠ 0) && decide (2 ^ Nat.log2 n = n)

/-- The conditions of VSEGSUM (R164). -/
def VCore.segOk (c : VCore) (vd vs2 l : Nat) : Bool :=
  isPow2 l && decide (c.vl % l = 0) && !c.overlap vd vs2

/-- VSEGSUM.VX (R164). -/
def VCore.vsegsum (c : VCore) (vd vs2 l vm : Nat) (int : Bool) (free : Nat) : VCore :=
  let act (j : Nat) : List Nat := ((List.range l).map (j * l + ·)).filter (c.active vm)
  let sum (j : Nat) : Nat :=
    if int then ((act j).foldl (fun n i => n + c.el vs2 32 i) 0) % 2 ^ 32
    else (act j).foldl (fun (n : Nat) i => fp32.rne ((fp32.decode n).add (c.fe vs2 i))) 0
  let n := c.vl / l
  let r := c.writeGroup vd 32 n (fun j => some (sum j)) free
  if int then r else r.flags free

def execVsegsum (core : Fin 288) (i : VIns) (t : Nat) (s : State) : Host.Outcome State Fault Refusal :=
  s.act t fun d =>
    let c := d.core core.val
    d.vecStep core.val
      (c.vecOk && decide (i.funct3.val ≤ 1) && c.segOk i.vd.val i.vs2.val (c.xr i.rs1.val).toNat)
      (fun c free => c.vsegsum i.vd.val i.vs2.val (c.xr i.rs1.val).toNat (vmN i) (decide (i.funct3.val = 1)) free) vecDraws

/-- VHBFLY.VX (R165). -/
def VCore.vhbfly (c : VCore) (vd vs2 h free : Nat) : VCore :=
  let val (i : Nat) : Nat :=
    if i % (2 * h) < h then fp32.rne ((c.fe vs2 i).add (c.fe vs2 (i + h)))
    else fp32.rne ((c.fe vs2 (i - h)).sub (c.fe vs2 i))
  (c.writeGroup vd 32 c.vl (fun i => some (val i)) free).flags free

def VCore.bflyOk (c : VCore) (vd vs2 h : Nat) : Bool :=
  isPow2 h && decide (c.vl % (2 * h) = 0) && (decide (vd = vs2) || !c.overlap vd vs2)

def execVhbfly (core : Fin 288) (i : VIns) (t : Nat) (s : State) : Host.Outcome State Fault Refusal :=
  s.act t fun d =>
    let c := d.core core.val
    d.vecStep core.val
      (c.vecOk && decide (i.funct3.val = 0) && i.vm && c.bflyOk i.vd.val i.vs2.val (c.xr i.rs1.val).toNat)
      (fun c free => c.vhbfly i.vd.val i.vs2.val (c.xr i.rs1.val).toNat free) vecDraws

/-- One element of VQSCALE (R167): the byte, the clip mark, SPECIAL. -/
def VCore.quant (c : VCore) (f3 : Nat) (v : Ext) : Nat × Bool × Bool :=
  let p := c.vqparam.toNat
  if f3 = 5 then
    let r := e4m3.encode v 0 0
    (r.1, r.2, false)
  else if f3 ≤ 1 then
    let s := bitsOf p 15 0
    if !v.isFin || !(fp16.decode s).isFin then (0, false, true) else
    let q := if f3 = 0 then qRange 8 else qRange 9
    let r := encAffine v s (sext 8 (bitsOf p 23 16)) q.1 q.2 0 0
    (ofInt 8 r.1, r.2, false)
  else
    let x := bitsOf p 31 24
    if !v.isFin || decide (x = 255) then (0, false, true) else
    let f := if f3 = 2 then e2m1 else if f3 = 3 then e2m3 else e3m2
    let r := f.encode (v.div (e8m0 x)) 0 0
    (r.1, r.2, false)

/-- A conversion of every active element to a byte, with the clip marks counted. -/
def VCore.convert (c : VCore) (vd vs2 vm : Nat) (f : Ext → Nat × Bool × Bool) (free : Nat) : VCore :=
  let rs := (List.range c.vl).map fun i => if c.active vm i then some (f (c.fe vs2 i)) else none
  let got := rs.filterMap id
  let c' := c.writeGroup vd 8 c.vl (fun i => ((rs.getD i none).map (·.1))) free
  (c'.clip (got.filter (·.2.1)).length (got.any (·.2.2))).flags free

/-- VQSCALE.V (R167). -/
def execVqscale (core : Fin 288) (i : VIns) (t : Nat) (s : State) : Host.Outcome State Fault Refusal :=
  s.act t fun d => d.vecStep core.val
    ((d.core core.val).vecOk && decide (i.funct3.val ≤ 5) && decide (i.rs1.val = 0))
    (fun c free => c.convert i.vd.val i.vs2.val (vmN i) (c.quant i.funct3.val) free) vecDraws

/-- One element of VCBNEAR (R168). -/
def VCore.near (c : VCore) (f3 : Nat) (book : List Ext) (v : Ext) : Nat × Bool × Bool :=
  if f3 = 2 then
    let p := c.vqparam.toNat
    let s := fp16.decode (bitsOf p 15 0)
    let z := Ext.ofInt (sext 8 (bitsOf p 23 16))
    if !v.isFin || !s.isFin then (0, false, true) else
    let r := encCb (if s.isZero then z else (v.div s).add z) book
    (r.1, r.2, false)
  else
    let r := encCb v book
    (r.1, r.2, false)

/-- The codebook in the local data RAM at an address. -/
def VCore.bookAt (c : VCore) (a n : Nat) : List Ext := (List.range n).map fun i => e4m3.decode (c.ram (a + i)).toNat

/-- VCBNEAR.VX (R168): a codebook that is not 256-byte aligned raises a misaligned-load exception; one that does
not lie in the local data RAM an access fault (R160). -/
def execVcbnear (core : Fin 288) (i : VIns) (t : Nat) (s : State) : Host.Outcome State Fault Refusal :=
  s.act t fun d =>
    let k := core.val
    let c := d.core k
    let a := (c.xr i.rs1.val).toNat
    let ok := c.vecOk && decide (i.funct3.val ≤ 2)
    if d.coreRuns k && ok && decide (a % 256 ≠ 0) then d.trapFault k 4 c.pc.toNat 4
    else if d.coreRuns k && ok && decide (0x10000 ≤ a) then d.trapFault k 5 c.pc.toNat 4
    else
      let n := if i.funct3.val = 0 then 256 else 16
      d.vecStep k ok (fun c free => c.convert i.vd.val i.vs2.val (vmN i) (c.near i.funct3.val (c.bookAt a n)) free) vecDraws

/-! ### MSWAIT (R169) -/

/-- The flag satisfies the condition. -/
def msOk (flag ref : Word) : Bool := decide ((flag - ref).toNat < 2 ^ 31)

/-- A flag's address: 4-byte aligned, in a map store window, in a region of the running command. -/
def Dev.flagOk (d : Dev) (k a : Nat) : Bool :=
  decide (a % 4 = 0) && decide (0x4000000000 ≤ a) && decide (a < 0x4010000000) &&
  (match d.cmdOnCore k with
   | some p => (p.2.ins ++ p.2.outs).any fun r => decide (r.base ≤ a) && decide (a + 4 ≤ r.base + r.len)
   | none => false)

/-- The wait retires: the flag to rd, the pc past the instruction. -/
def VCore.msRetire (c : VCore) (rd : Nat) (flag : Word) : VCore :=
  let c := c.setX rd (BitVec.ofNat 64 flag.toNat)
  { c with wait := none, pc := c.pc + 4 }

/-- MSWAIT: a shader core does not implement it (R159). -/
def execMswait (core : Fin 288) (i : VIns) (t : Nat) (s : State) : Host.Outcome State Fault Refusal :=
  s.act t fun d =>
    let k := core.val
    let c := d.core k
    let a := (c.xr i.rs1.val).toNat
    let ref := BitVec.ofNat 32 (c.xr i.vs2.val).toNat
    if !d.coreRuns k then d
    else if !(decide (k < 256) && decide (i.funct3.val = 7) && i.vm) then d.illegal k
    else if !d.flagOk k a then d.trapFault k 5 c.pc.toNat 4
    else
      let flag := d.rd32 a
      if msOk flag ref then d.setCore k (c.msRetire i.vd.val flag)
      else (d.setCore k { c with wait := some (i.vd.val, a, ref) }).setF (aVcStatus k) 7 4 2

/-- MSWAIT_SATISFIED: a waiting core reads the flag again. -/
def execMswaitSatisfied (core : Fin 288) (t : Nat) (s : State) : Host.Outcome State Fault Refusal :=
  s.act t fun d =>
    let k := core.val
    let c := d.core k
    match c.wait with
    | none => d
    | some w =>
      let flag := d.rd32 w.2.1
      if msOk flag w.2.2 then (d.setCore k (c.msRetire w.1 flag)).setF (aVcStatus k) 7 4 1 else d

/-! ### The end of a kernel, traps, resets -/

/-- A core of class 0x04's command has ended; with the last one step 1 of the press is complete (R171, R174). -/
def Dev.kernelEnd (d : Dev) (v : Nat) : Dev :=
  if d.getF (aVcStatus v) 7 4 ≠ 1 then d else
  let d := d.setF (aVcStatus v) 7 4 0
  match d.cmdOnEngine (v / 4) with
  | none => d
  | some p =>
    let busy := p.2.engines.any fun e => (List.range 4).any fun k => decide (d.getF (aVcStatus (4 * e + k)) 7 4 ≠ 0)
    if decide (p.2.cls = 4) && decide (p.2.stage = CmdStage.dispatched) && !busy then (d.runCmd p.1 p.2).settle else d

/-- KERNEL_END (R171). -/
def execKernelEnd (vc : Fin 256) (t : Nat) (s : State) : Host.Outcome State Fault Refusal :=
  s.act t fun d => d.kernelEnd vc.val

/-- An uncorrectable error of a core's local RAM (R171): a trap that ends the command, or, where the command runs twinned, lets it
run again. A shader core's job has its context torn down (R322). -/
def Dev.lramUe (d : Dev) (k cause pc : Nat) : Dev :=
  if k < 256 then
    let c := d.cmdOnCore k
    let d := (d.setB (aVcErr k) 1 true).count 0x03 (16 * (k / 4) + 14) 1
    let d := match c with
      | none => d
      | some p =>
        let d := (d.trapRegs k cause pc).coreTraps k cause pc
        if d.twinnedQ p.1 then d else d.trapEnds k cause pc
    d.engineUe (k / 4)
  else d.trapFault k cause pc 5

/-- VC_TRAP (R171, R322). -/
def Dev.vcTrap (d : Dev) (k : Nat) (kind : TrapKind) (cause pc : Nat) : Dev :=
  match kind with
  | .exc => if d.coreRuns k then d.trapFault k cause pc 4 else d
  | .poison => if d.coreRuns k then d.trapFault k cause pc 5 else d
  | .lramUe => d.lramUe k cause pc
  | .lramCe => if k < 256 then (d.setB (aVcErr k) 0 true).count 0x03 (16 * (k / 4) + 13) 1 else d
  | .icParity => if k < 256 then d.setB (aVcErr k) 2 true else d

def execVcTrap (core : Fin 288) (kind : TrapKind) (cause : Fin 64) (pc : Dword) (t : Nat) (s : State) :
    Host.Outcome State Fault Refusal :=
  s.act t fun d => d.vcTrap core.val kind cause.val pc.toNat

/-- A core's STATE is 1, 2 or 4: VC_CTRL may not be written (R178). -/
def Dev.vcBusy (d : Dev) (v : Nat) : Bool := decide (d.getF (aVcStatus v) 7 4 ∈ [1, 2, 4])

/-- VC_RST (R177). -/
def execVcRst (vc : Fin 256) (s : State) : Host.Outcome State Fault Refusal :=
  s.act 0 fun d => if d.vcBusy vc.val then d.noEffect 71 (aVcCtrl vc.val) 2 else d.resetCore vc.val

end Sys2Proof.Machine
end

