-- ==== Sys2Proof/Machine/Sweep.lean ====
section
/-! DEFINITION. Engines, sort units and their periodic test (R119 to R123, R216, R217, R262 to R267), the sequences
of pairs as rows (R256 to R259), and the key-value allocator's rows (R184, R197). -/

namespace Sys2Proof.Machine

/-! ### Kills and invalidation by register -/

/-- A write of GX_CTRL.KILL (R119, R120): a command that holds the engine, running or finished, is killed; it is re-run as after a pre-emption,
since no other row of R90 names this kill. Log entry 27 (DEDUCED). -/
def Dev.gxKill (d : Dev) (e : Nat) : Dev :=
  match d.cmdOnEngine e with
  | some p => if p.2.stage ≠ .taken then (d.killRerun p.1 p.2.seq .preempt).settle else d
  | none => d

/-- GX_KILL. -/
def execGxKill (e : Fin 64) (t : Nat) (s : State) : Host.Outcome State Fault Refusal := s.act t fun d => d.gxKill e.val

/-- An engine's STATE lies between 1 and 6: its registers may not be written (R123). -/
def Dev.gxBusy (d : Dev) (e : Nat) : Bool :=
  let st := d.getF (aGxStatus e) 7 4
  decide (1 ≤ st) && decide (st ≤ 6)

/-- A write of GX_CB_CTRL.INVAL (R122, R123). -/
def Dev.gxCbInval (d : Dev) (e : Nat) : Dev :=
  if d.gxBusy e then d.noEffect 71 (aGxCbCtrl e) 1
  else { d.setB (aGxCbCtrl e) 1 false with resid := d.resid.filter fun r => r.1 ≠ 64 + e }

/-- GX_CB_INVAL. -/
def execGxCbInval (e : Fin 64) (s : State) : Host.Outcome State Fault Refusal := s.act 0 fun d => d.gxCbInval e.val

/-- A write of SORT_CTRL.KILL (R216). Log entry 27 (DEDUCED). -/
def Dev.sortKill (d : Dev) (die : Nat) : Dev :=
  match d.allCmds.find? fun p => decide (p.2.sortDie = some die) with
  | some p => if p.2.stage = .dispatched then (d.killRerun p.1 p.2.seq .preempt).settle else d
  | none => d

/-- SORT_KILL. -/
def execSortKill (die : Fin 4) (t : Nat) (s : State) : Host.Outcome State Fault Refusal := s.act t fun d => d.sortKill die.val

/-! ### Periodic test (R262 to R267) -/

/-- Unit numbers: engines 0–63, sort units 64–67. -/
def unitOf : TestUnit → Nat
  | .gx e => e.val
  | .sort die => 64 + die.val

/-- The engines that a chunk runs on: both of a twinned pair (R263). -/
def Dev.chunkUnits (d : Dev) (u : Nat) : List Nat :=
  if u < 64 ∧ d.pairState (u / 2) = 2 then [2 * (u / 2), 2 * (u / 2) + 1] else [u]

/-- A write of GX_KAT.START (R122, R263): each engine that the chunk runs on must be at rest and have TEST set. A started chunk
clears DONE and FAIL; the one that tests the cores shows in their STATE (R177). -/
def Dev.katStart (d : Dev) (e : Nat) : Dev :=
  let us := d.chunkUnits e
  if us.any d.gxBusy then d.noEffect 71 (aGxKat e) 1
  else if !us.all fun v => d.getB (aGxCtrl v) 1 then d
  else
    let k := d.getF (aGxKat e) 23 16
    forEach us (fun v d =>
      let d := (((d.setF (aGxStatus v) 7 4 7).setF (aGxKat v) 23 16 k).setF (aGxKat v) 2 1 0).setB (aGxKat v) 0 true
      if k = 23 then forUpTo 4 (fun i d => d.setF (aVcStatus (4 * v + i)) 7 4 5) d else d) d

/-- The GXCLK cycles of a chunk at full duty (R263). -/
def chunkCycles (k : Nat) : Nat :=
  if k < 16 then 50000 else if k < 20 then 125000 else if k = 20 then 62500 else if k < 23 then 187500 else if k = 23 then 250000 else 0

/-- The duration of a chunk on some engines at the duty in force, in ns (R118, R263). -/
def Dev.chunkNs (d : Dev) (us : List Nat) (k : Nat) : Nat :=
  d.nsOf (us.map (· / 16)).eraseDups (stretch (d.dutyOf us) (chunkCycles k))

/-- The next start of a slot of which a test on its number holds, in this period or the next (R264). -/
def Dev.nextSlot (d : Dev) (f : Nat → Bool) : Option Nat :=
  let b := d.whlBank
  let starts := ((List.range (d.whlN b)).filter f).map (d.whlStart b)
  ((starts.map (d.epoch + ·)) ++ (starts.map (d.epoch + d.whlNs b + ·))).find? fun t => decide (d.now < t)

/-- Sebry starts a chunk of a unit subject to periodic test only where it ends in time (R264): before the next check slice that names
the pair, and inside the slot, or before the group's next slot where it is not granted; in a granted slot only while no eligible
command of the group could take the engine; and none while CPB is lost (R274). Log entry 146 (DESIGN CHOICE). -/
def Dev.mayStart (d : Dev) (e : Nat) : Bool :=
  let us := d.chunkUnits e
  let t := d.now + d.chunkNs us (d.getF (aGxKat e) 23 16)
  let slice (s : Nat) : Bool := (d.reg (aWhlSlot d.whlBank s 2)).bit 16 && (d.reg (aWhlSlot d.whlBank s 3)).bit (e / 2)
  let by_ (o : Option Nat) : Bool := o.all fun x => decide (t ≤ x)
  d.cpbLost.isNone && !bitOf d.checkMask (e / 2) && by_ (d.nextSlot slice) &&
  match (d.groupOfPair (e / 2)).bind fun g => (d.eg? g).map fun x => (g, x) with
  | none => true
  | some g =>
    if d.granted g.1 g.2 then decide (t ≤ d.slotEnd) && !(d.eligibleOf g.1).any fun c => c.2.2.needsEngines
    else by_ (d.nextSlot fun s => (d.reg (aWhlSlot d.whlBank s 1)).bit g.1)

/-- GX_KAT_START (R263). -/
def execGxKatStart (e : Fin 64) (s : State) : Host.Outcome State Fault Refusal :=
  s.act 0 fun d => if d.testing && (d.testSt e.val).subject && !d.mayStart e.val then d else d.katStart e.val

/-- A complete sweep of a unit has passed (R265, R258, R271): the mark goes, a withdrawn unit rejoins and its report
ends; for a quarantined or reference-withdrawn pair the sweep of both engines is the first condition. -/
def Dev.sweepPassed (d : Dev) (u : Nat) : Dev :=
  let x := d.testSt u
  let d := (d.setUntested u false).setTest u { x with next := 0, retry := false, lastEnd := d.now, withdrawn := false, swept := true }
  let d := if x.withdrawn then d.endCond 4 u else d
  if 64 ≤ u then d.restoreCheck.advanceTrans.settle
  else
    let p := u / 2
    let st := d.pairSt p
    let both := (d.testSt (2 * p)).swept && (d.testSt (2 * p + 1)).swept && !d.untested (2 * p) && !d.untested (2 * p + 1)
    let d := if both && (decide (d.pairState p = 4) || st.refWithdrawn) then d.setPairSt p { st with sweepOk := true } else d
    let d := if both && x.withdrawn && st.home.isSome && decide (d.pairState p = 2) && !st.refWithdrawn then d.backAsSpare p
      else match d.groupOfPair p with
        | some g => (if (d.healthySpare g).isSome then d.endCond 3 g else d).replaceWithdrawn g
        | none => d
    d.restoreCheck.advanceTrans.settle

/-- A unit withdrawn from the SAFETY pool and reported WITHDRAWN (R265); the spare takes a member pair's place. -/
def Dev.withdraw (d : Dev) (u : Nat) : Dev :=
  let d := d.setTest u { d.testSt u with withdrawn := true }
  let d := if u < 64 then
      match d.groupOfPair (u / 2) with
      | some g => ((d.substitute (u / 2)).2).spareCheck g
      | none => d
    else d
  d.report 4 u

/-- Chunks of an engine's sweep, or known-answer commands of a sort unit's. -/
def chunksOf (u : Nat) : Nat := if u < 64 then 24 else 2

/-- A chunk has run on a unit: the registers and the counters. -/
def Dev.chunkRan (d : Dev) (u : Nat) (pass : Bool) : Dev :=
  if u < 64 then
    let k := d.getF (aGxKat u) 23 16
    let d := ((d.setB (aGxKat u) 0 false).setB (aGxKat u) 1 true).setB (aGxKat u) 2 (!pass)
    let d := (d.setF (aGxStatus u) 7 4 0).count 0x03 (16 * u + 2) 1
    let d := if pass then d else d.count 0x03 (16 * u + 3) 1
    let d := if (16 ≤ k && k ≤ 20) || k = 23 then d.invalidate u else d
    -- chunk 23 leaves the cores' local RAMs holding zeros
    if k = 23 then
      let d := forUpTo 4 (fun i d => d.setF (aVcStatus (4 * u + i)) 7 4 0) d
      forUpTo 4 (fun i d => d.setCore (4 * u + i) { d.core (4 * u + i) with lram := [], lramFree := none }) d
    else d
  else
    let die := u - 64
    let d := (d.setF (aSortStatus die) 7 4 0).count 0x03 (1024 + 8 * die + 5) 1
    if pass then d else d.count 0x03 (1024 + 8 * die + 6) 1

/-- A second failure of the same chunk disables the unit (R266, R267). Log entry 68 (DESIGN CHOICE). -/
def Dev.disableUnit (d : Dev) (u : Nat) : Dev :=
  let d := if u < 64 then (d.setB (aGxCtrl u) 0 false).setB (aGxCtrl u) 1 true else d.setB (aSortCtrl (u - 64)) 0 false
  let d := d.setTest u { d.testSt u with disabled := true, retry := false }
  ((d.withdraw u).report 5 u).advanceTrans.settle

/-- A chunk runs on a unit: STATE is TEST on each engine, and a sort unit has no command of another context. -/
def Dev.chunkRuns (d : Dev) (u : Nat) : Bool :=
  if u < 64 then (d.chunkUnits u).all fun v => decide (d.getF (aGxStatus v) 7 4 = 7)
  else decide (d.getF (aSortStatus (u - 64)) 7 4 ∈ [0, 6])

/-- The chunk that runs: the one that GX_KAT selects, or the next known-answer command of a sort unit. -/
def Dev.chunkNo (d : Dev) (u : Nat) : Nat := if u < 64 then d.getF (aGxKat u) 23 16 else (d.testSt u).next

/-- KAT_CHUNK_DONE (R263, R266): the chunk that runs ends, and fails on this unit or passes. The sweep goes on with it where it is the
sweep's next one. -/
def Dev.chunkDone (d : Dev) (u : Nat) (pass : Bool) : Dev :=
  if !d.chunkRuns u then d else
  let us := d.chunkUnits u
  let k := d.chunkNo u
  let busy := decide (64 ≤ u) && decide (d.getF (aSortStatus (u - 64)) 7 4 = 6)
  let d := forEach us (fun v d => d.chunkRan v (pass || decide (v ≠ u))) d
  let x := d.testSt u
  -- a sort unit whose sweep is not over goes on with its known-answer commands (R267)
  let more (d : Dev) : Dev := if busy then d.setF (aSortStatus (u - 64)) 7 4 6 else d
  if x.disabled then d
  else if k ≠ x.next then (if pass then d else d.setUntested u true)
  else if pass then
    if x.next + 1 < chunksOf u then more (forEach us (fun v d => d.setTest v { d.testSt v with next := x.next + 1, retry := false }) d)
    else forEach us (fun v d => d.sweepPassed v) d
  else if x.retry then d.disableUnit u
  else more ((d.setUntested u true).setTest u { d.testSt u with retry := true })

def execKatChunkDone (u : TestUnit) (pass : Bool) (t : Nat) (s : State) : Host.Outcome State Fault Refusal :=
  s.act t fun d => d.chunkDone (unitOf u) pass

/-- SWEEP_DEADLINE (R265): 20 ms after the last sweep of a unit subject to test. -/
def Dev.sweepDeadline (d : Dev) (u : Nat) : Dev :=
  let x := d.testSt u
  if d.testing && x.subject && !x.withdrawn && decide (x.lastEnd + 20000000 ≤ d.now) then
    ((d.setUntested u true).withdraw u).settle
  else d

def execSweepDeadline (u : TestUnit) (t : Nat) (s : State) : Host.Outcome State Fault Refusal :=
  s.act t fun d => d.sweepDeadline (unitOf u)

/-! ### RAM errors (R121) -/

/-- The counters of an engine (R477) and the GX_ERR bits of a RAM, for a corrected and an uncorrectable error. -/
def ramErr (ram : GxRam) (corr : Bool) : Nat × Nat :=
  match ram, corr with
  | .operand, true => (7, 0)
  | .operand, false => (8, 1)
  | .accumulator, true => (9, 2)
  | .accumulator, false => (10, 3)
  | .codebook, _ | .record, _ => (11, 4)

/-- An error of a sort unit's record RAM (R216, R217): one that cannot be corrected is handled as one of an accumulator. -/
def Dev.sortRamError (d : Dev) (die : Nat) (corr : Bool) (entry : Nat) : Dev :=
  if corr then (d.setB (aSortErr die) 0 true).count 0x03 (1024 + 8 * die + 3) 1 else
  let c := d.allCmds.find? fun p => decide (p.2.sortDie = some die)
  let d := ((d.setB (aSortErr die) 1 true).count 0x03 (1024 + 8 * die + 4) 1).setF (aSortErrAddr die) 11 0 (entry % 4096)
  let d := d.markUntested (64 + die)
  match c with
  | none => d
  | some p => (if d.twinnedQ p.1 then d.killFault p.1 p.2.seq .mismatch else d.teardown (d.ctxOfQ p.1) 5).settle

/-- ENGINE_RAM_ERROR: the codebook RAM has parity, so its errors are not corrected. -/
def Dev.engineRamError (d : Dev) (e : Nat) (ram : GxRam) (corr : Bool) (line : Nat) : Dev :=
  if ram = .record then d.sortRamError (e / 16) corr line else
  let r := ramErr ram corr
  let d := (d.setB (aGxErr e) r.2 true).count 0x03 (16 * e + r.1) 1
  if corr && decide (ram ≠ .codebook) then d
  else
    let d := d.setReg (aGxErrAddr e) (BitVec.ofNat 32 (b2n (decide (ram ≠ .operand)) * 2 ^ 31 + line % 32768))
    if ram = .operand then d else d.engineUe e

def execEngineRamError (e : Fin 64) (ram : GxRam) (correctable : Bool) (line : Nat) (t : Nat) (s : State) :
    Host.Outcome State Fault Refusal :=
  s.act t fun d => d.engineRamError e.val ram correctable line

/-! ### Pair sequences as rows -/

/-- TWIN_JOIN (R257). -/
def execTwinJoin (pair : Fin 32) (v : SelfTest) (t : Nat) (s : State) : Host.Outcome State Fault Refusal :=
  s.act t fun d => (d.join pair.val v).advanceTrans

/-- TWIN_SPLIT (R256). -/
def execTwinSplit (pair : Fin 32) (r : TwinRecord) (t : Nat) (s : State) : Host.Outcome State Fault Refusal :=
  s.act t fun d => d.split pair.val r

/-- TWIN_SELFTEST (R259). -/
def execTwinSelftest (pair : Fin 32) (v : SelfTest) (t : Nat) (s : State) : Host.Outcome State Fault Refusal :=
  s.act t fun d => (d.selftest pair.val v).restoreCheck

/-! ### The key-value allocator (R184, R197) -/

/-- A write of KV_CTRL.INIT: every page FREE and every pool invalid. -/
def Dev.kvInit (d : Dev) (n : Nat) : Dev :=
  let d := { d with kvPages := d.kvPages.filter fun p => p.1 / 2 ^ 18 / 32 ≠ n, kvStacks := d.kvStacks.filter fun p => p.1 / 32 ≠ n }
  forUpTo 32 (fun q d => (d.setB (aKvPoolCfg n q) 31 false).kvRefresh n q) d

/-- KV_INIT. -/
def execKvInit (die : Fin 4) (s : State) : Host.Outcome State Fault Refusal := s.act 0 fun d => d.kvInit die.val

/-- VALID = 1 pushes the pool's pages onto its stack. -/
def Dev.poolOn (d : Dev) (die q : Nat) : Dev :=
  if d.poolValid die q then d else (d.setB (aKvPoolCfg die q) 31 true).fillPool die q

/-- KV_POOL_VALID. -/
def execKvPoolValid (die : Fin 4) (pool : Fin 32) (s : State) : Host.Outcome State Fault Refusal :=
  s.act 0 fun d => d.poolOn die.val pool.val

/-- The contexts that name a pool: those of the graphs that own it, and those with a taken command that names it. -/
def Dev.poolCtxs (d : Dev) (die pool : Nat) : List Nat :=
  ((d.graphs.filter fun (g : Nat × Graph) => decide ((die, pool) ∈ g.2.pools)).map (·.2.ctx) ++
    (d.allCmds.filter fun p => p.2.namesPool && decide (p.2.kvDie = die) && decide (d.kvPool p.1 p.2 = some pool)).map
      fun p => d.ctxOfQ p.1).eraseDups

/-- KV_STATE_ERROR (R184): an uncorrectable error of the page-state table or of the free-list array. -/
def Dev.kvStateError (d : Dev) (die pool page : Nat) (freeList : Bool) : Dev :=
  let d := (d.setB (aKvErr die) (if freeList then 2 else 1) true).setReg (aKvErrPage die) (BitVec.ofNat 32 (pool * 2 ^ 18 + page % 2 ^ 18))
  let d := d.setB (aKvPoolCfg die pool) 6 true
  (forEach (d.poolCtxs die pool) (fun c d => d.teardown c 5) d).settle

def execKvStateError (die : Fin 4) (pool : Fin 32) (page : Nat) (freeList : Bool) (t : Nat) (s : State) :
    Host.Outcome State Fault Refusal :=
  s.act t fun d => d.kvStateError die.val pool.val page freeList

end Sys2Proof.Machine
end

