-- ==== Sys2Proof/Machine/Safe.lean ====
section
/-! DEFINITION. The safety commands (R67, R230, R233, R268), the watchdogs of the control processor pairs and the
registers behind the error reporting outputs (R273 to R277). -/

namespace Sys2Proof.Machine

/-! ### Fall-backs and ages -/

/-- The inputs, or outputs, of two graphs agree in number and size (R233). -/
def sameBufs (a b : Graph) (kind : Nat) : Bool :=
  decide ((a.ofKind kind).map (·.size) = (b.ofKind kind).map (·.size))

def Graph.bound (g : Graph) : Bool := g.fallback.isSome || g.primary.isSome

/-- The fall-back's buffers after the bind: its j-th input or output is the primary's. -/
def rebase (fb pr : Graph) : List Buf :=
  fb.bufs.zipIdx.map fun x =>
    let b := x.1
    if b.kind = 2 ∨ b.kind = 3 then
      let j := ((fb.bufs.take x.2).filter fun y => decide (y.kind = b.kind)).length
      match (pr.ofKind b.kind)[j]? with
      | some p => { b with addr := p.addr }
      | none => b
    else b

/-- The bind: the buffers, the release of the fall-back's own, the link. -/
def Dev.bindFallback (d : Dev) (n p f : Nat) (pr fb : Graph) : Dev :=
  let own := (d.inst n).allocs.filter fun al =>
    match al.kind with
    | .graphBuf h b => decide (h = f) && ((fb.bufs[b]?).any fun x => decide (x.kind = 2) || decide (x.kind = 3))
    | _ => false
  let d := (d.setGraph f { fb with primary := some p, bufs := rebase fb pr }).setGraph p { pr with fallback := some f }
  forEach own (fun al d => d.freeAlloc n al) d

/-- SAFE_FALLBACK_BIND (R67, R233). -/
def Dev.fallbackBind (m : Mbx) (d : Dev) : Dev :=
  let p := (m.req 1).toNat
  let f := (m.req 2).toNat
  sciCmd m 0x0501 2 pagesV
    (fun d =>
      let n := pgInst m.page
      match d.graphOf n p, d.graphOf n f with
      | some pr, some fb =>
        [ (decide (p = f), .eParam), (!sameBufs pr fb 2 || !sameBufs pr fb 3, .eParam), (pr.bound || fb.bound, .eState) ]
      | pr, fb => [(true, .eHandle), (decide (p = f), .eParam), (pr.any (·.bound) || fb.any (·.bound), .eState)])
    (fun d =>
      let n := pgInst m.page
      match d.graphOf n p, d.graphOf n f with
      | some pr, some fb => .okay (d.bindFallback n p f pr fb)
      | _, _ => .fail d .eHandle) d

def execSafeFallbackBind (m : Mbx) (s : State) : Host.Outcome State Fault Refusal := s.act m.t (Dev.fallbackBind m)

/-- SAFE_AGE_SET (R67, R230). An output index beyond the graph's outputs is a field out of range: E_PARAM, where the rule does
not say whether it is that or E_HANDLE. Log entry 120 (DESIGN CHOICE). -/
def Dev.safeAgeSet (m : Mbx) (d : Dev) : Dev :=
  let h := (m.req 1).toNat
  let o := (m.req 2).fld 15 0
  let lim := (m.req 3).toNat
  sciCmd m 0x0502 3 pagesV
    (fun d =>
      [ (rsvBad (m.req 2) 0xFFFF, .eParam), (decide (lim < 100) || decide (1000000 < lim), .eParam) ] ++
      (match d.graphOf (pgInst m.page) h with
       | some g => [(decide ((g.ofKind 3).length ≤ o), .eParam)]
       | none => [(true, .eHandle)]))
    (fun d =>
      match d.graphOf (pgInst m.page) h with
      | some g => .okay (d.setGraph h { g with ageLimits := g.ageLimits.put o lim })
      | none => .fail d .eHandle) d

def execSafeAgeSet (m : Mbx) (s : State) : Host.Outcome State Fault Refusal := s.act m.t (Dev.safeAgeSet m)

/-! ### Reference blocks (R268) -/

/-- The block at an address. -/
def Dev.refBlockAt (d : Dev) (a : Nat) : RefBlock :=
  { node := (d.rd32 a).fld 15 0, data := d.rdN (a + 64) (d.rd32 (a + 4)).toNat,
    expA := BitVec.ofNat 64 (d.rd64 (a + 8)), expB := BitVec.ofNat 64 (d.rd64 (a + 16)) }

/-- Reserved fields of the header. -/
def Dev.refRsvBad (d : Dev) (a : Nat) : Bool :=
  decide ((d.rd32 a).fld 31 16 ≠ 0) || (List.range 10).any fun i => decide (d.rd32 (a + 24 + 4 * i) ≠ 0)

/-- The lengths of a node's input regions outside buffers of KIND 0. -/
def Graph.refLen (g : Graph) (x : Node) : Nat :=
  ((x.regions.take x.nin).filter fun r => ((g.bufs[r.1]?).map (·.kind)) ≠ some 0).foldl (fun n r => n + r.2.2) 0

/-- A class 0x01 node whose W region lies in a buffer of KIND 0. -/
def Graph.refNode (g : Graph) (x : Node) : Bool :=
  let c := nodeCmd g.bufs x
  decide (c.cls = 1) && !c.isJob &&
  (match x.regions[c.gx.wReg]? with
   | some r => decide (((g.bufs[r.1]?).map (·.kind)) = some 0) && decide (c.gx.wReg < x.nin)
   | none => false)

/-- The node's est on one pair passes the shortest check slice of the DRIVE configuration that names a pair of the
graph's group. -/
def Dev.refFits (d : Dev) (g : Graph) (x : Node) : Bool :=
  let c := nodeCmd g.bufs x
  let est := d.est g.eg (((d.eg? g.eg).map (·.engineList)).getD []) c 1 (d.inst g.inst).cmdlen
  match d.wheels.look 0, d.eg? g.eg with
  | some w, some e => (w.slices e.pairsMask).all fun l => decide (est ≤ l)
  | _, _ => true

/-- SAFE_REFINPUT_SET. -/
def Dev.refInputSet (m : Mbx) (d : Dev) : Dev :=
  let h := (m.req 1).toNat
  let a := addrOf (m.req 2) (m.req 3)
  sciCmd m 0x0503 3 pagesV
    (fun d =>
      let n := pgInst m.page
      let i := d.inst n
      if !i.owns a 64 then [(true, .eParam), ((d.graphOf n h).isNone, .eHandle)] else
      let b := d.refBlockAt a
      [ (!i.owns a (64 + b.data.length), .eParam), (d.refRsvBad a, .eParam) ] ++
      (match d.graphOf n h with
       | none => [(true, .eHandle)]
       | some g =>
         let old := (g.ref.map fun r => r.data.length + 64).getD 0
         [ (decide (i.quotaMiB * 2 ^ 20 + old < i.usedBytes + b.data.length + 64), .eQuota) ] ++
         (match g.nodes[b.node]? with
          | none => [(true, .eParam)]
          | some x => [(!g.refNode x || decide (b.data.length ≠ g.refLen x) || !d.refFits g x, .eParam)])))
    (fun d =>
      let n := pgInst m.page
      match d.graphOf n h with
      | none => .fail d .eHandle
      | some g =>
        let b := d.refBlockAt a
        let old := (g.ref.map fun r => r.data.length + 64).getD 0
        .okay (((d.setGraph h { g with ref := some b }).subHeld n old).addHeld n (b.data.length + 64))) d

def execSafeRefinputSet (m : Mbx) (s : State) : Host.Outcome State Fault Refusal := s.act m.t (Dev.refInputSet m)

/-! ### SAFE_STATUS (R67) -/

/-- The healthy spare pairs of all groups. -/
def Dev.healthySpares (d : Dev) : Nat :=
  ((List.range 32).filter fun p => (d.spareOf p).isSome && d.pairHealthy p).length

/-- Log entry 80 (DESIGN CHOICE). -/
def Dev.safeStatus (m : Mbx) (d : Dev) : Dev :=
  sciCmd m 0x0504 0 pagesVM (fun _ => [])
    (fun d =>
      -- of the engines subject to periodic test: the others are never swept and read UNTESTED from reset (log entry 80)
      let un := d.testUnits.any fun u => decide (u < 64) && d.untested u
      let q := maskOf ((List.range 32).filter fun p => d.pairState p = 4)
      .okay d [BitVec.ofNat 32 (d.healthySpares * 256 + b2n un * 2 + b2n d.degraded), BitVec.ofNat 32 q]) d

def execSafeStatus (m : Mbx) (s : State) : Host.Outcome State Fault Refusal := s.act m.t (Dev.safeStatus m)

/-! ### Watchdogs (R273, R274, R277) -/

def Dev.wdtNs (d : Dev) : Nat := d.getF aSafeCfg 7 0 * 1000000

/-- WDT_EXPIRE (R273): WDT_MS have passed since the latest kick of a pair. -/
def execWdtExpire (cpb : Bool) (t : Nat) (s : State) : Host.Outcome State Fault Refusal :=
  s.act t fun d =>
    -- a debug halt pauses the watchdog (R438)
    if cpb then (if d.kickB + d.wdtNs ≤ d.now ∧ (d.dbgHalt.look 25).isNone then d.loseCpb else d)
    else if d.kickA + d.wdtNs ≤ d.now ∧ (d.dbgHalt.look 24).isNone then d.loseCpa else d

/-- The number in R294 of a register access's master: CPA, CPB and the debug port's accesses share 71 (R438). -/
def Dev.masterNo (d : Dev) (m : Master) : Nat :=
  match m with
  | .cpa | .cpb | .dbg => 71
  | .core n => 68 + n.val / 8
  | .pcie port fn => d.vfMaster port.val fn.val

/-- A write of SAFE_WDT_KICK (R277): each bit has effect only from its own pair. -/
def Dev.kick (d : Dev) (m : Master) (v : Word) : Dev :=
  let a := decide (m = .cpa) && v.bit 0
  let b := decide (m = .cpb) && v.bit 1
  let d := if a && d.cpaLost.isNone then { d with kickA := d.now } else d
  let d := if b && d.cpbLost.isNone then ({ d with kickB := d.now } : Dev).setB aSafeOut 2 (!d.getB aSafeOut 2) else d
  if (v.bit 0 && !a) || (v.bit 1 && !b) then d.noEffect (d.masterNo m) aSafeKick v else d

/-- SAFE_WDT_KICK. -/
def execSafeWdtKick (m : Master) (v : Word) (t : Nat) (s : State) : Host.Outcome State Fault Refusal := s.act t fun d => d.kick m v

/-- The codes that CPB reports (R276). -/
def cpbCode (c : Nat) : Bool := decide (1 ≤ c) && decide (c ≤ 17) && !hwSourced c

/-- A write of SAFE_REPORT (R277). The register names no subject, so that of the report is not stated.
Log entry 70 (DESIGN CHOICE). -/
def Dev.safeReport (d : Dev) (m : Master) (v : Word) : Dev :=
  let c := v.fld 7 0
  if m ≠ .cpb ∨ !cpbCode c then d.noEffect (d.masterNo m) aSafeReport v
  else if repClass c = .heldC && !v.bit 8 then d.endCode c
  else
    let f := d.fresh
    f.2.report c (f.1 % 2 ^ 32)

/-- SAFE_REPORT. -/
def execSafeReport (m : Master) (v : Word) (t : Nat) (s : State) : Host.Outcome State Fault Refusal := s.act t fun d => d.safeReport m v

/-- SAFE_CFG.LOCK (R277). -/
def execSafeCfgLock (m : Master) (s : State) : Host.Outcome State Fault Refusal :=
  s.act 0 fun d => if m = .cpb then d.setB aSafeCfg 31 true else d.noEffect (d.masterNo m) aSafeCfg 0x80000000

/-- WARN_PULSE_END (R275). -/
def execWarnPulseEnd (t : Nat) (s : State) : Host.Outcome State Fault Refusal :=
  s.act t fun d =>
    match d.warnEnd with
    | some e => if e ≤ d.now then ({ d with warnEnd := none } : Dev).refreshWarn else d
    | none => d

end Sys2Proof.Machine
end

