-- ==== Sys2Proof/Machine/GwRows.lean ====
section
/-! DEFINITION. The rows of the gateway (R68, R350 to R372, R395, R436). -/

namespace Sys2Proof.Machine

/-! ### Commands -/

/-- GW_ROUTES_SET's effect: the table read whole, and its final status (R361, R362, R434). -/
def Dev.routesSet (d : Dev) (n : Nat) (a cnt : Nat) : Status × Dev :=
  let e7 := d.rdWords (a + 32 * (cnt - 1)) 8
  let len := (rw_ e7 6).toNat
  if len < 32 * cnt ∨ len % 4 ≠ 0 ∨ !(d.inst n).owns a len then (.eParam, d) else
  match parseRoutes (d.rdWords a (len / 4)) cnt with
  | none => (.eParam, d)
  | some t =>
    if t.entries.any (rtMixes (d.reg aWorldEth) (d.reg aWorldCan)) then (.eParam, d)
    else if ratesOver t.entries then (.eOvercommit, d) else (.ok, d.loadRoutes t)

/-- GW_ROUTES_SET (R361): a table outside the caller's memory is refused; the rest is the final status. -/
def Dev.gwRoutesSet (m : Mbx) (d : Dev) : Dev :=
  let a := addrOf (m.req 1) (m.req 2)
  let n := (m.req 3).fld 12 0
  sciCmd m 0x0601 3 pagesV
    (fun d => [ (rsvBad (m.req 3) 0x1FFF, .eParam), (decide (n < 1) || decide (4096 < n), .eParam),
      (!(d.inst (pgInst m.page)).owns a (32 * n), .eParam) ])
    (fun d =>
      let r := d.routesSet (pgInst m.page) a n
      .okay (r.2.begin m 0x0601 0 0 true r.1.code)) d

def execGwRoutesSet (m : Mbx) (s : State) : Host.Outcome State Fault Refusal := s.act m.t (Dev.gwRoutesSet m)

/-- SW_PORT_STATUS of a port with MACsec: the valid associations and whether it transmits on one. -/
def Dev.msecStatus (d : Dev) (p : Nat) : Dev :=
  let v := (d.gw.macsec.lookD p {}).valid
  (d.setF (aSwPortStatus p) 7 4 (maskOf v)).setB (aSwPortStatus p) 1 (!v.isEmpty)

/-- SEC_KEY_VALID follows the key slots. -/
def Dev.keyBits (d : Dev) : Dev :=
  let w (lo : Nat) (n : Nat) : Word := BitVec.ofNat 32 (maskOf ((List.range n).filter fun i => (d.keys.look (lo + i)).isSome))
  ((d.setReg aKeyValidLo (w 0 32)).setReg aKeyValidHi (w 32 32)).setReg aKeyValidX (w 64 8)

/-- A key installed in its slot (R357, R435). Log entry 102 (DESIGN CHOICE). -/
def Dev.installKey (d : Dev) (slot : Nat) (key : List Byte) : Dev :=
  let d := ({ d with keys := d.keys.put slot key } : Dev).keyBits.countDev 57
  if 56 ≤ slot then d else
  let p := slot / 4
  let an := slot % 4
  let ms := d.gw.macsec.lookD p {}
  let ms := { ms with valid := insertNew ms.valid an, txAn := an, txPn := ms.txPn.put an 0, rxPn := ms.rxPn.put an 0 }
  ({ d with gw := { d.gw with macsec := d.gw.macsec.put p ms } } : Dev).msecStatus p

/-- The wrapped data of a key record at an address, and KLEN and USAGE. -/
def Dev.keyRecord (d : Dev) (a : Nat) : Nat × Nat × Bool × List Byte :=
  let w := d.rd32 a
  let k := w.fld 7 0
  (k, w.fld 15 8, decide (w.fld 31 16 = 0), d.rdN (a + 4) (8 * ((k + 7) / 8) + 8))

/-- KLEN and USAGE fit the slot (R436). -/
def keyFits (slot klen usage : Nat) : Bool :=
  if slot < 56 then decide (usage = 0) && decide (klen ∈ [16, 32, 28, 44]) else decide (usage = 1) && decide (klen = 16)

/-- GW_KEY_SET (R68, R436). -/
def Dev.gwKeySet (m : Mbx) (d : Dev) : Dev :=
  let slot := (m.req 1).fld 6 0
  let a := addrOf (m.req 2) (m.req 3)
  sciCmd m 0x0602 3 pagesV
    (fun d =>
      let i := d.inst (pgInst m.page)
      let r := d.keyRecord a
      [ (rsvBad (m.req 1) 0x7F, .eParam), (decide (72 ≤ slot), .eParam), (!i.owns a 4, .eParam),
        (!i.owns a (4 + r.2.2.2.length), .eParam), (!r.2.2.1, .eParam), (!keyFits slot r.1 r.2.1, .eParam),
        ((Config.unwrapKey r.2.2.2).isNone, .eAuth) ])
    (fun d =>
      let r := d.keyRecord a
      match Config.unwrapKey r.2.2.2 with
      | some k => .okay (d.installKey slot (padTo r.1 (k.take r.1)))
      | none => .fail d .eAuth) d

def execGwKeySet (m : Mbx) (s : State) : Host.Outcome State Fault Refusal := s.act m.t (Dev.gwKeySet m)

/-- The counters of a port that count dropped frames (R477). -/
def dropIdx (p : Nat) : List Nat := if p < 32 then [0, 1, 2, 3, 4, 5, 6, 7, 8] else [0, 1, 2, 3, 4, 5, 6, 8]

def Dev.dropped (d : Dev) (p : Nat) : Nat := ((dropIdx p).map fun i => (d.cnt 0x09 (16 * p + i)).val).foldl (· + ·) 0

/-- A port code of R350. -/
def portCode (p : Nat) : Bool := decide (p ≤ 21) || (decide (32 ≤ p) && decide (p ≤ 47))

/-- GW_STATUS (R68, R350). What "link up" is for a CAN controller is not stated. Log entry 64 (DESIGN CHOICE). -/
def Dev.gwStatus (m : Mbx) (d : Dev) : Dev :=
  let p := (m.req 1).fld 7 0
  sciCmd m 0x0603 1 pagesVM
    (fun _ => [(rsvBad (m.req 1) 0xFF, .eParam), (!portCode p, .eParam)])
    (fun d =>
      let n := BitVec.ofNat 32 (d.dropped p)
      if p < 32 then .okay d [BitVec.ofNat 32 (b2n (d.getB (aSwPortStatus p) 1) * 2 + b2n (d.getB (aSwPortStatus p) 0)), n]
      else
        let f := d.fresh
        .okay f.2 [BitVec.ofNat 32 (f.1 % 2), n]) d

def execGwStatus (m : Mbx) (s : State) : Host.Outcome State Fault Refusal := s.act m.t (Dev.gwStatus m)

/-! ### Frames -/

/-- ETH_FRAME_RX (R351 to R357, R362). -/
def execEthFrameRx (port : Fin 22) (frame : List Byte) (err : EthErr) (node : Nat) (t : Nat) (s : State) :
    Host.Outcome State Fault Refusal :=
  s.act t fun d => d.ethRx port.val frame err node

/-- CAN_FRAME_RX (R358 to R368). -/
def execCanFrameRx (ch : Fin 16) (f : CanFrame) (t : Nat) (s : State) : Host.Outcome State Fault Refusal :=
  s.act t fun d => d.canRx ch.val f

/-- CAN_FRAME_TX (R358, R359). -/
def execCanFrameTx (ch : Fin 16) (res : CanTxResult) (t : Nat) (s : State) : Host.Outcome State Fault Refusal :=
  s.act t fun d => d.canTx ch.val (decide (res = .acked))

/-- ETH_FRAME_TX (R353, R354, R356, R357). -/
def execEthFrameTx (port : Fin 22) (collision : Bool) (t : Nat) (s : State) : Host.Outcome State Fault Refusal :=
  s.act t fun d => d.ethTx port.val collision

/-- CONTAINER_TMAX (R364): TMAX since the oldest PDU of a CONTAINER entry's container. -/
def execContainerTmax (entry : Nat) (t : Nat) (s : State) : Host.Outcome State Fault Refusal :=
  s.act t fun d =>
    match d.gw.table.entries[entry]? with
    | none => d
    | some e =>
      let num := (rw_ e 1).fld 7 0
      let b := d.gw.boxes.lookD num {}
      if decide (rtKind e = 5) && d.cpaLost.isNone && !b.pdus.isEmpty && decide (b.since + (rw_ e 6).toNat * 1000 ≤ d.now) then d.sendBox num
      else d

/-- The channels that have an authenticated route. Log entry 66 (DESIGN CHOICE). -/
def Dev.authChannels (d : Dev) : List Nat :=
  (List.range 16).filter fun c => d.gw.table.entries.any fun e =>
    (rtAuthRx e && decide (rtIn e = 32 + c)) || (rtAuthTx e && bitOf (rw_ e 3).toNat c)

/-- The trip frame (R368). Log entry 66 (DESIGN CHOICE). -/
def Dev.tripFrame (d : Dev) (key : List Byte) : CanFrame :=
  let f : CanFrame := { id := d.boot.tripId, ext := d.boot.tripIde, fd := true, data := [] }
  { f with data := authData key f (d.gw.trip * 2 ^ 32) 4 (leBytes 4 d.gw.trip) }

/-- TRIP_FRAME_SEND (R368): one frame on each channel with an authenticated route, in queue 3. -/
def execTripFrameSend (t : Nat) (s : State) : Host.Outcome State Fault Refusal :=
  s.act t fun d =>
    if d.cpaLost.isSome || d.gw.noTrip then d else
    match d.keyOf 56 with
    | none => d
    | some key => forEach d.authChannels (fun c d => d.canQueue c 3 (d.tripFrame key)) d

/-! ### 10BASE-T1S (R355, R356) -/

def isTs (p : Nat) : Bool := decide (14 ≤ p) && decide (p < 18)

/-- PLCA_BEACON_LOSS: a follower falls back to CSMA/CD. -/
def execPlcaBeaconLoss (port : Fin 22) (t : Nat) (s : State) : Host.Outcome State Fault Refusal :=
  s.act t fun d =>
    let p := port.val
    if isTs p && decide (d.getF (aSwPortStatus p) 9 8 = 2) then (d.setF (aSwPortStatus p) 9 8 3).gwCount p 11 else d

/-- PLCA_BEACON: a follower returns to PLCA; a coordinator counts another one. -/
def execPlcaBeacon (port : Fin 22) (t : Nat) (s : State) : Host.Outcome State Fault Refusal :=
  s.act t fun d =>
    let p := port.val
    let st := d.getF (aSwPortStatus p) 9 8
    if !isTs p then d
    else if st = 3 then d.setF (aSwPortStatus p) 9 8 2
    else if st = 1 then (d.gwCount p 12).logE 8 0 p 0 12
    else d

/-- DROP_LIMIT (R356): the second ends, and the excess is reported. Log entry 66 (DESIGN CHOICE). -/
def execDropLimit (port : Fin 22) (t : Nat) (s : State) : Host.Outcome State Fault Refusal :=
  s.act t fun d =>
    let p := port.val
    if !isTs p then d else
    let n := d.gw.drops.lookD p 0
    let d := { d with gw := { d.gw with drops := d.gw.drops.del p } }
    if (d.ethCfg p).dropLimit < n then d.post 64 13 p (min n (2 ^ 32 - 1)) else d

/-! ### Time (R365) -/

/-- A rate in ppb as CNT_TB_RATE holds it, within ±500 ppm (R481). -/
def rateWord (ppb : Int) : Word :=
  BitVec.ofNat 32 (ofInt 32 (clampInt (-2147483) 2147483 (ppb * 2 ^ 32 / 1000000000)))

/-- A port of R354 on which the device follows. -/
def Dev.follower (d : Dev) (p : Nat) : Bool := decide (p < 18) && decide ((d.ethCfg p).gptp = 2)

/-- GPTP_SYNC_RX: the follower steers its rate and keeps the offset. -/
def execGptpSyncRx (port : Fin 22) (ofsNs ratePpb : Int) (t : Nat) (s : State) : Host.Outcome State Fault Refusal :=
  s.act t fun d =>
    if d.cpaLost.isSome || !d.follower port.val then d else
    let d := (d.setReg aCntTbRate (rateWord ratePpb)).setPair aSwOfsLo aSwOfsHi (ofInt 64 ofsNs)
    { d with gw := { d.gw with holdover := d.gw.holdover.filter (· ≠ port.val) } }

/-- HOLDOVER: three Sync intervals missed. -/
def execHoldover (port : Fin 22) (t : Nat) (s : State) : Host.Outcome State Fault Refusal :=
  s.act t fun d =>
    if d.cpaLost.isSome || !d.follower port.val then d else
    (({ d with gw := { d.gw with holdover := insertNew d.gw.holdover port.val } } : Dev).gwCount port.val 15).post 64 12 port.val 0

/-! ### CAN recovery (R359, R372) -/

/-- BUS_OFF_RECOVERY: 128 occurrences of 11 recessive bits, with AUTO_REC or after RECOVER. -/
def execBusOffRecovery (ch : Fin 16) (t : Nat) (s : State) : Host.Outcome State Fault Refusal :=
  s.act t fun d =>
    let a := aCanCtrl ch.val
    if d.getB a 2 || d.getB a 3 then (d.canRecovered ch.val).setB a 3 false else d

/-- A write of RECOVER starts the recovery of a controller in bus-off. -/
def Dev.canRecover (d : Dev) (ch : Nat) : Dev := if d.getF (aCanStatus ch) 17 16 = 3 then d.setB (aCanCtrl ch) 3 true else d

/-- CAN_RECOVER. -/
def execCanRecover (ch : Fin 16) (s : State) : Host.Outcome State Fault Refusal := s.act 0 fun d => d.canRecover ch.val

/-! ### Schedules (R362) -/

/-- GATE_LIST_ACTIVATE: the loaded list of a port, or of a stream gate, starts. -/
def execGateListActivate (port : Fin 22) (streamGate : Option (Fin 256)) (t : Nat) (s : State) : Host.Outcome State Fault Refusal :=
  s.act t fun d =>
    match streamGate with
    | none => { d with gw := { d.gw with gates := d.gw.gates.adjust port.val fun g => g.activate d.gptpNow } }
    | some i => { d with gw := { d.gw with sgates := d.gw.sgates.adjust i.val fun g => g.activate d.gptpNow } }

/-- RECOVERY_RESET_TIMEOUT: the recovery history of a redundancy stream is reset. -/
def execRecoveryResetTimeout (stream : Fin 128) (t : Nat) (s : State) : Host.Outcome State Fault Refusal :=
  s.act t fun d =>
    { d with gw := { d.gw with cb := d.gw.cb.adjust stream.val fun c => { c with takeAny := true, seen := [] } } }

/-! ### The bridge and the frame rings (R370, R395) -/

/-- A switch or CAN register. -/
def isSwReg (a : Nat) : Bool := decide (0x7F00090000 ≤ a) && decide (a < 0x7F000B0000)

/-- A failed posted write of CPA or CPB beyond the peripheral bridge (R370). Log entry 99 (DESIGN CHOICE). -/
def Dev.pbFail (d : Dev) (a master : Nat) : Dev :=
  if d.getB aSwPbErr 0 then d.setB aSwPbErr 1 true
  else
    let d := (d.setB aSwPbErr 0 true).setReg aSwPbErrAddr (BitVec.ofNat 32 a)
    (d.setReg aSwPbErrSrc (BitVec.ofNat 32 (master % 256))).raise .bridge

/-- PB_WRITE_FAIL. -/
def execPbWriteFail (addr : Nat) (m : Master) (t : Nat) (s : State) : Host.Outcome State Fault Refusal :=
  s.act t fun d => if isSwReg addr && (decide (m = .cpa) || decide (m = .cpb)) then d.pbFail addr (d.masterNo m) else d

/-- IP_TX_POLL (R395): the transmit rings of the instance's cluster. -/
def execIpTxPoll (inst : Fin 64) (t : Nat) (s : State) : Host.Outcome State Fault Refusal :=
  s.act t fun d =>
    let i := d.inst inst.val
    if d.cpaLost.isSome || decide ((d.page inst.val).state = .free) || decide (i.bindKind ≠ 0) then d else
    forEach (d.boot.ips.filter fun (p : Nat × IpCfg) => p.2.cluster = i.bindIdx) (fun p d => d.ipPoll p.1 p.2.nent) d

end Sys2Proof.Machine
end

