-- ==== Sys2Proof/Machine/Links.lean ====
section
/-! DEFINITION. Die-to-die links and stack interfaces (R13 to R20, R290 to R292, R299): routes, CRC errors, retrains, links that
go DOWN, dies that go offline, and the patrol scrub. -/

namespace Sys2Proof.Machine

/-! ### The links of a host's access (R15) -/

/-- The links that a host's waiting access takes. -/
def Dev.waitLinks (d : Dev) (w : WaitAcc) : List Nat :=
  match w with
  | .coreAcc _ _ a n _ => (d.diesOf a n).flatMap d.routeHd
  | .pcieAcc i _ off _ len => ((d.inst i).winPieces off len).flatMap fun p => (d.diesOf (p.1.getD 0) p.2).flatMap d.routeHd
  | .fence _ _ _ | .pciePage _ _ _ _ _ | .dmaFetch _ _ | .dmaBack _ _ _ => []

/-! ### A die offline (R20) -/

/-- The stack's contents are lost: its bytes hold undefined values from now on. Log entry 54 (DESIGN CHOICE). -/
def Dev.loseStack (d : Dev) (n : Nat) : Dev :=
  { d with mem := d.mem.filter (fun c => stackOf c.1 ≠ n), dramFree := d.dramFree.put n d.freeCtr, freeCtr := d.freeCtr + gib36,
           poison := d.poison.filter fun k => !(isDram k && decide (stackOf k = n)) }

/-- A region of a context lies in a stack: those of its taken commands and the buffers of its graph. -/
def Dev.ctxIn (d : Dev) (c n : Nat) : Bool :=
  let inStack (a len : Nat) : Bool := (pageStarts a len).any fun x => (d.phys x).any fun k => isDram k && decide (stackOf k = n)
  (d.allCmds.any fun p => decide (d.ctxOfQ p.1 = c) && (p.2.ins ++ p.2.outs).any fun r => inStack r.base r.len) ||
  (match ((d.ctx? c).bind (·.graph)).bind d.graph? with
   | some g => g.bufs.any fun b => inStack b.addr b.size
   | none => false)

/-- A command of a context holds an engine or the sort unit of a die. -/
def Dev.ctxOn (d : Dev) (c die : Nat) : Bool :=
  d.allCmds.any fun p => decide (d.ctxOfQ p.1 = c) && ((p.2.engines.any fun e => decide (e / 16 = die)) || decide (p.2.sortDie = some die))

/-- The contexts for which a test holds are torn down with DIE_LOST. -/
def Dev.tearAll (d : Dev) (f : Nat → Bool) : Dev := forEach (d.ctxs.keys.filter f) (fun c d => d.teardown c 7) d

/-- A compute die goes offline. -/
def Dev.offline (d : Dev) (die : Nat) : Dev :=
  if die ∈ d.dieOff then d else
  let e := d.tearAll fun c => d.ctxOn c die || d.ctxIn c die
  let e := ({ e with dieOff := e.dieOff ++ [die] } : Dev).loseStack die
  ((e.post 64 16 die 0).report 11 die).reFig

/-- DIE_OFFLINE (R20). -/
def execDieOffline (die : Fin 4) (t : Nat) (s : State) : Host.Outcome State Fault Refusal :=
  s.act t fun d => (d.offline die.val).settle

/-! ### A link DOWN (R18, R19) -/

/-- A host's access that is outstanding on a link, held by it or by a lock at the memory behind it, ends with an error
completion. Log entry 56 (DESIGN CHOICE). -/
def Dev.failWaits (d : Dev) (l : Nat) : Dev :=
  let bad := d.waiting.filter fun w => decide (l ∈ d.waitLinks w)
  if bad.isEmpty then d else { d with waiting := d.waiting.filter (fun w => decide (l ∉ d.waitLinks w)), lastAcc := .error }

/-- A die-to-die link is declared DOWN: the commands whose transfers it carries are re-run, the loss is reported, and a die
left without a link is offline. Log entry 56 (DESIGN CHOICE). -/
def Dev.downLink (d : Dev) (l : Nat) : Dev :=
  if !d.linkUp l then d else
  let hit := d.allCmds.filter fun p => decide (p.2.stage = .dispatched) && decide (l ∈ d.linksOf p.2)
  let d := d.failWaits l
  let d := { d with links := d.links.put l { d.link l with down := true, training := false, replays := 0, fails := [] } }
  let d := forEach hit (fun p d => d.killFault p.1 p.2.seq .link) d
  let d := ((d.post 64 10 l 0).report 10 l).reFig
  (forUpTo 4 (fun die d => if d.isolated die then d.offline die else d) d).settle

/-- LINK_DOWN (R18). -/
def execLinkDown (l : LinkId) (t : Nat) (s : State) : Host.Outcome State Fault Refusal := s.act t fun d => d.downLink l.val

/-! ### CRC errors and retrains (R17, R291) -/

/-- The next error of a flit or transfer in hand, at most `gap` ns after the latest one; none once 8 replays have failed.
Log entry 55 (DESIGN CHOICE). -/
def LinkState.replay (x : LinkState) (now gap : Nat) : Option LinkState :=
  let n := if x.replays ≠ 0 ∧ now ≤ x.lastErr + gap then x.replays else 0
  if n < 8 then some { x with replays := n + 1, lastErr := now } else none

/-- The armed entries that may inject a fault into a flit of a link. Log entry 41 (DEDUCED). -/
def Dev.fiLink (d : Dev) (l : Nat) : List Nat :=
  if !d.fiArmed then [] else
  (List.range 16).filter fun e => d.getB (aFiEnt e 0) 31 && decide (d.getF (aFiEnt e 0) 25 24 = 0) && decide (d.getF (aFiEnt e 0) 7 0 = l) &&
    decide (d.reg (aFiEnt e 3) &&& d.reg (aFiEnt e 4) = 0) &&
    (decide (d.getF (aFiEnt e 6) 31 16 = 0) || decide ((d.reg (aFiEnt e 7)).toNat < d.getF (aFiEnt e 6) 31 16))

/-- Whether the error of a flit is an injected one, and by which entry, is open: flits are no rows of the table. -/
def Dev.fiFlit (d : Dev) (l : Nat) : Bool × Dev :=
  let es := d.fiLink l
  if es.isEmpty then (false, d) else
  let f := d.fresh
  let d := f.2
  match es[f.1 % (es.length + 1)]? with
  | none => (false, d)
  | some e => (true, (d.setReg (aFiEnt e 7) (BitVec.ofNat 32 (min (2 ^ 32 - 1) ((d.reg (aFiEnt e 7)).toNat + 1)))).countDev (145 + 2 * e))

/-- A CRC error of a link's flit: a replay, or a retrain after 8 of them. Log entry 55 (DESIGN CHOICE). -/
def Dev.linkCrc (d : Dev) (l : Nat) : Dev :=
  let x := d.link l
  if x.down || x.training then d else
  let i := d.fiFlit l
  let d := i.2
  match x.replay d.now 40 with
  | some y => { d with links := d.links.put l { y with crc := x.crc.add 1, crcInj := if i.1 then x.crcInj.add 1 else x.crcInj } }
  | none => { d with links := d.links.put l { x with training := true, replays := 0 } }

/-- LINK_CRC_ERROR (R17). -/
def execLinkCrcError (l : LinkId) (t : Nat) (s : State) : Host.Outcome State Fault Refusal := s.act t fun d => d.linkCrc l.val

/-- A CRC error of a stack's interface (R291). Log entry 55 (DESIGN CHOICE). -/
def Dev.stackCrc (d : Dev) (n : Nat) : Dev :=
  let x := d.stackIf n
  if x.training || !d.stackUp n then d else
  match x.replay d.now 60 with
  | some y => ({ d with stackIfs := d.stackIfs.put n y } : Dev).count 0x06 (8 * n + 2) 1
  | none => ({ d with stackIfs := d.stackIfs.put n { x with training := true, replays := 0 } } : Dev).count 0x06 (8 * n + 4) 1

/-- STACK_CRC_ERROR (R291). -/
def execStackCrcError (stack : Fin 4) (t : Nat) (s : State) : Host.Outcome State Fault Refusal := s.act t fun d => d.stackCrc stack.val

/-- A stack is lost (R291). Log entry 57 (DESIGN CHOICE). -/
def Dev.stackLost (d : Dev) (n : Nat) : Dev :=
  let e := d.tearAll fun c => d.ctxIn c n
  let e := { e with stackIfs := e.stackIfs.put n { e.stackIf n with down := true, training := false, replays := 0, fails := [] } }
  ((e.post 64 16 (4 + n) 0).report 11 (4 + n)).reFig.settle

/-- The failures of retrains within the last millisecond, with one more. -/
def LinkState.failed (x : LinkState) (now : Nat) : List Nat := now :: x.fails.filter fun t => decide (now ≤ t + 1000000)

/-- The end of a link's retrain. A link that is DOWN comes up only in SERVICE. A retrain that succeeds ends the count of
failures: R18 does not say whether a success between failures does. Log entries 57 (DESIGN CHOICE), 113 (DESIGN CHOICE). -/
def Dev.linkTrained (d : Dev) (l : Nat) (ok : Bool) : Dev :=
  let x := d.link l
  if x.down then
    if ok && decide (d.pers = .service) then
      let iso := (List.range 4).filter d.isolated
      let d := { d with links := d.links.put l { x with down := false } }
      let d := { d with dieOff := d.dieOff.filter fun n => !(decide (n ∈ iso) && !d.isolated n) }
      ((d.endCond 10 l).reFig).settle
    else d
  else if !x.training then d
  else if ok then ({ d with links := d.links.put l { x with training := false, fails := [] } } : Dev).settle
  else if 3 ≤ (x.failed d.now).length then d.downLink l
  else { d with links := d.links.put l { x with fails := x.failed d.now } }

/-- The end of a stack interface's retrain. Log entry 113 (DESIGN CHOICE). -/
def Dev.stackTrained (d : Dev) (n : Nat) (ok : Bool) : Dev :=
  let x := d.stackIf n
  if !x.training || !d.stackUp n then d
  else if ok then ({ d with stackIfs := d.stackIfs.put n { x with training := false, fails := [] } } : Dev).settle
  else if 3 ≤ (x.failed d.now).length then d.stackLost n
  else ({ d with stackIfs := d.stackIfs.put n { x with fails := x.failed d.now } } : Dev).count 0x06 (8 * n + 4) 1

/-- LINK_RETRAIN_COMPLETE (R17, R18, R291). -/
def execLinkRetrainComplete (stack : Bool) (n : Fin 8) (ok : Bool) (t : Nat) (s : State) : Host.Outcome State Fault Refusal :=
  s.act t fun d => if !stack then d.linkTrained n.val ok else if n.val < 4 then d.stackTrained n.val ok else d

/-! ### The patrol scrub (R290, R292) -/

/-- A line becomes poisoned: the log, the counter, and bytes that no rule states. Log entry 54 (DESIGN CHOICE). -/
def Dev.poisonLine (d : Dev) (k : Nat) : Dev :=
  let f := d.freshBytes 64
  let d : Dev := { f.2.wrRaw (f.2.devOf k) f.1 with poison := k :: f.2.poison }
  (d.logE 4 0 (stackOf k) (d.devOf k) 1).count 0x06 (8 * stackOf k + 1) 1

/-- The scrub reads one line of a stack. -/
def Dev.scrub (d : Dev) (n line : Nat) (r : ScrubResult) : Dev :=
  if d.pers = .sleep ∨ !d.stackUp n then d else
  let k := n * gib36 + line % (gib36 / 64) * 64
  let d := d.count 0x06 (8 * n + 3) 1
  match r with
  | .clean => d
  | .corrected => (d.logE 4 0 n (d.devOf k) 0).count 0x06 (8 * n) 1
  | .uncorrectable => if k ∈ d.poison then d else d.poisonLine k

/-- PATROL_SCRUB (R290, R292). -/
def execPatrolScrub (stack : Fin 4) (line : Nat) (r : ScrubResult) (t : Nat) (s : State) : Host.Outcome State Fault Refusal :=
  s.act t fun d => d.scrub stack.val line r

end Sys2Proof.Machine
end

