-- ==== Sys2Proof/Machine/Wakes.lean ====
section
/-! DEFINITION. Admission of wheels, reservations and personalities (R39, R44, R45, R268), the personality and power commands
(R69), wake events (R32, R33) and the end of commands marked D (R53). -/

namespace Sys2Proof.Machine

/-! ### Admission (R44, R45) -/

/-- The profiles that a configuration's slots name. -/
def WheelCfg.profiles (c : WheelCfg) : List Nat := c.slots.map fun s => (slotWord s 2).fld 10 8

/-- The profiles that admission checks: 0, those of every configuration held, and those of a list. -/
def Dev.checkedProfiles (d : Dev) (more : List Nat) : List Nat :=
  ([0] ++ d.wheels.flatMap (fun (w : Nat × WheelCfg) => w.2.profiles) ++ more).eraseDups

/-- The sum of a profile's reservations in GB/s: the rates of the masters that carry a partition (R298). -/
def Dev.resSum (d : Dev) (prof : Nat) : Nat := (masters.filter d.budgeted).foldl (fun n m => n + d.rateIn prof m) 0

/-- R44: some checked profile reserves more than 3,276.8 GB/s or than the derate figure. -/
def Dev.overcommit (d : Dev) (more : List Nat) : Bool :=
  (d.checkedProfiles more).any fun p => decide (32768 < 10 * d.resSum p) || decide (d.fig < d.resSum p)

/-- The engine groups that a configuration grants. -/
def WheelCfg.grants (c : WheelCfg) (eg : Nat) : Bool := c.slots.any fun s => (slotWord s 1).bit eg

/-- Some check slice names a pair. -/
def WheelCfg.checks (c : WheelCfg) (p : Nat) : Bool := c.slots.any fun s => (slotWord s 2).bit 16 && (slotWord s 3).bit p

/-- The member pairs of a group. -/
def EngineGroup.members (g : EngineGroup) : List Nat := (List.range 32).filter fun p => bitOf g.engines (2 * p)

/-- The ests of the reference nodes of a group's graphs, in ns (R268). -/
def Dev.refNeed (d : Dev) (eg : Nat) : Nat :=
  d.graphs.foldl (fun n (p : Nat × Graph) =>
    if p.2.eg = eg then
      match p.2.ref.bind fun r => p.2.nodes[r.node]? with
      | some x =>
        let c : Cmd := { seq := 0, desc := x.desc, ins := [], outs := [], params := x.params }
        n + d.est eg (((d.eg? eg).map (·.engineList)).getD []) c 1 (d.inst p.2.inst).cmdlen
      | none => n
    else n) 0

/-- What R39, R44, R45, R268, R28 and R502 have against a configuration of a personality.
Log entries 78 (DESIGN CHOICE), 108 (DESIGN CHOICE). -/
def Dev.wheelChecks (d : Dev) (p : Pers) (c : WheelCfg) : List (Bool × Status) :=
  let safe := d.safetyGroups
  let drive := decide (p = .drive)
  [ (!c.ok, .eSlotcfg),
    ((List.range 32).any fun e => c.grants e && (d.eg? e).isNone, .eHandle),
    (decide (p = .lease) && (List.range 32).any fun e => c.grants e && ((d.eg? e).map (·.twin)).getD false, .eSlotcfg),
    (d.overcommit c.profiles, .eOvercommit),
    (drive && decide (d.driveCap < Config.wheelPower c.slots), .eOvercommit),
    (drive && safe.any (fun g => decide (g.2.spares = 0)), .eNospare),
    (safe.any fun g => (drive || c.grants g.1) && g.2.members.any fun m => !c.checks m, .eSlotcfg),
    (drive && safe.any fun g => (c.slices g.2.pairsMask).any fun l => decide (l < d.refNeed g.1), .eSlotcfg) ]

/-! ### PERS_QUERY, PERS_SET, PWR_CAP_SET (R69) -/

/-- PERS_QUERY. Outside a transition the target is the personality in force. Log entry 79 (DESIGN CHOICE). -/
def Dev.persQuery (m : Mbx) (d : Dev) : Dev :=
  sciCmd m 0x0801 0 pagesIM (fun _ => [])
    (fun d =>
      let tgt := match d.trans with
        | some x => x.dst
        | none => d.pers
      .okay d [BitVec.ofNat 32 (b2n d.degraded * 256 + tgt.code * 32 + b2n d.trans.isSome * 16 + d.pers.code),
        BitVec.ofNat 32 (d.capOf d.pers)])
    d (false, false, true)

def execPersQuery (m : Mbx) (s : State) : Host.Outcome State Fault Refusal := s.act m.t (Dev.persQuery m)

/-- The changes of R31 that a manager may request (R32). -/
def requestable (a b : Pers) : Bool :=
  match a, b with
  | .drive, .park | .park, .drive | .park, .lease | .lease, .drive | .lease, .park | .park, .service | .service, .park
  | .park, .sleep => true
  | _, _ => false

/-- SERVICE may be entered (R30). -/
def Dev.serviceAllowed (d : Dev) : Bool := d.boot.service || d.getB aDbgStatus 0

/-- What R44 and R45 have against entering a personality. -/
def Dev.persChecks (d : Dev) (p : Pers) : List (Bool × Status) :=
  match d.wheels.look p.code with
  | some c => (d.wheelChecks p c).filter fun x => x.2 ≠ .eHandle
  | none =>
    [ (d.overcommit [], .eOvercommit),
      (decide (p = .drive) && d.safetyGroups.any (fun g => decide (g.2.spares = 0)), .eNospare) ]

/-- Some WAKE input is enabled for SLEEP. The levels of the inputs are not part of the state: whether one is active is told by
which row comes first, SLEEP_COMMIT or the COMMAND_DONE of R467 step 1. PWR_TIMER counts in whole seconds. -/
def Dev.wakeEnabled (d : Dev) : Bool := (List.range 4).any fun n => d.getB aPwrWakeCfg (8 * n + 7)

/-- A requested transition begins. -/
def Dev.beginTrans (d : Dev) (dst : Pers) : Dev :=
  match dst with
  | .drive => d.toDrive d.pers []
  | _ =>
    let e := d.preTrans dst
    let e := if d.pers = .park ∧ dst ≠ .sleep then e.leavePark else e
    let e := { e with trans := some { src := d.pers, dst, t0 := d.now } }
    if d.pers = .lease then ((e.noticeAll).stepDone 1).advanceTrans else e

/-- PERS_SET. Log entry 75 (DEDUCED). -/
def Dev.persSet (m : Mbx) (d : Dev) : Dev :=
  let v := (m.req 1).fld 2 0
  sciCmd m 0x0802 1 pagesM
    (fun d =>
      [ (rsvBad (m.req 1) 7, .eParam), (d.trans.isSome, .eBusy) ] ++
      (match Pers.ofCode v with
       | none => [(true, .eParam)]
       | some p =>
         [ (decide (p = .service) && !d.serviceAllowed, .eDenied), (d.trans.isNone && !requestable d.pers p, .eState) ] ++
         (if requestable d.pers p then d.persChecks p else [])))
    (fun d =>
      match Pers.ofCode v with
      | none => .fail d .eParam
      | some p =>
        .okay ((d.begin m 0x0802 0 0 false).beginTrans p)) d

def execPersSet (m : Mbx) (s : State) : Host.Outcome State Fault Refusal := s.act m.t (Dev.persSet m)

/-- PWR_CAP_SET. Log entry 108 (DESIGN CHOICE). -/
def Dev.pwrCapSet (m : Mbx) (d : Dev) : Dev :=
  let w := (m.req 1).fld 8 0
  sciCmd m 0x0803 1 pagesM
    (fun d =>
      [ (rsvBad (m.req 1) 0x1FF, .eParam), (decide (w < 120) || decide (280 < w), .eParam),
        ((d.wheels.look 0).any fun c => decide (w < Config.wheelPower c.slots), .eOvercommit) ])
    (fun d =>
      let d := { d with driveCap := w }
      .okay (if d.pers = .drive then d.setF aPwrCtrl 8 0 w else d)) d

def execPwrCapSet (m : Mbx) (s : State) : Host.Outcome State Fault Refusal := s.act m.t (Dev.pwrCapSet m)

/-! ### Wake events (R32, R33) -/

/-- The source is configured as a wake source of the powered personalities. Log entry 66 (DESIGN CHOICE). -/
def Dev.wakes (d : Dev) : WakeSrc → Bool
  | .pin n => d.getB aPwrWakeCfg (8 * n.val + 5)
  | .canFrame c => !((d.boot.can.lookD c.val {}).wake).isEmpty
  | .ethFrame p => !((d.boot.eth.lookD p.val {}).wake).isEmpty
  | .timer => false

/-- The wake source as event 9 gives it: a pin's number. That of a frame is not stated. -/
def Dev.wakeArg (d : Dev) : WakeSrc → Nat × Dev
  | .pin n => (n.val, d)
  | _ => let f := d.fresh; (f.1 % 65536, f.2)

/-- A wake event during a transition (R33). -/
def Dev.wakeDuring (d : Dev) (x : Transition) : Dev :=
  match x.src, x.dst with
  | _, .drive => { d with wakeCo := d.wakeCo.add 1 }
  | .lease, _ =>
    -- the steps already completed are not repeated; T0 is this wake event
    let d := d.persAbandon
    let d := d.preTrans .drive
    let d := { d with trans := some { x with dst := .drive, t0 := d.now } }
    let d := if d.did 3 then d.beginJoins else d
    d.advanceTrans.settle
  | .service, _ => { d with trans := some { x with thenDrive := true } }
  | _, .sleep => ({ d with trans := none } : Dev).persAbandon.toDrive .park []
  | _, _ => (d.persAbandon).toDrive .park []

/-- A wake event (R32). While CPA is lost Sebry runs nothing (R273); before the first report the boot already leads to the
configured personality (R427). -/
def Dev.wake (d : Dev) (src : WakeSrc) : Dev :=
  if d.cpaLost.isSome then d else
  match d.trans with
  | some x => if d.reported then d.wakeDuring x else d
  | none =>
    match d.pers with
    | .park => d.toDrive .park []
    | .lease => d.toDrive .lease []
    | .service =>
      let a := d.wakeArg src
      a.2.post 64 9 a.1 0
    | _ => d

/-- WAKE_EVENT (R32, R33). -/
def execWakeEvent (src : WakeSrc) (t : Nat) (s : State) : Host.Outcome State Fault Refusal :=
  s.act t fun d => if d.wakes src then d.wake src else d

/-! ### COMMAND_DONE (R53) -/

/-- What a transition's end does to the device: PARK, LEASE or SERVICE is entered. DRIVE ends with DRIVE_READY and SLEEP with
SLEEP_COMMIT, unless an enabled WAKE input is active: then the device stays in PARK (R467).
Log entry 92 (DESIGN CHOICE). -/
def Dev.finishTrans (d : Dev) : Dev :=
  match d.trans with
  | none => d
  | some x =>
    match x.dst with
    | .park =>
      if x.src = .lease && !x.did 3 then d
      else
        let d := d.enterPark.persDone 0
        if x.thenDrive then d.toDrive .park [] else d
    | .lease => d.enterLease.persDone 0
    | .service => d.enterService.persDone 0
    | .sleep => if d.wakeEnabled then ({ d with trans := none } : Dev).persDone Status.eBusy.code else d
    | .drive => d

/-- The device posts COMMAND_DONE for a command that is ready, or for the PERS_SET whose transition then ends.
Log entry 15 (DESIGN CHOICE). -/
def Dev.commandDone (d : Dev) (k : Nat) (tag : Byte) : Dev :=
  let mine (x : DoneCmd) : Bool := decide (x.page = k) && decide (x.tag = tag)
  let d := if d.done.any fun x => mine x && decide (x.opcode = 0x0802) && !x.ready then d.finishTrans else d
  match d.done.find? fun x => mine x && x.ready with
  | none => d
  | some x =>
      if d.cpaLost.isSome then d
      else ({ d with done := d.done.erase x } : Dev).post k 4 x.opcode (tag.toNat * 2 ^ 16 + x.status)

/-- COMMAND_DONE (R53). -/
def execCommandDone (pg : Pg) (tag : Byte) (t : Nat) (s : State) : Host.Outcome State Fault Refusal :=
  s.act t fun d => d.commandDone (pgKey pg) tag

end Sys2Proof.Machine
end

