-- ==== Sys2Proof/Machine/Manager.lean ====
section
/-! DEFINITION. The manager's commands (R70): partitions and engine groups (R37, R38, R287, R295, R502, R503, R506), wheels and
reservations (R39, R44, R45, R298), pairs (R256, R257), and instances (R374 to R377, R384, R385, R388, R389, R395, R427). -/

namespace Sys2Proof.Machine

/-! ### Masters (R294, R302) -/

/-- A master of the regulator carries a partition. -/
def Dev.setMaster (d : Dev) (m pt : Nat) : Dev :=
  let kind := ((d.part pt).map (·.kind.code)).getD 0
  ((d.setF (aBwrMcfg m) 22 20 kind).setF (aBwrMcfg m) 19 16 pt).setB (aBwrMcfg m) 31 true

/-- A master carries none any longer. -/
def Dev.clearMaster (d : Dev) (m : Nat) : Dev := d.setB (aBwrMcfg m) 31 false

/-! ### MGR_PART_DEFINE -/

/-- The kinds' worlds of R37. -/
def worldFits (k : PartKind) (worldO : Bool) : Bool :=
  match k with
  | .safety => !worldO
  | .display | .bestEffort => true
  | .cockpit | .lease => worldO

/-- The list of ranges at an address, as (base, limit). -/
def Dev.rangesAt (d : Dev) (a n : Nat) : List (Nat × Nat) := (List.range n).map fun i => (d.rd64 (a + 16 * i), d.rd64 (a + 16 * i + 8))

/-- Alignment, window and reachability of a range (R283, R287). The interleave mask is the same throughout a granule of 1 GiB. -/
def Dev.rangeOk (d : Dev) (r : Nat × Nat) : Bool :=
  decide (r.1 ≤ r.2) &&
  (if r.2 < 4 * gib36 then
    decide (r.1 % 0x200000 = 0) && decide ((r.2 + 1) % 0x200000 = 0) &&
    (List.range (r.2 / 2 ^ 30 + 1 - r.1 / 2 ^ 30)).all fun i => !d.ilvBit ((r.1 / 2 ^ 30 + i) % 36)
  else if decide (0x5000000000 ≤ r.1) && decide (r.2 < 0x5000000000 + 4 * gib36) then
    let lo := r.1 - 0x5000000000
    let hi := r.2 - 0x5000000000
    decide (lo % 0x800000 = 0) && decide ((hi + 1) % 0x800000 = 0) &&
    (List.range (hi / 2 ^ 32 + 1 - lo / 2 ^ 32)).all fun i => d.ilvBit (lo / 2 ^ 32 + i)
  else false)

/-- Two ranges of (base, limit) share a byte. -/
def limitsMeet (r s : Nat × Nat) : Bool := decide (r.1 ≤ s.2) && decide (s.1 ≤ r.2)

/-- What Sebry reserves (R285), as ranges. -/
def reserved : List (Nat × Nat) :=
  (0, 0x0FFFFFFF) :: [1, 2, 3].map fun s => (s * gib36, s * gib36 + 0x1FFFFF)

/-- Some two ranges of a list meet. -/
def selfMeet : List (Nat × Nat) → Bool
  | [] => false
  | r :: t => t.any (limitsMeet r) || selfMeet t

/-- The ranges meet each other, another partition's or the reservation (R38). -/
def Dev.rangesOverlap (d : Dev) (pt : Nat) (rs : List (Nat × Nat)) : Bool :=
  selfMeet rs || rs.any (fun r => reserved.any (limitsMeet r)) ||
  (d.parts.any fun (p : Nat × Partition) => decide (p.1 ≠ pt) && p.2.ranges.any fun q => rs.any (limitsMeet q))

/-- The granule addresses of a range: 2 MiB, or 8 MiB in the interleaved window. -/
def rangeGranules (r : Nat × Nat) : List Nat :=
  let g := if r.1 < 4 * gib36 then 0x200000 else 0x800000
  (List.range ((r.2 + 1 - r.1) / g)).map fun i => r.1 + i * g

/-- Ownership entries of a partition's ranges (R287). -/
def Dev.markRanges (d : Dev) (pt : Nat) (v : Bool) (rs : List (Nat × Nat)) : Dev :=
  forEach (rs.flatMap rangeGranules) (fun a d => d.setOwn a (mkOwn v false (if v then pt else 0) false 0)) d

/-- The class of a kind (R295). -/
def PartKind.cls : PartKind → Nat
  | .safety => 7 | .display => 6 | .cockpit => 4 | .bestEffort => 2 | .lease => 1

/-- The class descriptors written afresh, in the order of the partitions (R295). Log entry 81 (DESIGN CHOICE). -/
def Dev.classDescs (d : Dev) : Dev :=
  let rs := (d.parts.flatMap fun (p : Nat × Partition) => p.2.ranges.map fun r => (r, p.2.kind.cls)).take 32
  forUpTo 32 (fun k d =>
    match rs[k]? with
    | some (r, c) =>
      let d := (d.setF (aBwrClass k 0) 31 12 (r.1 / 4096 % 2 ^ 20)).setF (aBwrClass k 1) 7 0 (r.1 / 2 ^ 32)
      let d := (d.setF (aBwrClass k 2) 31 12 (r.2 / 4096 % 2 ^ 20)).setF (aBwrClass k 3) 7 0 (r.2 / 2 ^ 32)
      (d.setF (aBwrClass k 3) 18 16 c).setB (aBwrClass k 3) 31 true
    | none => d.setB (aBwrClass k 3) 31 false) d

/-- A partition defined, or defined anew. Log entries 72 (DESIGN CHOICE), 81 (DESIGN CHOICE). -/
def Dev.definePart (d : Dev) (pt : Nat) (p : Partition) : Dev :=
  let old := ((d.part pt).map (·.ranges)).getD []
  let d := (d.markRanges pt false old).markRanges pt true p.ranges
  (({ d with parts := d.parts.put pt p } : Dev).classDescs).setMaster (32 + pt) pt

/-- Some instance is in the partition. -/
def Dev.partUsed (d : Dev) (pt : Nat) : Bool := d.insts.any fun (i : Nat × Inst) => decide ((d.page i.1).state ≠ .free) && decide (i.2.pt = pt)

/-- In LEASE the ranges of a world-V partition are not granted to a lease tenant (R27): the partition is made a LEASE one, or a
LEASE partition takes bytes of it. -/
def Dev.grantsRanges (d : Dev) (pt : Nat) (k : PartKind) (rs : List (Nat × Nat)) : Bool :=
  decide (d.pers = .lease) && decide (k = .lease) &&
  d.parts.any fun (p : Nat × Partition) => !p.2.worldO && (decide (p.1 = pt) || p.2.ranges.any fun q => rs.any (limitsMeet q))

/-- MGR_PART_DEFINE. -/
def Dev.mgrPartDefine (m : Mbx) (d : Dev) : Dev :=
  let w := (m.req 1).bit 7
  let pt := (m.req 1).fld 3 0
  let a := addrOf (m.req 2) (m.req 3)
  let n := (m.req 4).fld 3 0
  sciCmd m 0x0906 4 pagesM
    (fun d =>
      let mine := (d.inst 0).owns a (16 * n)
      let rs := d.rangesAt a n
      [ (rsvBad (m.req 1) 0xFF, .eParam), (rsvBad (m.req 4) 0xF, .eParam), (decide (n < 1) || decide (8 < n), .eParam),
        (!((PartKind.ofCode ((m.req 1).fld 6 4)).any fun k => worldFits k w), .eParam), (!mine, .eParam),
        (mine && !rs.all d.rangeOk, .eParam), (d.partUsed pt, .eBusy), (mine && d.rangesOverlap pt rs, .eOverlap),
        ((d.setMaster (32 + pt) pt).overcommit [], .eOvercommit),
        (mine && (PartKind.ofCode ((m.req 1).fld 6 4)).any fun k => d.grantsRanges pt k rs, .eOvercommit) ])
    (fun d =>
      match PartKind.ofCode ((m.req 1).fld 6 4) with
      | some k => .okay (d.definePart pt { worldO := w, kind := k, ranges := d.rangesAt a n }).setupDone
      | none => .fail d .eParam) d

def execMgrPartDefine (m : Mbx) (s : State) : Host.Outcome State Fault Refusal := s.act m.t (Dev.mgrPartDefine m)

/-! ### MGR_EG_DEFINE -/

/-- The engines of the pairs of a mask. -/
def pairEngines (mask : Nat) : Nat := maskOf ((maskBits mask 32).flatMap fun p => [2 * p, 2 * p + 1])

/-- Engines and spares of a group, as a mask of engines. -/
def EngineGroup.all (g : EngineGroup) : Nat := Nat.lor g.engines (pairEngines g.spares)

/-- In LEASE an engine group of a world-V partition, or an engine of one that is not lent under R28, is not granted to a lease
tenant (R27). -/
def Dev.grantsEngines (d : Dev) (g : Nat) (x : EngineGroup) : Bool :=
  let ofV (y : EngineGroup) : Bool := (d.part y.pt).any fun p => !p.worldO
  decide (d.pers = .lease) && decide ((d.part x.pt).map (·.kind) = some .lease) &&
  d.egs.any fun (o : Nat × EngineGroup) => ofV o.2 && (decide (o.1 = g) || (!o.2.suspended && decide (Nat.land x.all o.2.all ≠ 0)))

/-- The pairs that a mask of engines touches. -/
def pairsOf (mask : Nat) : List Nat := (List.range 32).filter fun p => bitOf mask (2 * p) || bitOf mask (2 * p + 1)

/-- Some context is in the group. -/
def Dev.egUsed (d : Dev) (g : Nat) : Bool := d.ctxs.any fun (c : Nat × Ctx) => c.2.eg = g

/-- Some instance's mask names the group. -/
def Dev.egNamed (d : Dev) (g : Nat) : Bool := d.insts.any fun (i : Nat × Inst) => decide ((d.page i.1).state ≠ .free) && bitOf i.2.egMask g

/-- What R70, R502 and R506 have against a definition. -/
def Dev.egChecks (d : Dev) (g : Nat) (x : EngineGroup) : List (Bool × Status) :=
  let kind := (d.part x.pt).map (·.kind)
  let lease := decide (d.pers = .lease) && decide (kind = some .lease) && !x.twin
  let all := x.all
  let others := d.egs.filter fun (o : Nat × EngineGroup) => o.1 ≠ g
  [ (kind.isNone, .eHandle),
    (x.twin && (List.range 32).any fun p => bitOf x.engines (2 * p) != bitOf x.engines (2 * p + 1), .eParam),
    (decide (kind = some .safety) && !x.twin, .eParam),
    (!x.twin && decide (x.spares ≠ 0), .eParam),
    ((pairsOf all).any fun p => decide (d.pairState p = 4), .eState),
    (!x.twin && (pairsOf x.engines).any fun p => decide (d.pairState p ≠ 0), .eState),
    (decide (Nat.land x.engines (pairEngines x.spares) ≠ 0), .eOverlap),
    (others.any fun o => decide (Nat.land all o.2.all ≠ 0) && !(o.2.suspended && lease), .eOverlap),
    (d.grantsEngines g x, .eOvercommit) ] ++
  (match d.eg? g with
   | none => []
   | some old =>
     let d' := { d with egs := d.egs.put g x }
     let held := match d.wheels.look 0 with
       | some c => (d'.wheelChecks .drive c).filter fun k => decide (k.2 = .eNospare) || decide (k.2 = .eSlotcfg)
       | none => []
     [(d.egUsed g || old.suspended || (decide (old.pt ≠ x.pt) && d.egNamed g), .eBusy)] ++ held)

/-- The engines that suspended groups lend to a definition (R28). -/
def Dev.lentTo (d : Dev) (g : Nat) (x : EngineGroup) : Nat :=
  d.egs.foldl (fun m (o : Nat × EngineGroup) => if o.1 ≠ g ∧ o.2.suspended then Nat.lor m (Nat.land x.engines o.2.all) else m) 0

/-- A group defined, or defined anew. The pairs of a twinned group begin to pair where its dies have power (R29, R257).
Log entry 81 (DESIGN CHOICE). -/
def Dev.defineEg (d : Dev) (g : Nat) (x : EngineGroup) : Dev :=
  let x := { x with lent := d.lentTo g x }
  let d := { d with egs := d.egs.put g x }
  let d := if x.gfx then (d.clearMaster g).setMaster (48 + x.pt) x.pt else d.setMaster g x.pt
  let i := d.inst 0
  let d := d.setInst 0 { i with egMask := if i.pt = x.pt then setBitN i.egMask g else clrBitN i.egMask g }
  if x.twin && decide (d.pers ≠ .park) then forEach x.pairList (fun p d => d.beginJoin p) d else d

/-- MGR_EG_DEFINE. -/
def Dev.mgrEgDefine (m : Mbx) (d : Dev) : Dev :=
  let w1 := m.req 1
  let engines := dword (m.req 2) (m.req 3)
  let spares := (m.req 4).toNat
  let x : EngineGroup := { pt := w1.fld 11 8, twin := w1.bit 16, engines, spares,
                           gfx := !w1.bit 16 && decide (engines = 0) && decide (spares = 0) }
  sciCmd m 0x0907 4 pagesM
    (fun d => (rsvBad w1 0x10F1F, .eParam) :: d.egChecks (w1.fld 4 0) x)
    (fun d => .okay (d.defineEg (w1.fld 4 0) x).setupDone) d

def execMgrEgDefine (m : Mbx) (s : State) : Host.Outcome State Fault Refusal := s.act m.t (Dev.mgrEgDefine m)

/-! ### MGR_WHEEL_SET, MGR_BW_SET -/

/-- The image of a configuration at an address. -/
def Dev.wheelAt (d : Dev) (a : Nat) : WheelCfg :=
  let n := (d.rd32 a).fld 22 16
  { period := d.rd32 a, phaseLo := d.rd32 (a + 4), phaseHi := d.rd32 (a + 8),
    slots := (List.range n).map fun i => d.rdWords (a + 12 + 16 * i) 4 }

/-- MGR_WHEEL_SET. Log entry 78 (DESIGN CHOICE). -/
def Dev.mgrWheelSet (m : Mbx) (d : Dev) : Dev :=
  let code := (m.req 1).fld 2 0
  let a := addrOf (m.req 2) (m.req 3)
  sciCmd m 0x0908 3 pagesM
    (fun d =>
      let i := d.inst 0
      let mine := i.owns a 12 && i.owns a (12 + 16 * (d.rd32 a).fld 22 16)
      [ (rsvBad (m.req 1) 7, .eParam), (!mine, .eParam) ] ++
      (match Pers.ofCode code with
       | none => [(true, .eParam)]
       | some p => if mine then d.wheelChecks p (d.wheelAt a) else []))
    (fun d =>
      match Pers.ofCode code with
      | none => .fail d .eParam
      | some p =>
        let d := { d with wheels := d.wheels.put code (d.wheelAt a) }
        .okay (if p = d.pers then d.loadPers else d).setupDone) d

def execMgrWheelSet (m : Mbx) (s : State) : Host.Outcome State Fault Refusal := s.act m.t (Dev.mgrWheelSet m)

/-- The valid masters that carry a partition. -/
def Dev.mastersOf (d : Dev) (pt : Nat) : List Nat :=
  masters.filter fun m => d.budgeted m && decide (d.getF (aBwrMcfg m) 19 16 = pt)

/-- The budgets of a profile from its reservations (R298), with windows of 1,000 units.
Log entry 35 (DESIGN CHOICE). -/
def Dev.setBudgets (d : Dev) (prof : Nat) (rs : List Nat) : Dev :=
  forUpTo 16 (fun pt d =>
    let ms := d.mastersOf pt
    let b := rs.getD pt 0 * 1000 * 10 / (ms.length * 64)
    forEach ms (fun m d => (d.setF (aBwrMwin m) 16 0 1000).setReg (aBwrMbud m prof) (BitVec.ofNat 32 b)) d) d

/-- MGR_BW_SET. -/
def Dev.mgrBwSet (m : Mbx) (d : Dev) : Dev :=
  let prof := (m.req 1).fld 2 0
  let a := addrOf (m.req 2) (m.req 3)
  sciCmd m 0x0909 3 pagesM
    (fun d =>
      let mine := (d.inst 0).owns a 64
      let rs : List Nat := (d.rdWords a 16).map (·.toNat)
      [ (rsvBad (m.req 1) 7, .eParam), (!mine, .eParam),
        (mine && (List.range 16).any fun pt => decide (rs.getD pt 0 ≠ 0) && (d.part pt).isNone, .eHandle),
        (mine && (d.setBudgets prof rs).overcommit [prof], .eOvercommit) ])
    (fun d =>
      let rs : List Nat := (d.rdWords a 16).map (·.toNat)
      let e := d.setBudgets prof rs
      .okay (if prof = d.profile then e.reCut d else e).setupDone) d

def execMgrBwSet (m : Mbx) (s : State) : Host.Outcome State Fault Refusal := s.act m.t (Dev.mgrBwSet m)

/-! ### MGR_PAIR_SET -/

/-- An engine of the pair belongs to an untwinned group. -/
def Dev.untwinnedPair (d : Dev) (p : Nat) : Bool :=
  d.egs.any fun (g : Nat × EngineGroup) => !g.2.twin && decide (Nat.land g.2.engines (pairMask p) ≠ 0)

/-- The twinned group that holds a pair, member or spare. -/
def Dev.pairGroup (d : Dev) (p : Nat) : Option EngineGroup :=
  (d.egs.find? fun (g : Nat × EngineGroup) => decide (p ∈ g.2.pairList)).map (·.2)

/-- MGR_PAIR_SET. A pair that already is as asked ends at once; one in the middle of a sequence is busy.
Log entry 83 (DESIGN CHOICE). -/
def Dev.mgrPairSet (m : Mbx) (d : Dev) : Dev :=
  let p := (m.req 1).fld 4 0
  let join := (m.req 1).bit 8
  sciCmd m 0x090A 1 pagesM
    (fun d =>
      let st := d.pairState p
      [ (rsvBad (m.req 1) 0x11F, .eParam), (decide (st = 4), .eState), (join && d.untwinnedPair p, .eState),
        (decide (st = 1) || decide (st = 3), .eBusy) ] ++
      (match d.pairGroup p with
       | some g => [(!join, if d.safetyEg g && decide (d.pers = .drive) then .eDenied else .eState)]
       | none => []))
    (fun d =>
      if d.pairState p = (if join then 2 else 0) then .okay (d.begin m 0x090A p)
      else
        let d := (d.begin m 0x090A p 0 false).setPairSt p { d.pairSt p with asked := true }
        .okay (if join then d.beginJoin p else d.beginSplit p).settle) d

def execMgrPairSet (m : Mbx) (s : State) : Host.Outcome State Fault Refusal := s.act m.t (Dev.mgrPairSet m)

/-! ### Bindings (R374, R375, R379) -/

def Dev.totalVf (d : Dev) (port : Nat) : Nat := d.boot.totalVf.getD port 0

/-- A binding of the table. -/
def Dev.bindExists (d : Dev) (kind idx : Nat) : Bool :=
  if kind = 0 then decide (idx < 3) else if kind = 1 then decide (idx < d.totalVf 0) else if kind = 2 then decide (idx < d.totalVf 1) else false

/-- The fabric master that a binding carries. -/
def Dev.bindMaster (d : Dev) (kind idx : Nat) : Nat :=
  if kind = 0 then 68 + idx else if kind = 1 then 128 + idx else 128 + d.totalVf 0 + idx

/-- What R374, R375 and R376 have against a binding for an instance of a partition. -/
def Dev.bindChecks (d : Dev) (kind idx pt : Nat) (self : Option Nat) : List (Bool × Status) :=
  let used := match d.boundTo kind idx with
    | some n => decide (some n ≠ self)
    | none => false
  [ (!d.bindExists kind idx || used, .eParam),
    (decide (kind = 0) && decide (idx < 3) &&
      (match d.part pt with
       | some p => p.worldO != d.getB aWorldHost idx
       | none => false), .eDenied) ]

/-- The registers of a binding: the master, and the map entry of a virtual function. -/
def Dev.bindRegs (d : Dev) (n kind idx pt : Nat) (on : Bool) : Dev :=
  let m := d.bindMaster kind idx
  let d := if on then d.setMaster m pt else d.clearMaster m
  if kind = 0 then d
  else d.setReg (aPcieVfmap (kind - 1) (idx + 1)) (if on then BitVec.ofNat 32 (64 + n % 64) else 0)

/-! ### MGR_INST_CREATE -/

/-- The 64 KiB units that a range of bytes touches, as first address and number. -/
def unitsOf (a n : Nat) : Nat × Nat := (alignDown a 65536, (alignUp (a + n) 65536 - alignDown a 65536) / 65536)

/-- The rings of the IP ports of a cluster, as units (R395). Log entry 82 (DESIGN CHOICE). -/
def Dev.ringsOf (d : Dev) (cluster : Nat) : List (Nat × Nat) :=
  (d.boot.ips.filter fun (p : Nat × IpCfg) => p.2.cluster = cluster).flatMap fun p =>
    [unitsOf p.2.rxRing (p.2.nent * 2048), unitsOf p.2.txRing (p.2.nent * 2048)]

/-- The granule that holds an address. -/
def granuleOf (a : Nat) : Nat × Bool :=
  if a < 4 * gib36 then (alignDown a 0x200000, false) else (0x5000000000 + alignDown (a - 0x5000000000) 0x800000, true)

/-- The granules that units at an address touch. -/
def granulesAt (a units : Nat) : List (Nat × Bool) := ((List.range units).map fun k => granuleOf (a + k * 65536)).eraseDups

/-- Every granule of the units is the partition's and free. -/
def Dev.unitsFree (d : Dev) (pt : Nat) (r : Nat × Nat) : Bool :=
  (match d.part pt with
   | some p => p.covers r.1 (r.2 * 65536)
   | none => false) && (granulesAt r.1 r.2).all fun g => d.granuleFree pt g.1

/-- An allocation at a fixed address: its granules are zeroed and become the instance's (R287, R395).
Log entry 82 (DESIGN CHOICE). -/
def Dev.allocAt (d : Dev) (n a units : Nat) (kind : AllocKind) : Dev :=
  let d := forEach (granulesAt a units) (fun g d =>
    let i := d.inst n
    if (i.winOff g.1).isSome then d
    else
      let per := if g.2 then 4 else 1
      let w := i.windowRun per
      let d := (d.zero g.1 (granuleBytes g.2)).markGranule g.1 false i.pt true n
      d.setInst n { i with window := forUpTo per (fun k (t : Tab WinGranule) => t.put (w + k) ⟨g.1 + k * 0x200000, g.2⟩) i.window }) d
  let i := d.inst n
  d.setInst n { i with allocs := i.allocs ++ [⟨a, units, ((i.winOff a).getD 0) / 65536, kind⟩] }

/-- The image that runs (R432). -/
def Dev.image (d : Dev) : FlashImage := if d.getB aBootStatus 11 then d.flash.imgB else d.flash.imgA

/-- A word of an image's header. -/
def FlashImage.word (f : FlashImage) (at_ : Nat) : Nat := leNat ((f.header.drop at_).take 4)

/-- The payload of a cluster (R417): its bytes. -/
def FlashImage.payload (f : FlashImage) (cluster : Nat) : List Byte :=
  (f.body.drop (f.word (16 + 16 * cluster))).take (f.word (20 + 16 * cluster))

/-- A cluster is released (R427): its payload is copied into the first units of the instance's memory. A cluster without a
payload, or whose instance has no memory for it, stays in reset. Log entry 82 (DESIGN CHOICE). -/
def Dev.release427 (d : Dev) (n cluster : Nat) : Dev :=
  let bs := d.image.payload cluster
  if bs.isEmpty then d
  else
    let s := (bs.length + 65535) / 65536
    if !(d.inst n).quotaFor (s * 65536) then d else
    match (List.range 4).findSome? fun k => d.allocate n false k s .boot with
    | some r => (r.2.wrN r.1.addr bs).setF (aRstDomCtrl (7 + cluster) + 4) 2 0 0
    | none => d

/-- The lowest FREE instance from 1 on. -/
def Dev.freeInst (d : Dev) : Option Nat := (List.range 64).find? fun n => decide (n ≠ 0) && decide ((d.page n).state = .free)

/-- The counters of an instance at creation are 0 (R473). -/
def Dev.clearCounters (d : Dev) (n : Nat) : Dev :=
  { d with cnts := d.cnts.filter fun (c : Nat × Counter) => c.1 / 4096 ∉ [0x40 + n, 0x80 + n, 0x100 + n] }

/-- The bytes that a partition's instances and their slack take (R384). -/
def Dev.promised (d : Dev) (pt : Nat) : Nat :=
  d.insts.foldl (fun s (i : Nat × Inst) =>
    if (d.page i.1).state ≠ .free ∧ i.2.pt = pt then s + i.2.quotaMiB * 2 ^ 20 + 0x1000000 else s) 0

/-- The bytes of a partition's ranges. -/
def Partition.bytes (p : Partition) : Nat := p.ranges.foldl (fun s r => s + (r.2 + 1 - r.1)) 0

/-- A fresh instance with its page, its binding, its rings and its cluster. -/
def Dev.createInst (d : Dev) (n : Nat) (i : Inst) (hb : Nat) : Dev :=
  let d := d.clearCounters n
  let d := { d with latches := d.latches.filter fun (l : Nat × Nat) => l.1 / 2 ^ 40 ≠ n + 1 }
  let d := (d.setPage n { hbPeriodMs := hb }).setInst n i
  let d := (d.bindRegs n i.bindKind i.bindIdx i.pt true).setState n .created
  if i.bindKind ≠ 0 then d
  else (forEach (d.ringsOf i.bindIdx) (fun r d => d.allocAt n r.1 r.2 .ring) d).release427 n i.bindIdx

/-- MGR_INST_CREATE. Log entry 74 (DESIGN CHOICE). -/
def Dev.mgrInstCreate (m : Mbx) (d : Dev) : Dev :=
  let kind := (m.req 1).fld 15 14
  let idx := (m.req 1).fld 13 8
  let pt := (m.req 1).fld 3 0
  let quota := (m.req 2).toNat
  let qs := (m.req 3).fld 12 0
  let cs := (m.req 4).fld 16 0
  let mask := (m.req 5).toNat
  let hb := (m.req 6).fld 13 0
  let len := (m.req 7).fld 14 0
  sciCmd m 0x0901 7 pagesM
    (fun d =>
      [ (rsvBad (m.req 1) 0xFF0F, .eParam), (rsvBad (m.req 3) 0x1FFF, .eParam), (rsvBad (m.req 4) 0x1FFFF, .eParam),
        (rsvBad (m.req 6) 0x3FFF, .eParam), (rsvBad (m.req 7) 0x7FFF, .eParam),
        (decide (qs < 1) || decide (4096 < qs), .eParam), (decide (cs < 1) || decide (65536 < cs), .eParam),
        (decide (hb ≠ 0) && (decide (hb < 10) || decide (10000 < hb)), .eParam),
        (decide (len ≠ 0) && (decide (len < 50) || decide (20000 < len)), .eParam),
        ((d.part pt).isSome && (maskBits mask 32).any fun g => decide ((d.eg? g).map (·.pt) ≠ some pt), .eParam),
        (decide (kind ≠ 0) && decide (2 ^ 30 * 2 ^ (d.boot.bar2.getD (kind - 1) 0) < quota * 2 ^ 20 + 0x1000000), .eParam),
        (d.trans.isSome && d.reported, .eBusy), (d.freeInst.isNone, .eNores), ((d.part pt).isNone, .eHandle) ] ++
      d.bindChecks kind idx pt none ++
      (match d.part pt with
       | some p =>
         let rings := if kind = 0 then d.ringsOf idx else []
         [ (decide (p.kind = .lease) && decide (d.pers ≠ .lease), .eState),
           (decide (p.bytes < d.promised pt + quota * 2 ^ 20 + 0x1000000), .eOvercommit),
           (!rings.all (d.unitsFree pt) || decide (quota * 2 ^ 20 < rings.foldl (fun s r => s + r.2 * 65536) 0), .eOvercommit) ]
       | none => []))
    (fun d =>
      match d.freeInst with
      | none => .fail d .eNores
      | some n =>
        let i : Inst := { worldO := ((d.part pt).map (·.worldO)).getD false, pt, bindKind := kind, bindIdx := idx, quotaMiB := quota,
                          qQuota := qs, ctxQuota := cs, egMask := mask, cmdlen := if len = 0 then 1000 else len }
        .okay (d.createInst n i (if hb = 0 then 100 else hb)).setupDone [BitVec.ofNat 32 n]) d

def execMgrInstCreate (m : Mbx) (s : State) : Host.Outcome State Fault Refusal := s.act m.t (Dev.mgrInstCreate m)

/-! ### The other instance commands -/

/-- What refuses an instance that a command names: INST0 (R376), or a state. -/
def Dev.instChecks (d : Dev) (n : Nat) (ok : InstState → Bool) : List (Bool × Status) :=
  [(decide (n = 0), .eDenied), (!ok (d.page n).state, .eState)]

/-- ACTIVE or ORPHANED. -/
def runsOrOrphan (s : InstState) : Bool := decide (s = .active) || decide (s = .orphaned)

/-- MGR_INST_DESTROY: the zeroing and the FREE state follow the condition of R386.
Log entry 74 (DESIGN CHOICE). -/
def Dev.mgrInstDestroy (m : Mbx) (d : Dev) : Dev :=
  let n := (m.req 1).fld 5 0
  sciCmd m 0x0902 1 pagesM
    (fun d => (rsvBad (m.req 1) 0x3F, .eParam) :: d.instChecks n fun s => decide (s ≠ .free))
    (fun d =>
      let st := (d.page n).state
      let d := d.begin m 0x0902 n 0 false
      let d := d.setInst n { d.inst n with destroy := true }
      .okay (if runsOrOrphan st || decide (st = .draining) then (d.beginSquash n).settle else d)) d

def execMgrInstDestroy (m : Mbx) (s : State) : Host.Outcome State Fault Refusal := s.act m.t (Dev.mgrInstDestroy m)

/-- MGR_INST_RESET. -/
def Dev.mgrInstReset (m : Mbx) (d : Dev) : Dev :=
  let n := (m.req 1).fld 5 0
  sciCmd m 0x0903 1 pagesM
    (fun d => (rsvBad (m.req 1) 0x13F, .eParam) :: d.instChecks n runsOrOrphan)
    (fun d => .okay ((d.begin m 0x0903 n 0 false).resetInst n ((m.req 1).bit 8))) d

def execMgrInstReset (m : Mbx) (s : State) : Host.Outcome State Fault Refusal := s.act m.t (Dev.mgrInstReset m)

/-- MGR_INST_ATTACH. -/
def Dev.mgrInstAttach (m : Mbx) (d : Dev) : Dev :=
  let n := (m.req 1).fld 5 0
  let kind := (m.req 1).fld 15 14
  let idx := (m.req 1).fld 13 8
  sciCmd m 0x0904 1 pagesM
    (fun d => (rsvBad (m.req 1) 0xFF3F, .eParam) :: d.instChecks n (fun s => decide (s = .orphaned)) ++
      d.bindChecks kind idx (d.inst n).pt (some n))
    (fun d =>
      let i := d.inst n
      let d := (d.bindRegs n i.bindKind i.bindIdx i.pt false).bindRegs n kind idx i.pt true
      .okay ((d.setInst n { i with bindKind := kind, bindIdx := idx }).setState n .created)) d

def execMgrInstAttach (m : Mbx) (s : State) : Host.Outcome State Fault Refusal := s.act m.t (Dev.mgrInstAttach m)

/-- MGR_EVICT. -/
def Dev.mgrEvict (m : Mbx) (d : Dev) : Dev :=
  let n := (m.req 1).fld 5 0
  let grace := (m.req 2).fld 9 0
  sciCmd m 0x0905 2 pagesM
    (fun d => [ (rsvBad (m.req 1) 0x3F, .eParam), (rsvBad (m.req 2) 0x3FF, .eParam), (decide (1000 < grace), .eParam),
        (decide ((d.part (d.inst n).pt).map (·.kind) ≠ some .lease), .eDenied), ((d.page n).evict, .eState) ] ++
      d.instChecks n runsOrOrphan)
    (fun d => .okay ((d.begin m 0x0905 n 0 false).notice n grace)) d

def execMgrEvict (m : Mbx) (s : State) : Host.Outcome State Fault Refusal := s.act m.t (Dev.mgrEvict m)

end Sys2Proof.Machine
end

