-- ==== Sys2Proof/Machine/Pages.lean ====
section
/-! DEFINITION. What a page holds besides its mailbox (R48): acknowledgements and the event ring (R50, R62), heartbeats (R58 to R61),
doorbells (R73 to R75, R98), the counter snapshot (R474 to R477), device time (R474, R483), the dirty log (R392, R393), and
DIAG_LOG_READ (R507). -/

namespace Sys2Proof.Machine

/-! ### Acknowledgement and event ring (R50, R62) -/

/-- A page that answers: its instance is not FREE. Log entry 11 (DEDUCED). -/
def Dev.pageLive (d : Dev) (k : Nat) : Bool := decide ((d.page k).state ≠ .free)

/-- A write of MBX_RSP_ACK. -/
def Dev.rspAck (d : Dev) (k : Nat) (v : Word) : Dev :=
  if d.pageLive k && v.bit 0 then d.setPage k { d.page k with valid := false } else d

/-- A write of EVT_RD: consumed records, or an MBX_PROTO event with ARG 3. -/
def Dev.evtRd (d : Dev) (k : Nat) (v : Word) : Dev :=
  if !d.pageLive k then d else
  let p := d.page k
  let n := v.fld 15 0
  if 32 < (p.evWr + 65536 - n) % 65536 then d.post k 11 3 0 else d.setPage k { p with evRd := n }

/-- MBX_RSP_ACK. -/
def execMbxRspAck (pg : Pg) (v : Word) (s : State) : Host.Outcome State Fault Refusal := s.act 0 fun d => d.rspAck (pgKey pg) v

/-- EVT_RD_WRITE. -/
def execEvtRdWrite (pg : Pg) (v : Word) (s : State) : Host.Outcome State Fault Refusal := s.act 0 fun d => d.evtRd (pgKey pg) v

/-! ### Heartbeats (R58 to R61) -/

/-- An instance becomes ORPHANED (R59): its running commands are killed, its serving ends. A command that waits for a re-run does
not run and is not killed, but its locks are released too: the rule names running commands alone. Log entry 117 (DESIGN CHOICE). -/
def Dev.orphan (d : Dev) (n : Nat) : Dev :=
  let cs := d.allCmds.filter fun c => decide (d.instOfQ c.1 = n)
  let d := forEach cs (fun c d =>
    if c.2.stage = .taken then d.updCmd c.1 c.2.seq fun x => { x with locked := false } else d.killRerun c.1 c.2.seq .orphan) d
  let d := d.endServing n
  (d.setState n .orphaned).settle

/-- The end of a heartbeat period of an ACTIVE page. Sebry judges it, so nothing is judged while CPA is lost (R273).
Log entry 86 (DESIGN CHOICE). -/
def Dev.heartbeatEnd (d : Dev) (k : Nat) : Dev :=
  let p := d.page k
  if p.state ≠ .active ∨ d.cpaLost.isSome ∨ d.now < p.tOpen + (p.hbPeriods + 1) * p.hbPeriodMs * 1000000 then d else
  let p := { p with hbPeriods := p.hbPeriods + 1, hbWrote := false }
  if (d.page k).hbWrote then d.setPage k { p with hbMissed := 0, hbSeen := p.heartbeat }
  else
    let n := p.hbMissed + 1
    let d := d.setPage k { p with hbMissed := n }
    if n < 3 then d.post k 8 n 0
    else if k = 64 then d.setPage 64 { d.page 64 with state := .orphaned }
    else d.orphan k

/-- HEARTBEAT_PERIOD_END. -/
def execHeartbeatPeriodEnd (pg : Pg) (t : Nat) (s : State) : Host.Outcome State Fault Refusal := s.act t fun d => d.heartbeatEnd (pgKey pg)

/-- FW_HEARTBEAT (R48): Sebry counts 10 ms on every page that is not FREE. -/
def execFwHeartbeat (t : Nat) (s : State) : Host.Outcome State Fault Refusal :=
  s.act t fun d =>
    if d.cpaLost.isSome then d
    else forEach (d.pages.keys.filter d.pageLive) (fun k d => d.setPage k { d.page k with fwHeartbeat := (d.page k).fwHeartbeat + 1 }) d

/-! ### Doorbells (R73 to R75) -/

/-- A doorbell write that reaches TAIL. Log entry 11 (DEDUCED). -/
def Dev.doorbell (d : Dev) (n dbidx : Nat) (v : Word) : Dev :=
  let stray (d : Dev) : Dev := if d.pageLive n then d.countInst n 10 else d
  match (d.inst n).doorbells.look dbidx with
  | none => stray d
  | some q =>
    match d.queue? q with
    | none => stray d
    | some x =>
      if (d.page n).state ≠ .active then stray d else
      let m := 2 ^ 32
      let old := (x.tail + m - x.head) % m
      let new := (v.toNat + m - x.head) % m
      if old ≤ new ∧ new ≤ 2 ^ x.log2n then
        if v.toNat = x.tail then d else
        let d := d.setQueue q { x with tail := v.toNat }
        let d := match d.ctx? x.ctx with
          | some c => d.setCtx x.ctx { c with lastUse := d.now }
          | none => d
        (d.unpark x.ctx).settle
      else d.halt q 3

/-- DOORBELL_WRITE: a 32-bit write of the offset, or a 64-bit write; one of the offset + 4 alone has no effect. -/
def execDoorbellWrite (inst : Fin 64) (dbidx : Fin 4096) (wide hiHalf : Bool) (v : Dword) (t : Nat) (s : State) :
    Host.Outcome State Fault Refusal :=
  s.act t fun d => if hiHalf && !wide then d else d.doorbell inst.val dbidx.val (v.setWidth 32)

/-- CONTEXT_UNPARK (R98): a parked context with an accepted doorbell. -/
def execContextUnpark (ctx : Half) (t : Nat) (s : State) : Host.Outcome State Fault Refusal :=
  s.act t fun d =>
    let c := ctx.toNat
    let rung := (d.queuesOf c).any fun q => (d.queue? q).any fun x => decide (x.head ≠ x.tail)
    if rung then (d.unpark c).settle else d

/-! ### The counter snapshot (R474 to R477) -/

/-- The entries of a group, the injected twins at index + 1,024 among them (R477, R478).
Log entry 85 (DESIGN CHOICE). -/
def groupSize (g : Nat) : Option Nat :=
  if g = 0x00 then some 19 else if g = 0x01 then some 11 else if g = 0x02 then some 1031 else if g = 0x03 then some 1056
  else if g = 0x04 then some 368 else if g = 0x05 then some 640 else if g = 0x06 then some 1824 else if g = 0x07 then some 80
  else if g = 0x08 then some 128 else if g = 0x09 then some 1792 else if g = 0x0A then some 2048
  else if 0x40 ≤ g ∧ g < 0x80 then some 11 else if 0x80 ≤ g ∧ g < 0xC0 then some 19 else none

/-- Where the model keeps a group that a page names: an instance's own groups by its number. -/
def groupKey (n g : Nat) : Nat := if g = 0 then 0x80 + n else if g = 1 then 0x40 + n else if g = 2 then 0x100 + n else g

/-- An entry that holds a greatest value seen (R472). -/
def isMax (g i : Nat) : Bool :=
  if g = 0 ∨ 0x80 ≤ g then decide (i = 14) else if g = 3 then decide (1024 ≤ i) && decide ((i - 1024) % 8 = 2)
  else if g = 4 then decide (i % 8 = 4) else if g = 5 then decide (i % 5 = 4) else if g = 7 then decide (i % 16 = 9) else false

/-- The page may capture a group, may clear it. -/
def mayCapture (k g : Nat) : Bool := decide (k = 64) || decide (g ≤ 2)
def mayClear (k g : Nat) : Bool := decide (k = 64) || decide (g = 0) || decide (g = 2)

/-- Counts of events that are no rows of the table, brought up to the capture as free values: units of armed entries of links
(R447) in the device group, and writes to the dirty bitmaps (R393) in the host group.
Log entry 85 (DESIGN CHOICE). -/
def Dev.openCounts (d : Dev) (n g : Nat) : Dev :=
  if g = 0x0A then
    forUpTo 16 (fun e d =>
      if d.fiArmed && d.getB (aFiEnt e 0) 31 && decide (d.getF (aFiEnt e 0) 25 24 = 0) then d.countFree 0x0A (144 + 2 * e) else d) d
  else if g = 3 then forUpTo 64 (fun e d => d.dutyCount e) d
  else if decide (g = 2) && (d.page n).dl.en then d.countFree (0x100 + n) 5
  else d

/-- CNT_SNAPSHOT (R71, R475). Log entry 85 (DESIGN CHOICE). -/
def Dev.cntSnapshot (m : Mbx) (d : Dev) : Dev :=
  let g := (m.req 1).fld 7 0
  let k := pgKey m.page
  sciCmd m 0x0A01 1 pagesIM
    (fun _ => [ (rsvBad (m.req 1) 0xFF, .eParam), ((groupSize g).isNone, .eParam), (!mayCapture k g, .eDenied) ])
    (fun d =>
      let key := groupKey (pgInst m.page) g
      let d := d.openCounts (pgInst m.page) g
      let es := (List.range ((groupSize g).getD 0)).map fun i => let c := d.cnt key i; (c.val, c.ovf)
      .okay (d.setPage k { d.page k with snap := { valid := true, group := g, time := d.now, entries := es, cleared := [] } })) d

def execCntSnapshot (m : Mbx) (s : State) : Host.Outcome State Fault Refusal := s.act m.t (Dev.cntSnapshot m)

/-- One entry of a page's snapshot cleared from the live counter (R476). -/
def Dev.clearEntry (d : Dev) (k i : Nat) : Dev :=
  let p := d.page k
  let g := p.snap.group
  match p.snap.entries[i]? with
  | none => d
  | some (v, ovf) =>
    if !p.snap.valid || decide (i ∈ p.snap.cleared) || !mayClear k g then d else
    let key := groupKey (if k = 64 then 0 else k) g
    let d := d.setPage k { p with snap := { p.snap with cleared := i :: p.snap.cleared } }
    let c := d.cnt key i
    let c := if isMax g i then { c with val := 0 } else if ovf then { val := 0, ovf := false } else { c with val := c.val - v }
    { d with cnts := d.cnts.put (cntKey key i) (if ovf then { c with ovf := false } else c) }

/-- A write of SNAP_CLEAR. -/
def Dev.snapClear (d : Dev) (k : Nat) (v : Word) : Dev :=
  if !d.pageLive k then d
  else if v.bit 12 then forUpTo (d.page k).snap.entries.length (fun i d => d.clearEntry k i) d
  else d.clearEntry k (v.fld 11 0)

/-- SNAP_CLEAR. -/
def execSnapClear (pg : Pg) (v : Word) (s : State) : Host.Outcome State Fault Refusal := s.act 0 fun d => d.snapClear (pgKey pg) v

/-- The words of a log entry (R507). -/
def LogEntry.words (e : LogEntry) : List Word :=
  dwordWords e.time ++ [BitVec.ofNat 32 (b2n e.inj * 65536 + e.kind % 256 * 256 + e.code % 256), BitVec.ofNat 32 e.subject] ++
  dwordWords e.addr ++ [BitVec.ofNat 32 e.detail, 0]

/-- DIAG_LOG_READ (R71, R507). -/
def Dev.diagLogRead (m : Mbx) (d : Dev) : Dev :=
  let a := addrOf (m.req 1) (m.req 2)
  let n := (m.req 3).toNat
  sciCmd m 0x0A02 3 pagesVM
    (fun d => [(!(d.inst (pgInst m.page)).owns a (32 * n), .eParam)])
    (fun d =>
      let es := d.log.take n
      let d := d.wrWords a (es.flatMap LogEntry.words)
      .okay { d with log := d.log.drop n } [BitVec.ofNat 32 es.length]) d

def execDiagLogRead (m : Mbx) (s : State) : Host.Outcome State Fault Refusal := s.act m.t (Dev.diagLogRead m)

/-! ### Register pairs whose low word latches the high one (R43, R371, R474, R483) -/

/-- The slot of a latch: a page's DEV_TIME, CNT_TIME, WHL_EPOCH, SW_GPTP_OFS. -/
def latchKey (slot master : Nat) : Nat := slot * 2 ^ 40 + master

/-- The pair at the address of a low word, as (slot, value). -/
def Dev.latchPair (d : Dev) (a : Nat) : Option (Nat × Nat) :=
  if a = aCntTimeLo then some (0, d.now)
  else if a = aWhlEpochLo then some (70, d.pair aWhlEpochLo aWhlEpochHi)
  else if a = aSwOfsLo then some (71, d.pair aSwOfsLo aSwOfsHi)
  else if 0x7E00000000 ≤ a ∧ a < 0x7E00410000 ∧ a % 65536 = 0xA020 then
    let k := (a - 0x7E00000000) / 65536
    if d.pageLive k then some (k + 1, d.now) else none
  else none

/-- A master's number as a latch keeps it; CPA and CPB share one (R294). A function of PCIe is told apart by port and number. -/
def latchMaster : Master → Nat
  | .cpa | .cpb => 71
  | .core n => 68 + n.val / 8
  | .pcie p f => 128 + p.val * 128 + f.val
  | .dbg => 71

/-- A read of a low word: its value, and the high word latched for the master. -/
def Dev.readLo (d : Dev) (a : Nat) (m : Master) : Dev :=
  match d.latchPair a with
  | some (slot, v) =>
    { d with latches := d.latches.put (latchKey slot (latchMaster m)) (v / 2 ^ 32), lastAcc := .read (leBytes 4 v) }
  | none => d

/-- TIME_LO_READ. -/
def execTimeLoRead (addr : Nat) (m : Master) (s : State) : Host.Outcome State Fault Refusal := s.act 0 fun d => d.readLo addr m

/-! ### The dirty log (R392, R393) -/

def Dev.setDl (d : Dev) (k : Nat) (l : DirtyLog) : Dev := d.setPage k { d.page k with dl := l }

/-- An enable that R393 item 2 accepts. -/
def Dev.dlOk (d : Dev) (k : Nat) (l : DirtyLog) : Bool :=
  let i := d.inst (if k = 64 then 0 else k)
  decide (l.base0 % 64 = 0) && decide (l.base1 % 64 = 0) && decide (1 ≤ l.len) && decide (l.len ≤ 65536) &&
  i.owns l.base0 (l.len * 64) && i.owns l.base1 (l.len * 64) && !rangesMeet l.base0 (l.len * 64) l.base1 (l.len * 64)

/-- A write of DL_CTRL.EN. A write of 1 while logging runs changes nothing. Log entry 86 (DESIGN CHOICE). -/
def Dev.dlEnable (d : Dev) (k : Nat) (en : Bool) : Dev :=
  let l := (d.page k).dl
  if !d.pageLive k then d
  else if !en then (if l.en && decide (k < 64) then d.countFree (0x100 + k) 5 else d).setDl k { l with en := false, swapBusy := false }
  else if l.en then d
  else if d.dlOk k l then d.setDl k { l with en := true, active1 := false }
  else d.setDl k { l with cfgErr := true }

/-- A write of DL_CTRL.SWAP. -/
def Dev.dlSwap (d : Dev) (k : Nat) : Dev :=
  let l := (d.page k).dl
  if l.en && !l.swapBusy then d.setDl k { l with active1 := !l.active1, swapBusy := true } else d

/-- DL_ENABLE. -/
def execDlEnable (inst : Fin 64) (v : Word) (s : State) : Host.Outcome State Fault Refusal := s.act 0 fun d => d.dlEnable inst.val (v.bit 0)

/-- DL_SWAP. -/
def execDlSwap (inst : Fin 64) (s : State) : Host.Outcome State Fault Refusal := s.act 0 fun d => d.dlSwap inst.val

/-- DL_SWAP_DONE. -/
def execDlSwapDone (inst : Fin 64) (s : State) : Host.Outcome State Fault Refusal :=
  s.act 0 fun d =>
    let l := (d.page inst.val).dl
    if l.swapBusy then (d.setDl inst.val { l with swapBusy := false, gen := (l.gen + 1) % 65536 }).countHost inst.val 6 else d

/-! ### Page registers as a host reads and writes them (R48) -/

/-- A word of a page, by offset; a FREE page reads 0. DEV_TIME's words depend on the master. -/
def Dev.pageWord (d : Dev) (k off : Nat) (m : Master) : Word :=
  let p := d.page k
  if !d.pageLive k then 0
  else if off = 0 then d.instId k
  else if off = 4 then d.instState k
  else if off = 8 then 0x00020004
  else if 0x100 ≤ off ∧ off < 0x140 then p.req.lookD ((off - 0x100) / 4) 0
  else if off = 0x140 then BitVec.ofNat 32 (b2n p.go)
  else if 0x180 ≤ off ∧ off < 0x1C0 then p.rsp.lookD ((off - 0x180) / 4) 0
  else if off = 0x1C0 then BitVec.ofNat 32 (p.rspStatus % 65536 * 65536 + p.rspTag % 256 * 256 + b2n p.valid)
  else if off = 0x200 then p.heartbeat
  else if off = 0x204 then p.fwHeartbeat
  else if 0x1000 ≤ off ∧ off < 0x9000 then
    (if k = 64 then 0 else
    match ((d.inst k).doorbells.look ((off - 0x1000) / 8)).bind d.queue? with
    | some q => BitVec.ofNat 32 (if off % 8 = 0 then q.tail else q.head)
    | none => 0)
  else if off = 0x9000 then p.evStatus
  else if off = 0x9004 then p.evMask
  else if off = 0x9008 then BitVec.ofNat 32 p.evWr
  else if off = 0x900C then BitVec.ofNat 32 p.evRd
  else if 0x9100 ≤ off ∧ off < 0x9300 then (p.ring.lookD ((off - 0x9100) / 16) []).getD (off % 16 / 4) 0
  else if off = 0xA000 then BitVec.ofNat 32 (p.snap.entries.length % 4096 * 65536 + b2n p.snap.valid * 256 + p.snap.group)
  else if off = 0xA008 then BitVec.ofNat 32 p.snap.time
  else if off = 0xA00C then BitVec.ofNat 32 (p.snap.time / 2 ^ 32)
  else if off = 0xA020 then BitVec.ofNat 32 d.now
  else if off = 0xA024 then BitVec.ofNat 32 (d.latches.lookD (latchKey (k + 1) (latchMaster m)) 0)
  else if 0xA040 ≤ off ∧ off < 0xF000 then
    match p.snap.entries[(off - 0xA040) / 8]? with
    | some (v, o) => BitVec.ofNat 32 (if off % 8 = 0 then v else v / 2 ^ 32 + b2n o * 2 ^ 31)
    | none => 0
  else if off = 0xF000 then BitVec.ofNat 32 (b2n p.dl.en)
  else if off = 0xF004 then BitVec.ofNat 32 p.dl.base0
  else if off = 0xF008 then BitVec.ofNat 32 (p.dl.base0 / 2 ^ 32)
  else if off = 0xF00C then BitVec.ofNat 32 p.dl.base1
  else if off = 0xF010 then BitVec.ofNat 32 (p.dl.base1 / 2 ^ 32)
  else if off = 0xF014 then BitVec.ofNat 32 p.dl.len
  else if off = 0xF018 then
    BitVec.ofNat 32 (p.dl.gen % 65536 * 65536 + b2n p.dl.cfgErr * 16 + b2n p.dl.lost * 8 + b2n p.dl.ovf * 4 + b2n p.dl.swapBusy * 2 + b2n p.dl.active1)
  else 0

/-- A write of DL_BASE or DL_LEN: none while EN is 1, which sets CFG_ERR (R393). -/
def DirtyLog.setField (l : DirtyLog) (off : Nat) (v : Word) : DirtyLog :=
  if l.en then { l with cfgErr := true }
  else if off = 0xF004 then { l with base0 := l.base0 / 2 ^ 32 * 2 ^ 32 + v.toNat }
  else if off = 0xF008 then { l with base0 := l.base0 % 2 ^ 32 + v.fld 7 0 * 2 ^ 32 }
  else if off = 0xF00C then { l with base1 := l.base1 / 2 ^ 32 * 2 ^ 32 + v.toNat }
  else if off = 0xF010 then { l with base1 := l.base1 % 2 ^ 32 + v.fld 7 0 * 2 ^ 32 }
  else { l with len := v.fld 16 0 }

/-- A word written to a page by its host, but for a submission of the mailbox (R48, R51).
Log entry 11 (DEDUCED). -/
def Dev.pageWrite (d : Dev) (k off : Nat) (v : Word) : Dev :=
  let p := d.page k
  if !d.pageLive k then d
  else if 0x100 ≤ off ∧ off < 0x140 then
    (if p.go then d.post k 11 1 0 else d.setPage k { p with req := p.req.put ((off - 0x100) / 4) v })
  else if off = 0x1C4 then d.rspAck k v
  else if off = 0x200 then d.setPage k { p with heartbeat := v, hbWrote := p.hbWrote || decide (v ≠ p.hbSeen) }
  else if 0x1000 ≤ off ∧ off < 0x9000 then
    (if k = 64 ∨ off % 8 ≠ 0 then d else d.doorbell k ((off - 0x1000) / 8) v)
  else if off = 0x9000 then d.setPage k { p with evStatus := p.evStatus &&& ~~~ v }
  else if off = 0x9004 then d.setPage k { p with evMask := v &&& 0x1FFFE#32 }
  else if off = 0x900C then d.evtRd k v
  else if off = 0xA010 then d.snapClear k v
  else if off = 0xF000 then
    let d := d.dlEnable k (v.bit 0)
    if v.bit 1 then d.dlSwap k else d
  else if 0xF004 ≤ off ∧ off < 0xF018 then d.setDl k (p.dl.setField off v)
  else if off = 0xF018 then
    d.setDl k { p.dl with cfgErr := p.dl.cfgErr && !v.bit 4, lost := p.dl.lost && !v.bit 3, ovf := p.dl.ovf && !v.bit 2 }
  else d

end Sys2Proof.Machine
end

