-- ==== Sys2Proof/Machine/Serve.lean ====
section
/-! DEFINITION. The serving service (R236 to R239): requests, the step, and the sampling of tokens. -/

namespace Sys2Proof.Machine

/-! ### Sampling (R238) -/

/-- The draw of R238 from scores in the merged order; `pick` takes its place where no cumulative sum reaches
the bound. Log entry 34 (DESIGN CHOICE). -/
def drawToken (cs : List (Ext × Nat)) (temp topP : Ext) (h : Word) (pick : Nat) : Nat :=
  let z := cs.map fun c => div32 c.1 temp
  let z0 := z.headD .zero
  let e := z.map fun x => exp32 (sub32 x z0)
  let cum := (e.foldl (fun (acc : List Ext × Ext) x => let s := add32 acc.2 x; (acc.1 ++ [s], s)) ([], .zero)).1
  let bound := mul32 topP (cum.getLastD .zero)
  match (List.range cum.length).find? fun j => bound.le (cum.getD j .nan) with
  | none => ((cs[pick % cs.length]?).map (·.2)).getD 0
  | some jmax =>
    let target := rne32 (((Ext.ofInt h.toNat).mul (.pow2 (-32))).mul (cum.getD jmax .zero))
    match (List.range (jmax + 1)).find? fun j => target.lt (cum.getD j .nan) with
    | some j => ((cs[j]?).map (·.2)).getD 0
    | none => ((cs[pick % cs.length]?).map (·.2)).getD 0

/-- R238: the token that a sequence draws from its logits at a position; none where no logit is a number. -/
def sampleToken (s : Seq) (logits : List Ext) (pos pick : Nat) : Option Nat :=
  let all := topSelect logits (.inf true) (if s.topK = 0 then 4096 else s.topK)
  match all with
  | [] => none
  | c :: _ =>
    if s.temp = 0 then some c.2
    else
      let p := if s.topP = 0 then Ext.one else fp32.decode s.topP.toNat
      some (drawToken all (fp32.decode s.temp.toNat) p (srHash (s.seed ^^^ s.reqId) pos 0) pick)

/-! ### Requests (R236, R237 item 2) -/

/-- The request record at an address, and whether every field is in range. -/
def Dev.requestAt (d : Dev) (n : Nat) (sv : ServeCfg) (a : Nat) (slot : Nat) : Seq × Bool :=
  let w (i : Nat) : Word := d.rd32 (a + 4 * i)
  let paddr := dword (w 1) (w 2)
  let plen := (w 3).toNat
  let maxNew := (w 4).fld 15 0
  let nstop := (w 9).fld 2 0
  let topP := fp32.decode (w 7).toNat
  let inside := decide (plen ≤ 16 * sv.maxp) && (d.inst n).owns paddr (4 * plen)
  let prompt := if inside then (d.rdWords paddr plen).map (·.toNat) else []
  let stops := (List.range (min nstop 4)).map fun i => (w (10 + i)).toNat
  let ok :=
    inside && !rsvBad (w 2) 0xFF && decide (1 ≤ plen) && !rsvBad (w 4) 0xFFFF && decide (1 ≤ maxNew) &&
    !rsvBad (w 6) 0x1FFF && decide ((w 6).fld 12 0 ≤ 4096) && (decide (w 7 = 0) || (Ext.zero.lt topP && topP.le .one)) &&
    !rsvBad (w 9) 7 && decide (nstop ≤ 4) && decide (w 14 = 0) && decide (w 15 = 0) &&
    (prompt.all fun t => decide (t < sv.vocab)) && (stops.all fun t => decide (t < sv.vocab)) &&
    decide (plen + maxNew ≤ 16 * sv.maxp)
  ({ reqId := w 0, prompt, maxNew, temp := w 5, topK := (w 6).fld 12 0, topP := w 7, seed := w 8, stops, slot }, ok)

/-- Response entries that the host has released. -/
def Dev.released (d : Dev) (rspQ : Nat) : Nat :=
  match d.queue? rspQ with
  | some q => (q.tail + 2 ^ 32 - q.head) % 2 ^ 32
  | none => 0

/-! ### Pages (R237 items 1 and 3, R185) -/

/-- The KV_APPEND nodes of a graph as commands, each table once. -/
def Graph.appends (g : Graph) : List Cmd :=
  (g.nodes.map (nodeCmd g.bufs)).filter fun c => decide (c.op = 0x0301)

/-- The sequence slots that every table of a graph holds. -/
def Graph.seqSlots (g : Graph) : Nat :=
  g.appends.foldl (fun n c => min n ((c.region c.kvSeqReg).len / seqBytes c.kvMaxp)) 256

/-- A sequence truncated to length 0 in every table: its pages go back, its entries become invalid.
Log entry 33 (DESIGN CHOICE). -/
def Dev.truncSeq (d : Dev) (q : Nat) (g : Graph) (slot : Nat) : Dev :=
  forEach g.appends (fun c d =>
    match d.kvPool q c with
    | none => d
    | some pl =>
      let n := cdiv (d.seqLen c slot) 16
      let d := forUpTo n (fun i d =>
        let w := d.pte c slot i
        let d := if w.bit 31 && decide (d.pageState c.kvDie pl (w.fld 17 0) = 2) then d.pushPage c.kvDie pl (w.fld 17 0) else d
        d.wr32 (c.seqAddr slot + 16 + 4 * i) 0) d
      d.wr32 (c.seqAddr slot) 0) d

/-! ### The row map (R237 item 4) -/

/-- The tokens of a sequence that are known. -/
def Seq.tokens (s : Seq) : List Nat := s.prompt ++ s.out

/-- The rows that a sequence contributes: its next tokens, up to PCHUNK; one once its prompt is done. -/
def Seq.rows (s : Seq) (idx pchunk : Nat) : List Row :=
  let ts := (s.tokens.drop s.fed).take pchunk
  ts.zipIdx.map fun t => ⟨idx, s.slot, t.1, decide (s.fed + t.2 + 1 = s.tokens.length)⟩

/-- The rows of a step. A sequence for which no response entry is left among the released ones, or for which the token and map
buffers have no room, contributes none. One that stays in its prompt leaves its entry for the next. Log entry 33 (DESIGN CHOICE). -/
def stepRows (batch : List Seq) (pchunk released cap : Nat) : List Row :=
  (batch.zipIdx.foldl (fun (acc : List Row × Nat) x =>
    let rs := x.1.rows x.2 pchunk
    let need := if rs.any (·.last) then 1 else 0
    if released ≤ acc.2 ∨ cap < acc.1.length + rs.length then acc else (acc.1 ++ rs, acc.2 + need)) ([], 0)).1

/-- The rows written into the token input and the row map. -/
def Dev.writeRows (d : Dev) (g : Graph) (sv : ServeCfg) (rows : List Row) : Dev :=
  match g.bufs[sv.tokBuf]?, g.bufs[sv.rowBuf]? with
  | some t, some r =>
    (d.wrWords t.addr (rows.map fun x => BitVec.ofNat 32 x.token)).wrWords r.addr (rows.map fun x => BitVec.ofNat 32 (x.slot % 2 ^ 24))
  | _, _ => d

/-- A node with its rows cut to the step's (log entry 33): class 0x01, KV_APPEND, ATTENTION and the row kernels.
Log entry 33 (DESIGN CHOICE). -/
def Cmd.withRows (c : Cmd) (n : Nat) : Cmd :=
  if c.cls = 1 ∨ c.op = 0x0301 ∨ c.op = 0x0302 ∨ (0x0401 ≤ c.op ∧ c.op ≤ 0x0406) then
    let m := min n ((c.p 1).fld 19 0)
    let w := (c.p 1).put 19 0 m
    { c with params := c.params.take 4 ++ leBytes 4 w.toNat ++ c.params.drop 8 }
  else c

/-- The step's KV_APPENDs find their pages free. -/
def Dev.pagesFor (d : Dev) (q : Nat) (g : Graph) (n : Nat) : Bool :=
  let needs := g.appends.filterMap fun c =>
    let c := c.withRows n
    (d.kvPool q c).map fun pl => (c.kvDie, pl, (d.kvNeeds c).length)
  needs.all fun x =>
    decide ((needs.filter fun y => decide (y.1 = x.1) && decide (y.2.1 = x.2.1)).foldl (fun n y => n + y.2.2) 0
      ≤ (d.stackOfPool x.1 x.2.1).length)

/-- R237 items 3 and 4: the rows of the step, after the most recently admitted sequences have given way until
its pages are free. Log entry 33 (DESIGN CHOICE). -/
def Dev.planRows (d : Dev) (n q : Nat) (g : Graph) (cfg : ServeCfg) (cap : Nat) : Nat → Dev × List Row
  | 0 => (d, [])
  | fuel + 1 =>
    match d.serving.look n with
    | none => (d, [])
    | some sv =>
      let rows := stepRows sv.batch cfg.pchunk (d.released sv.rspQ) cap
      let e := d.writeRows g cfg rows
      if e.pagesFor q g rows.length then (e, rows)
      else
        match sv.batch.getLast? with
        | none => (d, [])
        | some s =>
          let d := d.truncSeq q g s.slot
          let sv := { sv with batch := sv.batch.dropLast, requeued := { s with fed := 0 } :: sv.requeued }
          { d with serving := d.serving.put n sv }.planRows n q g cfg cap fuel

/-! ### Running the model (R237 item 5) -/

/-- The nodes of a step as commands that carry the run number 0, cut to the step's rows. A part with no row of the step is none.
Log entry 33 (DESIGN CHOICE). -/
def Graph.stepCmds (g : Graph) (h rows now : Nat) : List Cmd :=
  (g.nodes.zipIdx.flatMap fun n => g.partCmds n.2 ((g.cmdOf h 0 n.2 n.1 now).withRows rows)).filter fun c =>
    !(decide (c.cls = 1) || decide (c.cls = 4)) || decide (c.rowList c.gx.m ≠ [])

/-- The sort units of the four dies stand idle, so that sampling takes them (R216, R238).
Log entry 33 (DESIGN CHOICE). -/
def Dev.sortsIdle (d : Dev) : Bool :=
  (List.range 4).all fun die => decide (d.getF (aSortStatus die) 7 4 = 0) && d.getB (aSortCtrl die) 0

/-- The logits of row r: VOCAB consecutive FP32 values for each row. -/
def Dev.logits (d : Dev) (g : Graph) (sv : ServeCfg) (r : Nat) : List Ext :=
  match g.bufs[sv.logBuf]? with
  | some b => (d.rdWords (b.addr + r * sv.vocab * 4) sv.vocab).map fun w => fp32.decode w.toNat
  | none => []

/-- A row's token is sampled, recorded and kept with its sequence. -/
def Dev.emit (d : Dev) (n : Nat) (g : Graph) (cfg : ServeCfg) (r : Nat) (row : Row) : Dev :=
  match d.serving.look n with
  | none => d
  | some sv =>
    match sv.batch[row.idx]? with
    | none => d
    | some s =>
      let pos := s.tokens.length
      let pick := d.fresh
      let put (d : Dev) (s : Seq) : Dev := { d with serving := d.serving.put n { sv with batch := listSet sv.batch row.idx s } }
      match sampleToken s (d.logits g cfg r) pos pick.1 with
      | none => put (d.respond sv.rspQ s.reqId 0 pos 6) { s with ended := 6 }
      | some t =>
        let out := s.out ++ [t]
        let e :=
          if t = cfg.eos ∨ t ∈ s.stops then 1
          else if s.maxNew ≤ out.length then 2
          else if 16 * cfg.maxp ≤ s.prompt.length + out.length then 3
          else 0
        (put (pick.2.respond sv.rspQ s.reqId t pos e) { s with out, ended := e }).countAcct n 6 1

/-- Items 1 and 2 of R237: ended sequences leave, requests are taken.
Log entries 34 (DESIGN CHOICE), 111 (DESIGN CHOICE). -/
def Dev.admits (d : Dev) (n q : Nat) (g : Graph) (cfg : ServeCfg) : Nat → Dev
  | 0 => d
  | fuel + 1 =>
    match d.serving.look n with
    | none => d
    | some sv =>
      let free := (List.range g.seqSlots).find? fun k => sv.batch.all (fun s => decide (s.slot ≠ k))
      match free, decide (sv.batch.length < sv.maxBatch) with
      | some slot, true =>
        match sv.requeued with
        | s :: rest =>
          { d with serving := d.serving.put n { sv with batch := sv.batch ++ [{ s with slot }], requeued := rest } }.admits n q g cfg fuel
        | [] =>
          if sv.stopping || (d.page n).evict || decide ((d.page n).state ≠ .active) then d else
          match d.queue? sv.reqQ with
          | none => d
          | some x =>
            if x.head = x.tail then d else
            let r := d.requestAt n cfg (x.entry x.head) slot
            let took := d.setQueue sv.reqQ { x with head := (x.head + 1) % 2 ^ 32 }
            if r.2 then
              let took := forEach g.appends (fun c d => d.wr32 (c.seqAddr slot) 0) took
              { took with serving := took.serving.put n { sv with batch := sv.batch ++ [r.1] } }.admits n q g cfg fuel
            else if d.released sv.rspQ = 0 then d
            else ((took.respond sv.rspQ r.1.reqId 0 0 4).countAcct n 8 1).admits n q g cfg fuel
      | _, _ => d

/-- Ended sequences release their pages and leave the batch. -/
def Dev.dropEnded (d : Dev) (n q : Nat) (g : Graph) : Dev :=
  match d.serving.look n with
  | none => d
  | some sv =>
    let d := forEach (sv.batch.filter fun s => decide (s.ended ≠ 0)) (fun s d => d.truncSeq q g s.slot) d
    { d with serving := d.serving.put n { sv with batch := sv.batch.filter fun s => decide (s.ended = 0) } }

/-- The service ends when SERVE_STOP has been accepted, no sequence is left and no record is owed; the command is then done. -/
def Dev.serveEnd (d : Dev) (n : Nat) : Dev :=
  match d.serving.look n with
  | none => d
  | some sv =>
    if sv.stopping && sv.batch.isEmpty && sv.requeued.isEmpty && sv.owed.isEmpty && sv.rows.isEmpty then
      d.endServing n
    else d

/-- Items 1 to 4 of R237, and the submission of the step's nodes. Log entry 111 (DESIGN CHOICE). -/
def Dev.stepBegin (d : Dev) (n : Nat) (sv : Serving) (g : Graph) (cfg : ServeCfg) : Dev :=
  let d := (d.dropEnded n g.queue g).admits n g.queue g cfg 512
  let cap (i : Nat) : Nat := ((g.bufs[i]?).map (·.size / 4)).getD 0
  let p := d.planRows n g.queue g cfg (min (cap cfg.tokBuf) (cap cfg.rowBuf)) 512
  if p.2 = [] then p.1.serveEnd n
  else
    let d : Dev := { p.1 with serving := p.1.serving.adjust n fun v => { v with rows := p.2 } }
    d.submitCmds g.queue (g.stepCmds sv.graph p.2.length d.now) false

/-- The end of a step whose nodes have pressed: the sort units sample a token for each sequence that has finished its prompt. Log entry 33
(DESIGN CHOICE). -/
def Dev.stepEnd (d : Dev) (n : Nat) (sv : Serving) (g : Graph) (cfg : ServeCfg) : Dev :=
  let rows (i : Nat) : Nat := (sv.rows.filter fun (r : Row) => decide (r.idx = i)).length
  let npr := sv.batch.zipIdx.foldl (fun k s => k + min (s.1.prompt.length - s.1.fed) (rows s.2)) 0
  let d := { d with serving := d.serving.put n { sv with
    rows := [], batch := sv.batch.zipIdx.map fun (s : Seq × Nat) => { s.1 with fed := s.1.fed + rows s.2 } } }
  let d := sv.rows.zipIdx.foldl (fun d r => if r.1.last then d.emit n g cfg r.2 r.1 else d) d
  let d := forUpTo 4 (fun die d => d.count 0x03 (1024 + 8 * die) 1) d
  ((d.countAcct n 5 1).countAcct n 7 npr).serveEnd n

/-- What a row of the service does (R237): it begins a step, whose nodes then run through the scheduler as commands of the graph's queue,
or ends one whose nodes have all pressed. Log entry 111 (DESIGN CHOICE). -/
def Dev.serveStep (d : Dev) (n : Nat) : Dev :=
  let d := d.payOwed n
  match d.serving.look n with
  | none => d
  | some sv =>
    match d.graph? sv.graph with
    | none => d
    | some g =>
      match g.serve with
      | none => d
      | some cfg =>
        if d.noDispatch || d.isTorn g.ctx || !(decide ((d.page n).state = .active) || decide ((d.page n).state = .draining)) then
          d.serveEnd n
        else if sv.rows = [] then (d.stepBegin n sv g cfg).settle
        else if !(d.runRest g.queue sv.graph 0).isEmpty || !d.sortsIdle then d
        else (d.stepEnd n sv g cfg).settle

/-- SERVING_STEP (R237). -/
def execServingStep (inst : Fin 64) (t : Nat) (s : State) : Host.Outcome State Fault Refusal :=
  s.act t fun d => d.serveStep inst.val

/-! ### The commands (R66, R239) -/

/-- SERVE_START (R66). A graph without a serving section ends it with E_STATE, and one DBIDX for both queues with E_PARAM: the
rule names no status for either. Log entry 118 (DESIGN CHOICE). -/
def Dev.serveStart (m : Mbx) (d : Dev) : Dev :=
  let h := (m.req 1).toNat
  let mb := (m.req 2).fld 8 0
  sciCmd m 0x0403 3 pagesI
    (fun d =>
      let n := pgInst m.page
      let rq := d.queueOf n ((m.req 3).fld 11 0)
      let rs := d.queueOf n ((m.req 3).fld 27 16)
      [ (rsvBad (m.req 2) 0x1FF, .eParam), (rsvBad (m.req 3) 0x0FFF0FFF, .eParam), (decide (mb = 0) || decide (256 < mb), .eParam),
        (decide ((m.req 3).fld 11 0 = (m.req 3).fld 27 16), .eParam),
        ((d.graphOf n h).isNone || rq.isNone || rs.isNone, .eHandle),
        ((d.serving.look n).isSome, .eState),
        ((d.graphOf n h).any (·.serve.isNone), .eState),
        ((rq.any fun q => d.isTorn (d.ctxOfQ q)) || (rs.any fun q => d.isTorn (d.ctxOfQ q)), .eState) ])
    (fun d =>
      let n := pgInst m.page
      match d.queueOf n ((m.req 3).fld 11 0), d.queueOf n ((m.req 3).fld 27 16) with
      | some reqQ, some rspQ => .okay { d with serving := d.serving.put n { graph := h, maxBatch := mb, reqQ, rspQ } }
      | _, _ => .fail d .eHandle) d

def execServeStart (m : Mbx) (s : State) : Host.Outcome State Fault Refusal := s.act m.t (Dev.serveStart m)

/-- SERVE_STOP: without a service there is nothing to finish and the command is done at once.
Log entry 34 (DESIGN CHOICE). -/
def Dev.serveStop (m : Mbx) (d : Dev) : Dev :=
  sciCmd m 0x0404 0 pagesI (fun _ => [])
    (fun d =>
      let n := pgInst m.page
      let d := d.begin m 0x0404 n 0 (d.serving.look n).isNone
      let d := { d with serving := d.serving.adjust n fun sv => { sv with stopping := true } }
      .okay (d.serveEnd n)) d

def execServeStop (m : Mbx) (s : State) : Host.Outcome State Fault Refusal := s.act m.t (Dev.serveStop m)

end Sys2Proof.Machine
end

