-- ==== Sys2Proof/Machine/Submit.lean ====
section
/-! DEFINITION. A request by its opcode (R49 to R51), UNDEFINED_OPCODE (R54), and a host's accesses to the bytes of a page (R48). -/

namespace Sys2Proof.Machine

/-- An opcode that the tables do not define. -/
def Dev.badOpcode (m : Mbx) (op : Nat) (d : Dev) : Dev := mailbox m op (fun d => some { status := .eOpcode, dev := d }) d

/-- Sebry executes a request (R50 step 4). Log entry 13 (DEDUCED). -/
def Dev.request (m : Mbx) (op : Nat) (d : Dev) : Dev :=
  match op with
  | 0x0101 => Dev.sessionOpen m d
  | 0x0102 => Dev.instQuery m d
  | 0x0103 => Dev.evictAck m d
  | 0x0104 => Dev.instReset m d
  | 0x0201 => Dev.memAlloc m d
  | 0x0202 => Dev.memFree m d
  | 0x0301 => Dev.ctxCreate m d
  | 0x0302 => Dev.ctxDestroy m d
  | 0x0303 => Dev.qCreate m d
  | 0x0304 => Dev.qDestroy m d
  | 0x0305 => Dev.qReset m d
  | 0x0306 => Dev.ctxQuery m d
  | 0x0401 => Dev.graphLoad m d
  | 0x0402 => Dev.graphUnload m d
  | 0x0403 => Dev.serveStart m d
  | 0x0404 => Dev.serveStop m d
  | 0x0405 => Dev.graphBufQuery m d
  | 0x0501 => Dev.fallbackBind m d
  | 0x0502 => Dev.safeAgeSet m d
  | 0x0503 => Dev.refInputSet m d
  | 0x0504 => Dev.safeStatus m d
  | 0x0601 => Dev.gwRoutesSet m d
  | 0x0602 => Dev.gwKeySet m d
  | 0x0603 => Dev.gwStatus m d
  | 0x0701 => Dev.dispLayerSet m d
  | 0x0702 => Dev.dispFlip m d
  | 0x0801 => Dev.persQuery m d
  | 0x0802 => Dev.persSet m d
  | 0x0803 => Dev.pwrCapSet m d
  | 0x0901 => Dev.mgrInstCreate m d
  | 0x0902 => Dev.mgrInstDestroy m d
  | 0x0903 => Dev.mgrInstReset m d
  | 0x0904 => Dev.mgrInstAttach m d
  | 0x0905 => Dev.mgrEvict m d
  | 0x0906 => Dev.mgrPartDefine m d
  | 0x0907 => Dev.mgrEgDefine m d
  | 0x0908 => Dev.mgrWheelSet m d
  | 0x0909 => Dev.mgrBwSet m d
  | 0x090A => Dev.mgrPairSet m d
  | 0x0A01 => Dev.cntSnapshot m d
  | 0x0A02 => Dev.diagLogRead m d
  | 0x0A03 => Dev.fiArmCmd m d
  | 0x0A04 => Dev.fiDisarmCmd m d
  | _ => Dev.badOpcode m op d

/-- UNDEFINED_OPCODE (R54): E_OPCODE where no table defines the opcode. -/
def execUndefinedOpcode (m : Mbx) (opcode : Half) (s : State) : Host.Outcome State Fault Refusal :=
  s.act m.t fun d => Dev.request m opcode.toNat d

/-! ### A page as its host reaches it -/

/-- The page of a key. -/
def pgOf (k : Nat) : Pg := if h : k < 64 then .inst ⟨k, h⟩ else .mgr

/-- The request whose words stand in a page. -/
def Page.mbx (p : Page) (k t : Nat) : Mbx :=
  let w0 := p.req.lookD 0 0
  { page := pgOf k, rsv := BitVec.ofNat 4 (w0.fld 31 28), tag := BitVec.ofNat 8 (w0.fld 23 16),
    words := (List.range (w0.fld 27 24)).map fun i => p.req.lookD (i + 1) 0, t }

/-- A write of MBX_REQ_DB (R51). -/
def Dev.pageGo (d : Dev) (k : Nat) (v : Word) : Dev :=
  let p := d.page k
  if !d.pageLive k || !v.bit 0 || p.go then d
  else if p.valid then d.post k 11 2 0
  else Dev.request (p.mbx k d.now) ((p.req.lookD 0 0).fld 15 0) d

/-- A word written to a page. Log entry 52 (DESIGN CHOICE). -/
def Dev.pageStore (d : Dev) (k off : Nat) (v : Word) : Dev := if off = 0x140 then d.pageGo k v else d.pageWrite k off v

/-- Offsets of doorbells (R73). -/
def inDoorbells (off : Nat) : Bool := decide (0x1000 ≤ off) && decide (off < 0x9000)

/-- Bytes written to a page, word by word. The bytes of a word that a write does not cover are not stated. A doorbell acts only on
a 32-bit or a 64-bit write of its offset (R74).
Log entry 52 (DESIGN CHOICE). -/
def Dev.pageBytesTo (d : Dev) (k off : Nat) (bs : List Byte) : Dev :=
  if bs.isEmpty then d else
  forUpTo ((off + bs.length + 3) / 4 - off / 4) (fun i d =>
    let w := off / 4 * 4 + 4 * i
    if inDoorbells w && !(decide (off % 8 = 0) && (decide (bs.length = 4) || decide (bs.length = 8))) then d else
    let covered := (List.range 4).all fun j => decide (off ≤ w + j) && decide (w + j < off + bs.length)
    if covered then d.pageStore k w (BitVec.ofNat 32 (leNat ((bs.drop (w - off)).take 4)))
    else
      let f := d.freshBytes 4
      let word := (List.range 4).map fun j =>
        if off ≤ w + j ∧ w + j < off + bs.length then bs.getD (w + j - off) 0 else f.1.getD j 0
      f.2.pageStore k w (BitVec.ofNat 32 (leNat word))) d

/-- Bytes read from a page; the low word of DEV_TIME latches the high one (R474). Log entry 52 (DESIGN CHOICE). -/
def Dev.pageBytesOf (d : Dev) (k off n : Nat) (m : Master) : List Byte × Dev :=
  let d := if off / 4 * 4 ≤ 0xA020 ∧ 0xA020 < off + n then d.readLo (0x7E00000000 + k * 65536 + 0xA020) m else d
  ((List.range n).map fun i => BitVec.ofNat 8 ((d.pageWord k ((off + i) / 4 * 4) m).toNat / 256 ^ ((off + i) % 4)), d)

/-- A host's access to a page. -/
def Dev.pageAcc (d : Dev) (k off : Nat) (write : Option (List Byte)) (n : Nat) (m : Master) : Dev :=
  match write with
  | some bs => { d.pageBytesTo k off bs with lastAcc := .written }
  | none =>
    let r := d.pageBytesOf k off n m
    { r.2 with lastAcc := .read r.1 }

end Sys2Proof.Machine
end

