-- ==== Sys2Proof/Machine/Insts.lean ====
section
/-! DEFINITION. The ways of an instance's reset that no command asks for at that moment (R383, R385 to R389): the end of a drain, the
end of grace, and the completion of a reset. -/

namespace Sys2Proof.Machine

/-- DRAIN_TIMEOUT (R385): 2 ms after a drain was accepted. Log entry 106 (DESIGN CHOICE). -/
def Dev.drainEnd (d : Dev) (n : Nat) : Dev :=
  match (d.inst n).drainT with
  | some t => if (d.page n).state = .draining ∧ t + 2000000 ≤ d.now then (d.beginSquash n).settle else d
  | none => d

def execDrainTimeout (inst : Fin 64) (t : Nat) (s : State) : Host.Outcome State Fault Refusal := s.act t fun d => d.drainEnd inst.val

/-! ### The end of grace (R33 steps 2 and 3, R388, R389) -/

/-- Grace of the hand-over is over: 250 ms after its notices, or every tenant with a notice has acknowledged it. -/
def Dev.handGraceOver (d : Dev) (x : Transition) : Bool :=
  (x.steps.any fun s => decide (s.1 = 1) && decide (s.2 + 250000000 ≤ d.now)) ||
  (d.tenants.all fun n => match (d.inst n).graceEnd with
    | some t => decide (t ≤ d.now)
    | none => true)

/-- A hand-over whose third step has not come. -/
def Dev.handing (d : Dev) : Option Transition := d.trans.bind fun x => if x.src = .lease ∧ !x.did 3 then some x else none

/-- MGR_EVICT waits for the reset of an instance. -/
def Dev.evicting (d : Dev) (n : Nat) : Bool := d.done.any fun x => decide (x.opcode = 0x0905) && decide (x.arg = n) && !x.ready

/-! ### The completion of a reset (R386, R387, R388) -/

/-- Nothing of the instance is in flight (R386). -/
def Dev.quietInst (d : Dev) (n : Nat) : Bool :=
  (d.queues.all fun (q : Nat × Queue) => decide (q.2.inst ≠ n) || q.2.window.isEmpty) &&
  ((List.range 512).all fun ch => decide (d.dmaInst ch ≠ n) || decide (d.reg (aDmaCfg ch) = 0) || !d.dmaEn ch || decide (d.dmaState ch = 0)) &&
  (d.waiting.all fun w =>
    match w with
    | .pcieAcc i _ _ wr _ => decide (i ≠ n) || wr.isSome
    | _ => true)

/-- What a reset destroys (R387). -/
def Dev.dropWork (d : Dev) (n : Nat) : Dev :=
  let gs := (d.graphs.filter fun (g : Nat × Graph) => g.2.inst = n).map (·.1)
  let d := forEach gs (fun g d => d.dropGraph g) d
  let cs := (d.ctxs.filter fun (c : Nat × Ctx) => c.2.inst = n).map (·.1)
  let d := forEach cs (fun c d => d.dropCtx c) d
  let d := d.endServing n
  let d := d.setPage n { d.page n with evict := false }
  d.setInst n { d.inst n with graceEnd := none, drainT := none, flr := false }

/-- The grace of an instance is over: its own, or that of the hand-over, whose third step squashes every tenant. -/
def Dev.graceOver (d : Dev) (n : Nat) : Bool :=
  let own := match (d.inst n).graceEnd with
    | some t => decide (t ≤ d.now)
    | none => false
  match d.handing with
  | some x => d.isTenant n && (d.handGraceOver x || (d.evicting n && own))
  | none => own

/-- EVICT_GRACE_END: SQUASHING, or RESET_DONE at once for a tenant that has not opened its session (R385).
Log entry 73 (DESIGN CHOICE). -/
def Dev.graceEnds (d : Dev) (n : Nat) : Dev :=
  if !d.graceOver n then d else
  let st := (d.page n).state
  let hand := d.handing.isSome
  let d := d.setInst n { d.inst n with graceEnd := none }
  if runsOrOrphan st || (hand && decide (st = .draining)) then (d.beginSquash n).settle
  else if hand && decide (st = .created) then (((d.squashInst n).dropWork n).setState n .resetDone).advanceTrans.settle
  else d

def execEvictGraceEnd (inst : Fin 64) (t : Nat) (s : State) : Host.Outcome State Fault Refusal := s.act t fun d => d.graceEnds inst.val

/-- The resets that waited for the instance end with OK. -/
def Dev.resetsDone (d : Dev) (n : Nat) (ops : List Nat) : Dev :=
  { d with done := d.done.map fun x => if decide (x.opcode ∈ ops) && decide (x.arg = n) && !x.ready then { x with ready := true, status := 0 } else x }

/-- The commands that end when a reset is complete. -/
def resetOps : List Nat := [0x0104, 0x0903, 0x0905]

/-- Before an instance's memory is zeroed, the COMMAND_DONE of its earlier resets is posted (R388). -/
def Dev.postResets (d : Dev) (n : Nat) : Dev :=
  if d.cpaLost.isSome then d else
  let mine (x : DoneCmd) : Bool := decide (x.opcode ∈ resetOps) && decide (x.arg = n) && x.ready
  let d' : Dev := { d with done := d.done.filter fun x => !mine x }
  forEach (d.done.filter mine) (fun x d => d.post x.page 4 x.opcode (x.tag.toNat * 2 ^ 16 + x.status)) d'

/-- An instance is destroyed: its memory is zeroed and goes back to the partition, its binding ends, its page reads 0. -/
def Dev.freeInstance (d : Dev) (n : Nat) : Dev :=
  let i := d.inst n
  let d := forEach i.allocs (fun al d => d.freeAlloc n al) d
  let d := d.bindRegs n i.bindKind i.bindIdx i.pt false
  let d := (d.setState n .free).resetsDone n [0x0902]
  { d with insts := d.insts.del n, pages := d.pages.del n }

/-- RESET_COMPLETE. -/
def Dev.resetDone (d : Dev) (n : Nat) : Dev :=
  let st := (d.page n).state
  let dies := (d.inst n).destroy
  if !(decide (st = .squashing) || (dies && decide (st ≠ .free))) || !d.quietInst n then d else
  let d := d.dropWork n
  let d := if st = .squashing then (d.setState n .resetDone).resetsDone n resetOps else d
  (if dies then (d.postResets n).freeInstance n else d).advanceTrans.settle

def execResetComplete (inst : Fin 64) (t : Nat) (s : State) : Host.Outcome State Fault Refusal := s.act t fun d => d.resetDone inst.val

end Sys2Proof.Machine
end

