-- ==== Sys2Proof/Machine/Pcie.lean ====
section
/-! DEFINITION. The PCIe endpoints (R378 to R383, R396, R494): memory requests to a function's BARs, function level resets, link and
fundamental resets. -/

namespace Sys2Proof.Machine

/-! ### Memory requests (R379, R380) -/

/-- The port answers requests. -/
def Dev.pcieOn (d : Dev) (port : Nat) : Bool := d.getB (aPcieCtrl port) 0 && decide (d.getF (aRstDomStatus (17 + port)) 2 0 = 0)

/-- The bytes of BAR2. -/
def Dev.bar2Size (d : Dev) (port : Nat) : Nat := 2 ^ (30 + d.getF (aPcieVfcfg port) 18 16)

/-- The instance that the map gives a virtual function. -/
def Dev.vfInst (d : Dev) (port vf : Nat) : Option Nat :=
  let w := d.reg (aPcieVfmap port vf)
  if w.bit 6 then some (w.fld 5 0) else none

/-- An access to a page, behind the posted writes of its function (R381). -/
def Dev.pcieReg (d : Dev) (master page off : Nat) (write : Option (List Byte)) (len : Nat) (m : Master) : Dev :=
  if d.behind master then { d with waiting := d.waiting ++ [.pciePage master page off write len], lastAcc := .waits }
  else d.pageAcc page off write len m

/-- An access to the window of an instance. A miss of the translation cache is counted (R380); whether an access misses is open. -/
def Dev.pcieWin (d : Dev) (port inst master src off : Nat) (write : Option (List Byte)) (len : Nat) : Dev :=
  if d.bar2Size port < off + len then (d.countHost inst 1).pcieRefused port src off write.isSome
  else (d.countFree (0x100 + inst) 4).winAcc inst master off write len

/-- A request to a function's BAR. -/
def Dev.pcieMem (d : Dev) (port : Fin 2) (fn : Fin 65) (bar off : Nat) (write : Option (List Byte)) (len : Nat) : Dev :=
  let p := port.val
  let v := fn.val
  let m : Master := .pcie port fn
  if !d.pcieOn p then { d with lastAcc := .dropped }
  else if v = 0 then
    let no := d.pcieRefused p 128 off write.isSome
    if !d.getB (aPcieCtrl p) 1 then no
    else
      let e := d.countHost 0 0
      if decide (bar = 0) && decide (off + len ≤ 65536) then e.pcieReg pfMaster 64 off write len m
      else if decide (bar = 4) && decide (off + len ≤ 65536) then e.pcieReg pfMaster 0 off write len m
      else if bar = 2 then e.pcieWin p 0 pfMaster 128 off write len
      else (e.countHost 0 1).pcieRefused p 128 off write.isSome
  else if d.getF (aPcieVfcfg p) 6 0 < v then d.pcieRefused p v off write.isSome
  else
    match d.vfInst p v with
    | none =>
      if bar = 0 then { d with lastAcc := if write.isSome then .written else .read (List.replicate len 0) }
      else if bar = 2 then (d.refuse (d.vfMaster p v) off write.isSome).pcieRefused p v off write.isSome
      else d.pcieRefused p v off write.isSome
    | some n =>
      let d := d.countHost n 0
      if (d.inst n).flr then (d.countHost n 1).pcieRefused p v off write.isSome
      else if decide (bar = 0) && decide (off + len ≤ 65536) then d.pcieReg (d.vfMaster p v) n off write len m
      else if bar = 2 then d.pcieWin p n (d.vfMaster p v) v off write len
      else (d.countHost n 1).pcieRefused p v off write.isSome

/-- A page access that waits is served once no posted write of its function waits before it.
Log entry 50 (DESIGN CHOICE). -/
def Dev.servePages (d : Dev) : Dev :=
  let ws := d.waiting
  if ws.any (fun w => match w with
    | .pciePage _ _ _ _ _ => true
    | _ => false) then
    forEach ws (fun w d =>
      match w with
      | .pciePage master page off wr len =>
        if d.behind master then { d with waiting := d.waiting ++ [w] }
        else d.pageAcc page off wr len (if master = pfMaster then .pcie ⟨d.boot.mgrIdx % 2, Nat.mod_lt _ (by decide)⟩ 0
          else .pcie ⟨(d.funcOf master).1 % 2, Nat.mod_lt _ (by decide)⟩ ⟨(d.funcOf master).2 % 65, Nat.mod_lt _ (by decide)⟩)
      | w => { d with waiting := d.waiting ++ [w] }) { d with waiting := [] }
  else d

/-- PCIE_MEM_REQUEST. -/
def execPcieMemRequest (port : Fin 2) (fn : Fin 65) (bar : Fin 6) (offset : Nat) (write : Option (List Byte)) (len : Nat) (t : Nat)
    (s : State) : Host.Outcome State Fault Refusal :=
  s.act t fun d => d.servePages.pcieMem port fn bar.val offset write len

/-! ### Resets of functions and ports (R383, R494) -/

/-- An FLR of the function bound to an instance, or the clearing of VF Enable for it. -/
def Dev.flrInst (d : Dev) (n : Nat) : Dev :=
  let st := (d.page n).state
  let d := d.countHost n 3
  let d := d.fiDiscard 3 (d.bindMaster (d.inst n).bindKind (d.inst n).bindIdx - 128)
  let d := if runsOrOrphan st || decide (st = .draining) then (d.beginSquash n).settle else d
  if (d.page n).state = .squashing then d.setInst n { d.inst n with flr := true } else d

/-- The instances bound to virtual functions of a port. -/
def Dev.portInsts (d : Dev) (port : Nat) : List Nat :=
  (d.insts.filter fun (i : Nat × Inst) => decide ((d.page i.1).state ≠ .free) && decide (i.2.bindKind = port + 1)).map (·.1)

/-- An FLR of every bound virtual function of a port. -/
def Dev.flrPort (d : Dev) (port : Nat) : Dev := forEach (d.portInsts port) (fun n d => d.flrInst n) d

/-- PCIE_FLR: of a virtual function, or of the physical function, which acts on every bound one. -/
def execPcieFlr (port : Fin 2) (fn : Fin 65) (t : Nat) (s : State) : Host.Outcome State Fault Refusal :=
  s.act t fun d =>
    if !d.pcieOn port.val then d else
    let d := d.setB (aPcieErr port.val) 2 true
    if fn.val = 0 then d.flrPort port.val
    else match d.vfInst port.val fn.val with
      | some n => d.flrInst n
      | none => d

/-- The link of a port goes down, or a hot reset reaches it. -/
def Dev.portDown (d : Dev) (port : Nat) : Dev := (d.setB (aPcieErr port) 3 true).flrPort port

/-- PCIE_LINK_RESET. -/
def execPcieLinkReset (port : Fin 2) (t : Nat) (s : State) : Host.Outcome State Fault Refusal :=
  s.act t fun d => if d.getB (aPcieCtrl port.val) 0 then d.portDown port.val else d

/-! ### The idle block -/

/-- What an idle step does: one cycle of the time base, and the page accesses whose wait has ended.
Log entry 2 (DESIGN CHOICE). -/
def Dev.idle (d : Dev) : Dev := if d.power = .on then Dev.keep d.tick d.tick.servePages else d

end Sys2Proof.Machine
end

