-- ==== Sys2Proof/Machine/Boot.lean ====
section
/-! DEFINITION. The boot sequence (R414 to R432): the image check, the selection of the configuration copy, worlds, the trip counter,
the gateway, the dies, the manager's instance, and the boot personality. -/

namespace Sys2Proof.Machine

/-! ### Images (R417 to R419) -/

/-- A byte of stored bytes; what is not listed is erased. -/
def byteAt (l : List Byte) (i : Nat) : Byte := l.getD i 0xFF

/-- `n` stored bytes from an offset. -/
def bytesAt (l : List Byte) (i n : Nat) : List Byte := (List.range n).map fun k => byteAt l (i + k)

/-- A stored little-endian word. -/
def wordAt (l : List Byte) (i : Nat) : Nat := leNat (bytesAt l i 4)

def FlashImage.svn (f : FlashImage) : Nat := wordAt f.header 8 % 65536

/-- The code of R418: 0 where every check passes. -/
def FlashImage.check (f : FlashImage) (keyHash : List Byte) (minSvn : Nat) : Nat :=
  let h := f.header
  let len := wordAt h 12
  let zeros := decide (wordAt h 8 < 65536) && (bytesAt h 161 31).all (· = 0) && (bytesAt h 288 736).all (· = 0)
  if wordAt h 0 ≠ 0x4442494D ∨ wordAt h 4 ≠ 1 ∨ !zeros then 1
  else if len < 4 ∨ 16776192 < len ∨ len % 4 ≠ 0 then 2
  else if Config.sha384 (bytesAt h 64 97) ≠ keyHash then 3
  else if !Config.imageSigned (bytesAt h 0 1024 ++ bytesAt f.body 0 len) then 4
  else if f.svn < minSvn then 5
  else if !f.readOk then 6
  else 0

/-- SEC_BOOT_STATUS.STAGE. -/
def Dev.stage (d : Dev) (n : Nat) : Dev := d.setF aBootStatus 3 0 n

/-- The device halts (R419, R423). -/
def Dev.bootHalt (d : Dev) : Dev := d.stage 0xF

/-- The fuse shadow is loaded (step 1), and with it the fields whose reset value is fused (R2, R411, R445). -/
def Dev.loadFuses (d : Dev) : Dev :=
  let d := d.setReg aDeviceId (BitVec.ofNat 32 (0x0D48 * 65536 + d.fuse.variant % 256 * 256 + 0x21))
  let d := (d.setReg aDbgFuse (d.fuse.dbgFuse &&& 0xFF#32)).setF aFuseBoot 15 0 d.minSvn
  let d := forUpTo 4 (fun i d => d.setReg (aUid i) (d.fuse.uid.getD i 0)) d
  let d := d.setF aDbgStatus 3 0 d.fuseOpen
  if d.fuse.variant = 0x0B then forUpTo 4 (fun i d => d.setF (aClkCtrl i) 23 0 (d.clkMax i)) d else d

/-- The ROM chooses an image (step 4); whether one passes. -/
def Dev.bootRom (d : Dev) : Dev × Bool :=
  let a := d.flash.imgA.check d.fuse.keyHash d.minSvn
  if a = 0 then (d, true)
  else
    let b := d.flash.imgB.check d.fuse.keyHash d.minSvn
    let d := (d.setF aBootStatus 6 4 a).setF aBootStatus 10 8 b
    if b = 0 then ((d.setB aBootStatus 11 true).countDev 44, true) else (d, false)

/-! ### Configuration copies (R421 to R423, R429) -/

def BootCfg.world (c : BootCfg) (i : Nat) : Word := c.worlds.getD i 0

/-- Whether a range of INST0's partition is aligned and reachable under the copy's interleave mask (R38, R283, R287). -/
def BootCfg.rangeOk (c : BootCfg) (r : Nat × Nat) : Bool :=
  let ilv (g : Nat) : Bool := bitOf c.ilv g
  decide (r.1 ≤ r.2) &&
  (if r.2 < 4 * gib36 then
    decide (r.1 % 0x200000 = 0) && decide ((r.2 + 1) % 0x200000 = 0) &&
    (List.range (r.2 / 2 ^ 30 + 1 - r.1 / 2 ^ 30)).all fun i => !ilv ((r.1 / 2 ^ 30 + i) % 36)
  else if decide (0x5000000000 ≤ r.1) && decide (r.2 < 0x5000000000 + 4 * gib36) then
    let lo := r.1 - 0x5000000000
    let hi := r.2 - 0x5000000000
    decide (lo % 0x800000 = 0) && decide ((hi + 1) % 0x800000 = 0) && (List.range (hi / 2 ^ 32 + 1 - lo / 2 ^ 32)).all fun i => ilv (lo / 2 ^ 32 + i)
  else false)

/-- Every value lies within the range its rule gives (R277, R284, R343, R374, R377, R429, R434). -/
def BootCfg.ok (c : BootCfg) : Bool :=
  let cam := c.camPorts.eraseDups.length
  let host (k : Nat) : Bool := (c.world 3).bit k
  !bitOf c.ilv 0 && (!c.video || (decide (cam ≤ 12) && decide (16 - cam ≤ 4))) &&
  decide (c.totalVf.getD 0 0 + c.totalVf.getD 1 0 ≤ 64) && c.bar2.all (fun b => decide (b ≤ 7)) &&
  (match c.inst0Ranges with
   | [] => false
   | r :: _ => decide (0x4000000 ≤ r.2 + 1 - r.1) && decide (r.2 < 4 * gib36)) &&
  decide (c.inst0Ranges.length ≤ 8) && c.inst0Ranges.all c.rangeOk && !selfMeet c.inst0Ranges &&
  !(c.inst0Ranges.any fun r => reserved.any (limitsMeet r)) && worldFits c.inst0Kind false &&
  (if c.mgrPcie then decide (c.mgrIdx < 2) && !host (3 + c.mgrIdx) else decide (c.mgrIdx < 3) && !host c.mgrIdx) &&
  !(c.routes.entries.any (rtMixes (c.world 0) (c.world 1))) &&
  c.ips.all fun (p : Nat × IpCfg) => !(host p.2.cluster && !(c.world 0).bit (18 + p.1))

def FlashCopy.seq (f : FlashCopy) : Nat := wordAt f.bytes 8

/-- The code of a copy (R432): 0 valid, 1 MAGIC or FMT, 2 LEN or CRC, 3 contents. -/
def FlashCopy.check (f : FlashCopy) : Nat :=
  let len := wordAt f.bytes 12
  if wordAt f.bytes 0 ≠ 0x44424346 ∨ wordAt f.bytes 4 / 65536 ≠ 1 then 1
  else if len < 64 ∨ 262144 < len ∨ len % 64 ≠ 0 then 2
  else if (crc32c (bytesAt f.bytes 0 16 ++ [0, 0, 0, 0] ++ bytesAt f.bytes 20 (len - 20))).toNat ≠ wordAt f.bytes 16 then 2
  else if !(bytesAt f.bytes 20 44).all (· = 0) ∨ !f.formed ∨ !f.cfg.ok then 3
  else 0

/-- The copy that is used (R423), and whether the SEQ numbers leave the order open. -/
def pickCopy (c0 c1 : FlashCopy) : Option Nat × Bool :=
  let df := (c1.seq + 2 ^ 32 - c0.seq) % 2 ^ 32
  match decide (c0.check = 0), decide (c1.check = 0) with
  | true, true => (some (if 1 ≤ df ∧ df ≤ 2 ^ 31 - 1 then 1 else 0), decide (df = 0) || decide (df = 2 ^ 31))
  | true, false => (some 0, false)
  | false, true => (some 1, false)
  | false, false => (none, false)

/-- An entry of KIND 9 (R507). -/
def Dev.logBoot (d : Dev) : Dev := d.logE 9 0 0 0 (d.reg aBootStatus).toNat

/-- Step 5. -/
def Dev.bootCfg (d : Dev) : Dev × Bool :=
  let d := (d.setF aBootStatus 13 12 d.flash.cfg0.check).setF aBootStatus 15 14 d.flash.cfg1.check
  let p := pickCopy d.flash.cfg0 d.flash.cfg1
  match p.1 with
  | none => (d.bootHalt.logBoot, false)
  | some n =>
    let c := if n = 0 then d.flash.cfg0.cfg else d.flash.cfg1.cfg
    let d := ({ d with boot := c } : Dev).setF aBootStatus 16 16 n
    let d := d.countDev (45 + n)
    let d := if p.2 then d.logBoot else d
    let svn := d.image.svn
    (if c.svnCommit then ({ d with minSvn := max d.minSvn svn } : Dev).setF aFuseBoot 15 0 (max d.minSvn svn) else d, true)

/-! ### Worlds and the trip counter (R428, R430) -/

/-- The world assignment is written and locked, once (step 6). -/
def Dev.bootWorlds (d : Dev) : Dev :=
  if d.getB aWorldLock 0 then d else
  let b := d.boot
  let d := (((d.setF aWorldEth 21 0 (b.world 0).toNat).setF aWorldCan 15 0 (b.world 1).toNat).setF aWorldAphy 15 0 (b.world 2).toNat)
  (d.setF aWorldHost 4 0 (b.world 3).toNat).setB aWorldLock 0 true

/-- SAFE_CFG's fields; WDT_MS is at least 2, and a set LOCK keeps them (R277). -/
def Dev.writeSafeCfg (d : Dev) (v : Word) : Dev :=
  if d.getB aSafeCfg 31 then d else (d.setF aSafeCfg 25 16 (v.fld 25 16)).setF aSafeCfg 7 0 (max 2 (v.fld 7 0))

/-- The valid records of a journal sector. -/
def tripsOf (j : List Byte) : List Nat :=
  (List.range (j.length / 8)).filterMap fun i =>
    if wordAt j (8 * i) + wordAt j (8 * i + 4) = 2 ^ 32 - 1 then some (wordAt j (8 * i)) else none

def erased (j : List Byte) : Bool := j.all (· = 0xFF)

/-- The first erased place of a sector. -/
def freePlace (j : List Byte) : Option Nat := (List.range 8192).find? fun i => (bytesAt j (8 * i) 8).all (· = 0xFF)

/-- A record programmed into a place. -/
def putTrip (j : List Byte) (i trip : Nat) : List Byte :=
  bytesAt j 0 (8 * i) ++ leBytes 4 trip ++ leBytes 4 (2 ^ 32 - 1 - trip) ++ j.drop (8 * i + 8)

def maxOf (l : List Nat) : Nat := l.foldl max 0

/-- A new trip: the record, and the sector that is erased. -/
def Dev.bootTrip (d : Dev) : Dev :=
  let j0 := d.flash.j0
  let j1 := d.flash.j1
  let bad (j : List Byte) : Bool := !erased j && (tripsOf j).isEmpty
  if bad j0 || bad j1 then ({ d with gw := { d.gw with noTrip := true } } : Dev).setB aBootStatus 17 true |>.logBoot
  else
    let trip := (maxOf (tripsOf j0 ++ tripsOf j1) + 1) % 2 ^ 32
    let second := decide (maxOf (tripsOf j0) < maxOf (tripsOf j1))
    let cur := if second then j1 else j0
    let other := if second then j0 else j1
    let r : List Byte × List Byte × Bool := match freePlace cur with
      | some i => (putTrip cur i trip, [], false)
      | none =>
        match freePlace other with
        | some i => ([], putTrip other i trip, true)
        | none => (cur, other, true)
    let d := { d with flash := { d.flash with j0 := if second then r.2.1 else r.1, j1 := if second then r.1 else r.2.1 },
                      gw := { d.gw with trip, noTrip := false } }
    if r.2.2 then (d.countDev 47).logBoot else d

/-- Step 6. -/
def Dev.bootSix (d : Dev) : Dev :=
  let d := d.bootWorlds
  ((d.setReg aPwrWakeCfg (d.boot.wakeCfg &&& 0xFFFFFFFF#32)).writeSafeCfg d.boot.safeCfg).bootTrip

/-! ### The gateway (step 7) -/

/-- A draw of `n` bits for a level that something outside the device sets: a link partner's. -/
def Dev.freeF (d : Dev) (a hi lo : Nat) : Dev :=
  let f := d.fresh
  f.2.setF a hi lo (f.1 % 2 ^ (hi + 1 - lo))

/-- An Ethernet port: its link, rate, PLCA role, and its enable. -/
def Dev.bootEth (d : Dev) (p : Nat) (c : EthPortCfg) : Dev :=
  let d := d.setB (aSwPortCtrl p) 0 true
  let d := if p < 18 then d.freeF (aSwPortStatus p) 0 0 else d.setB (aSwPortStatus p) 0 true
  let d := d.setF (aSwPortStatus p) 3 2 (if p < 6 then c.rate else if p < 14 then 1 else if p < 18 then 0 else 3)
  if 14 ≤ p ∧ p < 18 then d.setF (aSwPortStatus p) 9 8 (if c.plcaNode = 0 then 1 else 2) else d

def Dev.bootCan (d : Dev) (c : Nat) (x : CanCfg) : Dev :=
  let d := ((d.setB (aCanCtrl c) 1 x.xl).setReg (aCanNbt c) x.nbt).setReg (aCanDbt c) x.dbt
  d.setB (aCanCtrl c) 0 true

/-- Log entry 88 (DESIGN CHOICE). -/
def Dev.bootGateway (d : Dev) : Dev :=
  let d := d.setPair aSwOfsLo aSwOfsHi d.boot.gptpOfs
  let d := (d.loadRoutes d.boot.routes).setB aSwCtrl 1 false
  let d := forEach d.boot.eth (fun (p : Nat × EthPortCfg) d => d.bootEth p.1 p.2) d
  let d := forEach (18 :: d.boot.ips.keys.map (18 + ·)) (fun p d => d.bootEth p {}) d
  let d := forEach d.boot.can (fun (p : Nat × CanCfg) d => d.bootCan p.1 p.2) d
  d.setB aSwCtrl 0 true

/-! ### Dies, units, hosts (step 8) -/

/-- Clocks that run once the dies are up: all but the pixel clocks, which run with their pipes (R398). -/
def Dev.bootClocks (d : Dev) : Dev :=
  forEach ((List.range 22).filter fun i => decide (i < 10) || decide (14 ≤ i)) (fun i d => d.clkOn i) d

/-- The units that Sebry enables: engines, cores, sort units, allocators with their free-list arrays (R197, R285), graphics, the
regulator, the wheel. -/
def Dev.bootUnits (d : Dev) : Dev :=
  let d := forUpTo 64 (fun e d => d.setB (aGxCtrl e) 0 true) d
  let d := forUpTo 256 (fun v d => d.setB (aVcCtrl v) 0 true) d
  let d := forUpTo 4 (fun n d => ((d.setB (aSortCtrl n) 0 true).setB (aKvCtrl n) 0 true).setPair (aKvFlBaseLo n) (aKvFlBaseHi n) (n * gib36 + 0x100000)) d
  (((d.setB aGfxCtrl 0 true).setB aBwrCtrl 0 true).setB aWhlCtrl 0 true)

/-- Sebry's reservations are its own memory (R285, R303). -/
def Dev.bootOwn (d : Dev) : Dev := forEach (reserved.flatMap rangeGranules) (fun a d => d.setOwn a (mkOwn true true 0 false 0)) d

/-- Twinned clusters, and the control processors, run as pairs (R241, R252). -/
def Dev.bootTwins (d : Dev) : Dev :=
  let d := forUpTo 12 (fun q d => if d.boot.twinCl.getD (q / 4) false then (d.setB (aTwinHcfg q) 0 true).setF (aTwinHstatus q) 2 0 2 else d) d
  (d.setF (aTwinHstatus 12) 2 0 2).setF (aTwinHstatus 13) 2 0 2

/-- The PCIe ports; what the link partner negotiates is open (R396). Log entry 88 (DESIGN CHOICE). -/
def Dev.bootPcie (d : Dev) : Dev :=
  forUpTo 2 (fun p d =>
    let d := (d.setB (aPcieCtrl p) 1 (d.boot.mgrPcie && decide (d.boot.mgrIdx = p))).setB (aPcieCtrl p) 0 true
    let d := ((d.setF (aPcieVfcfg p) 18 16 (d.boot.bar2.getD p 0)).setF (aPcieVfcfg p) 14 8 (if p = 0 then 0 else d.totalVf 0)).setF (aPcieVfcfg p) 6 0 (d.totalVf p)
    ((((d.freeF (aPcieStatus p) 23 16).freeF (aPcieStatus p) 11 11).freeF (aPcieStatus p) 10 7).freeF (aPcieStatus p) 6 4).freeF (aPcieStatus p) 0 0) d

/-- INST0 with its partition and its boot allocation, the manager page, and the manager cluster (R376, R377, R427).
Log entry 72 (DESIGN CHOICE). -/
def Dev.bootManager (d : Dev) : Dev :=
  let b := d.boot
  let d := d.definePart b.inst0Pt { worldO := false, kind := b.inst0Kind, ranges := b.inst0Ranges }
  let mib := (((d.part b.inst0Pt).map (·.bytes)).getD 0) / 2 ^ 20
  let i : Inst := { pt := b.inst0Pt, bindKind := if b.mgrPcie then 3 else 0, bindIdx := b.mgrIdx, quotaMiB := mib - 16,
                    qQuota := 4096, ctxQuota := 65536 }
  let d := d.setPage 64 { state := .created, hbPeriodMs := 100 }
  -- R62: the change of INST0's state is recorded, whatever its cause
  let d := (({ d with pages := d.pages.del 0 } : Dev).setInst 0 i).setState 0 .created
  let base := (b.inst0Ranges.headD (0, 0)).1
  let d := d.allocAt 0 base 1024 .boot
  let d := forUpTo 3 (fun c d => d.setF (aRstDomStatus (7 + c)) 2 0 2) d
  if b.mgrPcie then d
  else
    let d := d.bindRegs 0 0 b.mgrIdx b.inst0Pt true
    let d := forEach (d.ringsOf b.mgrIdx) (fun r d => if d.unitsFree b.inst0Pt r then d.allocAt 0 r.1 r.2 .ring else d) d
    let bs := d.image.payload b.mgrIdx
    if bs.isEmpty then d else (d.wrN base bs).setF (aRstDomStatus (7 + b.mgrIdx)) 2 0 0

/-- Log entry 88 (DESIGN CHOICE). -/
def Dev.bootEight (d : Dev) : Dev :=
  let d := { d.setReg aBwrIlvLo (BitVec.ofNat 32 d.boot.ilv) with pers := .drive }
  let d := (d.setReg aBwrIlvHi (BitVec.ofNat 32 (d.boot.ilv / 2 ^ 32 % 16))).bootClocks
  let d := d.bootUnits.bootOwn.bootTwins.bootPcie.bootManager
  -- the enables that are open by fuse (R437)
  let d := d.setF aDbgStatus 3 0 (Nat.lor d.fuseOpen (d.getF aDbgStatus 7 4))
  if d.gw.noTrip then d.post 64 14 0 0 else d

/-! ### The sequence (R425, R426) -/

/-- The personality that the boot leads to. -/
def Dev.bootTo (d : Dev) (park : Bool) : Dev :=
  if park then (d.stage 9).enterPark
  else ({ d.stage 9 with pers := .drive, trans := some { src := .sleep, dst := .drive, t0 := 0 } } : Dev).advanceTrans

/-- The boot of a device whose registers have been reset. The ROM halts at once where CD0 is isolated or the interface of M0 is DOWN
within the power cycle; `target` is the personality that a wake from SLEEP leads to, from the
copy that is selected, or none for the boot personality. Log entries 4 (DESIGN CHOICE), 88 (DESIGN CHOICE).
Log entry 126 (DEDUCED). -/
def Dev.bootSeq (d : Dev) (target : BootCfg → Option Bool) : Dev :=
  let d := (d.setReg aBootStatus 1).loadFuses
  if !d.stackUp 0 then (d.stage 3).bootHalt else
  let r := (d.stage 4).bootRom
  if !r.2 then r.1.bootHalt else
  let c := (r.1.stage 5).bootCfg
  if !c.2 then c.1 else
  let d := ((c.1.stage 6).bootSix.stage 7).bootGateway
  let d := (d.stage 8).bootEight
  d.bootTo ((target d.boot).getD d.boot.park)

/-- The links or stack interfaces that are DOWN. -/
def downOnes (ls : Tab LinkState) : Tab LinkState := ls.filterMap fun p => if p.2.down then some (p.1, { down := true }) else none

/-- What outlives every reset: fuses, flash, the committed SVN, and the model's counter of draws. -/
def Dev.bare (d : Dev) : Dev := { fuse := d.fuse, flash := d.flash, minSvn := d.minSvn, freeCtr := d.freeCtr }

/-- What outlives a reset within one power cycle: links that are DOWN and stacks that are lost too, with the dies that those links
alone reached (R18, R20, R291). Log entry 126 (DEDUCED). -/
def Dev.bareOn (d : Dev) : Dev :=
  { d.bare with links := downOnes d.links, stackIfs := downOnes d.stackIfs, dieOff := (List.range 4).filter d.isolated }

/-- The registers in a range of addresses. -/
def Dev.regsIn (d : Dev) (lo hi : Nat) : Tab Word := d.regs.filter fun p => decide (lo ≤ p.1) && decide (p.1 < hi)

/-- A power-on: RST_CAUSE reads POR, memory reads as it does before anything has been written (log entry 3).
Log entries 3 (DESIGN CHOICE), 4 (DESIGN CHOICE). -/
def Dev.powerGood (d : Dev) : Dev := (d.bare.setB aPwrStatus 0 true).bootSeq fun _ => none

/-- POWER_GOOD (R425, R458). -/
def execPowerGood (_t : Nat) (s : State) : Host.Outcome State Fault Refusal := s.anew Dev.powerGood

/-- Every stack's bytes hold undefined values from now on. -/
def Dev.dramLost (d : Dev) : Dev :=
  { d with mem := [], poison := [], dramFree := (List.range 4).map fun n => (n, d.freeCtr + n * gib36), freeCtr := d.freeCtr + 4 * gib36 }

/-- A device reset with its bit of RST_CAUSE (R407). RST_CAUSE and PWR_EVT are kept; memory is lost with the dies' reset. A device
without VIN stays off. Log entry 87 (DESIGN CHOICE). Log entry 126 (DEDUCED). -/
def Dev.devReset (d : Dev) (cause : Nat) : Dev :=
  if d.power = .none then d else
  let keep := d.regs.filter fun (p : Nat × Word) => decide (p.1 = aRstCause) || decide (p.1 = aPwrEvt)
  let e := { d.bareOn with regs := keep }
  let e := (e.setB aRstCause cause true).setB aPwrStatus 0 true
  (if d.power = .on then e.dramLost else e).bootSeq fun _ => none

end Sys2Proof.Machine
end

