-- ==== Sys2Proof/Machine/Clocks.lean ====
section
/-! DEFINITION. Clocks (R398 to R400), stopped clocks and wakes (R405), reset domains (R406 to R410), and device resets (R273, R407,
R495). -/

namespace Sys2Proof.Machine

/-! ### Clocks -/

/-- Clocks that ignore STOP (R411). Log entry 91 (DESIGN CHOICE). -/
def noStop (i : Nat) : Bool := decide (i ∈ [4, 8, 14, 15, 20, 21])

/-- The reset domain that a clock serves (R398, R406). -/
def clkDomain (i : Nat) : Nat :=
  if i ≤ 3 then 3 + i else if 5 ≤ i ∧ i ≤ 7 then i + 2 else if i = 9 then 10 else if 10 ≤ i ∧ i ≤ 13 then i + 1
  else if i = 14 then 15 else if i = 15 then 16 else if 16 ≤ i ∧ i ≤ 19 then i - 13 else 2

/-- The clock may run: its domain has power and is not in reset, and a pixel clock's pipe is on (R398). -/
def Dev.clkMay (d : Dev) (i : Nat) : Bool :=
  decide (d.getF (aRstDomStatus (clkDomain i)) 2 0 = 0) && (decide (i < 10) || decide (13 < i) || d.getB (aDispCtrl (i - 10)) 0)

/-- A write of CLK_CTRL: FREQ of a clock with steps while it runs, AUTOGATE, STOP (R399, R411, R413).
Log entry 91 (DESIGN CHOICE). -/
def Dev.clkWrite (d : Dev) (i : Nat) (v : Word) : Dev :=
  let f := v.fld 23 0
  let d := { d with capBase := d.capBase.del (64 + i) }
  let d :=
    if (clkStep i).isSome && decide (f ≠ d.getF (aClkCtrl i) 23 0) then
      if d.getB (aClkStatus i) 24 then ((d.setF (aClkCtrl i) 23 0 f).clkRun i (d.clkFor i f)).countDev 2
      else d.noEffect 71 (aClkCtrl i) v
    else d
  let was := d.getB (aClkCtrl i) 24
  let d := (d.setB (aClkCtrl i) 25 (v.bit 25)).setB (aClkCtrl i) 24 (v.bit 24)
  if noStop i then d
  else if v.bit 24 then d.clkHalt i
  else if was && d.clkMay i then (d.clkOn i).settle
  else d

/-- CLK_FREQ_SET (R399). -/
def execClkFreqSet (idx : Fin 22) (v : Word) (t : Nat) (s : State) : Host.Outcome State Fault Refusal := s.act t fun d => d.clkWrite idx.val v

/-! ### What a reset does to a domain (R408, R409) -/

/-- Pending requests of lines. -/
def Dev.clearLines (d : Dev) (lo hi : Nat) : Dev := forUpTo (hi - lo) (fun i d => d.setF (aDmaReq (lo + i)) 7 0 0) d

/-- The core of a waiting access is of a cluster. -/
def WaitAcc.ofCluster (w : WaitAcc) (cl : Nat) : Bool :=
  match w with
  | .coreAcc c _ _ _ _ => decide (c / 8 = cl)
  | _ => false

/-- The function of a waiting access is of a port. -/
def Dev.waitOfPort (d : Dev) (w : WaitAcc) (port : Nat) : Bool :=
  match w with
  | .pcieAcc _ m _ _ _ | .pciePage m _ _ _ _ => decide ((d.funcOf m).1 = port)
  | _ => false

/-- Held units of a target kind are discarded (R447). -/
def Dev.fiDrop (d : Dev) (kind : Nat) : Dev := { d with fi := { d.fi with held := d.fi.held.filter fun h => decide (h.path.kind ≠ kind) } }

/-- A compute die is reset: its registers, its allocator and the ownership table of its stack. -/
def Dev.resetDie (d : Dev) (n : Nat) : Dev :=
  let d := d.clearDie n fun _ => false
  { d with own := d.own.filter (fun o => decide (o.1 / 18432 ≠ n)), kvStacks := d.kvStacks.filter (fun k => decide (k.1 / 32 ≠ n)),
           kvPages := d.kvPages.filter (fun k => decide (k.1 / 2 ^ 18 / 32 ≠ n)), kvWait := d.kvWait.filter fun w => decide (w.1 / 32 ≠ n) }

/-- The graphics unit is reset: what it runs ends as a fabric error (R409), its cores lose their state.
Log entry 90 (DESIGN CHOICE). -/
def Dev.resetGfx (d : Dev) : Dev :=
  let d := match d.gfxRunning with
    | some p => d.killFault p.1 p.2.seq .link
    | none => d
  { d.setF aGfxStatus 2 0 0 with vcs := d.vcs.filter fun v => decide (v.1 < 256) }

/-- A PCIe port is reset: as a link that goes down (R383), and what waits there is gone. -/
def Dev.resetPort (d : Dev) (port : Nat) : Dev :=
  let d := { d with waiting := d.waiting.filter fun w => !d.waitOfPort w port }
  (d.setReg (aPcieStatus port) 0).portDown port

/-- The effect of entering reset on what a domain holds. The registers of the hub's own map are in HUB and stay.
Log entry 87 (DESIGN CHOICE). -/
def Dev.domEffect (d : Dev) (r : Nat) (abrupt : Bool) : Dev :=
  if decide (3 ≤ r) && decide (r ≤ 6) then
    let d := d.resetDie (r - 3)
    if abrupt then d.loseStack (r - 3) else d
  else if decide (7 ≤ r) && decide (r ≤ 9) then
    let d := forUpTo 4 (fun i d => d.setHostQ (4 * (r - 7) + i) {}) d
    { d with waiting := d.waiting.filter (fun w => !w.ofCluster (r - 7)), dbgHalt := d.dbgHalt.filter fun h => decide (h.1 / 8 ≠ r - 7) || decide (24 ≤ h.1) }
  else if r = 10 then d.resetGfx
  else if decide (11 ≤ r) && decide (r ≤ 14) then { d with pipes := d.pipes.del (r - 11) }
  else if r = 15 then
    let d := (({ d with gw := { d.gw with egress := [], tries := [] } } : Dev).fiDrop 1)
    if abrupt then d.clearLines 96 104 else d
  else if r = 16 then
    let d := (({ d with gw := { d.gw with canTx := [], canRx := [] } } : Dev).fiDrop 2)
    let d := forUpTo 16 (fun c d => d.setReg (aCanTxq c) 0) d
    if abrupt then d.clearLines 64 96 else d
  else if decide (r = 17) || decide (r = 18) then d.resetPort (r - 17)
  else if r = 19 then
    let d := { d with cams := [] }
    if abrupt then d.clearLines 0 64 else d
  else d

/-- A domain enters reset. Log entry 87 (DESIGN CHOICE). -/
def Dev.domReset (d : Dev) (r : Nat) (abrupt : Bool) : Dev :=
  let d := ((d.setF (aRstDomStatus r) 2 0 2).setB (aRstDomStatus r) 3 abrupt).countDev (if abrupt then 5 + 2 * r else 4 + 2 * r)
  { d.domEffect r abrupt with rstT := d.rstT.del r }

/-! ### Clock failures (R400) -/

/-- A running clock fails its monitor. -/
def Dev.clkFails (d : Dev) (i : Nat) : Dev :=
  if !d.getB (aClkStatus i) 24 then d else
  let d := ((d.setB (aClkStatus i) 26 true).logE 15 0 i (aClkStatus i) 0).countDev 3
  if i ≤ 3 then ((d.domReset (3 + i) true).offline i).settle
  else if decide (16 ≤ i) && decide (i ≤ 19) then (if d.stackUp (i - 16) then d.stackLost (i - 16) else d)
  else if decide (i ∈ [4, 8, 20, 21]) then ({ d with clkFail := true } : Dev).loseCpa.loseCpb
  else ((d.domReset (clkDomain i) true).post 64 15 i 0).settle

/-- CLK_MON_FAULT (R400). -/
def execClkMonFault (idx : Fin 22) (t : Nat) (s : State) : Host.Outcome State Fault Refusal := s.act t fun d => d.clkFails idx.val

/-! ### Stopped clocks (R405, R411) -/

/-- Clocks that AUTOGATE stops (R398). -/
def autoGated (i : Nat) : Bool := decide (i ∈ [5, 6, 7, 9])

/-- A domain that AUTOGATE has stopped and that a wake request reaches. -/
def Dev.gatedNow (d : Dev) (i : Nat) : Bool :=
  autoGated i && d.getB (aClkCtrl i) 25 && !d.getB (aClkCtrl i) 24 && !d.getB (aClkStatus i) 24 &&
  decide (d.getF (aRstDomStatus (clkDomain i)) 2 0 = 0)

/-- A wake restarts the clock within 2 µs; how long it takes is open. -/
def Dev.domainWake (d : Dev) (i : Nat) : Dev :=
  if !d.gatedNow i then d else
  let f := d.fresh
  let d := (f.2.clkOn i).countDev 0
  d.setF (aClkWake i) 15 0 (max (d.getF (aClkWake i) 15 0) (f.1 % 201))

/-- DOMAIN_WAKE (R405). -/
def execDomainWake (idx : Fin 22) (t : Nat) (s : State) : Host.Outcome State Fault Refusal := s.act t fun d => d.domainWake idx.val

/-- A wake that is not acknowledged within 10 µs: a job that waits for the graphics unit fails and is run again. -/
def Dev.wakeTimeout (d : Dev) (i : Nat) : Dev :=
  if !d.gatedNow i then d else
  let d := (d.setB (aClkStatus i) 26 true).countDev 1
  match d.gfxRunning with
  | some p => if i = 9 then (d.killFault p.1 p.2.seq .link).settle else d
  | none => d

/-- DOMAIN_WAKE_TIMEOUT (R405). -/
def execDomainWakeTimeout (idx : Fin 22) (t : Nat) (s : State) : Host.Outcome State Fault Refusal := s.act t fun d => d.wakeTimeout idx.val

/-- The work of a domain is idle as far as the device's state shows. -/
def Dev.idleDomain (d : Dev) (i : Nat) : Bool :=
  if i = 9 then decide (d.getF aGfxStatus 2 0 = 0) else d.waiting.all fun w => !w.ofCluster (i - 5)

/-- AUTOGATE_STOP (R411). -/
def execAutogateStop (idx : Fin 22) (s : State) : Host.Outcome State Fault Refusal :=
  s.act 0 fun d =>
    let i := idx.val
    if autoGated i && d.getB (aClkCtrl i) 25 && d.getB (aClkStatus i) 24 && d.idleDomain i then d.clkHalt i else d

/-! ### Requested resets (R406, R408, R410) -/

/-- The cluster's instance is FREE, ORPHANED or RESET_DONE, or the cluster has no binding. -/
def Dev.clusterIdle (d : Dev) (cl : Nat) : Bool :=
  match d.boundTo 0 cl with
  | some n => decide ((d.page n).state = .orphaned) || decide ((d.page n).state = .resetDone)
  | none => true

/-- A request for a domain is allowed. -/
def Dev.rstAllowed (d : Dev) (r : Nat) : Bool :=
  if r ≤ 2 then false
  else if r ≤ 6 ∨ 15 ≤ r then decide (d.pers = .service)
  else if r ≤ 9 then d.clusterIdle (r - 7)
  else if r = 10 then !d.getB aGfxCtrl 0 && decide (d.getF aGfxStatus 2 0 = 0)
  else !d.getB (aDispCtrl (r - 11)) 0

/-- The clock that AUTOGATE may have stopped in a domain. -/
def wakeClock (r : Nat) : Nat := if r = 10 then 9 else r - 2

/-- A write of RST_DOM_CTRL.REQ. -/
def Dev.rstReq (d : Dev) (r : Nat) : Dev :=
  if !d.rstAllowed r then d.noEffect 71 (aRstDomCtrl r) 1
  else if d.getF (aRstDomStatus r) 2 0 ≠ 0 then d
  else
    let d := if (decide (7 ≤ r) && decide (r ≤ 10)) then d.domainWake (wakeClock r) else d
    let d := { d.setF (aRstDomStatus r) 2 0 1 with rstT := d.rstT.put r d.now }
    if decide (3 ≤ r) && decide (r ≤ 6) then (d.tearAll fun c => d.ctxOn c (r - 3) || d.ctxIn c (r - 3)).settle
    else if decide (7 ≤ r) && decide (r ≤ 9) then { d with waiting := d.waiting.filter fun w => !w.ofCluster (r - 7) }
    else d

/-- RST_DOM_REQ (R408). -/
def execRstDomReq (r : Fin 20) (t : Nat) (s : State) : Host.Outcome State Fault Refusal := s.act t fun d => d.rstReq r.val

/-- Something of the domain is in flight as far as the device's state shows. -/
def Dev.inFlight (d : Dev) (r : Nat) : Bool :=
  if decide (r = 17) || decide (r = 18) then d.waiting.any fun w => d.waitOfPort w (r - 17) else false

/-- A quiesced domain enters reset once nothing is in flight, abruptly after 100 µs. -/
def Dev.rstEnter (d : Dev) (r : Nat) : Dev :=
  if d.getF (aRstDomStatus r) 2 0 ≠ 1 then d else
  let late := decide ((d.rstT.look r).getD 0 + 100000 ≤ d.now)
  if d.inFlight r && !late then d else (d.domReset r (d.inFlight r)).settle

/-- RST_DOM_IN_RESET (R408). -/
def execRstDomInReset (r : Fin 20) (t : Nat) (s : State) : Host.Outcome State Fault Refusal := s.act t fun d => d.rstEnter r.val

/-- The clocks of a domain that leaves reset. -/
def domClocks (r : Nat) : List Nat :=
  if decide (3 ≤ r) && decide (r ≤ 6) then [r - 3, r + 13] else if decide (7 ≤ r) && decide (r ≤ 9) then [r - 2] else if r = 10 then [9] else []

/-- A write of RST_DOM_CTRL.REL. -/
def Dev.rstRelease (d : Dev) (r : Nat) : Dev :=
  if d.getF (aRstDomStatus r) 2 0 ≠ 2 then d.noEffect 71 (aRstDomCtrl r) 2
  else (forEach (domClocks r) (fun i d => d.clkOn i) (d.setF (aRstDomStatus r) 2 0 0)).settle

/-- RST_DOM_REL (R408, R410). -/
def execRstDomRel (r : Fin 20) (t : Nat) (s : State) : Host.Outcome State Fault Refusal := s.act t fun d => d.rstRelease r.val

/-- PCIEn_PERST_N (R494): low holds the port's domain in reset, as a link that goes down; high releases it.
Log entry 90 (DESIGN CHOICE). -/
def Dev.perst (d : Dev) (port : Nat) (level : Bool) : Dev :=
  let r := 17 + port
  if level then (if d.getF (aRstDomStatus r) 2 0 = 2 then
      ((((d.setF (aRstDomStatus r) 2 0 0).freeF (aPcieStatus port) 10 7).freeF (aPcieStatus port) 6 4).freeF (aPcieStatus port) 0 0)
    else d)
  else if d.getF (aRstDomStatus r) 2 0 = 2 then d
  else ((d.setF (aRstDomStatus r) 2 0 2).resetPort port).settle

/-- PCIE_PERST (R494). -/
def execPciePerst (port : Fin 2) (level : Bool) (t : Nat) (s : State) : Host.Outcome State Fault Refusal :=
  s.act t fun d => d.perst port.val level

/-! ### Device resets (R273, R407, R495) -/

/-- A device reset that happens under a condition; otherwise time alone goes on. -/
def Dev.resetIf (d : Dev) (t : Nat) (cond : Dev → Bool) (cause : Nat) : Dev :=
  if decide (d.power = .on) && cond (d.advance t) then (d.advance t).devReset cause else d.act t id

/-- RST_DEV (R407, R412): in SERVICE only. -/
def execRstDev (v : Word) (t : Nat) (s : State) : Host.Outcome State Fault Refusal :=
  s.anew fun d => d.resetIf t (fun d => v.bit 0 && decide (d.pers = .service)) 4

/-- RESET_N (R495): a device reset in every state. -/
def execResetN (_t : Nat) (s : State) : Host.Outcome State Fault Refusal := s.anew fun d => d.devReset 2

/-- The time of the first loss of CPA or CPB. -/
def Dev.lostT (d : Dev) : Option Nat :=
  match d.cpaLost, d.cpbLost with
  | some a, some b => some (min a b)
  | some a, none => some a
  | none, b => b

/-- RESET_DELAY has run out since then (R273, R274, R277). Log entry 106 (DESIGN CHOICE). -/
def Dev.delayOver (d : Dev) : Bool :=
  let x := min 1000 (d.getF aSafeCfg 25 16)
  match d.lostT with
  | some t => decide (x ≠ 0) && decide (t + x * 1000000 ≤ d.now)
  | none => false

/-- RESET_DELAY_EXPIRE (R273): RST_CAUSE.WDT, or CLK after a clock failure (R400). -/
def execResetDelayExpire (t : Nat) (s : State) : Host.Outcome State Fault Refusal :=
  s.anew fun d => d.resetIf t Dev.delayOver (if d.clkFail then 5 else 3)

end Sys2Proof.Machine
end

