-- ==== Sys2Proof/Machine/Commands.lean ====
section
/-! DEFINITION. The rows of the class commands and jobs. Each runs a dispatched command of its operation to
its end, step 1 of the press; the press itself is a row of its own. -/

namespace Sys2Proof.Machine

/-- MATMUL (R112): Y := A × W. -/
def execMatmul (q : QId) (seq : Word) (t : Nat) (s : State) : Host.Outcome State Fault Refusal :=
  s.act t fun d => d.runRow q.val seq.toNat fun c => decide (c.op = 0x0101)

/-- MATMUL_ADD (R112): Y := A × W + D. -/
def execMatmulAdd (q : QId) (seq : Word) (t : Nat) (s : State) : Host.Outcome State Fault Refusal :=
  s.act t fun d => d.runRow q.val seq.toNat fun c => decide (c.op = 0x0102)

/-- CONV_CHAIN (R204). -/
def execConvChain (q : QId) (seq : Word) (t : Nat) (s : State) : Host.Outcome State Fault Refusal :=
  s.act t fun d => d.runRow q.val seq.toNat fun c => decide (c.op = 0x0201)

/-- TOPK (R214). -/
def execTopk (q : QId) (seq : Word) (t : Nat) (s : State) : Host.Outcome State Fault Refusal :=
  s.act t fun d => d.runRow q.val seq.toNat fun c => decide (c.op = 0x0202)

/-- NMS (R215). -/
def execNms (q : QId) (seq : Word) (t : Nat) (s : State) : Host.Outcome State Fault Refusal :=
  s.act t fun d => d.runRow q.val seq.toNat fun c => decide (c.op = 0x0203)

/-- UNFOLD (R211). -/
def execUnfold (q : QId) (seq : Word) (t : Nat) (s : State) : Host.Outcome State Fault Refusal :=
  s.act t fun d => d.runRow q.val seq.toNat fun c => decide (c.op = 0x0204)

/-- KV_APPEND (R189). -/
def execKvAppend (q : QId) (seq : Word) (t : Nat) (s : State) : Host.Outcome State Fault Refusal :=
  s.act t fun d => d.runRow q.val seq.toNat fun c => decide (c.op = 0x0301)

/-- ATTENTION (R195). -/
def execAttention (q : QId) (seq : Word) (t : Nat) (s : State) : Host.Outcome State Fault Refusal :=
  s.act t fun d => d.runRow q.val seq.toNat fun c => decide (c.op = 0x0302)

/-- KV_TRUNCATE (R186). -/
def execKvTruncate (q : QId) (seq : Word) (t : Nat) (s : State) : Host.Outcome State Fault Refusal :=
  s.act t fun d => d.runRow q.val seq.toNat fun c => decide (c.op = 0x0303)

/-- RING_ALLREDUCE (R196). -/
def execRingAllreduce (q : QId) (seq : Word) (t : Nat) (s : State) : Host.Outcome State Fault Refusal :=
  s.act t fun d => d.runRow q.val seq.toNat fun c => decide (c.op = 0x0304)

/-- SOFTMAX (R172). -/
def execSoftmax (q : QId) (seq : Word) (t : Nat) (s : State) : Host.Outcome State Fault Refusal :=
  s.act t fun d => d.runRow q.val seq.toNat fun c => decide (c.op = 0x0401)

/-- RMSNORM (R172). -/
def execRmsnorm (q : QId) (seq : Word) (t : Nat) (s : State) : Host.Outcome State Fault Refusal :=
  s.act t fun d => d.runRow q.val seq.toNat fun c => decide (c.op = 0x0402)

/-- LAYERNORM (R172). -/
def execLayernorm (q : QId) (seq : Word) (t : Nat) (s : State) : Host.Outcome State Fault Refusal :=
  s.act t fun d => d.runRow q.val seq.toNat fun c => decide (c.op = 0x0403)

/-- ACTIVATION (R172). -/
def execActivation (q : QId) (seq : Word) (t : Nat) (s : State) : Host.Outcome State Fault Refusal :=
  s.act t fun d => d.runRow q.val seq.toNat fun c => decide (c.op = 0x0404)

/-- ROTATE (R141). -/
def execRotate (q : QId) (seq : Word) (t : Nat) (s : State) : Host.Outcome State Fault Refusal :=
  s.act t fun d => d.runRow q.val seq.toNat fun c => decide (c.op = 0x0405)

/-- QUANTISE (R172). -/
def execQuantise (q : QId) (seq : Word) (t : Nat) (s : State) : Host.Outcome State Fault Refusal :=
  s.act t fun d => d.runRow q.val seq.toNat fun c => decide (c.op = 0x0406)

/-- DWCONV (R213). -/
def execDwconv (q : QId) (seq : Word) (t : Nat) (s : State) : Host.Outcome State Fault Refusal :=
  s.act t fun d => d.runRow q.val seq.toNat fun c => decide (c.op = 0x0407)

/-- POOL (R213). -/
def execPool (q : QId) (seq : Word) (t : Nat) (s : State) : Host.Outcome State Fault Refusal :=
  s.act t fun d => d.runRow q.val seq.toNat fun c => decide (c.op = 0x0408)

/-- ADAMW (R172). -/
def execAdamw (q : QId) (seq : Word) (t : Nat) (s : State) : Host.Outcome State Fault Refusal :=
  s.act t fun d => d.runRow q.val seq.toNat fun c => decide (c.op = 0x0409)

/-- COPY (R315). -/
def execCopy (q : QId) (seq : Word) (t : Nat) (s : State) : Host.Outcome State Fault Refusal :=
  s.act t fun d => d.runRow q.val seq.toNat fun c => decide (c.op = 0x0501)

/-- Partial renders and reloaded tiles of a RENDER job (R330): how often the bin store fills depends on the
bin format, which is not stated, so both counts are free values. Log entry 26 (DESIGN CHOICE). -/
def Dev.partialRenders (d : Dev) : Dev := (d.countFree 0x08 10).countFree 0x08 11

/-- RENDER (R329). -/
def execRender (q : QId) (seq : Word) (t : Nat) (s : State) : Host.Outcome State Fault Refusal :=
  s.act t fun d =>
    let d := match d.cmd? q.val seq.toNat with
      | some c => if decide (c.op = 0x10001) && decide (c.stage = CmdStage.dispatched) && c.suspended.isNone then d.partialRenders else d
      | none => d
    d.runRow q.val seq.toNat fun c => decide (c.op = 0x10001)

/-- KERNEL (R333). -/
def execKernel (q : QId) (seq : Word) (t : Nat) (s : State) : Host.Outcome State Fault Refusal :=
  s.act t fun d => d.runRow q.val seq.toNat fun c => decide (c.op = 0x10002)

/-- KV_RESERVE_WAIT (R185): a KV_APPEND that is taken comes to its dispatch. Where the pool holds too few
free pages it gives its locks back and waits; else it starts. -/
def execKvReserveWait (q : QId) (seq : Word) (t : Nat) (s : State) : Host.Outcome State Fault Refusal :=
  s.act t fun d =>
    match d.cmd? q.val seq.toNat with
    | some c => if decide (c.op = 0x0301) && decide (c.stage = .taken) then d.pass else d
    | none => d

/-- HALO_FLAG_WAIT (R208): the row fetcher of a rank of a running chain reads the flag of a row that belongs to
another rank's stripe; of any other row it waits on none. While the flag reads 0 the rank waits; a flag of 1 ends the wait. -/
def execHaloFlagWait (q : QId) (seq : Word) (rank layer row : Nat) (t : Nat) (s : State) : Host.Outcome State Fault Refusal :=
  s.act t fun d =>
    match d.cmd? q.val seq.toNat with
    | some c =>
      if decide (c.op = 0x0201) && decide (c.stage = .dispatched) && c.haloRow (d.ranksOf q.val c.engines).1 rank layer row then
        let w := (rank, layer, row)
        if d.haloFlag c (d.twinnedQ q.val) layer row = 0 then d.updCmd q.val seq.toNat fun c => { c with haloWait := insertNew c.haloWait w }
        else d.updCmd q.val seq.toNat fun c => { c with haloWait := c.haloWait.filter (· ≠ w) }
      else d
    | none => d

end Sys2Proof.Machine
end

