-- ==== Sys2Proof/Machine/Power.lean ====
section
/-! DEFINITION. Power and temperature (R453 to R465), and SLEEP (R467, R468). -/

namespace Sys2Proof.Machine

/-! ### Duties and thermal sites (R122, R462) -/

/-- The engines whose duty a site throttles. -/
def siteEngines (site : Nat) : List Nat :=
  if site < 64 then [site] else if site < 68 then (List.range 16).map fun i => 16 * (site - 64) + i else []

/-- The clock that a site throttles. -/
def siteClock (site : Nat) : Option Nat :=
  if decide (68 ≤ site) && decide (site ≤ 70) then some (site - 63) else if site = 71 then some 9 else none

/-- The steps that a site has to the least its unit can. -/
def Dev.siteSteps (d : Dev) (site : Nat) : Nat :=
  match siteClock site with
  | some i =>
    match clkStep i with
    | some (st, lo) => (d.clkMax i - lo) / st
    | none => 0
  | none => if site < 68 then 15 else 0

/-- A running clock takes the frequency that its request and the throttle give. -/
def Dev.clkFollow (d : Dev) (i : Nat) : Dev :=
  if d.getB (aClkStatus i) 24 then d.clkRun i (d.clkFor i (d.getF (aClkCtrl i) 23 0)) else d

/-- PWR_STATUS.THROTTLE follows the throttled sites. -/
def Dev.refreshThrottle (d : Dev) : Dev := d.setB aPwrStatus 1 (d.therm.any fun (x : Nat × Nat) => decide (0 < x.2))

/-- The reading of a site from its two sensors, in tenths of a degree; none is a sensor that has failed its range check. The higher
reading counts, and a site without a good sensor reads 106 °C (R463). Log entry 95 (DEDUCED). -/
def siteReading : Option Int → Option Int → Int
  | some x, some y => max x y
  | some x, none => x
  | none, some y => y
  | none, none => 1060

/-- The two sensors of a site differ by more than 5 °C, or one has failed its range check (R463, R469).
Log entry 95 (DEDUCED). -/
def sensorsDiffer : Option Int → Option Int → Bool
  | some x, some y => decide (50 < (x - y).natAbs)
  | _, _ => true

/-- PWR_STATUS.SENSOR on a reading of a site's two sensors; the stacks report their own sensors (R462, R463). -/
def Dev.sensorCheck (d : Dev) (site : Nat) (a b : Option Int) : Dev :=
  if decide (site < 74) && sensorsDiffer a b then (d.setB aPwrStatus 5 true).countDev 60 else d

/-- The hottest junction reading, as far as the readings that the commands carry tell it.
Log entry 94 (DESIGN CHOICE). -/
def Dev.tjSample (d : Dev) (site : Nat) (tj : Int) : Dev :=
  let cur := BitVec.toInt (BitVec.ofNat 16 (d.getF aPwrTjmax 15 0))
  if decide (site < 74) && (decide (d.getF aPwrTjmax 23 16 = site) || decide (cur < tj)) then
    (d.setF aPwrTjmax 23 16 site).setF aPwrTjmax 15 0 (BitVec.ofInt 16 tj).toNat
  else d

/-- Above 105 °C: one step down (R462). Sites without an action are left to R465.
Log entries 70 (DESIGN CHOICE), 94 (DESIGN CHOICE). -/
def Dev.throttle (d : Dev) (site : Nat) (tj : Int) : Dev :=
  let d := d.tjSample site tj
  if tj ≤ 1050 ∨ 71 < site then d else
  let d := d.countDev (66 + site)
  let n := d.therm.lookD site 0
  let was := decide (0 < n)
  let d := if n < d.siteSteps site then { d with therm := d.therm.put site (n + 1) } else d
  let d := match siteClock site with
    | some i => d.clkFollow i
    | none => forEach (siteEngines site) (fun e d => d.setHwDuty e (d.hwDuty e - 1)) d
  let d := d.refreshThrottle
  if was then d else d.report 16 site

/-- Below 102 °C: one step up (R462). Log entry 94 (DESIGN CHOICE). -/
def Dev.thermRelease (d : Dev) (site : Nat) (tj : Int) : Dev :=
  let d := d.tjSample site tj
  let n := d.therm.lookD site 0
  if 1020 ≤ tj ∨ n = 0 then d else
  let d := { d with therm := if n = 1 then d.therm.del site else d.therm.put site (n - 1) }
  let d := match siteClock site with
    | some i => d.clkFollow i
    | none => forEach (siteEngines site) (fun e d => d.setHwDuty e (min (d.thermDuty e) (d.hwDuty e + 1))) d
  let d := d.refreshThrottle
  if n = 1 then d.endCond 16 site else d

/-- THERMAL_THROTTLE_STEP (R462, R463), with the readings of the site's two sensors. -/
def execThermalThrottleStep (site : Nat) (a b : Option Int) (t : Nat) (s : State) : Host.Outcome State Fault Refusal :=
  s.act t fun d => (d.sensorCheck site a b).throttle site (siteReading a b)

/-- THERMAL_RELEASE_STEP (R462, R463). -/
def execThermalReleaseStep (site : Nat) (a b : Option Int) (t : Nat) (s : State) : Host.Outcome State Fault Refusal :=
  s.act t fun d => (d.sensorCheck site a b).thermRelease site (siteReading a b)

/-! ### The thermal figure (R464) -/

/-- A stack's share in GB/s at a temperature in tenths of a degree. -/
def stackShare (x : Int) : Nat :=
  if x ≤ 850 then 1024 else if 950 ≤ x then 256 else 1024 - (x - 850).toNat * 768 / 100

/-- The thermal figure for four temperatures. -/
def Dev.thermalFig (d : Dev) (temps : List Int) : Nat :=
  (List.range 4).foldl (fun a n => a + if d.stackUp n then stackShare (temps.getD n 0) else 0) 0

/-- The evaluation: the stacks' temperatures are shown, and a figure that differs by 16 GB/s takes force. -/
def Dev.thermalEval (d : Dev) (temps : List Int) : Dev :=
  let bytes := (List.range 4).map fun n => BitVec.ofInt 8 (Int.fdiv (temps.getD n 0) 10)
  let d := d.setReg aPwrTstack (BitVec.ofNat 32 (leNat bytes))
  let f := d.thermalFig temps
  let cur := d.getF aPwrTherm 12 0
  if cur + 16 ≤ f ∨ f + 16 ≤ cur then (d.setF aPwrTherm 12 0 f).reFig else d

/-- THERMAL_FIGURE_EVAL (R464). -/
def execThermalFigureEval (temps : List Int) (t : Nat) (s : State) : Host.Outcome State Fault Refusal :=
  s.act t fun d => d.thermalEval temps

/-! ### The 420 W limit (R461) -/

/-- A 1 ms average of the input power. Log entry 94 (DESIGN CHOICE). -/
def Dev.sampleMs (d : Dev) (w : Nat) : Dev :=
  let l := (d.pwrMs.filter fun p => decide (d.now < p.1 + 20000000)) ++ [(d.now, w)]
  { d.setF aPwrAvg 24 16 (min 511 (maxOf (l.map (·.2)))) with pwrMs := l }

/-- A step of the rind's limiter. Log entry 94 (DESIGN CHOICE). -/
def Dev.limiter (d : Dev) (w : Nat) : Dev :=
  let d := d.sampleMs w
  if 420 < w then
    (forUpTo 64 (fun e d => d.setHwDuty e (d.hwDuty e - 1)) d).setB aPwrStatus 2 true |>.countDev 59
  else if decide (w < 400) && d.getB aPwrStatus 2 then
    let d := (forUpTo 64 (fun e d => d.setHwDuty e (min (d.thermDuty e) (d.hwDuty e + 1))) d).countDev 59
    d.setB aPwrStatus 2 ((List.range 64).any fun e => decide (d.hwDuty e < d.thermDuty e))
  else d

/-- POWER_LIMIT_STEP (R461). -/
def execPowerLimitStep (avgW : Nat) (t : Nat) (s : State) : Host.Outcome State Fault Refusal := s.act t fun d => d.limiter avgW

/-! ### The cap (R459, R460) -/

/-- The engines of the groups of a partition kind. -/
def Dev.kindEngines (d : Dev) (k : PartKind) : List Nat :=
  let m := (d.egs.filter fun (g : Nat × EngineGroup) => decide ((d.part g.2.pt).map (·.kind) = some k)).foldl
    (fun m (g : Nat × EngineGroup) => Nat.lor m g.2.engines) 0
  maskBits m 64

/-- The clocks of the world-O clusters bound to BEST_EFFORT instances, or of the others. -/
def Dev.clusterClocks (d : Dev) (best : Bool) : List Nat :=
  ((List.range 3).filter fun cl =>
    d.getB aWorldHost cl &&
    (((d.boundTo 0 cl).any fun n => decide ((d.part (d.inst n).pt).map (·.kind) = some .bestEffort)) == best)).map (5 + ·)

/-- What Sebry lowers, in the order of R460: the FW_DUTY of engine e, or clock i at 64 + i. -/
def Dev.capStages (d : Dev) : List (List Nat) :=
  let shown := d.parts.any fun (p : Nat × Partition) => decide (p.2.kind = .display)
  [ d.kindEngines .lease, d.kindEngines .bestEffort, (d.clusterClocks true).map (64 + ·),
    d.kindEngines .cockpit, (d.clusterClocks false).map (64 + ·), if shown then [] else [73] ]

/-- The level of such an item: its FW_DUTY, or the requested frequency after rounding. -/
def Dev.capLevel (d : Dev) (x : Nat) : Nat :=
  if x < 64 then d.getF (aGxDuty x) 11 8
  else
    match clkStep (x - 64) with
    | some (st, lo) => max lo (min (d.clkMax (x - 64)) (d.getF (aClkCtrl (x - 64)) 23 0 / st * st))
    | none => 0

def capStep (x : Nat) : Nat := if x < 64 then 1 else ((clkStep (x - 64)).map (·.1)).getD 1

def capBottom (x : Nat) : Nat := if x < 64 then 0 else ((clkStep (x - 64)).map (·.2)).getD 0

/-- An item's level is written; a clock is changed as R399 says. -/
def Dev.capPut (d : Dev) (x v : Nat) : Dev :=
  if x < 64 then (d.dutyCount x).setF (aGxDuty x) 11 8 v
  else ((d.setF (aClkCtrl (x - 64)) 23 0 v).clkFollow (x - 64)).countDev 2

/-- An item can be lowered; a clock that does not run is not. -/
def Dev.canLower (d : Dev) (x : Nat) : Bool :=
  decide (capBottom x < d.capLevel x) && (decide (x < 64) || d.getB (aClkStatus (x - 64)) 24)

def Dev.canRaise (d : Dev) (x : Nat) : Bool :=
  (d.capBase.look x).isSome && (decide (x < 64) || d.getB (aClkStatus (x - 64)) 24)

def Dev.capLower (d : Dev) (x : Nat) : Dev :=
  let d := { d with capBase := if (d.capBase.look x).isSome then d.capBase else d.capBase.put x (d.capLevel x) }
  d.capPut x (max (capBottom x) (d.capLevel x - capStep x))

def Dev.capRaise (d : Dev) (x : Nat) : Dev :=
  let b := d.capBase.lookD x 0
  let v := d.capLevel x + capStep x
  if b ≤ v then ({ d with capBase := d.capBase.del x } : Dev).capPut x b else d.capPut x v

/-- Sebry's check of the input power against CAP. Log entry 94 (DESIGN CHOICE). -/
def Dev.capCheck (d : Dev) (w : Nat) : Dev :=
  let d := d.setF aPwrAvg 8 0 (min 511 w)
  let cap := d.getF aPwrCtrl 8 0
  let d := if w ≤ cap then { d with capOver := false } else d
  if d.cpaLost.isSome then d
  else if 98 * cap < 100 * w then
    match d.capStages.find? (fun l => l.any d.canLower) with
    | some l => (forEach (l.filter d.canLower) (fun x d => d.capLower x) d).countDev 58
    | none =>
      if decide (cap < w) && !d.capOver then
        let d := ({ d with capOver := true } : Dev).setB aPwrStatus 4 true |>.derateEvent 2 w
        forEach d.running (fun r d => d.checkpoint r.1 r.2 false) d
      else d
  else if 100 * w < 90 * cap then
    match d.capStages.reverse.find? (fun l => l.any d.canRaise) with
    | some l => (forEach (l.filter d.canRaise) (fun x d => d.capRaise x) d).countDev 58
    | none => d
  else d

/-- CAP_CHECK (R460). -/
def execCapCheck (avgW : Nat) (t : Nat) (s : State) : Host.Outcome State Fault Refusal := s.act t fun d => d.capCheck avgW

/-! ### What the rind keeps -/

/-- The RIND and RIND_STICKY registers: SEC_, SAFE_, CLK_, RST_ and PWR_. -/
def rindReg (a : Nat) : Bool :=
  decide (a / 65536 * 65536 ∈ [0x7F00000000, 0x7F00040000, 0x7F000C0000, 0x7F000D0000, 0x7F000F0000])

/-- Every rail but VRIND is off: the rind's registers remain, every clock but RINDCLK stops, and FAULT_N is low.
Log entry 92 (DESIGN CHOICE). Log entry 126 (DEDUCED). -/
def Dev.rindOnly (d : Dev) (p : Power) : Dev :=
  let e : Dev := { d.bareOn with regs := d.regs.filter fun (x : Nat × Word) => rindReg x.1, power := p, pers := d.pers, boot := d.boot,
                                 keys := d.keys, faultLatched := d.faultLatched, auxOff := d.auxOff }
  (forUpTo 21 (fun i d => (d.clkHalt i).setB (aClkStatus i) 25 false) e).refreshFault

/-- A shutdown: the device stays off until RESET_N or a cycle of VIN (R456, R465). -/
def Dev.shutdown (d : Dev) : Dev := d.rindOnly .shut

/-! ### VIN and rails (R453, R456) -/

/-- Every rail is gone. -/
def Dev.dark (d : Dev) : Dev := { d.bare with power := .none }

/-- VIN_OVERVOLTAGE (R453): the device restarts as at power-on, with POWER_GOOD. -/
def execVinOvervoltage (_t : Nat) (s : State) : Host.Outcome State Fault Refusal := s.anew Dev.dark

/-- VIN_UNDERVOLTAGE (R453). -/
def execVinUndervoltage (_t : Nat) (s : State) : Host.Outcome State Fault Refusal := s.anew Dev.dark

/-- The die that a rail of R455 supplies: rails 0 VRIND, 1 VHUB, 2–5 VCD0–VCD3, 6 VSRAM, 7–10 VHBMC0–VHBMC3, 11–14
VHBMQ0–VHBMQ3, 15 VPP, 16 VIO18, 17 VAUX33. Log entry 93 (DESIGN CHOICE). -/
def railDie (rail : Nat) : Option Nat :=
  if decide (2 ≤ rail) && decide (rail ≤ 5) then some (rail - 2)
  else if decide (7 ≤ rail) && decide (rail ≤ 14) then some ((rail - 7) % 4) else none

/-- A rail runs. Log entry 93 (DESIGN CHOICE). -/
def Dev.railRuns (d : Dev) (rail : Nat) : Bool :=
  match d.power with
  | .on => decide (rail < 18) && !(decide (2 ≤ rail) && decide (rail ≤ 5) && decide (d.getF (aRstDomStatus (rail + 1)) 2 0 = 4)) &&
      !(decide (rail = 17) && d.auxOff)
  | .sleep => decide (rail = 0) || (decide (rail = 17) && !d.auxOff)
  | .shut => false
  | .none => false

/-- A running rail leaves its window. Log entry 93 (DESIGN CHOICE). -/
def Dev.railFault (d : Dev) (rail t : Nat) : Dev :=
  if !d.railRuns rail then d.act t id else
  match railDie rail with
  | some n => d.act t fun d => ((d.domReset (3 + n) true).offline n).settle
  | none => ((if d.power = .on then d.advance t else d).setB aPwrEvt 1 true).shutdown

/-- RAIL_FAULT (R456). -/
def execRailFault (rail : Nat) (t : Nat) (s : State) : Host.Outcome State Fault Refusal := s.anew fun d => d.railFault rail t

/-- What the rind does by itself while its rail is up, in SLEEP too. Log entry 96 (DESIGN CHOICE). -/
def Dev.rindAct (d : Dev) (t : Nat) (f : Dev → Dev) : Dev :=
  if d.power = .sleep then Dev.keep d (f d) else d.act t f

/-- VAUX_OVERLOAD (R457): VAUX33 goes off and AUX_OC is set. -/
def execVauxOverload (t : Nat) (s : State) : Host.Outcome State Fault Refusal :=
  .next { s with dev := s.dev.rindAct t fun d => if d.auxOff then d else ({ d with auxOff := true } : Dev).setB aPwrStatus 3 true }

/-- VAUX_RETRY (R457). -/
def execVauxRetry (overload : Bool) (t : Nat) (s : State) : Host.Outcome State Fault Refusal :=
  .next { s with dev := s.dev.rindAct t fun d =>
    if !d.auxOff then d else if overload then d.setB aPwrStatus 3 true else { d with auxOff := false } }

/-- Thermal shutdown, with its site (R465). Log entry 95 (DEDUCED). -/
def Dev.thermalShut (d : Dev) (site t : Nat) : Dev :=
  if d.power ≠ .on then d else
  (((d.advance t).setB aPwrEvt 0 true).setF aPwrEvt 15 8 site).shutdown

/-- THERMAL_SHUTDOWN (R465). -/
def execThermalShutdown (site : Nat) (t : Nat) (s : State) : Host.Outcome State Fault Refusal := s.anew fun d => d.thermalShut site t

/-! ### SLEEP (R467, R468) -/

/-- PWR_CTRL.SLEEP is written: the commitment, and the rails but VRIND and VAUX33 go. PERS_SET's end and the PERSONALITY event
are on pages that lose their power with the hub. Log entry 92 (DESIGN CHOICE). -/
def Dev.sleepCommit (d : Dev) (t : Nat) : Dev :=
  let e := d.advance t
  if d.power = .on ∧ e.pers = .park then (({ e with trans := none } : Dev).enter .sleep false |>.rindOnly .sleep) else d.act t id

/-- SLEEP_COMMIT (R467). -/
def execSleepCommit (t : Nat) (s : State) : Host.Outcome State Fault Refusal := s.anew fun d => d.sleepCommit t

/-- The wake sources that fire, WAKE0 to WAKE3 and the timer at 4: enabled ones only. -/
def Dev.fired (d : Dev) (timer : Bool) (pins : BitVec 4) : List Nat :=
  (List.range 5).filter fun n =>
    if n < 4 then pins.getLsbD n && d.getB aPwrWakeCfg (8 * n + 7) else timer && decide (d.getF aPwrTimer 23 0 ≠ 0)

/-- The boot of a wake: from power-good, the RIND registers kept. Log entry 3 (DESIGN CHOICE).
Log entry 126 (DEDUCED). -/
def Dev.wakeBoot (d : Dev) (src : List Nat) : Dev :=
  let d := forEach src (fun n d => d.setB aPwrWakeSrc n true) d
  let e : Dev := { d.bareOn with regs := d.regs, keys := d.keys, faultLatched := d.faultLatched, auxOff := d.auxOff }
  let e := forUpTo 20 (fun r d => d.setF (aRstDomStatus r) 2 0 0) e
  let e := ((e.setReg aSafeCond 0).setF aPwrStatus 2 1 0).setF aBwrDerate 12 0 (e.getF aPwrTherm 12 0)
  let e := e.refreshFault.bootSeq fun c => some (!(src.any fun n => c.wakeDrive.getD n false))
  forEach src (fun n d => d.countDev (61 + n)) e

/-- A wake from SLEEP. Log entry 92 (DESIGN CHOICE). -/
def Dev.sleepWake (d : Dev) (timer : Bool) (pins : BitVec 4) : Dev :=
  let src := d.fired timer pins
  if d.power ≠ .sleep ∨ src.isEmpty then d else d.wakeBoot src

/-- SLEEP_WAKE (R468). -/
def execSleepWake (timer : Bool) (pins : BitVec 4) (_t : Nat) (s : State) : Host.Outcome State Fault Refusal :=
  s.anew fun d => d.sleepWake timer pins

end Sys2Proof.Machine
end

