-- ==== Sys2Proof/Machine/CoreAcc.lean ====
section
/-! DEFINITION. Loads, stores and fetches of the application cores (R26, R47, R281, R282, R288). -/

namespace Sys2Proof.Machine

/-- A core executes: its cluster is out of reset and clocked, its world runs in the personality in force (R26), the debug port
has not halted it (R438), and its pair is not QUARANTINED (R253). Log entry 101 (DESIGN CHOICE). -/
def Dev.coreExecutes (d : Dev) (core : Nat) : Bool :=
  let cl := core / 8
  let o := d.getB aWorldHost cl
  decide (d.getF (aRstDomStatus (7 + cl)) 2 0 = 0) && d.getB (aClkStatus (5 + cl)) 24 && (d.dbgHalt.look core).isNone &&
  decide (d.getF (aTwinHstatus (core / 2)) 2 0 ≠ 4) &&
  !(decide (d.pers = .park) && (decide (cl ≠ 0) || o)) && !(decide (d.pers = .service) && o)

/-- Addresses of instance pages and the manager page (R281). -/
def isPage (a : Nat) : Bool := decide (0x7E00000000 ≤ a) && decide (a < 0x7E00410000)

/-- The page of such an address. -/
def pageAt (a : Nat) : Nat := (a - 0x7E00000000) / 65536

/-- A core may reach a page: its own instance's, or the manager page from the manager's cluster (R47, R376). -/
def Dev.corePage (d : Dev) (core k : Nat) : Bool :=
  decide (d.coreInst core = some k) || (decide (k = 64) && !d.boot.mgrPcie && decide (core / 8 = d.boot.mgrIdx))

/-- A refused access of a core: the regulator's record and an access fault (R282). -/
def Dev.coreRefused (d : Dev) (core a : Nat) (store : Bool) : Dev :=
  { d.refuse (68 + core / 8) a store with lastAcc := .coreFault a }

/-- An access goes out to L3, to a page or to the fabric. Registers, map stores and unmapped addresses are refused with what no check
of memory passes. Log entries 53 (DESIGN CHOICE), 101 (DESIGN CHOICE). -/
def Dev.coreIssue (d : Dev) (core : Fin 24) (kind : AccKind) (a n : Nat) (data : List Byte) : Dev :=
  let store := decide (kind = .store)
  if isPage a then
    let off := a % 65536
    let e := if decide (kind ≠ .fetch) && d.corePage core.val (pageAt a) && decide (off + n ≤ 65536) then
        d.pageAcc (pageAt a) off (if store then some (data.take n) else none) n (.core core)
      else d.coreRefused core.val a store
    if d.twinnedCore core.val then e.keepLoad core.val store a n else e
  else
    let d := d.coreMem core.val store a n data
    if d.lastAcc = .written then d.settle else d

/-- A finding of a pair that a row does not count instructions for: how many its leading core has retired is free.
Log entry 145 (DESIGN CHOICE). -/
def Dev.queueFinding (d : Dev) (h : Nat) (v : Verdict) : Dev :=
  let f := d.fresh
  if v = .disagree then f.2.hostFinding h 2 0b0010 true false f.1 else f.2.hostFinding h 1 0b0001 false false f.1

/-- An access of the leading core of a twinned pair (R252): a write enters the compare queue, a load is made, and its value kept for the
trailing core. With a full queue, or with an unreleased write to the bytes that it loads, the core stalls.
Log entry 145 (DESIGN CHOICE). -/
def Dev.leadAccess (d : Dev) (core : Fin 24) (kind : AccKind) (a n : Nat) (data : List Byte) : Dev :=
  let h := core.val / 2
  let q := d.hostQs.lookD h {}
  if kind = .store then
    if 64 ≤ q.writes.length then { d with lastAcc := .waits }
    else { d.setHostQ h { q with writes := q.writes ++ [(a, n, data.take n)] } with lastAcc := .waits }
  else if decide (64 ≤ q.loads.length) || q.writes.any fun w => rangesMeet w.1 w.2.1 a n then { d with lastAcc := .waits }
  else d.coreIssue core kind a n data

/-- An access of the trailing core (R252): a write is judged against the oldest of the leading core's and released, once, where both
comparators find them equal; a load is answered from the load-value queue. Log entry 145 (DESIGN CHOICE). -/
def Dev.trailAccess (d : Dev) (core lead : Fin 24) (kind : AccKind) (a n : Nat) (data : List Byte) : Dev :=
  let h := core.val / 2
  let q := d.hostQs.lookD h {}
  if kind = .store then
    match q.writes with
    | [] => { d with lastAcc := .waits }
    | w :: ws =>
      let l := (lineWrites w.1 w.2.2).flatten
      let t := (lineWrites a (data.take n)).flatten
      match judge true (decide (l = t) || decide (sigA l = sigA t)) (decide (l = t) || decide (sigB l = sigB t)) with
      | .pass => (d.setHostQ h { q with writes := ws }).coreIssue lead .store w.1 w.2.1 w.2.2
      | v => d.queueFinding h v
  else
    match q.loads with
    | [] => { d with lastAcc := .waits }
    | w :: ws =>
      if w.1 = a ∧ w.2.1 = n then { d.setHostQ h { q with loads := ws } with lastAcc := w.2.2 }
      else d.queueFinding h .mismatch

/-- An access of a core: of a twinned pair through its compare point (R241, R252).
Log entries 53 (DESIGN CHOICE), 101 (DESIGN CHOICE). -/
def Dev.coreAccess (d : Dev) (core : Fin 24) (kind : AccKind) (a n : Nat) (data : List Byte) : Dev :=
  if !d.coreExecutes core.val then d
  else if !d.twinnedCore core.val then d.coreIssue core kind a n data
  else if core.val % 2 = 0 then d.leadAccess core kind a n data
  else d.trailAccess core ⟨core.val - 1, by have := core.isLt; omega⟩ kind a n data

/-- APPLICATION_CORE_ACCESS. -/
def execApplicationCoreAccess (core : Fin 24) (kind : AccKind) (addr len : Nat) (data : List Byte) (t : Nat) (s : State) :
    Host.Outcome State Fault Refusal :=
  s.act t fun d => d.coreAccess core kind addr len data

end Sys2Proof.Machine
end

