-- ==== Sys2Proof/Machine/RegWrite.lean ====
section
/-! DEFINITION. Writes of registers (R9, R10): who may write (the chapters' register sections), the writes that have no effect and
leave an entry in the log (R123, R178, R198, R218, R261, R277, R318, R349, R373, R397, R428, R452, R470), and what a stored field
does at once. -/

namespace Sys2Proof.Machine

/-! ### Who writes -/

/-- A hub register range of 64 KiB that an address lies in. -/
def hubBlock (a : Nat) : Nat := (a - 0x7F00000000) / 65536

def isHub (a : Nat) : Bool := decide (0x7F00000000 ≤ a) && decide (a < 0x7F10000000)

def isDieReg (a : Nat) : Bool := decide (0x7F10000000 ≤ a) && decide (a < 0x7F14000000)

/-- The masters that a chapter lets write a register. The debug port writes as CPA does, SAFE_ excepted (R438, R277). -/
def mayWrite (m : Master) (a : Nat) : Bool :=
  if !isHub a then true
  else if hubBlock a = 4 then decide (m = .cpb)
  else if decide (hubBlock a ∈ [0, 1, 5, 11, 14]) || decide (a = aPwrCtrl) || decide (a = aPwrTimer) then decide (m ≠ .cpb)
  else true

/-! ### Keys and debug enables by register (R435, R437, R445) -/

/-- A write of SEC_KEY_CTRL.ZEROISE: every slot is empty, and no MACsec association has a key.
Log entry 102 (DESIGN CHOICE). -/
def Dev.zeroise (d : Dev) : Dev :=
  let d := ({ d with keys := [] } : Dev).keyBits
  let ps := d.gw.macsec.keys
  let d := { d with gw := { d.gw with macsec := d.gw.macsec.map fun (p : Nat × Macsec) => (p.1, { p.2 with valid := [] }) } }
  forEach ps (fun p d => d.msecStatus p) d

/-- A write of SEC_DBG_CTRL.CLOSE. Fault injection may lose its ground (R446). -/
def Dev.dbgClose (d : Dev) (mask : Nat) : Dev := (d.closeDbg mask).fiCheck

/-- A write of SEC_WORLD_LOCK.LOCK. -/
def Dev.lockWorlds (d : Dev) : Dev := d.setB aWorldLock 0 true

/-! ### Writes without effect -/

/-- The pool is named by a taken command (R198). -/
def Dev.poolTaken (d : Dev) (die pool : Nat) : Bool :=
  d.allCmds.any fun x => decide (x.2.op / 256 = 3) && decide (x.2.op ≠ 0x0304) && decide (x.2.kvDie = die) && decide (d.kvPool x.1 x.2 = some pool)

/-- A write of a KV_POOL_CFG: what of it takes effect. -/
def Dev.poolGuard (d : Dev) (die pool : Nat) (old v : Word) : Word :=
  if !old.bit 31 then v
  else
    let keep := old.putBit 31 (v.bit 31 || d.poolTaken die pool)
    keep

/-- What of a write to a die's register takes effect, or none. -/
def Dev.dieGuard (d : Dev) (a : Nat) (old v : Word) : Option Word :=
  let n := (a - 0x7F10000000) / 0x01000000
  let x := (a - 0x7F10000000) % 0x01000000
  if decide (0x100000 ≤ x) && decide (x < 0x110000) then
    let e := 16 * n + (x - 0x100000) / 0x1000
    let r := x % 0x1000
    if !d.gxBusy e then some v
    else if r = 0 then some (v.put 1 0 (old.fld 1 0))
    else if decide (r = 0x10) || decide (r = 0x30) then none else some v
  else if decide (0x200000 ≤ x) && decide (x < 0x210000) then
    if decide (x % 0x400 = 0) && d.vcBusy (64 * n + (x - 0x200000) / 0x400) then none else some v
  else if decide (0x300100 ≤ x) && decide (x < 0x300500) then
    let q := (x - 0x300100) / 0x20
    if x % 0x20 = 0 then some (d.poolGuard n q old v) else if d.poolValid n q then none else some v
  else if x = 0x400000 then
    let st := d.getF (aSortStatus n) 7 4
    some (if 1 ≤ st ∧ st ≤ 5 then v.putBit 0 (old.bit 0) else v)
  else if decide (0x500000 ≤ x) && decide (x < 0x500800) && decide (x % 0x100 = 0) then
    let p := 8 * n + (x - 0x500000) / 0x100
    let v := if d.pairState p = 1 then v else v.putBit 0 false
    let v := if d.pairState p = 3 then v else v.putBit 1 false
    some (if (d.cmdsOn p).isEmpty then v else v.putBit 3 false)
  else if decide (0x701000 ≤ x) && decide (x < 0x702800) then
    let ch := 128 + 96 * n + (x - 0x701000) / 0x40
    if decide (x % 0x40 ∈ [4, 8, 0xC]) && decide (d.dmaState ch ≠ 0) then none else some v
  else some v

/-- A state in which PCIE_VFMAP may name or leave an instance (R397). -/
def Dev.vfLoose (d : Dev) (n : Nat) : Bool := decide ((d.page n).state ∈ [.created, .orphaned, .free])

/-- What of a write to a hub register takes effect, or none. -/
def Dev.hubGuard (d : Dev) (a : Nat) (old v : Word) : Option Word :=
  let r := a % 65536
  match hubBlock a with
  | 0 => if decide (0x30 ≤ r) && decide (r ≤ 0x3C) && d.getB aWorldLock 0 then none else some v
  | 2 =>
    let swap := d.getB aWhlCtrl 1
    if decide (a = aWhlPeriod d.whlBank) || decide ((a - 0x7F00021000) / 0x400 = d.whlBank ∧ 0x7F00021000 ≤ a) then none
    else if swap && decide (r ≠ 0) && decide (r ≠ 0x18) then none else some v
  | 4 =>
    if a = aSafeCfg then (if d.getB aSafeCfg 31 then none else some v)
    else if a = aSafeOut then (if d.pers = .service then some v else none) else some v
  | 6 =>
    let ch := (r - 0x1000) / 0x40
    if decide (0x1000 ≤ r) && decide (r < 0x3000) && decide (r % 0x40 ∈ [4, 8, 0xC]) && decide (d.dmaState ch ≠ 0) then none else some v
  | 7 => some (if a = aGfxCtrl ∧ d.getF aGfxStatus 2 0 ≠ 0 then v.putBit 0 (old.bit 0) else v)
  | 8 =>
    if !d.getB (aDispCtrl (r / 0x1000)) 0 then some v
    else if r % 0x1000 = 0 then some (v.put 7 4 (old.fld 7 4))
    else if decide (r % 0x1000 = 4) || decide (r % 0x1000 = 8) then none else some v
  | 10 =>
    if decide (r % 0x400 = 8 ∨ r % 0x400 = 0xC) && d.getB (aCanCtrl (r / 0x400)) 0 then none else some v
  | 11 =>
    let x := r % 0x1000
    if x = 0 then some (if d.pers = .service ∨ !d.reported then v else v.putBit 0 (old.bit 0))
    else if decide (0x100 ≤ x) && decide (x < 0x200) then
      (if (v.bit 6 && !d.vfLoose (v.fld 5 0)) || (old.bit 6 && !d.vfLoose (old.fld 5 0)) then none else some v)
    else some v
  | 14 => if decide (0x100 ≤ r) && d.fiArmed then none else some v
  | 15 => if (decide (a = aPwrWakeCfg) || decide (a = aPwrTimer)) && decide (d.pers ≠ .park) then none else some v
  | _ => some v

/-! ### What is stored -/

/-- A signed rate within ±2,147,483 (R481). -/
def clampRate (v : Word) : Word :=
  let x := v.toInt
  BitVec.ofInt 32 (if x < -2147483 then -2147483 else if 2147483 < x then 2147483 else x)

/-- Field values that the device stores otherwise than they are written: windows (R302), rates (R481), caps (R469). -/
def storedAs (a : Nat) (v : Word) : Word :=
  if a = aCntTbRate then clampRate v
  else if a = aPwrCtrl then v.put 8 0 (min 420 (v.fld 8 0))
  else if decide (aBwrMwin 0 ≤ a) && decide (a < aBwrMcfg 192) && decide ((a - aBwrMcfg 0) % 0x40 = 4) then
    v.put 16 0 (max 25 (min 100000 (v.fld 16 0)))
  else v

/-- The plain effect of a write: field by field (R9). -/
def Dev.regPut (d : Dev) (a : Nat) (v : Word) : Dev :=
  d.setReg a (RegField.write ((regFields a).getD []) (d.reg a) (storedAs a v))

/-! ### What a write does at once -/

/-- WHL_CTRL.EN (R43). -/
def Dev.wheelEn (d : Dev) (was now : Bool) : Dev :=
  if was == now then d
  else if now then
    -- the current period began at the latest boundary of the grid (R40)
    let d := d.setPair aWhlEpochLo aWhlEpochHi d.lastBoundary
    d.enterSlot d.slotNow
  else d.enterSlot 0

/-- A die's register after the plain store. Log entry 100 (DESIGN CHOICE). -/
def Dev.dieEffect (d : Dev) (a : Nat) (old v : Word) : Dev :=
  let n := (a - 0x7F10000000) / 0x01000000
  let x := (a - 0x7F10000000) % 0x01000000
  if decide (0x100000 ≤ x) && decide (x < 0x110000) then
    let e := 16 * n + (x - 0x100000) / 0x1000
    let r := x % 0x1000
    if r = 0 then
      -- TEST cleared in SERVICE gives a disabled engine back (R266)
      let d := if decide (d.pers = .service) && old.bit 1 && !v.bit 1 then d.setTest e { d.testSt e with disabled := false } else d
      (if v.bit 2 then d.gxKill e else d).settle
    else if r = 0xC then { d with capBase := d.capBase.del e }
    else if r = 0x10 then (if v.bit 0 then d.gxCbInval e else d)
    else if r = 0x30 then (if v.bit 0 then d.katStart e else d) else d
  else if decide (0x200000 ≤ x) && decide (x < 0x210000) && decide (x % 0x400 = 0) then
    (if v.bit 1 then d.resetCore (64 * n + (x - 0x200000) / 0x400) else d).settle
  else if x = 0x300000 then (if v.bit 1 then d.kvInit n else d).settle
  else if decide (0x300100 ≤ x) && decide (x < 0x300500) && decide (x % 0x20 = 0) then
    let q := (x - 0x300100) / 0x20
    if v.bit 31 && !old.bit 31 then d.fillPool n q else if old.bit 31 && !v.bit 31 then d.kvRefresh n q else d
  else if x = 0x400000 then (if v.bit 1 then d.sortKill n else d).settle
  else if decide (0x500000 ≤ x) && decide (x < 0x500800) then
    let p := 8 * n + (x - 0x500000) / 0x100
    -- LAG_MAX counts from the last write to TWIN_PERR (R259)
    if x % 0x100 = 8 then d.setF (aTwinPstatus p) 28 16 0 else if decide (x % 0x100 = 0) && v.bit 2 then d.qclr p else d
  else d

/-- DMA_CH_CTRL (R316): EN, then START. -/
def Dev.dmaCtrlWrite (d : Dev) (ch : Nat) (v : Word) : Dev :=
  if v.bit 0 then
    let d := d.setB (aDmaCtrl ch) 0 true
    if v.bit 1 then d.dmaStart ch else d
  else if d.dmaEn ch then d.dmaDisable ch else d

/-- DISP_CTRL.EN (R348, R398): the pixel clock runs with the pipe. Log entry 100 (DESIGN CHOICE). -/
def Dev.dispEn (d : Dev) (p : Nat) (was now : Bool) : Dev :=
  if was == now then d
  else if now then
    let d := (d.setReg (aDispFrame p) 0).clkOn (10 + p)
    { d with pipes := d.pipes.upd p {} fun x => { x with under := false, guarding := false, lastLatch := none } }
  else d.clkHalt (10 + p)

/-- A hub register after the plain store. Log entry 100 (DESIGN CHOICE). -/
def Dev.hubEffect (d : Dev) (m : Master) (a : Nat) (old v : Word) : Dev :=
  let r := a % 65536
  match hubBlock a with
  | 0 =>
    if a = aWorldLock then (if v.bit 0 then d.lockWorlds else d)
    else if a = aDbgCtrl then d.dbgClose (v.fld 3 0)
    else if decide (a = aKeyCtrl) && v.bit 0 then d.zeroise else d
  | 2 => if a = aWhlCtrl then (let d := d.wheelEn (old.bit 0) (v.bit 0); if v.bit 1 then d.requestSwap else d) else d
  | 4 =>
    if a = aSafeCfg then (let d := d.writeSafeCfg v; if v.bit 31 then d.setB aSafeCfg 31 true else d)
    else if a = aSafeOut then d.refreshWarn.refreshFault
    else if a = aSafeKick then d.kick m v
    else if a = aSafeReport then d.safeReport m v else d
  | 5 =>
    if a = aBwrCtrl then (if v.bit 1 then d.latClr else d)
    else if a = aBwrIlvLo then d.ilvWrite false v else if a = aBwrIlvHi then d.ilvWrite true v else d
  | 6 =>
    if decide (0x1000 ≤ r) && decide (r < 0x3000) && decide (r % 0x40 = 0) then d.dmaCtrlWrite ((r - 0x1000) / 0x40) v
    else if decide (0x4000 ≤ r) && decide (r < 0x4300) && v.bit 9 then d.setF a 7 0 0 else d
  | 7 => if a = aGfxCtrl then (if v.bit 1 then d.gfxKill else d).settle else d
  | 8 => if r % 0x1000 = 0 then d.dispEn (r / 0x1000) (old.bit 0) (v.bit 0) else d
  | 10 => if decide (r % 0x400 = 0) && v.bit 3 then d.canRecover (r / 0x400) else d
  | 13 =>
    if decide (0x100 ≤ r) && decide (r < 0x240) && decide (r % 0x10 = 0) then
      let d := if v.bit 0 then d.rstReq ((r - 0x100) / 0x10) else d
      if v.bit 1 then d.rstRelease ((r - 0x100) / 0x10) else d
    else d
  | 14 => if a = aFiCtrl then (let d := if v.bit 0 then d.fiArmReg else d; if v.bit 1 then d.fiDisarm else d) else d
  | _ => d

/-- A write that the guards have passed on. CLK_CTRL has its own rules (R399). Bits of RST_DEV and PWR_CTRL.SLEEP are commands of
their own. -/
def Dev.regDo (d : Dev) (m : Master) (a : Nat) (v : Word) : Dev :=
  let old := d.reg a
  if isDieReg a then
    let x := (a - 0x7F10000000) % 0x01000000
    if decide (0x701000 ≤ x) && decide (x < 0x702800) && decide (x % 0x40 = 0) then
      d.dmaCtrlWrite (128 + 96 * ((a - 0x7F10000000) / 0x01000000) + (x - 0x701000) / 0x40) v
    else
      let d := if decide (0x100000 ≤ x) && decide (x < 0x110000) && decide (x % 0x1000 = 0xC) then
          d.dutyCount (16 * ((a - 0x7F10000000) / 0x01000000) + (x - 0x100000) / 0x1000)
        else d
      (d.regPut a v).dieEffect a old v
  else if decide (hubBlock a = 12) && decide (a % 0x20 = 0) && decide (a % 65536 < 22 * 0x20) then d.clkWrite (a % 65536 / 0x20) v
  else if a = aSafeCfg then d.hubEffect m a old v
  else (d.regPut a v).hubEffect m a old v

/-- The entries of an ownership table that a word covers (R303). -/
def Dev.ownWrite (d : Dev) (n g : Nat) (v : Word) : Dev :=
  let e (x : Nat) : Half := BitVec.ofNat 16 (Nat.land x 0xFE3F)
  { d with own := (d.own.put (ownKey n g) (e (v.fld 15 0))).put (ownKey n (g + 1)) (e (v.fld 31 16)) }

/-- The die of an address's registers cannot answer: its domain is in reset or gated, or it is offline (R20, R405).
Log entry 99 (DESIGN CHOICE). -/
def Dev.dieSilent (d : Dev) (n : Nat) : Bool := d.dieQuiet n || decide (n ∈ d.dieOff)

/-- A write of firmware to a register. -/
def Dev.regWrite (d : Dev) (m : Master) (a : Nat) (v : Word) : Dev :=
  let no (d : Dev) : Dev := d.noEffect (d.masterNo m) a v
  if !mayWrite m a then no d
  else if isDieReg a && d.dieSilent ((a - 0x7F10000000) / 0x01000000) then { d with lastAcc := .error }
  else if decide (hubBlock a = 9) && isHub a && decide (d.getF (aRstDomStatus 15) 2 0 ≠ 0) then d.pbFail a 71
  else if decide (hubBlock a = 10) && isHub a && decide (d.getF (aRstDomStatus 16) 2 0 ≠ 0) then d.pbFail a 71
  else
    let x := (a - 0x7F10000000) % 0x01000000
    if isDieReg a && decide (0x600000 ≤ x) && decide (x < 0x600000 + 2 * 18432) then
      d.ownWrite ((a - 0x7F10000000) / 0x01000000) ((x - 0x600000) / 2) v
    else
      match (if isDieReg a then d.dieGuard a (d.reg a) v else d.hubGuard a (d.reg a) v) with
      | none => no d
      | some w => (if w = v then d else no d).regDo m a w

/-- A write of firmware to any address of R281: registers, pages, map stores, DRAM. -/
def Dev.fwWrite (d : Dev) (m : Master) (a : Nat) (v : Word) : Dev :=
  if isHub a || isDieReg a then d.regWrite m a v
  else if isPage a then d.pageStore (pageAt a) (a % 65536) v
  else
    match d.phys a with
    | some k =>
      if (isDram k && !d.stackUp (stackOf k)) || d.quietAt a 4 then { d with lastAcc := .error }
      else ({ d.wr32 a v with lastAcc := .written } : Dev).settle
    | none => d.refuse (d.masterNo m) a true

/-- Firmware runs: CPA or CPB is neither lost nor halted (R273, R274, R438). -/
def Dev.fwRuns (d : Dev) (m : Master) : Bool :=
  match m with
  | .cpa => d.cpaLost.isNone && (d.dbgHalt.look 24).isNone
  | .cpb => d.cpbLost.isNone && (d.dbgHalt.look 25).isNone
  | _ => true

/-- An access of the debug port that no open enable covers (R442). -/
def Dev.dbgDeny (d : Dev) : Dev := { d.countDev 56 with dbgDenied := true }

/-- A write of a word by a master. Hosts reach their pages only. Log entry 99 (DESIGN CHOICE). -/
def Dev.masterWrite (d : Dev) (m : Master) (a : Nat) (v : Word) : Dev :=
  match m with
  | .cpa | .cpb => if d.fwRuns m then d.fwWrite m a v else d
  | .dbg => if d.viOpen then d.fwWrite m a v else d.dbgDeny
  | .core n => d.coreAccess n .store a 4 (leBytes 4 v.toNat)
  | .pcie port fn =>
    let own : Option Nat := if fn.val = 0 then (if pageAt a = 64 then some 0 else if pageAt a = 0 then some 4 else none)
      else if d.vfInst port.val fn.val = some (pageAt a) then some 0 else none
    match (if isPage a then own else none) with
    | some bar => d.servePages.pcieMem port fn bar (a % 65536) (some (leBytes 4 v.toNat)) 4
    | none => { d.refuse (d.masterNo m) a true with lastAcc := .discarded }

/-- REGISTER_WRITE. -/
def execRegisterWrite (m : Master) (addr : Nat) (v : Word) (t : Nat) (s : State) : Host.Outcome State Fault Refusal :=
  s.act t fun d => d.masterWrite m addr v

end Sys2Proof.Machine
end

