-- ==== Sys2Proof/Machine/Debug.lean ====
section
/-! DEFINITION. Debug certificates (R440, R441), the debug access port (R438, R442, R443), and the security registers' commands
(R428, R435, R445). -/

namespace Sys2Proof.Machine

/-! ### Certificates -/

/-- The code of R441 for a certificate, or 0. -/
def Dev.certCheck (d : Dev) (b : List Byte) : Nat :=
  let en := wordAt b 28
  let zero (i n : Nat) : Bool := (bytesAt b i n).all (· = 0)
  if wordAt b 0 ≠ 0x44424443 ∨ wordAt b 4 ≠ 1 ∨ 16 ≤ en ∨ !zero 32 32 ∨ !zero 161 31 then 1
  else if (List.range 4).any fun i => decide (wordAt b (8 + 4 * i) ≠ (d.reg (aUid i)).toNat) then 2
  else if wordAt b 24 ≠ d.gw.trip ∨ d.gw.trip = 0 ∨ d.getB aBootStatus 17 then 3
  else if Config.sha384 (bytesAt b 64 97) ≠ d.fuse.dbgKeyHash then 4
  else if !Config.certSigned b then 5
  else if Nat.land en (d.getF aDbgFuse 7 4) ≠ 0 then 6
  else if bitOf en 0 && !((decide (d.pers = .park) || decide (d.pers = .service)) && d.trans.isNone) then 7
  else 0

/-- A whole certificate has been shifted in. Log entry 96 (DESIGN CHOICE). -/
def Dev.debugCert (d : Dev) (b : List Byte) : Dev :=
  if b.length ≠ 288 ∨ d.auxOff then d else
  let c := d.certCheck b
  if c = 0 then
    let en := wordAt b 28
    let d := d.setF aDbgStatus 7 4 (Nat.lor (d.getF aDbgStatus 7 4) en)
    (d.setF aDbgStatus 3 0 (Nat.lor (d.getF aDbgStatus 3 0) en)).countDev 48
  else (d.setF aDbgStatus 15 12 c).countDev (48 + c)

/-- DEBUG_CERT (R441). -/
def execDebugCert (bytes : List Byte) (t : Nat) (s : State) : Host.Outcome State Fault Refusal := s.act t fun d => d.debugCert bytes

/-! ### Reads by firmware's master -/

/-- A register as a read finds it: samples that no row brings are free, the high word of a latched pair is what its reader latched.
Log entry 95 (DEDUCED). -/
def Dev.regWord (d : Dev) (m : Master) (a : Nat) : Word × Dev :=
  let latched (slot : Nat) : Word := BitVec.ofNat 32 ((d.latches.look (latchKey slot (latchMaster m))).getD 0)
  if a = aPwrVin ∨ a = aPwrIin ∨ a = aPwrAux then
    let f := d.fresh
    (BitVec.ofNat 32 f.1 &&& RegField.readMask ((regFields a).getD []), f.2)
  else if a = aCntTimeHi then (latched 0, d)
  else if a = aWhlEpochHi then (latched 70, d)
  else if a = aSwOfsHi then (latched 71, d)
  else if isDieReg a then
    let n := (a - 0x7F10000000) / 0x01000000
    let x := (a - 0x7F10000000) % 0x01000000
    if decide (0x600000 ≤ x) && decide (x < 0x600000 + 2 * 18432) then
      let g := (x - 0x600000) / 2
      (BitVec.ofNat 32 ((d.own.lookD (ownKey n g) 0).toNat + (d.own.lookD (ownKey n (g + 1)) 0).toNat * 65536), d)
    else (d.regRead a, d)
  else (d.regRead a, d)

/-- A read of a word by master 71, of any address of R281. Log entry 98 (DESIGN CHOICE). -/
def Dev.fwRead (d : Dev) (m : Master) (a : Nat) : Dev :=
  if (d.latchPair a).isSome then d.readLo a m
  else if isDieReg a && d.dieSilent ((a - 0x7F10000000) / 0x01000000) then { d with lastAcc := .error }
  else if isHub a || isDieReg a then
    let r := d.regWord m a
    { r.2 with lastAcc := .read (leBytes 4 r.1.toNat) }
  else if isPage a then d.pageAcc (pageAt a) (a % 65536) none 4 m
  else
    match d.phys a with
    | some k =>
      if (isDram k && !d.stackUp (stackOf k)) || d.quietAt a 4 then { d with lastAcc := .error }
      else if d.poisoned a 4 then { d with lastAcc := .poisoned (d.rdN a 4) }
      else { d with lastAcc := .read (d.rdN a 4) }
    | none => { d.refuse (d.masterNo m) a false with lastAcc := .error }

/-! ### The debug access port -/

def Dev.dbgEn (d : Dev) (b : Nat) : Bool := d.getB aDbgStatus b

/-- What VN lets the port read: the counter registers, and the snapshot blocks that hold counter groups.
Log entry 98 (DESIGN CHOICE). -/
def vnReads (a : Nat) : Bool := (isHub a && decide (hubBlock a = 1)) || (isPage a && decide (0xA000 ≤ a % 65536) && decide (a % 65536 < 0xF000))

/-- A halted core of a world-O cluster, through which OI reaches memory. Log entry 98 (DESIGN CHOICE). -/
def Dev.oiCore (d : Dev) : Option Nat := d.dbgHalt.keys.find? fun n => decide (n < 24) && !d.viCore n

/-- The copies that a halt or a resumption acts on: both of a twinned pair. -/
def Dev.copies (d : Dev) (n : Nat) : List Nat :=
  if decide (n < 24) && d.getB (aTwinHcfg (n / 2)) 0 then [2 * (n / 2), 2 * (n / 2) + 1] else [n]

/-- An access that is denied reads 0. -/
def Dev.deny (d : Dev) : Dev := { d.dbgDeny with lastAcc := .read [0, 0, 0, 0] }

/-- An operation of the DBG instruction. Log entry 98 (DESIGN CHOICE). -/
def Dev.debugAccess (d : Dev) (op : DbgOp) : Dev :=
  if d.auxOff then d else
  match op with
  | .halt n =>
    if 26 ≤ n then d
    else if !d.dbgEn (if d.viCore n then 0 else 2) then d.deny
    else forEach (d.copies n) (fun i d => if (d.dbgHalt.look i).isSome then d else { d with dbgHalt := d.dbgHalt.put i d.now }) d
  | .resume n =>
    if 26 ≤ n then d
    else if !d.dbgEn (if d.viCore n then 0 else 2) then d.deny
    else forEach (d.copies n) (fun i d => d.resumeCore i) d
  | .read a =>
    if d.dbgEn 0 || (d.dbgEn 1 && vnReads a) then d.fwRead .dbg a
    else
      match (if d.dbgEn 2 then d.oiCore else none) with
      | some n => d.coreMem n false a 4 []
      | none => d.deny
  | .write a v =>
    if d.dbgEn 0 then d.fwWrite .dbg a v
    else
      match (if d.dbgEn 2 then d.oiCore else none) with
      | some n => (d.coreMem n true a 4 (leBytes 4 v.toNat)).settle
      | none => d.deny
  | .trace n =>
    if 26 ≤ n then d
    else if !d.dbgEn (if d.viCore n then 1 else 3) then d.deny
    else { d with trace := insertNew d.trace (if n < 24 then n / 8 * 8 else n) }
  | .clearDenied => { d with dbgDenied := false }

/-- DEBUG_ACCESS (R442). -/
def execDebugAccess (op : DbgOp) (t : Nat) (s : State) : Host.Outcome State Fault Refusal := s.act t fun d => d.debugAccess op

/-! ### Security registers -/

/-- DEBUG_CLOSE (R445). -/
def execDebugClose (v : Word) (s : State) : Host.Outcome State Fault Refusal := s.act 0 fun d => d.dbgClose (v.fld 3 0)

/-- KEY_ZEROISE (R435). -/
def execKeyZeroise (v : Word) (s : State) : Host.Outcome State Fault Refusal := s.act 0 fun d => if v.bit 0 then d.zeroise else d

/-- WORLD_LOCK (R428). -/
def execWorldLock (s : State) : Host.Outcome State Fault Refusal := s.act 0 Dev.lockWorlds

end Sys2Proof.Machine
end

