-- ==== Sys2Proof/Machine/Dispatch.lean ====
section
/-! DEFINITION. One arm per command: a direct call of its meaning. -/

namespace Sys2Proof.Machine

def exec (i : Instr) (s : State) : Host.Outcome State Fault Refusal :=
  match i with
  | .sessionOpen m => Sys2Proof.Machine.execSessionOpen m s
  | .instQuery m => Sys2Proof.Machine.execInstQuery m s
  | .evictAck m => Sys2Proof.Machine.execEvictAck m s
  | .instReset m => Sys2Proof.Machine.execInstReset m s
  | .memAlloc m => Sys2Proof.Machine.execMemAlloc m s
  | .memFree m => Sys2Proof.Machine.execMemFree m s
  | .ctxCreate m => Sys2Proof.Machine.execCtxCreate m s
  | .ctxDestroy m => Sys2Proof.Machine.execCtxDestroy m s
  | .qCreate m => Sys2Proof.Machine.execQCreate m s
  | .qDestroy m => Sys2Proof.Machine.execQDestroy m s
  | .qReset m => Sys2Proof.Machine.execQReset m s
  | .ctxQuery m => Sys2Proof.Machine.execCtxQuery m s
  | .graphLoad m => Sys2Proof.Machine.execGraphLoad m s
  | .graphUnload m => Sys2Proof.Machine.execGraphUnload m s
  | .graphBufQuery m => Sys2Proof.Machine.execGraphBufQuery m s
  | .serveStart m => Sys2Proof.Machine.execServeStart m s
  | .serveStop m => Sys2Proof.Machine.execServeStop m s
  | .safeFallbackBind m => Sys2Proof.Machine.execSafeFallbackBind m s
  | .safeAgeSet m => Sys2Proof.Machine.execSafeAgeSet m s
  | .safeRefinputSet m => Sys2Proof.Machine.execSafeRefinputSet m s
  | .safeStatus m => Sys2Proof.Machine.execSafeStatus m s
  | .gwRoutesSet m => Sys2Proof.Machine.execGwRoutesSet m s
  | .gwKeySet m => Sys2Proof.Machine.execGwKeySet m s
  | .gwStatus m => Sys2Proof.Machine.execGwStatus m s
  | .dispLayerSet m => Sys2Proof.Machine.execDispLayerSet m s
  | .dispFlip m => Sys2Proof.Machine.execDispFlip m s
  | .persQuery m => Sys2Proof.Machine.execPersQuery m s
  | .persSet m => Sys2Proof.Machine.execPersSet m s
  | .pwrCapSet m => Sys2Proof.Machine.execPwrCapSet m s
  | .mgrInstCreate m => Sys2Proof.Machine.execMgrInstCreate m s
  | .mgrInstDestroy m => Sys2Proof.Machine.execMgrInstDestroy m s
  | .mgrInstReset m => Sys2Proof.Machine.execMgrInstReset m s
  | .mgrInstAttach m => Sys2Proof.Machine.execMgrInstAttach m s
  | .mgrEvict m => Sys2Proof.Machine.execMgrEvict m s
  | .mgrPartDefine m => Sys2Proof.Machine.execMgrPartDefine m s
  | .mgrEgDefine m => Sys2Proof.Machine.execMgrEgDefine m s
  | .mgrWheelSet m => Sys2Proof.Machine.execMgrWheelSet m s
  | .mgrBwSet m => Sys2Proof.Machine.execMgrBwSet m s
  | .mgrPairSet m => Sys2Proof.Machine.execMgrPairSet m s
  | .cntSnapshot m => Sys2Proof.Machine.execCntSnapshot m s
  | .diagLogRead m => Sys2Proof.Machine.execDiagLogRead m s
  | .fiArm m => Sys2Proof.Machine.execFiArm m s
  | .fiDisarm m => Sys2Proof.Machine.execFiDisarm m s
  | .mbxRspAck pg v => Sys2Proof.Machine.execMbxRspAck pg v s
  | .evtRdWrite pg v => Sys2Proof.Machine.execEvtRdWrite pg v s
  | .heartbeatPeriodEnd pg t => Sys2Proof.Machine.execHeartbeatPeriodEnd pg t s
  | .fwHeartbeat t => Sys2Proof.Machine.execFwHeartbeat t s
  | .doorbellWrite inst dbidx wide hiHalf v t => Sys2Proof.Machine.execDoorbellWrite inst dbidx wide hiHalf v t s
  | .contextUnpark ctx t => Sys2Proof.Machine.execContextUnpark ctx t s
  | .descriptorTake q t => Sys2Proof.Machine.execDescriptorTake q t s
  | .nop q seq t => Sys2Proof.Machine.execNop q seq t s
  | .matmul q seq t => Sys2Proof.Machine.execMatmul q seq t s
  | .matmulAdd q seq t => Sys2Proof.Machine.execMatmulAdd q seq t s
  | .convChain q seq t => Sys2Proof.Machine.execConvChain q seq t s
  | .haloFlagWait q seq rank layer row t => Sys2Proof.Machine.execHaloFlagWait q seq rank layer row t s
  | .topk q seq t => Sys2Proof.Machine.execTopk q seq t s
  | .nms q seq t => Sys2Proof.Machine.execNms q seq t s
  | .unfold q seq t => Sys2Proof.Machine.execUnfold q seq t s
  | .kvAppend q seq t => Sys2Proof.Machine.execKvAppend q seq t s
  | .kvReserveWait q seq t => Sys2Proof.Machine.execKvReserveWait q seq t s
  | .attention q seq t => Sys2Proof.Machine.execAttention q seq t s
  | .kvTruncate q seq t => Sys2Proof.Machine.execKvTruncate q seq t s
  | .ringAllreduce q seq t => Sys2Proof.Machine.execRingAllreduce q seq t s
  | .softmax q seq t => Sys2Proof.Machine.execSoftmax q seq t s
  | .rmsnorm q seq t => Sys2Proof.Machine.execRmsnorm q seq t s
  | .layernorm q seq t => Sys2Proof.Machine.execLayernorm q seq t s
  | .activation q seq t => Sys2Proof.Machine.execActivation q seq t s
  | .rotate q seq t => Sys2Proof.Machine.execRotate q seq t s
  | .quantise q seq t => Sys2Proof.Machine.execQuantise q seq t s
  | .dwconv q seq t => Sys2Proof.Machine.execDwconv q seq t s
  | .pool q seq t => Sys2Proof.Machine.execPool q seq t s
  | .adamw q seq t => Sys2Proof.Machine.execAdamw q seq t s
  | .copy q seq t => Sys2Proof.Machine.execCopy q seq t s
  | .render q seq t => Sys2Proof.Machine.execRender q seq t s
  | .kernel q seq t => Sys2Proof.Machine.execKernel q seq t s
  | .press q seq t => Sys2Proof.Machine.execPress q seq t s
  | .graphRunStart graph t => Sys2Proof.Machine.execGraphRunStart graph t s
  | .servingStep inst t => Sys2Proof.Machine.execServingStep inst t s
  | .overrunKill q seq t => Sys2Proof.Machine.execOverrunKill q seq t s
  | .slotBoundary t => Sys2Proof.Machine.execSlotBoundary t s
  | .referenceRunResult pair graph flipA flipB t => Sys2Proof.Machine.execReferenceRunResult pair graph flipA flipB t s
  | .periodBoundary t => Sys2Proof.Machine.execPeriodBoundary t s
  | .wheelSwap => Sys2Proof.Machine.execWheelSwap s
  | .gxKill e t => Sys2Proof.Machine.execGxKill e t s
  | .gxCbInval e => Sys2Proof.Machine.execGxCbInval e s
  | .gxKatStart e => Sys2Proof.Machine.execGxKatStart e s
  | .katChunkDone u pass t => Sys2Proof.Machine.execKatChunkDone u pass t s
  | .sweepDeadline u t => Sys2Proof.Machine.execSweepDeadline u t s
  | .engineRamError e ram correctable line t => Sys2Proof.Machine.execEngineRamError e ram correctable line t s
  | .vrstat core ins t => Sys2Proof.Machine.execVrstat core ins t s
  | .vsegsum core ins t => Sys2Proof.Machine.execVsegsum core ins t s
  | .vhbfly core ins t => Sys2Proof.Machine.execVhbfly core ins t s
  | .vqscale core ins t => Sys2Proof.Machine.execVqscale core ins t s
  | .vcbnear core ins t => Sys2Proof.Machine.execVcbnear core ins t s
  | .mswait core ins t => Sys2Proof.Machine.execMswait core ins t s
  | .mswaitSatisfied core t => Sys2Proof.Machine.execMswaitSatisfied core t s
  | .kernelEnd vc t => Sys2Proof.Machine.execKernelEnd vc t s
  | .vcTrap core kind cause pc t => Sys2Proof.Machine.execVcTrap core kind cause pc t s
  | .vcRst vc => Sys2Proof.Machine.execVcRst vc s
  | .kvInit die => Sys2Proof.Machine.execKvInit die s
  | .kvPoolValid die pool => Sys2Proof.Machine.execKvPoolValid die pool s
  | .kvStateError die pool page freeList t => Sys2Proof.Machine.execKvStateError die pool page freeList t s
  | .sortKill die t => Sys2Proof.Machine.execSortKill die t s
  | .recordCompare pair r t => Sys2Proof.Machine.execRecordCompare pair r t s
  | .lagTimeout pair t => Sys2Proof.Machine.execLagTimeout pair t s
  | .twinCheckpoint hp lead trail cmpAOk cmpBOk retired t => Sys2Proof.Machine.execTwinCheckpoint hp lead trail cmpAOk cmpBOk retired t s
  | .acpairFinding hp cause retired t => Sys2Proof.Machine.execAcpairFinding hp cause retired t s
  | .twinSelftest pair v t => Sys2Proof.Machine.execTwinSelftest pair v t s
  | .twinQclr pair => Sys2Proof.Machine.execTwinQclr pair s
  | .twinSplit pair r t => Sys2Proof.Machine.execTwinSplit pair r t s
  | .twinJoin pair v t => Sys2Proof.Machine.execTwinJoin pair v t s
  | .wdtExpire cpb t => Sys2Proof.Machine.execWdtExpire cpb t s
  | .safeWdtKick m v t => Sys2Proof.Machine.execSafeWdtKick m v t s
  | .safeReport m v t => Sys2Proof.Machine.execSafeReport m v t s
  | .safeCfgLock m => Sys2Proof.Machine.execSafeCfgLock m s
  | .warnPulseEnd t => Sys2Proof.Machine.execWarnPulseEnd t s
  | .resetDelayExpire t => Sys2Proof.Machine.execResetDelayExpire t s
  | .linkCrcError l t => Sys2Proof.Machine.execLinkCrcError l t s
  | .linkDown l t => Sys2Proof.Machine.execLinkDown l t s
  | .dieOffline die t => Sys2Proof.Machine.execDieOffline die t s
  | .stackCrcError stack t => Sys2Proof.Machine.execStackCrcError stack t s
  | .patrolScrub stack line r t => Sys2Proof.Machine.execPatrolScrub stack line r t s
  | .bwrWindowBoundary master t => Sys2Proof.Machine.execBwrWindowBoundary master t s
  | .derateChange t => Sys2Proof.Machine.execDerateChange t s
  | .bwrLatClr => Sys2Proof.Machine.execBwrLatClr s
  | .bwrIlvWrite hi v => Sys2Proof.Machine.execBwrIlvWrite hi v s
  | .dmaStart ch t => Sys2Proof.Machine.execDmaStart ch t s
  | .dmaDisable ch => Sys2Proof.Machine.execDmaDisable ch s
  | .dmaRequest line t => Sys2Proof.Machine.execDmaRequest line t s
  | .dmaBurst engine t => Sys2Proof.Machine.execDmaBurst engine t s
  | .dmaDescComplete ch t => Sys2Proof.Machine.execDmaDescComplete ch t s
  | .dmaReqClr line => Sys2Proof.Machine.execDmaReqClr line s
  | .gfxKill t => Sys2Proof.Machine.execGfxKill t s
  | .jobSuspend boundary t => Sys2Proof.Machine.execJobSuspend boundary t s
  | .compositorGuard pipe t => Sys2Proof.Machine.execCompositorGuard pipe t s
  | .displayLatch pipe t => Sys2Proof.Machine.execDisplayLatch pipe t s
  | .displayUnderrun pipe t => Sys2Proof.Machine.execDisplayUnderrun pipe t s
  | .tileMemError correctable t => Sys2Proof.Machine.execTileMemError correctable t s
  | .cameraFrame port stream vc dt lines t => Sys2Proof.Machine.execCameraFrame port stream vc dt lines t s
  | .cameraFrameError port stream kind t => Sys2Proof.Machine.execCameraFrameError port stream kind t s
  | .ethFrameRx port frame err node t => Sys2Proof.Machine.execEthFrameRx port frame err node t s
  | .canFrameRx ch f t => Sys2Proof.Machine.execCanFrameRx ch f t s
  | .canFrameTx ch res t => Sys2Proof.Machine.execCanFrameTx ch res t s
  | .containerTmax entry t => Sys2Proof.Machine.execContainerTmax entry t s
  | .tripFrameSend t => Sys2Proof.Machine.execTripFrameSend t s
  | .plcaBeaconLoss port t => Sys2Proof.Machine.execPlcaBeaconLoss port t s
  | .plcaBeacon port t => Sys2Proof.Machine.execPlcaBeacon port t s
  | .dropLimit port t => Sys2Proof.Machine.execDropLimit port t s
  | .gptpSyncRx port ofsNs ratePpb t => Sys2Proof.Machine.execGptpSyncRx port ofsNs ratePpb t s
  | .holdover port t => Sys2Proof.Machine.execHoldover port t s
  | .busOffRecovery ch t => Sys2Proof.Machine.execBusOffRecovery ch t s
  | .canRecover ch => Sys2Proof.Machine.execCanRecover ch s
  | .gateListActivate port streamGate t => Sys2Proof.Machine.execGateListActivate port streamGate t s
  | .pbWriteFail addr m t => Sys2Proof.Machine.execPbWriteFail addr m t s
  | .ipTxPoll inst t => Sys2Proof.Machine.execIpTxPoll inst t s
  | .pcieMemRequest port fn bar offset write len t => Sys2Proof.Machine.execPcieMemRequest port fn bar offset write len t s
  | .pcieFlr port fn t => Sys2Proof.Machine.execPcieFlr port fn t s
  | .pcieLinkReset port t => Sys2Proof.Machine.execPcieLinkReset port t s
  | .drainTimeout inst t => Sys2Proof.Machine.execDrainTimeout inst t s
  | .resetComplete inst t => Sys2Proof.Machine.execResetComplete inst t s
  | .evictGraceEnd inst t => Sys2Proof.Machine.execEvictGraceEnd inst t s
  | .dlEnable inst v => Sys2Proof.Machine.execDlEnable inst v s
  | .dlSwap inst => Sys2Proof.Machine.execDlSwap inst s
  | .dlSwapDone inst => Sys2Proof.Machine.execDlSwapDone inst s
  | .snapClear pg v => Sys2Proof.Machine.execSnapClear pg v s
  | .timeLoRead addr m => Sys2Proof.Machine.execTimeLoRead addr m s
  | .wakeEvent src t => Sys2Proof.Machine.execWakeEvent src t s
  | .driveReady t => Sys2Proof.Machine.execDriveReady t s
  | .clkFreqSet idx v t => Sys2Proof.Machine.execClkFreqSet idx v t s
  | .clkMonFault idx t => Sys2Proof.Machine.execClkMonFault idx t s
  | .domainWake idx t => Sys2Proof.Machine.execDomainWake idx t s
  | .domainWakeTimeout idx t => Sys2Proof.Machine.execDomainWakeTimeout idx t s
  | .rstDomReq r t => Sys2Proof.Machine.execRstDomReq r t s
  | .rstDomInReset r t => Sys2Proof.Machine.execRstDomInReset r t s
  | .rstDomRel r t => Sys2Proof.Machine.execRstDomRel r t s
  | .rstDev v t => Sys2Proof.Machine.execRstDev v t s
  | .resetN t => Sys2Proof.Machine.execResetN t s
  | .powerGood t => Sys2Proof.Machine.execPowerGood t s
  | .vinOvervoltage t => Sys2Proof.Machine.execVinOvervoltage t s
  | .vinUndervoltage t => Sys2Proof.Machine.execVinUndervoltage t s
  | .railFault rail t => Sys2Proof.Machine.execRailFault rail t s
  | .vauxOverload t => Sys2Proof.Machine.execVauxOverload t s
  | .vauxRetry overload t => Sys2Proof.Machine.execVauxRetry overload t s
  | .capCheck avgW t => Sys2Proof.Machine.execCapCheck avgW t s
  | .powerLimitStep avgW t => Sys2Proof.Machine.execPowerLimitStep avgW t s
  | .thermalThrottleStep site a b t => Sys2Proof.Machine.execThermalThrottleStep site a b t s
  | .thermalReleaseStep site a b t => Sys2Proof.Machine.execThermalReleaseStep site a b t s
  | .thermalFigureEval temps t => Sys2Proof.Machine.execThermalFigureEval temps t s
  | .thermalShutdown site t => Sys2Proof.Machine.execThermalShutdown site t s
  | .sleepCommit t => Sys2Proof.Machine.execSleepCommit t s
  | .sleepWake timer pins t => Sys2Proof.Machine.execSleepWake timer pins t s
  | .debugCert bytes t => Sys2Proof.Machine.execDebugCert bytes t s
  | .debugAccess op t => Sys2Proof.Machine.execDebugAccess op t s
  | .debugClose v => Sys2Proof.Machine.execDebugClose v s
  | .keyZeroise v => Sys2Proof.Machine.execKeyZeroise v s
  | .worldLock => Sys2Proof.Machine.execWorldLock s
  | .fiArmReg => Sys2Proof.Machine.execFiArmReg s
  | .fiDisarmReg => Sys2Proof.Machine.execFiDisarmReg s
  | .fiHeldRelease t => Sys2Proof.Machine.execFiHeldRelease t s
  | .registerWrite m addr v t => Sys2Proof.Machine.execRegisterWrite m addr v t s
  | .commandDone pg tag t => Sys2Proof.Machine.execCommandDone pg tag t s
  | .undefinedOpcode m opcode => Sys2Proof.Machine.execUndefinedOpcode m opcode s
  | .applicationCoreAccess core kind addr len data t => Sys2Proof.Machine.execApplicationCoreAccess core kind addr len data t s
  | .linkRetrainComplete stack n ok t => Sys2Proof.Machine.execLinkRetrainComplete stack n ok t s
  | .ethFrameTx port collision t => Sys2Proof.Machine.execEthFrameTx port collision t s
  | .recoveryResetTimeout stream t => Sys2Proof.Machine.execRecoveryResetTimeout stream t s
  | .autogateStop idx => Sys2Proof.Machine.execAutogateStop idx s
  | .pciePerst port level t => Sys2Proof.Machine.execPciePerst port level t s

end Sys2Proof.Machine
end

