-- ==== Sys2Proof/Safety.lean ====
section
/-! DEFINITION. The terms that claims use: a run that goes on, a command that ends in a next state, and the
kinds of state that a command leaves as they are. -/

namespace Sys2Proof.Machine

/-- The machine goes on from a state for `n` steps. -/
def State.runsOn : Nat → State → Bool
  | 0, _ => true
  | n + 1, s =>
    match step s with
    | .next t => State.runsOn n t
    | _ => false

/-- A command ends: `exec` answers the next state whose device is `e` and whose queue of commands is as before. -/
def Ends (c : Instr) (s : State) (e : Dev) : Prop := exec c s = .next { s with dev := e }

/-- The kinds of state that the spec names. -/
inductive Kind where
  /-- DRAM, map stores and poison, read byte by byte (R281, R292). -/
  | memory
  /-- Ownership entries (R303). -/
  | ownership
  /-- The personality and its transition (R26, R31). -/
  | personality
  /-- Partitions, engine groups, wheel configurations, reservations (R39, R44, R219, R509). -/
  | setup
  /-- Pages with their mailboxes, event rings, snapshots and dirty logs (R47). -/
  | pages
  | instances
  /-- Commands whose COMMAND_DONE is still to come (R53). -/
  | commands
  | contexts
  | queues
  /-- Operand buffers and codebook RAMs (R102, R221). -/
  | residency
  /-- The key-value page allocators (R180). -/
  | kvPages
  | graphs
  | serving
  /-- Twin pairs, reference runs (R244, R269). -/
  | twins
  /-- Periodic tests (R262). -/
  | tests
  /-- Error reporting, watchdogs, the loss of CPA and CPB (R273 to R276). -/
  | safety
  | log
  | counters
  | interrupts
  /-- High words latched by reads of low words (R474). -/
  | latches
  /-- Links, stack interfaces, dies off-line (R9 to R20). -/
  | links
  | keys
  | gateway
  /-- Boot configuration, flash, clock and power supervision. -/
  | supervision
  /-- Display pipes (R336). -/
  | display
  /-- Vector and shader cores (R157). -/
  | cores
  | cameras
  | dma
  | faultInjection
  | debug
  /-- Host accesses that wait, and the latest one's answer. -/
  | accesses
  deriving DecidableEq, Repr

/-- A kind of state is the same in two devices. -/
def Dev.Same (d e : Dev) : Kind → Prop
  | .memory => (∀ a, e.rd8 a = d.rd8 a) ∧ e.poison = d.poison
  | .ownership => e.own = d.own
  | .personality => e.pers = d.pers ∧ e.trans = d.trans ∧ e.degraded = d.degraded ∧ e.reported = d.reported ∧ e.wakeCo = d.wakeCo ∧
      e.setupT = d.setupT
  | .setup => e.parts = d.parts ∧ e.egs = d.egs ∧ e.wheels = d.wheels ∧ e.swapT = d.swapT
  | .pages => e.pages = d.pages
  | .instances => e.insts = d.insts
  | .commands => e.done = d.done
  | .contexts => e.ctxs = d.ctxs ∧ e.ctxGen = d.ctxGen
  | .queues => e.queues = d.queues
  | .residency => e.resid = d.resid
  | .kvPages => e.kvStacks = d.kvStacks ∧ e.kvPages = d.kvPages ∧ e.kvWait = d.kvWait
  | .graphs => e.graphs = d.graphs
  | .serving => e.serving = d.serving
  | .twins => e.pairs = d.pairs ∧ e.refRuns = d.refRuns ∧ e.wheelDirty = d.wheelDirty
  | .tests => e.tests = d.tests
  | .safety => e.held = d.held ∧ e.warnEnd = d.warnEnd ∧ e.faultLatched = d.faultLatched ∧ e.cpaLost = d.cpaLost ∧
      e.cpbLost = d.cpbLost ∧ e.kickA = d.kickA ∧ e.kickB = d.kickB
  | .log => e.log = d.log
  | .counters => e.cnts = d.cnts ∧ e.lockFull = d.lockFull
  | .interrupts => e.irqs = d.irqs
  | .latches => e.latches = d.latches
  | .links => e.links = d.links ∧ e.stackIfs = d.stackIfs ∧ e.dieOff = d.dieOff
  | .keys => e.keys = d.keys
  | .gateway => e.gw = d.gw
  | .supervision => e.boot = d.boot ∧ e.rstT = d.rstT ∧ e.clkFail = d.clkFail ∧ e.capOver = d.capOver ∧ e.capBase = d.capBase ∧
      e.therm = d.therm ∧ e.pwrMs = d.pwrMs ∧ e.auxOff = d.auxOff ∧ e.flash = d.flash ∧ e.minSvn = d.minSvn ∧ e.driveCap = d.driveCap
  | .display => e.pipes = d.pipes
  | .cores => e.vcs = d.vcs
  | .cameras => e.cams = d.cams
  | .dma => e.dmaCh = d.dmaCh ∧ e.dmaLast = d.dmaLast
  | .faultInjection => e.fi = d.fi ∧ e.injUnit = d.injUnit
  | .debug => e.dbgHalt = d.dbgHalt ∧ e.dbgDenied = d.dbgDenied ∧ e.trace = d.trace
  | .accesses => e.waiting = d.waiting ∧ e.lastAcc = d.lastAcc ∧ e.hostQs = d.hostQs

/-- Everything of the device is the same but the listed kinds of state and the registers at the listed addresses. Fuses
and power are among what stays; device time never goes back. -/
structure Dev.Frame (d e : Dev) (ks : List Kind) (regs : Nat → Prop) : Prop where
  same  : ∀ k, k ∉ ks → Dev.Same d e k
  regs  : ∀ a, ¬ regs a → e.reg a = d.reg a
  fuse  : e.fuse = d.fuse
  power : e.power = d.power
  time  : d.tb ≤ e.tb

/-- The registers that a counter reaches (R483). -/
def cntRegs (a : Nat) : Prop := a = aCntOvfStat

/-- The registers of error reporting (R277). -/
def repRegs (a : Nat) : Prop := a = aSafeSeen ∨ a = aSafeCond ∨ a = aSafeOut

/-- The registers that a write of memory reaches: those of the codebook RAMs (R102). -/
def cbRegs (a : Nat) : Prop := ∃ e, a = aGxCbCtrl e

/-- The commands that reset the device, or take or give its power. -/
def restarts : Instr → Bool
  | .rstDev .. | .resetN .. | .resetDelayExpire .. | .powerGood .. | .vinOvervoltage .. | .vinUndervoltage .. | .railFault ..
  | .thermalShutdown .. | .sleepCommit .. | .sleepWake .. => true
  | _ => false

/-- A page whose mailbox takes a request at once: the instance exists, no request is in hand, no response waits, and CPA answers
(R50, R51, R273). -/
structure Dev.MbxReady (d : Dev) (k : Nat) : Prop where
  state : (d.page k).state ≠ .free
  go    : (d.page k).go = false
  valid : (d.page k).valid = false
  cpa   : d.cpaLost = none
  power : d.power = .on

/-- A page shows a response: STATUS, TAG, VALID with GO clear, and the response words from MBX_RSP1 on (R50). -/
structure Page.Answered (p : Page) (tag : Byte) (st : Status) (ws : List Word) : Prop where
  valid  : p.valid = true
  go     : p.go = false
  status : p.rspStatus = st.code
  tag    : p.rspTag = tag.toNat
  words  : ∀ i (h : i < ws.length), Tab.look p.rsp (i + 1) = some ws[i]

/-- Two states of a page are the same but for the mailbox. -/
def Page.SameButMbx (p q : Page) : Prop :=
  q = { p with req := q.req, go := q.go, rsp := q.rsp, rspStatus := q.rspStatus, rspTag := q.rspTag, valid := q.valid }

/-- The device at which a request's checks and effect run: time at the request's, the request's words in the page, GO set. -/
def Dev.asked (d : Dev) (m : Mbx) (opcode : Nat) : Dev :=
  let d := writeReq (d.advance m.t) m opcode
  d.setPage (pgKey m.page) { d.page (pgKey m.page) with go := true }

/-- A request that the interface accepts: a page that takes it, NWORDS as the command defines, reserved bits 0, a page of the
command's Page column, a state of the page in which R55 accepts it. -/
structure Accepted (d : Dev) (m : Mbx) (nwords : Nat) (ps : PageSet) (isOpen isQuery isPers : Bool := false) : Prop where
  ready : d.MbxReady (pgKey m.page)
  words : m.words.length = nwords
  rsv   : m.rsv = 0
  page  : ps.has d m.page = true
  state : stateStatus m.page (d.page (pgKey m.page)).state isOpen isQuery isPers = none

/-- Nothing holds or stops the run of a command: no link of its transfers retrains or is lost, every access reaches what the command may touch, no input is poisoned, and every book and draw
lies in its region (R85, R104, R293, R324, R405). -/
structure Dev.Runs (d : Dev) (q : Nat) (c : Cmd) : Prop where
  free  : d.linksHeld c = false
  reach : (d.linksLost c || (d.touched q c false ++ d.touched q c true).any fun r => d.quietAt r.base r.len) = false
  may   : d.refusedBy q c = none
  clean : ((d.touched q c false).any fun r => d.poisoned r.base r.len) = false
  book  : c.isJob = false → (c.cls = 1 ∨ c.op = 0x0301 ∨ c.cls = 4) → d.bookBeyond c = false
  conv  : c.op = 0x0201 → d.convBookBeyond c = false
  draw  : c.op = 0x10001 → d.drawBad c = false

/-- A mailbox command is executed with status OK: `e` is the device that its effect leaves, and the response with the words `ws` is
then posted on the page it came from (R50 steps 4 and 5). -/
def AnswersOk (c : Instr) (s : State) (m : Mbx) (e : Dev) (ws : List Word) : Prop :=
  Ends c s (Dev.keep (s.dev.advance m.t) (postRsp e (pgKey m.page) m.tag .ok ws))

end Sys2Proof.Machine
end

