-- ==== Sys2Proof/Certificates/Slice0/Obligations.lean ====
section
/-! DEFINITION. The statements for the provers. A statement about the device reads `Ends c s e`, or one of the forms built on it
in Sys2Proof/Safety.lean: exec of the command c at the state s answers the next state whose device is e. -/

open Sys2Proof Sys2Proof.Machine

/-! ### The block: its queue, its reset, and what no command undoes -/

/-- A step runs the command at the front of the queue on the state with the queue's rest (the block's form: commands are taken
first in, first out). -/
def Obligations.StepRunsTheFrontCommand : Prop :=
  ∀ (c : Instr) (rest : List Instr) (d : Dev), step { dev := d, pending := c :: rest } = exec c { dev := d, pending := rest }

/-- On an empty queue a powered block counts one cycle of the time base (R480): the accumulator gains 2³² + RATE, RATE signed, and
wraps at 2⁹⁶. Nothing else changes where no host access waits. A block without power stays as it is. That a step on an empty queue
is a cycle of the time base is the model's choice (log entry 2). -/
def Obligations.EmptyQueueIdles : Prop :=
  ∀ (d : Dev),
    (d.power = .on → d.waiting = [] →
      ∃ e, step { dev := d, pending := [] } = .next { dev := e, pending := [] } ∧
        e.tb = ((d.tb : Int) + 2 ^ 32 + (d.reg aCntTbRate).toInt).toNat % 2 ^ 96 ∧
        (∀ k, Dev.Same d e k) ∧ (∀ a, e.reg a = d.reg a) ∧ e.fuse = d.fuse ∧ e.power = d.power) ∧
    (d.power ≠ .on → step { dev := d, pending := [] } = .next { dev := d, pending := [] })

/-- What reset leaves (R73, R275, R303, R437, R473, R480, R507): every register reads its Reset column value (where the
spec gives none, the model's choice of log entries 1 to 6), no granule is owned, no
instance exists, no queue, context, graph or key is held, no counter has counted, the log is empty, device time is 0, and FAULT_N is
driven. -/
def Obligations.ResetLeaves : Prop :=
  (∀ a, State.reset.dev.reg a = regReset a) ∧ (∀ k, State.reset.dev.ownOf k = 0) ∧ (∀ k, (State.reset.dev.page k).state = .free) ∧
  (∀ q, State.reset.dev.queue? q = none) ∧ (∀ c, State.reset.dev.ctx? c = none) ∧ (∀ g, State.reset.dev.graph? g = none) ∧
  (∀ k, State.reset.dev.keyOf k = none) ∧ (∀ g i, State.reset.dev.cnt g i = {}) ∧ State.reset.dev.log = [] ∧
  State.reset.dev.now = 0 ∧ State.reset.dev.getB aSafeOut 0 = true ∧ Memory.wf State.reset.dev.mem = true ∧ State.reset.pending = []

/-- What no command undoes but one that resets the device or takes its power (R11, R273 to R275, R277, R419, R432, R480): fuses and
power, device time, a FAULT-class report, the loss of CPA or CPB, the least SVN, and the registers that a lock holds. The queue of
commands is never a command's to change. -/
def Obligations.CommandsKeepWhatIsLatched : Prop :=
  ∀ (c : Instr) (s : State), ∃ e, exec c s = .next { s with dev := e } ∧ e.fuse = s.dev.fuse ∧
    (restarts c = false →
      e.power = s.dev.power ∧ s.dev.tb ≤ e.tb ∧ (s.dev.faultLatched = true → e.faultLatched = true) ∧
      (∀ t, s.dev.cpaLost = some t → e.cpaLost = some t) ∧ (∀ t, s.dev.cpbLost = some t → e.cpbLost = some t) ∧
      s.dev.minSvn ≤ e.minSvn ∧
      (s.dev.getB aSafeCfg 31 = true → e.reg aSafeCfg = s.dev.reg aSafeCfg) ∧
      (s.dev.getB aWorldLock 0 = true → ∀ a ∈ [aWorldLock, aWorldEth, aWorldCan, aWorldAphy, aWorldHost], e.reg a = s.dev.reg a))

/-- An invariant of every step, the idle one too: what identifies the device never changes, a lock holds for as long as the device is
not reset, and the commands behind the front one keep their order. -/
def Obligations.StepsKeepIdentity : Prop :=
  ∀ (s t : State), step s = .next t →
    t.dev.fuse = s.dev.fuse ∧ t.pending = s.pending.tail ∧
    ((∀ c ∈ s.pending.head?, restarts c = false) →
      t.dev.power = s.dev.power ∧
      (s.dev.getB aWorldLock 0 = true → t.dev.getB aWorldLock 0 = true ∧ t.dev.reg aWorldEth = s.dev.reg aWorldEth ∧
        t.dev.reg aWorldCan = s.dev.reg aWorldCan ∧ t.dev.reg aWorldAphy = s.dev.reg aWorldAphy ∧
        t.dev.reg aWorldHost = s.dev.reg aWorldHost) ∧
      (s.dev.getB aSafeCfg 31 = true → t.dev.getB aSafeCfg 31 = true ∧ t.dev.reg aSafeCfg = s.dev.reg aSafeCfg) ∧
      (s.dev.faultLatched = true → t.dev.faultLatched = true) ∧ (s.dev.cpaLost.isSome = true → t.dev.cpaLost = s.dev.cpaLost))

/-! ### What every command shares: events, counters, reports, memory -/

/-- R62: an event of a page whose ring has room is recorded at EVT_WR mod 32 with its code, argument, detail and device time; EVT_WR
counts it, and the bit of its code is set. A full ring keeps its records, and EVT_OVF and the bit are set. An enabled code raises
the interrupt. Nothing else changes. -/
def Obligations.EventRecorded : Prop :=
  ∀ (d : Dev) (k code arg detail : Nat), (d.page k).state ≠ .free → d.cpaLost = none → 1 ≤ code → code ≤ 16 →
    ((d.post k code arg detail).page k).evStatus.bit code = true ∧
    (((d.page k).evWr + 65536 - (d.page k).evRd) % 65536 ≠ 32 →
      ((d.post k code arg detail).page k).evWr = ((d.page k).evWr + 1) % 65536 ∧
      Tab.look ((d.post k code arg detail).page k).ring ((d.page k).evWr % 32) =
        some [BitVec.ofNat 32 (arg % 65536 * 65536 + code), BitVec.ofNat 32 detail, BitVec.ofNat 32 d.now,
          BitVec.ofNat 32 (d.now / 2 ^ 32)] ∧
      (∀ i, i ≠ (d.page k).evWr % 32 → Tab.look ((d.post k code arg detail).page k).ring i = Tab.look (d.page k).ring i) ∧
      ((d.page k).evMask.bit code = true → pageIrq k 1 ∈ (d.post k code arg detail).irqs)) ∧
    (((d.page k).evWr + 65536 - (d.page k).evRd) % 65536 = 32 →
      ((d.post k code arg detail).page k).evWr = (d.page k).evWr ∧ ((d.post k code arg detail).page k).ring = (d.page k).ring ∧
      ((d.post k code arg detail).page k).evStatus.bit 31 = true) ∧
    (∀ j, j ≠ k → (d.post k code arg detail).page j = d.page j) ∧
    Dev.Frame d (d.post k code arg detail) [.pages, .counters, .interrupts] fun _ => False

/-- R471, R472: a counter never wraps. An increment past 2⁴⁸ − 1 stops there and sets OVF, after which the counter holds; below, the
count is exact. From a clear on, a counter is the sum of its increments, and a greatest value seen the greatest of the values; each stands
at 2⁴⁸ − 1 with OVF where it would pass 2⁴⁸ − 1. Every count of the device is such an increment of the one counter it names. -/
def Obligations.CountersSaturate : Prop :=
  (∀ (c : Counter) k, c.val ≤ 2 ^ 48 - 1 → (c.add k).val ≤ 2 ^ 48 - 1 ∧ (c.ovf = true → c.add k = { val := 2 ^ 48 - 1, ovf := true }) ∧
    (c.ovf = false → c.val + k ≤ 2 ^ 48 - 1 → c.add k = { val := c.val + k, ovf := false }) ∧
    (c.ovf = false → 2 ^ 48 - 1 < c.val + k → c.add k = { val := 2 ^ 48 - 1, ovf := true })) ∧
  (∀ ks : List Nat, ks.foldl Counter.add {} =
    if ks.sum ≤ 2 ^ 48 - 1 then { val := ks.sum, ovf := false } else { val := 2 ^ 48 - 1, ovf := true }) ∧
  (∀ (c : Counter) k, c.val ≤ 2 ^ 48 - 1 → (c.maxOf k).val ≤ 2 ^ 48 - 1 ∧ (c.ovf = true → c.maxOf k = c) ∧
    (c.ovf = false → k ≤ 2 ^ 48 - 1 → c.maxOf k = { val := max c.val k, ovf := false }) ∧
    (c.ovf = false → 2 ^ 48 - 1 < k → c.maxOf k = { val := 2 ^ 48 - 1, ovf := true })) ∧
  (∀ ks : List Nat, ks.foldl Counter.maxOf {} =
    if ∀ k ∈ ks, k ≤ 2 ^ 48 - 1 then { val := ks.foldl max 0, ovf := false } else { val := 2 ^ 48 - 1, ovf := true }) ∧
  (∀ (d : Dev) g i k, (d.count g i k).cnt g i = (d.cnt g i).add k ∧
    (∀ h j, j < 4096 → h * 4096 + j ≠ g * 4096 + i → h < 0x80 ∨ 0xC0 ≤ h → d.injUnit = false → (d.count g i k).cnt h j = d.cnt h j)) ∧
  (∀ (d : Dev) g i k, (d.countMax g i k).cnt g i = (d.cnt g i).maxOf k)

/-- R275, R276: a report of a code that CPB's loss does not silence sets its bit of SAFE_SEEN and appends a log entry of KIND 1 at the
present device time. A pulse-class code drives WARN_N for 1 ms; a held-class condition holds until it is ended and drives WARN_N; a
FAULT-class code drives FAULT_N, latched. Nothing else changes.

R276: the end of a condition takes it away for its subject alone; its bit of SAFE_COND stays while another subject's holds. -/
def Obligations.ReportsAndConditions : Prop :=
  (∀ (d : Dev) (code subject detail : Nat), 1 ≤ code → code ≤ 17 → (d.cpbLost.isSome = true → hwSourced code = true) →
     (d.report code subject detail).getB aSafeSeen code = true ∧
     (∃ old, (d.report code subject detail).log = old ++
       [{ time := d.now, kind := 1, code := code, subject := subject, addr := 0, detail := detail, inj := d.injUnit }]) ∧
     (repClass code = .pulse → (d.report code subject detail).warnEnd = some (d.now + 1000000) ∧
       (d.getF aSafeOut 5 4 ≠ 2 → (d.report code subject detail).getB aSafeOut 1 = true)) ∧
     (repClass code = .heldC → (code, subject) ∈ (d.report code subject detail).held ∧
       (d.report code subject detail).getB aSafeCond code = true ∧
       (d.getF aSafeOut 5 4 ≠ 2 → (d.report code subject detail).getB aSafeOut 1 = true)) ∧
     (repClass code = .fault → (d.report code subject detail).faultLatched = true ∧
       (d.report code subject detail).getB aSafeCond code = true ∧
       (d.getF aSafeOut 5 4 ≠ 2 → (d.report code subject detail).getB aSafeOut 0 = true)) ∧
     Dev.Frame d (d.report code subject detail) [.safety, .log] repRegs) ∧
  (∀ (d : Dev) (code subject : Nat), 1 ≤ code → code ≤ 17 → (d.cpbLost.isSome = true → hwSourced code = true) →
     (∀ p, p ∈ (d.endCond code subject).held ↔ p ∈ d.held ∧ ¬ (p.1 % 32 = code ∧ p.2 = subject)) ∧
     ((d.endCond code subject).getB aSafeCond code = true ↔ ∃ p ∈ d.held, p.1 % 32 = code ∧ p.2 ≠ subject) ∧
     Dev.Frame d (d.endCond code subject) [.safety, .log] repRegs)

/-- R281, R283, R292: memory. Where no dirty log runs, a write of bytes is read back at every reachable address of its range, and every
other byte of the device reads as before; a range written to zero reads 0; a line written whole loses its poison.

R283: bit g of BWR_ILV makes granule g interleaved. An interleaved address at offset X names the byte in stack (X div 4,096) mod 4
at stack offset ((X div 16,384) × 4,096) + (X mod 4,096), and is unreachable while its granule's bit is 0; a stack-local address is
unreachable while its granule's bit is 1, and names its own byte else. No byte is reachable by two addresses.

The writes of memory keep its canonical form: rising addresses, no byte listed that an unlisted one equals. -/
def Obligations.MemoryIsKept : Prop :=
  (∀ (d : Dev), d.loggers = [] →
     (∀ a bs i, (h : i < bs.length) → (d.phys (a + i)).isSome = true → (d.wrN a bs).rd8 (a + i) = bs[i]) ∧
     (∀ a bs x, x < a ∨ a + bs.length ≤ x → (d.wrN a bs).rd8 x = d.rd8 x) ∧
     (∀ a n x, (d.zero a n).rd8 x = if a ≤ x ∧ x < a + n then 0 else d.rd8 x) ∧
     (∀ a bs, Dev.Frame d (d.wrN a bs) [.memory, .residency] cbRegs) ∧
     (∀ a n, Dev.Frame d (d.zero a n) [.memory, .residency] cbRegs)) ∧
  (∀ (d : Dev),
     (∀ g, g < 36 → d.ilvBit g = if g < 32 then d.getB aBwrIlvLo g else d.getB aBwrIlvHi (g - 32)) ∧
     (∀ x, x < 144 * 2 ^ 30 → d.phys (0x5000000000 + x) =
       if d.ilvBit (x / (4 * 2 ^ 30)) = true then some (x / 4096 % 4 * (36 * 2 ^ 30) + (x / 16384 * 4096 + x % 4096)) else none) ∧
     (∀ n x, n < 4 → x < 36 * 2 ^ 30 → d.phys (n * (36 * 2 ^ 30) + x) =
       if d.ilvBit (x / 2 ^ 30) = true then none else some (n * (36 * 2 ^ 30) + x)) ∧
     (∀ x g, g < 36 → (x / (4 * 2 ^ 30) = g ↔ (x / 16384 * 4096 + x % 4096) / 2 ^ 30 = g)) ∧
     (∀ a b k : Nat, d.phys a = some k → d.phys b = some k → a = b)) ∧
  (∀ (d : Dev) (a n : Nat) (bs : List Byte), Memory.wf d.mem = true →
     Memory.wf (d.wrN a bs).mem = true ∧ Memory.wf (d.zero a n).mem = true)

/-! ### The Sebry command interface (R49 to R71) -/

/-- R63, R65, R66: the queries of an instance answer what they name and change nothing.

R67 to R69, R71: the queries of the device answer what they name. They change nothing, but for the entries that DIAG_LOG_READ
moves from the diagnostic log to the buffer, oldest first. The link bit of a CAN port is a value that the spec leaves open. -/
def Obligations.QueriesAnswer : Prop :=
  (∀ (s : State) (m : Mbx),
     (Accepted s.dev m 0 pagesIM false true →
       AnswersOk (.instQuery m) s m (s.dev.asked m 0x0102)
         [s.dev.instState (pgKey m.page), BitVec.ofNat 32 (s.dev.inst (pgInst m.page)).quotaMiB,
          BitVec.ofNat 32 (((s.dev.inst (pgInst m.page)).usedBytes + (2 ^ 20 - 1)) / 2 ^ 20),
          BitVec.ofNat 32 (s.dev.inst (pgInst m.page)).qQuota, BitVec.ofNat 32 (s.dev.inst (pgInst m.page)).ctxQuota,
          BitVec.ofNat 32 (s.dev.page (pgKey m.page)).hbPeriodMs, BitVec.ofNat 32 (s.dev.inst (pgInst m.page)).egMask]) ∧
     (∀ c x, Accepted s.dev m 1 pagesI → s.dev.ctxByHandle (pgInst m.page) (m.req 1).toNat = some c → s.dev.ctx? c = some x →
       AnswersOk (.ctxQuery m) s m (s.dev.asked m 0x0306)
         [if x.parked then 1 else 0,
          BitVec.ofNat 32 (((s.dev.queues.filter (·.2.ctx = c)).map fun p => p.2.window.length).foldl (· + ·) 0)]) ∧
     (∀ b, Accepted s.dev m 2 pagesI → m.req 2 &&& 0xFFFFF000#32 = 0 →
       s.dev.queryBuf (pgInst m.page) (m.req 1).toNat ((m.req 2).fld 11 0) = some b →
       AnswersOk (.graphBufQuery m) s m (s.dev.asked m 0x0405)
         [BitVec.ofNat 32 b.addr, BitVec.ofNat 32 (b.addr / 2 ^ 32),
          BitVec.ofNat 32 (((s.dev.inst (pgInst m.page)).winOff b.addr).getD 0 / 65536), BitVec.ofNat 32 b.size])) ∧
  (∀ (s : State) (m : Mbx),
     (Accepted s.dev m 0 pagesVM →
       AnswersOk (.safeStatus m) s m (s.dev.asked m 0x0504)
         [BitVec.ofNat 32 (s.dev.healthySpares * 256 +
             b2n (s.dev.testUnits.any fun u => decide (u < 64) && s.dev.untested u) * 2 + b2n s.dev.degraded),
          BitVec.ofNat 32 (maskOf ((List.range 32).filter fun p => s.dev.pairState p = 4))]) ∧
     (∀ p, Accepted s.dev m 1 pagesVM → m.req 1 = BitVec.ofNat 32 p → p ≤ 21 →
       AnswersOk (.gwStatus m) s m (s.dev.asked m 0x0603)
         [BitVec.ofNat 32 (b2n (s.dev.getB (aSwPortStatus p) 1) * 2 + b2n (s.dev.getB (aSwPortStatus p) 0)),
          BitVec.ofNat 32 (s.dev.dropped p)]) ∧
     (∀ p, Accepted s.dev m 1 pagesVM → m.req 1 = BitVec.ofNat 32 p → 32 ≤ p → p ≤ 47 →
       ∃ b : Nat, b < 2 ∧ AnswersOk (.gwStatus m) s m { s.dev.asked m 0x0603 with freeCtr := s.dev.freeCtr + 1 }
         [BitVec.ofNat 32 b, BitVec.ofNat 32 (s.dev.dropped p)]) ∧
     (Accepted s.dev m 0 pagesIM false false true →
       AnswersOk (.persQuery m) s m (s.dev.asked m 0x0801)
         [BitVec.ofNat 32 (b2n s.dev.degraded * 256 + ((s.dev.trans.map (·.dst)).getD s.dev.pers).code * 32 +
             b2n s.dev.trans.isSome * 16 + s.dev.pers.code),
          BitVec.ofNat 32 (s.dev.capOf s.dev.pers)]) ∧
     (Accepted s.dev m 3 pagesVM → (s.dev.inst (pgInst m.page)).owns (addrOf (m.req 1) (m.req 2)) (32 * (m.req 3).toNat) = true →
       AnswersOk (.diagLogRead m) s m
         { (s.dev.asked m 0x0A02).wrWords (addrOf (m.req 1) (m.req 2)) ((s.dev.log.take (m.req 3).toNat).flatMap LogEntry.words) with
           log := s.dev.log.drop (m.req 3).toNat }
         [BitVec.ofNat 32 (min (m.req 3).toNat s.dev.log.length)]))

/-! ### Sessions and resets of instances (R63, R70, R385 to R389) -/

/-- R63: SESSION_OPEN makes the page's state ACTIVE and starts its heartbeat supervision at the present device time; an instance's
change of STATE is event 3 on the manager page (R62). RSP1 is SCI_VERSION, RSP2 INST_ID. EVICT_ACK ends the instance's grace now. -/
def Obligations.SessionsOpen : Prop :=
  ∀ (s : State) (m : Mbx),
    let k := pgKey m.page
    let d := s.dev.asked m 0x0101
    (Accepted s.dev m 1 pagesIM true → (m.req 1).fld 31 16 = 2 → (s.dev.page k).state ≠ .active →
      (∀ n, m.page = .inst n →
        ¬ ((s.dev.page k).state = .resetDone ∧ s.dev.pers ≠ .lease ∧ (s.dev.part (s.dev.inst k).pt).map (·.kind) = some .lease) →
        AnswersOk (.sessionOpen m) s m
          ((d.setPage k { d.page k with state := .active, hostVer := m.req 1, tOpen := d.now, hbPeriods := 0, hbMissed := 0,
                                        hbSeen := (d.page k).heartbeat, hbWrote := false }).post 64 3 k 2) [0x00020004, s.dev.instId k]) ∧
      (m.page = .mgr →
        AnswersOk (.sessionOpen m) s m
          (d.setPage 64 { d.page 64 with state := .active, hostVer := m.req 1, tOpen := d.now, hbPeriods := 0, hbMissed := 0,
                                         hbSeen := (d.page 64).heartbeat, hbWrote := false }) [0x00020004, s.dev.instId 64])) ∧
    (Accepted s.dev m 0 pagesI → (s.dev.page k).evict = true →
      AnswersOk (.evictAck m) s m
        ((s.dev.asked m 0x0103).setInst (pgInst m.page) { s.dev.inst (pgInst m.page) with graceEnd := some (max s.dev.now m.t) }) [])

/-- R63, R70, R385, R388: a reset of an instance, asked for on its page or by the manager. With MODE 0 the instance drains: its
service takes no further requests, and the drain's time runs from now. With MODE 1 it is squashed: its commands are squashed, its
serving ends, its channels stop, and what waited on their locks goes on. The reset's COMMAND_DONE is still to come (R53).

R386: a squash leaves nothing of the instance behind: its queues hold no taken command, no node waits to be taken in them, and it
has no service. -/
def Obligations.InstancesReset : Prop :=
  (∀ (s : State) (m : Mbx),
     let drains (d : Dev) (n : Nat) : Dev :=
       let e := d.setState n .draining
       { e with serving := e.serving.adjust n fun v => { v with stopping := true } }.setInst n { e.inst n with drainT := some e.now }
     let squashes (d : Dev) (n : Nat) : Dev :=
       let e := (d.setState n .squashing).squashInst n
       (e.setInst n { e.inst n with drainT := none }).settle
     (Accepted s.dev m 1 pagesI →
       let d := (s.dev.asked m 0x0104).begin m 0x0104 (pgInst m.page) 0 false
       (m.req 1 = 0 → AnswersOk (.instReset m) s m (drains d (pgInst m.page)) []) ∧
       (m.req 1 = 1 → AnswersOk (.instReset m) s m (squashes d (pgInst m.page)) [])) ∧
     (∀ n : Nat, Accepted s.dev m 1 pagesM → 1 ≤ n → n < 64 → ((s.dev.page n).state = .active ∨ (s.dev.page n).state = .orphaned) →
       let d := (s.dev.asked m 0x0903).begin m 0x0903 n 0 false
       (m.req 1 = BitVec.ofNat 32 n → AnswersOk (.mgrInstReset m) s m (drains d n) []) ∧
       (m.req 1 = BitVec.ofNat 32 (256 + n) → AnswersOk (.mgrInstReset m) s m (squashes d n) []))) ∧
  (∀ (d : Dev) (n : Nat),
     (∀ q x, (d.squashInst n).queue? q = some x → x.inst = n → x.window = [] ∧ x.feed = []) ∧
     Tab.look (d.squashInst n).serving n = none)

/-- R70: the manager's commands on an instance. MGR_INST_DESTROY marks it for destruction, and squashes it where commands may run.
MGR_INST_ATTACH gives an ORPHANED instance the binding asked for in place of its old one and makes it CREATED. MGR_EVICT posts the
notice with its grace. -/
def Obligations.ManagerInstanceCommands : Prop :=
  ∀ (s : State) (m : Mbx) (n : Nat), 1 ≤ n → n < 64 →
    (Accepted s.dev m 1 pagesM → m.req 1 = BitVec.ofNat 32 n → (s.dev.page n).state ≠ .free →
      let d := (s.dev.asked m 0x0902).begin m 0x0902 n 0 false
      let e := d.setInst n { d.inst n with destroy := true }
      ((s.dev.page n).state = .active ∨ (s.dev.page n).state = .orphaned ∨ (s.dev.page n).state = .draining →
        AnswersOk (.mgrInstDestroy m) s m (e.beginSquash n).settle []) ∧
      ((s.dev.page n).state = .created ∨ (s.dev.page n).state = .squashing ∨ (s.dev.page n).state = .resetDone →
        AnswersOk (.mgrInstDestroy m) s m e [])) ∧
    (∀ kind idx, Accepted s.dev m 1 pagesM → m.req 1 = BitVec.ofNat 32 (kind * 16384 + idx * 256 + n) → kind < 3 → idx < 64 →
      (s.dev.page n).state = .orphaned → s.dev.bindExists kind idx = true →
      (s.dev.boundTo kind idx = none ∨ s.dev.boundTo kind idx = some n) →
      (kind = 0 → ∀ p, s.dev.part (s.dev.inst n).pt = some p → p.worldO = s.dev.getB aWorldHost idx) →
      let d := s.dev.asked m 0x0904
      let i := s.dev.inst n
      let e := (d.bindRegs n i.bindKind i.bindIdx i.pt false).bindRegs n kind idx i.pt true
      AnswersOk (.mgrInstAttach m) s m ((e.setInst n { i with bindKind := kind, bindIdx := idx }).setState n .created) []) ∧
    (∀ grace, Accepted s.dev m 2 pagesM → m.req 1 = BitVec.ofNat 32 n → m.req 2 = BitVec.ofNat 32 grace → grace ≤ 1000 →
      (s.dev.part (s.dev.inst n).pt).map (·.kind) = some .lease → (s.dev.page n).evict = false →
      ((s.dev.page n).state = .active ∨ (s.dev.page n).state = .orphaned) →
      AnswersOk (.mgrEvict m) s m (((s.dev.asked m 0x0905).begin m 0x0905 n 0 false).notice n grace) [])

/-! ### Memory, contexts and queues of an instance (R64, R65, R72, R93, R504, R509) -/

/-- R64, R504: MEM_ALLOC completes with OK for an instance whose quota covers the units, on stacks that answer. Where a granule that the
instance owns holds a run of free units, the allocation takes the first such run (step 1): it joins the instance's allocations and its
bytes are written to zero, and no ownership and no window entry changes. Where no granule does and the partition has a run of free
granules, it takes the first such run (step 2): the granules are written to zero and become the instance's, and as many window granules
map them. The response gives its device address and its offset in the window in 64 KiB units. While no dirty log runs, every byte of
the allocation then reads 0, and nothing but memory, operand-buffer residency, ownership and the instance has changed.

R64, R53: MEM_FREE completes with OK for an allocation of the caller that no uncommitted command locks and that is no buffer of a
graph: its bytes are written to zero, it leaves the instance's allocations, the granules that no allocation touches any longer go back
to the partition, a dirty log whose bitmap it held stops (R393), and COMMAND_DONE with status OK is ready to follow. While no dirty log
runs, the freed bytes read 0, every other byte reads as before, the other allocations stay, and nothing but memory, operand-buffer
residency, ownership, the instance and the list of commands that are to be reported has changed. -/
def Obligations.MemoryIsAllocatedAndFreed : Prop :=
  (∀ (s : State) (m : Mbx) (units stack : Nat) (ilv : Bool),
     let n := pgInst m.page
     let i := s.dev.inst n
     let d := s.dev.asked m 0x0201
     let g := granuleBytes ilv
     let cnt := (units * 65536 + g - 1) / g
     let per := g / 0x200000
     let wds (al : Alloc) : List Word := [BitVec.ofNat 32 al.addr, BitVec.ofNat 32 (al.addr / 2 ^ 32), BitVec.ofNat 32 al.winOff]
     let kept (al : Alloc) (e : Dev) : Prop := s.dev.loggers = [] →
       (∀ x, al.addr ≤ x → x < al.addr + units * 65536 → e.rd8 x = 0) ∧ Dev.Frame d e [.memory, .residency, .ownership, .instances] cbRegs
     Accepted s.dev m 2 pagesI → m.req 1 = BitVec.ofNat 32 units → 1 ≤ units → units < 2 ^ 32 → stack < 4 → (ilv = true → stack = 0) →
     m.req 2 = BitVec.ofNat 32 (stack * 16 + b2n ilv) → i.quotaFor (units * 65536) = true → s.dev.allocUp ilv stack = true →
     (∀ r, i.runOwned ilv stack units = some r →
       let al : Alloc := ⟨r.1, units, r.2, .mem⟩
       let e := (d.setInst n { i with allocs := i.allocs ++ [al] }).zero r.1 (units * 65536)
       AnswersOk (.memAlloc m) s m e (wds al) ∧ kept al e) ∧
     (∀ a, i.runOwned ilv stack units = none → s.dev.freeRun i.pt ilv stack cnt = some a →
       let w := i.windowRun (cnt * per)
       let al : Alloc := ⟨a, units, w * 32, .mem⟩
       let win := forUpTo (cnt * per) (fun k (t : Tab WinGranule) => t.put (w + k) ⟨a + k * 0x200000, ilv⟩) i.window
       let e := (forUpTo cnt (fun k d => d.markGranule (a + k * g) false i.pt true n) (d.zero a (cnt * g))).setInst n
         { i with allocs := i.allocs ++ [al], window := win }
       AnswersOk (.memAlloc m) s m e (wds al) ∧ kept al e)) ∧
  (∀ (s : State) (m : Mbx) (al : Alloc),
     let n := pgInst m.page
     let a := addrOf (m.req 1) (m.req 2)
     let e := (((s.dev.asked m 0x0202).begin m 0x0202 a).freeAlloc n al).loseLog n al
     Accepted s.dev m 2 pagesI → (s.dev.inst n).freeable a = some al → (s.dev.inst n).owns a 1 = true →
     s.dev.lockHit al.addr (al.units * 65536) true = false →
     AnswersOk (.memFree m) s m e [] ∧
     (∃ r, e.done = s.dev.done ++ [r] ∧ r.page = n ∧ r.tag = m.tag ∧ r.opcode = 0x0202 ∧ r.ready = true ∧ r.status = 0) ∧
     (s.dev.loggers = [] → (∀ x, x ∈ (e.inst n).allocs ↔ x ∈ (s.dev.inst n).allocs ∧ x ≠ al) ∧
       (∀ x, e.rd8 x = if al.addr ≤ x ∧ x < al.addr + al.units * 65536 then 0 else s.dev.rd8 x) ∧
       Dev.Frame (s.dev.asked m 0x0202) e [.memory, .residency, .ownership, .instances, .commands] cbRegs))

/-- R65, R93, R96, R97: CTX_CREATE makes a context at the lowest free index, whose generation has grown by one if the index was used
before. Where no slot is free an unpinned context starts parked in the cave. CTX_DESTROY squashes the context's commands and removes
it with its queues; what waited on their locks goes on.

R65, R72, R73, R74: Q_CREATE makes a queue at the lowest free number with the lowest free doorbell of the instance, empty, with HEAD
and TAIL 0. Q_DESTROY of an empty queue removes it and its doorbell. Q_RESET squashes what the queue has taken, sets HEAD equal to
TAIL and ends a halt. -/
def Obligations.ContextsAndQueuesAreCreatedAndDestroyed : Prop :=
  (∀ (s : State) (m : Mbx),
     let n := pgInst m.page
     (∀ eg prio len c, Accepted s.dev m 2 pagesI → eg < 32 → prio < 8 → m.req 1 = BitVec.ofNat 32 (prio * 256 + eg) →
       m.req 2 = BitVec.ofNat 32 len → (len = 0 ∨ (50 ≤ len ∧ len ≤ 20000)) → bitOf (s.dev.inst n).egMask eg = true →
       s.dev.ctxCount n < (s.dev.inst n).ctxQuota → s.dev.ctxs.length < 65536 → s.dev.pins n = false →
       s.dev.ctxs.freeKey 0 65536 = some c →
       let gen := match s.dev.ctxGen.look c with
         | some g => (g + 1) % 65536
         | none => 0
       let x : Ctx := { gen, inst := n, eg, prio, cmdlen := if len = 0 then (s.dev.inst n).cmdlen else len, parked := s.dev.freeSlot.isNone,
                        slot := s.dev.freeSlot.getD 0, lastUse := max s.dev.now m.t }
       let d := s.dev.asked m 0x0301
       AnswersOk (.ctxCreate m) s m { d with ctxs := d.ctxs.put c x, ctxGen := d.ctxGen.put c gen } [BitVec.ofNat 32 (gen * 65536 + c)]) ∧
     (∀ c, Accepted s.dev m 1 pagesI → s.dev.ctxByHandle n (m.req 1).toNat = some c →
       AnswersOk (.ctxDestroy m) s m (((s.dev.asked m 0x0302).begin m 0x0302 (m.req 1).toNat).dropCtx c).settle [])) ∧
  (∀ (s : State) (m : Mbx),
     let n := pgInst m.page
     let i := s.dev.inst n
     (∀ c l q b, let ring := addrOf (m.req 2) (m.req 3)
       let compl := addrOf (m.req 5) (m.req 6)
       Accepted s.dev m 6 pagesI → m.req 4 = BitVec.ofNat 32 l → 4 ≤ l → l ≤ 16 → ring % 4096 = 0 → compl % 32 = 0 →
       i.owns ring (64 * 2 ^ l) = true → i.owns compl (32 * 2 ^ l) = true → rangesMeet ring (64 * 2 ^ l) compl (32 * 2 ^ l) = false →
       s.dev.ctxByHandle n (m.req 1).toNat = some c → s.dev.isTorn c = false → s.dev.qCount n < i.qQuota → s.dev.queues.length < 16384 →
       s.dev.queues.freeKey 0 16384 = some q → i.doorbells.freeKey 0 4096 = some b →
       let d := s.dev.asked m 0x0303
       AnswersOk (.qCreate m) s m
         ((d.setInst n { i with doorbells := i.doorbells.put b q }).setQueue q { ctx := c, inst := n, dbidx := b, ring, log2n := l, compl })
         [BitVec.ofNat 32 (b * 65536 + q)]) ∧
     (∀ b q x, Accepted s.dev m 1 pagesI → m.req 1 = BitVec.ofNat 32 b → b < 4096 → s.dev.queueOf n b = some q → s.dev.queue? q = some x →
       s.dev.isTorn x.ctx = false → x.head = x.tail → x.window = [] →
       let d := s.dev.asked m 0x0304
       AnswersOk (.qDestroy m) s m { d.setInst n { i with doorbells := i.doorbells.del b } with queues := d.queues.del q } []) ∧
     (∀ b q x, Accepted s.dev m 1 pagesI → m.req 1 = BitVec.ofNat 32 b → b < 4096 → s.dev.queueOf n b = some q → s.dev.queue? q = some x →
       s.dev.isTorn x.ctx = false →
       let d := ((s.dev.asked m 0x0305).begin m 0x0305 q).squashQueue q
       AnswersOk (.qReset m) s m { d with queues := d.queues.adjust q fun x => { x with head := x.tail, halted := false } }.settle []))

/-- R73, R74, R75, R98: a doorbell write that moves TAIL forward inside the ring. TAIL takes the value, the context is used now and
comes out of the cave if it can, and the scheduler runs. A value that leaves more than the ring holds, or that moves TAIL back, halts the
queue. A write to a DBIDX that names no queue of the instance, and any doorbell write while the instance is not ACTIVE, changes nothing
but the instance's stray-doorbell counter, entry 10 of its group, which it increments (R75, R59). CONTEXT_UNPARK brings a parked context
with an accepted doorbell into a slot. -/
def Obligations.DoorbellsMoveTheTail : Prop :=
  ∀ (s : State) (inst : Fin 64) (dbidx : Fin 4096) (v : Dword) (t q : Nat) (x : Queue), s.dev.power = .on →
    let d := s.dev.advance t
    let n := inst.val
    let w := v.setWidth 32
    ((s.dev.inst n).doorbells.look dbidx.val = some q → s.dev.queue? q = some x → (s.dev.page n).state = .active →
      let room := (w.toNat + 2 ^ 32 - x.head) % 2 ^ 32
      (∀ c wide, (x.tail + 2 ^ 32 - x.head) % 2 ^ 32 ≤ room → room ≤ 2 ^ x.log2n → w.toNat ≠ x.tail → s.dev.ctx? x.ctx = some c →
        Ends (.doorbellWrite inst dbidx wide false v t) s
          (Dev.keep d ((((d.setQueue q { x with tail := w.toNat }).setCtx x.ctx { c with lastUse := d.now }).unpark x.ctx).settle))) ∧
      (∀ wide, w.toNat = x.tail → room ≤ 2 ^ x.log2n → Ends (.doorbellWrite inst dbidx wide false v t) s (Dev.keep d d)) ∧
      (∀ wide, 2 ^ x.log2n < room ∨ room < (x.tail + 2 ^ 32 - x.head) % 2 ^ 32 → Ends (.doorbellWrite inst dbidx wide false v t) s
        (Dev.keep d ((d.setQueue q { x with halted := true }).post x.inst 6 3 (d.handleOf x.ctx))))) ∧
    (((s.dev.inst n).doorbells.look dbidx.val = none ∨ (s.dev.page n).state ≠ .active) → (s.dev.page n).state ≠ .free →
      ∀ wide, ∃ e, Ends (.doorbellWrite inst dbidx wide false v t) s (Dev.keep d e) ∧ e = d.countInst n 10 ∧
        e.cnt (0x80 + n) 10 = (d.cnt (0x80 + n) 10).add 1 ∧ Dev.Frame d e [.counters, .interrupts, .log] cntRegs) ∧
    Ends (.doorbellWrite inst dbidx false true v t) s (Dev.keep d d) ∧
    (∀ (h : Half) c slot, s.dev.ctx? h.toNat = some c → c.parked = true → c.waitSince = none → s.dev.freeSlot = some slot →
      ((s.dev.queuesOf h.toNat).any fun q => (s.dev.queue? q).any fun x => decide (x.head ≠ x.tail)) = true →
      Ends (.contextUnpark h t) s
        (Dev.keep d ((d.setCtx h.toNat { c with parked := false, slot, waitSince := none }).countInst c.inst 12).settle))

/-! ### Graphs, serving and the safety commands (R66, R67, R227 to R239, R268, R510) -/

/-- R66, R234, R235: GRAPH_LOAD of a package in the caller's memory answers at once with the lowest handle not in use. Where the
package is valid and what it asks for can be had, the handle then names a graph of the instance with the package's nodes, its engine
group and its priority, and COMMAND_DONE will carry OK. Otherwise nothing of the package is kept, and COMMAND_DONE carries the final
status.

R66, R510: GRAPH_UNLOAD of a graph that is not served, not a bound fall-back, and named by no taken command of class 0x03: the
graph is gone with its context, pools and buffers, and so is its fall-back. What waited on its locks goes on. -/
def Obligations.GraphsAreLoadedAndUnloaded : Prop :=
  (∀ (s : State) (m : Mbx) (h : Nat),
     let n := pgInst m.page
     let base := addrOf (m.req 1) (m.req 2)
     let len := (m.req 3).toNat
     let d := s.dev.asked m 0x0401
     Accepted s.dev m 3 pagesI → (s.dev.inst n).owns base len = true → s.dev.graphs.freeKey 1 65536 = some h →
     (∀ e, d.loadGraph n h base len = (.ok, e) →
       AnswersOk (.graphLoad m) s m (e.begin m 0x0401 h 0 true 0) [BitVec.ofNat 32 h] ∧
       ∃ g p, e.graph? h = some g ∧ d.readPkg base len (s.dev.inst n).egMask = some p ∧ g.inst = n ∧ g.nodes = p.nodes ∧ g.eg = p.eg ∧
         g.prio = p.prio ∧ g.started = 0 ∧ g.primary = none ∧ g.fallback = none) ∧
     (∀ st e, d.loadGraph n h base len = (st, e) → st ≠ .ok →
       AnswersOk (.graphLoad m) s m (d.begin m 0x0401 h 0 true st.code) [BitVec.ofNat 32 h])) ∧
  (∀ (s : State) (m : Mbx) (g : Graph),
     let h := (m.req 1).toNat
     let d := s.dev.asked m 0x0402
     Accepted s.dev m 1 pagesI → s.dev.graphOf (pgInst m.page) h = some g → s.dev.served h = false → g.primary = none →
     s.dev.poolNamed h = false → (∀ f, g.fallback = some f → s.dev.served f = false ∧ s.dev.poolNamed f = false) →
     ∃ e, AnswersOk (.graphUnload m) s m e.settle [] ∧ e.graph? h = none ∧
       (∀ f, g.fallback = some f → e = (d.dropGraph f).dropGraph h) ∧ (g.fallback = none → e = d.dropGraph h))

/-- R66, R236, R239: SERVE_START makes the instance's service on the graph with its rings. SERVE_STOP stops its admission; it is done
once no sequence is left, and at once where no service runs.

R237: a row of the service. Between steps, ended sequences leave, requests are taken, and the rows of the batch are planned; where there
are rows, the nodes of the graph are submitted to its queue as commands of the step, and run through the scheduler; where there are none
the service ends if it was told to. While a command of the step has not pressed, the row does nothing. Once all have and the sort units
stand idle, every sequence has fed its rows and each last row emits its token; the step and its prompt tokens are counted, and the
service ends where it was told to stop and no sequence is left. -/
def Obligations.ServiceRuns : Prop :=
  (∀ (s : State) (m : Mbx),
     let n := pgInst m.page
     (∀ g mb rq rs q r, Accepted s.dev m 3 pagesI → s.dev.graphOf n (m.req 1).toNat = some g → g.serve.isSome = true →
       m.req 2 = BitVec.ofNat 32 mb → 1 ≤ mb → mb ≤ 256 → m.req 3 = BitVec.ofNat 32 (rs * 65536 + rq) → rq < 4096 → rs < 4096 → rq ≠ rs →
       s.dev.queueOf n rq = some q → s.dev.queueOf n rs = some r → s.dev.isTorn (s.dev.ctxOfQ q) = false →
       s.dev.isTorn (s.dev.ctxOfQ r) = false → s.dev.serving.look n = none →
       let d := s.dev.asked m 0x0403
       AnswersOk (.serveStart m) s m
         { d with serving := d.serving.put n { graph := (m.req 1).toNat, maxBatch := mb, reqQ := q, rspQ := r } } []) ∧
     (∀ v, Accepted s.dev m 0 pagesI → s.dev.serving.look n = some v → (v.batch ≠ [] ∨ v.requeued ≠ []) →
       let d := (s.dev.asked m 0x0404).begin m 0x0404 n 0 false
       AnswersOk (.serveStop m) s m { d with serving := d.serving.adjust n fun v => { v with stopping := true } } []) ∧
     (Accepted s.dev m 0 pagesI → s.dev.serving.look n = none →
       ∃ e, AnswersOk (.serveStop m) s m e [] ∧ Tab.look e.serving n = none ∧
         (∃ r, e.done = s.dev.done ++ [r] ∧ r.page = pgKey m.page ∧ r.tag = m.tag ∧ r.opcode = 0x0404 ∧ r.ready = true ∧ r.status = 0))) ∧
  (∀ (s : State) (inst : Fin 64) (t : Nat) (v : Serving) (g : Graph) (cfg : ServeCfg), s.dev.power = .on →
     let d := s.dev.advance t
     let n := inst.val
     s.dev.serving.look n = some v → s.dev.graph? v.graph = some g → g.serve = some cfg → s.dev.noDispatch = false →
     s.dev.isTorn g.ctx = false → (s.dev.page n).state = .active → v.owed = [] →
     (v.rows = [] →
       let cap (i : Nat) : Nat := ((g.bufs[i]?).map (·.size / 4)).getD 0
       let plan := ((d.dropEnded n g.queue g).admits n g.queue g cfg 512).planRows n g.queue g cfg (min (cap cfg.tokBuf) (cap cfg.rowBuf)) 512
       let begun : Dev := { plan.1 with serving := plan.1.serving.adjust n fun (x : Serving) => { x with rows := plan.2 } }
       (plan.2 = [] → Ends (.servingStep inst t) s (Dev.keep d (plan.1.serveEnd n).settle)) ∧
       (plan.2 ≠ [] → Ends (.servingStep inst t) s
         (Dev.keep d (begun.submitCmds g.queue (g.stepCmds v.graph plan.2.length begun.now) false).settle))) ∧
     (v.rows ≠ [] → d.runRest g.queue v.graph 0 ≠ [] → Ends (.servingStep inst t) s (Dev.keep d d)) ∧
     (v.rows ≠ [] → d.runRest g.queue v.graph 0 = [] → d.sortsIdle = true →
       let fed : Dev := { d with serving := d.serving.put n { v with
         rows := [], batch := v.batch.zipIdx.map fun (b : Seq × Nat) => { b.1 with fed := b.1.fed + (v.rows.filter fun (r : Row) => decide (r.idx = b.2)).length } } }
       let told := v.rows.zipIdx.foldl (fun d r => if r.1.last then d.emit n g cfg r.2 r.1 else d) fed
       let ran := forUpTo 4 (fun die d => d.count 0x03 (1024 + 8 * die) 1) told
       ∃ prompts, Ends (.servingStep inst t) s
         (Dev.keep d ((((ran.countAcct n 5 1).countAcct n 7 prompts).serveEnd n).settle))))

/-- R67, R230, R233, R268: SAFE_FALLBACK_BIND links two graphs whose inputs and outputs agree, the fall-back's at the primary's
addresses, and frees the fall-back's own. SAFE_AGE_SET sets the limit of one output. SAFE_REFINPUT_SET keeps the block with the graph
and counts it against the quota in place of an earlier one. -/
def Obligations.SafetyCommands : Prop :=
  ∀ (s : State) (m : Mbx),
    let n := pgInst m.page
    (∀ pr fb, Accepted s.dev m 2 pagesV → s.dev.graphOf n (m.req 1).toNat = some pr → s.dev.graphOf n (m.req 2).toNat = some fb →
      m.req 1 ≠ m.req 2 → sameBufs pr fb 2 = true → sameBufs pr fb 3 = true → pr.bound = false → fb.bound = false →
      let own := (s.dev.inst n).allocs.filter fun al => match al.kind with
        | .graphBuf h b => decide (h = (m.req 2).toNat) && ((fb.bufs[b]?).any fun x => decide (x.kind = 2) || decide (x.kind = 3))
        | _ => false
      let d := ((s.dev.asked m 0x0501).setGraph (m.req 2).toNat { fb with primary := some (m.req 1).toNat, bufs := rebase fb pr }).setGraph
        (m.req 1).toNat { pr with fallback := some (m.req 2).toNat }
      AnswersOk (.safeFallbackBind m) s m (forEach own (fun al d => d.freeAlloc n al) d) []) ∧
    (∀ g o, Accepted s.dev m 3 pagesV → s.dev.graphOf n (m.req 1).toNat = some g → m.req 2 = BitVec.ofNat 32 o →
      o < (g.ofKind 3).length → o < 65536 → 100 ≤ (m.req 3).toNat → (m.req 3).toNat ≤ 1000000 →
      AnswersOk (.safeAgeSet m) s m
        ((s.dev.asked m 0x0502).setGraph (m.req 1).toNat { g with ageLimits := g.ageLimits.put o (m.req 3).toNat }) []) ∧
    (∀ g x, let a := addrOf (m.req 2) (m.req 3)
      let b := s.dev.refBlockAt a
      let old := (g.ref.map fun r => r.data.length + 64).getD 0
      Accepted s.dev m 3 pagesV → s.dev.graphOf n (m.req 1).toNat = some g → (s.dev.inst n).owns a 64 = true →
      (s.dev.inst n).owns a (64 + b.data.length) = true → s.dev.refRsvBad a = false →
      (s.dev.inst n).usedBytes + b.data.length + 64 ≤ (s.dev.inst n).quotaMiB * 2 ^ 20 + old → g.nodes[b.node]? = some x →
      g.refNode x = true → b.data.length = g.refLen x → s.dev.refFits g x = true →
      let d := (s.dev.asked m 0x0503).setGraph (m.req 1).toNat { g with ref := some b }
      AnswersOk (.safeRefinputSet m) s m
        (d.setInst n { d.inst n with heldBytes := (d.inst n).heldBytes - old + (b.data.length + 64) }) [])

/-- R235: a run of a graph starts where its trigger fence has reached its number: the run's nodes are submitted to the graph's queue in
order, on the fall-back's nodes where the graph runs its fall-back, and the graph has started one run more. -/
def Obligations.GraphRunsStart : Prop :=
  ∀ (s : State) (h t : Nat) (g : Graph), s.dev.power = .on → s.dev.graph? h = some g → g.primary = none →
    g.started + 1 ≤ s.dev.trigOf g → (s.dev.page g.inst).state = .active → s.dev.isTorn g.ctx = false →
    let d := s.dev.advance t
    let ex := if g.onFallback then g.fallback.getD h else h
    Ends (.graphRunStart h t) s
      (Dev.keep d (((d.setGraph h { g with started := g.started + 1, runs := g.runs.put (g.started + 1) ⟨d.now, d.runStampOf g⟩ }).submitRun h ex (g.started + 1) false).settle))

/-! ### The gateway's tables and keys, the display's layers, fault injection, snapshots (R68, R71, R360 to R362, R435, R436) -/

/-- R68, R361, R362: GW_ROUTES_SET of a table in the caller's memory answers at once. Where the table is valid, joins no port or
channel of world V with one of world O (R434), and is within the admitted rates it replaces the old one whole, and COMMAND_DONE carries OK; otherwise the old table stays, and COMMAND_DONE carries E_PARAM or
E_OVERCOMMIT. R68, R435, R436: GW_KEY_SET of a wrapped key that the security engine does not unwrap answers
E_AUTH; of another one it puts the first KLEN bytes of the key in the
slot, and a MACsec slot becomes the valid association that its port transmits on, with its packet numbers at 0.

R68, R338: DISP_LAYER_SET of a layer of the caller's partition waits for the pipe's next latch, and takes the place of a flip that
waits. DISP_FLIP gives the layer's surface from the next latch on, which the response names. -/
def Obligations.GatewayAndLayersAreSetUp : Prop :=
  (∀ (s : State) (m : Mbx),
     let i := s.dev.inst (pgInst m.page)
     (∀ cnt : Nat,
       let a := addrOf (m.req 1) (m.req 2)
       let d := s.dev.asked m 0x0601
       let len := (s.dev.rd32 (a + 32 * (cnt - 1) + 24)).toNat
       Accepted s.dev m 3 pagesV → m.req 3 = BitVec.ofNat 32 cnt → 1 ≤ cnt → cnt ≤ 4096 → i.owns a (32 * cnt) = true →
       (∀ t, 32 * cnt ≤ len → len % 4 = 0 → i.owns a len = true → parseRoutes (s.dev.rdWords a (len / 4)) cnt = some t →
         t.entries.any (rtMixes (s.dev.reg aWorldEth) (s.dev.reg aWorldCan)) = false → ratesOver t.entries = false →
         ∃ e, AnswersOk (.gwRoutesSet m) s m (e.begin m 0x0601 0 0 true 0) [] ∧ e = d.loadRoutes t ∧ e.gw.table = t) ∧
       (∀ t, 32 * cnt ≤ len → len % 4 = 0 → i.owns a len = true → parseRoutes (s.dev.rdWords a (len / 4)) cnt = some t →
         t.entries.any (rtMixes (s.dev.reg aWorldEth) (s.dev.reg aWorldCan)) = false → ratesOver t.entries = true → AnswersOk (.gwRoutesSet m) s m (d.begin m 0x0601 0 0 true 13) []) ∧
       ((len < 32 * cnt ∨ len % 4 ≠ 0 ∨ i.owns a len = false ∨ parseRoutes (s.dev.rdWords a (len / 4)) cnt = none ∨
           ∃ t, parseRoutes (s.dev.rdWords a (len / 4)) cnt = some t ∧ t.entries.any (rtMixes (s.dev.reg aWorldEth) (s.dev.reg aWorldCan)) = true) →
         AnswersOk (.gwRoutesSet m) s m (d.begin m 0x0601 0 0 true 3) [])) ∧
     (∀ slot : Nat,
       let a := addrOf (m.req 2) (m.req 3)
       let r := s.dev.keyRecord a
       Accepted s.dev m 3 pagesV → m.req 1 = BitVec.ofNat 32 slot → slot < 72 → i.owns a 4 = true →
       i.owns a (4 + r.2.2.2.length) = true → r.2.2.1 = true → keyFits slot r.1 r.2.1 = true →
       match Config.unwrapKey r.2.2.2 with
       | some key => ∃ e, AnswersOk (.gwKeySet m) s m e [] ∧ e.keyOf slot = some (padTo r.1 (key.take r.1)) ∧
           (∀ j, j ≠ slot → e.keyOf j = s.dev.keyOf j) ∧ (56 ≤ slot → e.gw = s.dev.gw) ∧
           (∀ p an, slot = 4 * p + an → an < 4 → p < 14 →
             an ∈ (e.gw.macsec.lookD p {}).valid ∧ (e.gw.macsec.lookD p {}).txAn = an ∧
             Tab.look (e.gw.macsec.lookD p {}).txPn an = some 0 ∧ Tab.look (e.gw.macsec.lookD p {}).rxPn an = some 0)
       | none => Ends (.gwKeySet m) s
           (Dev.keep (s.dev.advance m.t) (postRsp (s.dev.asked m 0x0602) (pgKey m.page) m.tag .eAuth [])))) ∧
  (∀ (s : State) (m : Mbx) (pipe layer : Nat),
     let n := pgInst m.page
     pipe < 4 → layer < 8 → Tab.look s.dev.boot.layerPt (pipe * 8 + layer) = some (s.dev.inst n).pt →
     (∀ en : Bool,
       let l : Layer := { inst := n, addr := addrOf (m.req 2) (m.req 3), w := (m.req 4).fld 15 0, h := (m.req 4).fld 31 16,
                          fmt := (m.req 5).toNat, x := (m.req 6).fld 15 0, y := (m.req 6).fld 31 16 }
       let d := s.dev.asked m 0x0701
       Accepted s.dev m 6 pagesI → m.req 1 = BitVec.ofNat 32 (b2n en * 32 + layer * 4 + pipe) → (m.req 5).toNat < 256 →
       (en = true → dispFmt l.fmt = true ∧ (surfCode l.fmt = 0x10 → l.w % 2 = 0 ∧ l.h % 2 = 0) ∧
         (s.dev.inst n).owns l.addr l.bytes = true) →
       AnswersOk (.dispLayerSet m) s m
         { d with pipes := d.pipes.upd pipe {} fun p =>
           { p with pend := p.pend.put layer (if en then some l else none), flips := p.flips.del layer } } []) ∧
     (let a := addrOf (m.req 2) (m.req 3);
       Accepted s.dev m 3 pagesI → m.req 1 = BitVec.ofNat 32 (layer * 4 + pipe) →
       (s.dev.inst n).owns a (s.dev.layerBytes pipe layer) = true →
       AnswersOk (.dispFlip m) s m ((s.dev.asked m 0x0702).flipTo pipe layer a) [s.dev.reg (aDispFrame pipe) + 1]))

/-- The registers of an injection program. -/
def fiRegs (a : Nat) : Prop := a = aFiStatus ∨ ∃ e i, e < 16 ∧ i < 8 ∧ a = aFiEnt e i

/-- R71, R446, R448, R451: arming, where nothing is armed and R446 permits, by command and by register. The command first writes the
entries from the program. Every generator then holds its SEED, or 1 for 0, every count is 0, and ARMED reads 1.

R71, R447, R451: disarming, by command and by register, clears ARMED and releases every held unit at once in their original order;
where none is held nothing else changes. A unit held for 1 ms is released while injection stays armed. -/
def Obligations.FaultInjectionIsArmed : Prop :=
  (∀ (s : State) (m : Mbx), s.dev.fiArmed = false → s.dev.fiPermits = true →
     (let a := addrOf (m.req 1) (m.req 2)
       let i := s.dev.inst (pgInst m.page)
       ∀ n, Accepted s.dev m 2 pagesM → i.owns a 32 = true → i.owns a (32 + 32 * n) = true → s.dev.rd32 a = BitVec.ofNat 32 n →
         1 ≤ n → n ≤ 16 → (∀ w ∈ s.dev.rdWords (a + 4) 7, w = 0) →
         (∀ e, e < n → fiEntryBad (s.dev.rdWords (a + 32 + 32 * e) 8) = false) →
         ∃ e, AnswersOk (.fiArm m) s m e [] ∧ e.getB aFiStatus 0 = true ∧ e.fi.ks = [] ∧
           (∀ k j, k < 16 → j < 7 → e.reg (aFiEnt k j) = if k < n then s.dev.rd32 (a + 32 + 32 * k + 4 * j) else 0) ∧
           (∀ k, k < 16 → e.reg (aFiEnt k 7) = 0 ∧
             Tab.look e.fi.xs k = some (if e.reg (aFiEnt k 2) = 0 then 1 else (e.reg (aFiEnt k 2)).toNat)) ∧
           Dev.Frame (s.dev.asked m 0x0A03) e [.faultInjection] fiRegs) ∧
     (s.dev.power = .on →
       ∃ e, Ends .fiArmReg s (Dev.keep (s.dev.advance 0) e) ∧ e.getB aFiStatus 0 = true ∧ e.fi.ks = [] ∧
         (∀ k j, k < 16 → j < 7 → e.reg (aFiEnt k j) = s.dev.reg (aFiEnt k j)) ∧
         (∀ k, k < 16 → e.reg (aFiEnt k 7) = 0 ∧
           Tab.look e.fi.xs k = some (if s.dev.reg (aFiEnt k 2) = 0 then 1 else (s.dev.reg (aFiEnt k 2)).toNat)) ∧
         Dev.Frame (s.dev.advance 0) e [.faultInjection] fiRegs)) ∧
  (∀ (s : State),
     (∀ m, Accepted s.dev m 0 pagesM →
       AnswersOk (.fiDisarm m) s m (s.dev.asked m 0x0A04).fiDisarm []) ∧
     (s.dev.power = .on → Ends .fiDisarmReg s (Dev.keep (s.dev.advance 0) (s.dev.advance 0).fiDisarm)) ∧
     (∀ d : Dev, d.fi.held = [] → d.fiDisarm = d.setB aFiStatus 0 false) ∧
     (∀ (d : Dev) h hs, d.fi.held = h :: hs → d.fiDisarm =
       forEach (h :: hs) (fun h d => d.fiFree h) { d.setB aFiStatus 0 false with fi := { d.fi with held := [] } }) ∧
     (∀ t, s.dev.power = .on →
       let d := s.dev.advance t
       Ends (.fiHeldRelease t) s (Dev.keep d
         (forEach (d.fi.held.filter fun h => decide (h.since + 1000000 ≤ d.now)) (fun h d => d.fiFree h)
           { d with fi := { d.fi with held := d.fi.held.filter fun h => decide (d.now < h.since + 1000000) } }))))

/-! ### Personality, power cap and the manager's definitions (R30, R31, R35, R37 to R39, R44, R70, R219, R256, R287, R298) -/

/-- R31, R69: PERS_SET of a change that R31 has and that R44 and R45 admit completes with OK outside a transition, SERVICE only where R30
allows it: the change begins, and COMMAND_DONE is still to tell its end (R53). A change to DRIVE takes its first steps. Before any other
change, what must be closed for it closes (R437, R446); out of PARK, except to SLEEP, power and clocks come back; then the transition from
the personality in force to the target is in progress from the present device time on; and out of LEASE the tenants are given notice, which
completes step 1 of the hand-over. PWR_CAP_SET of 120 to 280 W, not below what the wheel configuration held for DRIVE draws, completes with
OK: it is the cap of DRIVE from then on, and PWR_CTRL.CAP holds it where DRIVE is in force; nothing else changes. -/
def Obligations.PersonalityAndCapAreSet : Prop :=
  ∀ (s : State) (m : Mbx),
    (∀ p : Pers, Accepted s.dev m 1 pagesM → m.req 1 = BitVec.ofNat 32 p.code → s.dev.trans = none → requestable s.dev.pers p = true →
      (p = .service → s.dev.serviceAllowed = true) → (∀ x ∈ s.dev.persChecks p, x.1 = false) →
      let d := (s.dev.asked m 0x0802).begin m 0x0802 0 0 false
      let src := s.dev.pers
      let t0 := (s.dev.advance m.t).now
      (p = .drive → AnswersOk (.persSet m) s m (d.toDrive src []) []) ∧
      (p ≠ .drive → src ≠ .lease →
        let e := if src = .park ∧ p ≠ .sleep then (d.preTrans p).leavePark else d.preTrans p
        AnswersOk (.persSet m) s m { e with trans := some { src, dst := p, t0 } } []) ∧
      (p ≠ .drive → src = .lease →
        let e : Dev := { d.preTrans p with trans := some { src, dst := p, t0 } }
        AnswersOk (.persSet m) s m (e.noticeAll.stepDone 1).advanceTrans [])) ∧
    (∀ w : Nat, Accepted s.dev m 1 pagesM → m.req 1 = BitVec.ofNat 32 w → 120 ≤ w → w ≤ 280 →
      (∀ c, s.dev.wheels.look 0 = some c → Config.wheelPower c.slots ≤ w) →
      let d : Dev := { s.dev.asked m 0x0803 with driveCap := w }
      (s.dev.pers ≠ .drive → AnswersOk (.pwrCapSet m) s m d []) ∧
      (s.dev.pers = .drive → AnswersOk (.pwrCapSet m) s m (d.setF aPwrCtrl 8 0 w) [] ∧ (d.setF aPwrCtrl 8 0 w).getF aPwrCtrl 8 0 = w))

/-- R70, R374 to R376, R384: MGR_INST_CREATE outside a transition, of a free binding, in a partition with room and with the frame rings
of a cluster's ports in it: the lowest free instance
from 1 on is CREATED with the values asked for, a heartbeat period of 100 ms and a command length of 1,000 µs where 0 was asked, and the
response names it. -/
def Obligations.InstancesAreCreated : Prop :=
  ∀ (s : State) (m : Mbx) (n kind idx pt quota qs cs mask hb len : Nat) (p : Partition),
    Accepted s.dev m 7 pagesM → kind < 4 → idx < 64 → pt < 16 → quota < 2 ^ 32 → mask < 2 ^ 32 →
    m.req 1 = BitVec.ofNat 32 (kind * 16384 + idx * 256 + pt) → m.req 2 = BitVec.ofNat 32 quota → m.req 3 = BitVec.ofNat 32 qs →
    m.req 4 = BitVec.ofNat 32 cs → m.req 5 = BitVec.ofNat 32 mask → m.req 6 = BitVec.ofNat 32 hb → m.req 7 = BitVec.ofNat 32 len →
    1 ≤ qs → qs ≤ 4096 → 1 ≤ cs → cs ≤ 65536 → (hb = 0 ∨ (10 ≤ hb ∧ hb ≤ 10000)) → (len = 0 ∨ (50 ≤ len ∧ len ≤ 20000)) →
    s.dev.part pt = some p → (∀ g ∈ maskBits mask 32, (s.dev.eg? g).map (·.pt) = some pt) →
    (kind ≠ 0 → quota * 2 ^ 20 + 0x1000000 ≤ 2 ^ 30 * 2 ^ (s.dev.boot.bar2.getD (kind - 1) 0)) → s.dev.trans = none →
    s.dev.freeInst = some n → (∀ c ∈ s.dev.bindChecks kind idx pt none, c.1 = false) → (p.kind = .lease → s.dev.pers = .lease) →
    s.dev.promised pt + quota * 2 ^ 20 + 0x1000000 ≤ p.bytes → (kind = 0 → ((s.dev.ringsOf idx).all (s.dev.unitsFree pt)) = true ∧
      (s.dev.ringsOf idx).foldl (fun n r => n + r.2 * 65536) 0 ≤ quota * 2 ^ 20) →
    let d := s.dev.asked m 0x0901
    let i : Inst := { worldO := p.worldO, pt, bindKind := kind, bindIdx := idx, quotaMiB := quota, qQuota := qs, ctxQuota := cs,
                      egMask := mask, cmdlen := if len = 0 then 1000 else len }
    let e := d.createInst n i (if hb = 0 then 100 else hb)
    AnswersOk (.mgrInstCreate m) s m e.setupDone [BitVec.ofNat 32 n] ∧ (e.page n).state = .created ∧
      (kind ≠ 0 → e.inst n = i ∧ (e.page n).hbPeriodMs = (if hb = 0 then 100 else hb) ∧ (∀ g j, g = 0x40 + n ∨ g = 0x80 + n → j < 4096 →
        e.cnt g j = {}))

/-- R37, R38, R70, R287: MGR_PART_DEFINE of ranges that R38 permits: the partition exists, and every granule of its ranges reads as the
partition's, held by no instance. R39, R70, R219: MGR_EG_DEFINE. R44, R70: MGR_WHEEL_SET. R298: MGR_BW_SET. A boot to
DRIVE that is in progress then goes on with what is now defined (R426).

R70, R256, R257: MGR_PAIR_SET of a pair that is at rest and that R70 lets the manager move. A pair that is as asked is done at once;
else its pairing or its splitting begins, and COMMAND_DONE waits for its end. -/
def Obligations.ManagerDefinesTheDevice : Prop :=
  (∀ (s : State) (m : Mbx),
     (∀ (pt : Nat) (w : Bool) (k : PartKind) (n : Nat),
       let a := addrOf (m.req 2) (m.req 3)
       let rs := s.dev.rangesAt a n
       Accepted s.dev m 4 pagesM → pt < 16 → m.req 1 = BitVec.ofNat 32 (b2n w * 128 + k.code * 16 + pt) → m.req 4 = BitVec.ofNat 32 n →
       1 ≤ n → n ≤ 8 → worldFits k w = true → (s.dev.inst 0).owns a (16 * n) = true → rs.all s.dev.rangeOk = true →
       s.dev.partUsed pt = false → s.dev.rangesOverlap pt rs = false → s.dev.grantsRanges pt k rs = false → (s.dev.setMaster (32 + pt) pt).overcommit [] = false →
       ∃ e : Dev, AnswersOk (.mgrPartDefine m) s m e.setupDone [] ∧ e.part pt = some { worldO := w, kind := k, ranges := rs } ∧
         (∀ j, j ≠ pt → e.part j = s.dev.part j) ∧
         (∀ r ∈ rs, ∀ g ∈ rangeGranules r, ∀ k ∈ ownKeys g, e.own.lookD k 0 = mkOwn true false pt false 0) ∧ (∀ x, e.rd8 x = s.dev.rd8 x)) ∧
     (∀ (g : Nat) (x : EngineGroup), g < 32 → x.pt < 16 → x.engines < 2 ^ 64 → x.spares < 2 ^ 32 →
       x = { pt := x.pt, twin := x.twin, engines := x.engines, spares := x.spares,
             gfx := !x.twin && decide (x.engines = 0) && decide (x.spares = 0) } →
       Accepted s.dev m 4 pagesM → m.req 1 = BitVec.ofNat 32 (b2n x.twin * 65536 + x.pt * 256 + g) →
       m.req 2 = BitVec.ofNat 32 x.engines → m.req 3 = BitVec.ofNat 32 (x.engines / 2 ^ 32) → m.req 4 = BitVec.ofNat 32 x.spares →
       (∀ c ∈ s.dev.egChecks g x, c.1 = false) →
       AnswersOk (.mgrEgDefine m) s m ((s.dev.asked m 0x0907).defineEg g x).setupDone []) ∧
     (∀ p : Pers,
       let a := addrOf (m.req 2) (m.req 3)
       let c := s.dev.wheelAt a
       Accepted s.dev m 3 pagesM → m.req 1 = BitVec.ofNat 32 p.code → (s.dev.inst 0).owns a 12 = true →
       (s.dev.inst 0).owns a (12 + 16 * c.slots.length) = true → (∀ x ∈ s.dev.wheelChecks p c, x.1 = false) →
       let d := s.dev.asked m 0x0908
       let e : Dev := { d with wheels := d.wheels.put p.code c }
       (p ≠ s.dev.pers → AnswersOk (.mgrWheelSet m) s m e.setupDone []) ∧
       (p = s.dev.pers → AnswersOk (.mgrWheelSet m) s m e.loadPers.setupDone [])) ∧
     (∀ prof : Nat,
       let a := addrOf (m.req 2) (m.req 3)
       let rs : List Nat := (s.dev.rdWords a 16).map (·.toNat)
       Accepted s.dev m 3 pagesM → prof < 8 → m.req 1 = BitVec.ofNat 32 prof → (s.dev.inst 0).owns a 64 = true →
       (∀ pt, pt < 16 → rs.getD pt 0 ≠ 0 → (s.dev.part pt).isSome = true) →
       (s.dev.setBudgets prof rs).overcommit [prof] = false →
       let d := s.dev.asked m 0x0909
       let e := d.setBudgets prof rs
       (prof ≠ s.dev.profile → AnswersOk (.mgrBwSet m) s m e.setupDone []) ∧
       (prof = s.dev.profile → AnswersOk (.mgrBwSet m) s m (e.reCut d).setupDone []))) ∧
  (∀ (s : State) (m : Mbx) (p : Nat) (join : Bool), Accepted s.dev m 1 pagesM → p < 32 →
     m.req 1 = BitVec.ofNat 32 (b2n join * 256 + p) → (s.dev.pairState p = 0 ∨ s.dev.pairState p = 2) →
     (join = true → s.dev.untwinnedPair p = false) → (join = false → s.dev.pairGroup p = none) →
     (s.dev.pairState p = (if join then 2 else 0) →
       AnswersOk (.mgrPairSet m) s m ((s.dev.asked m 0x090A).begin m 0x090A p) []) ∧
     (s.dev.pairState p ≠ (if join then 2 else 0) →
       let d := (s.dev.asked m 0x090A).begin m 0x090A p 0 false
       let d := d.setPairSt p { d.pairSt p with asked := true }
       AnswersOk (.mgrPairSet m) s m (if join then d.beginJoin p else d.beginSplit p).settle []))

/-- The opcodes of the tables of R63 to R71. -/
def sciOpcodes : List Nat :=
  [0x0101, 0x0102, 0x0103, 0x0104, 0x0201, 0x0202, 0x0301, 0x0302, 0x0303, 0x0304, 0x0305, 0x0306, 0x0401, 0x0402, 0x0403, 0x0404,
   0x0405, 0x0501, 0x0502, 0x0503, 0x0504, 0x0601, 0x0602, 0x0603, 0x0701, 0x0702, 0x0801, 0x0802, 0x0803, 0x0901, 0x0902, 0x0903,
   0x0904, 0x0905, 0x0906, 0x0907, 0x0908, 0x0909, 0x090A, 0x0A01, 0x0A02, 0x0A03, 0x0A04]

/-- R49, R50: a response shows STATUS, TAG and its words with VALID set and GO clear, raises the mailbox interrupt, and changes
nothing else: no other page, no other part of this page, no other kind of state.

R54: a command that ends with another status than OK changes nothing: the device after the request is the one in which its
words were laid out. The status is the first of R54's table whose condition holds.

R53, R54, R69: a request whose opcode no command has answers E_OPCODE; nothing but the page's mailbox, its interrupt and the event of
the response changes. -/
def Obligations.ResponsesAndRefusals : Prop :=
  (∀ (d : Dev) (k : Nat) (tag : Byte) (st : Status) (ws : List Word), ws.length < 16 →
     ((postRsp d k tag st ws).page k).Answered tag st ws ∧
     pageIrq k 0 ∈ (postRsp d k tag st ws).irqs ∧ (∀ i ∈ d.irqs, i ∈ (postRsp d k tag st ws).irqs) ∧
     (∀ j, j ≠ k → (postRsp d k tag st ws).page j = d.page j) ∧
     Page.SameButMbx (d.page k) ((postRsp d k tag st ws).page k) ∧
     Dev.Frame d (postRsp d k tag st ws) [.pages, .interrupts] fun _ => False) ∧
  (∀ (m : Mbx) (nwords : Nat) (ps : PageSet) (kind : Bool × Bool × Bool) (checks : Dev → List (Bool × Status)) (effect : Dev → SciOut)
     (d : Dev) (st : Status),
     ((m.words.length ≠ nwords ∧ st = .eLength) ∨ (m.rsv ≠ 0 ∧ st = .eParam) ∨ (ps.has d m.page = false ∧ st = .eDenied) ∨
       stateStatus m.page (d.page (pgKey m.page)).state kind.1 kind.2.1 kind.2.2 = some st ∨ (true, st) ∈ checks d) →
     ∃ r, sciRun m nwords ps kind checks effect d = { status := r, dev := d } ∧ r.code ≤ st.code) ∧
  (∀ (s : State) (m : Mbx) (op : Half), s.dev.MbxReady (pgKey m.page) → op.toNat ∉ sciOpcodes →
     ∃ e, Ends (.undefinedOpcode m op) s e ∧ (e.page (pgKey m.page)).Answered m.tag .eOpcode [] ∧
       Page.SameButMbx (s.dev.page (pgKey m.page)) (e.page (pgKey m.page)) ∧
       (∀ j, j ≠ pgKey m.page → e.page j = s.dev.page j) ∧ Dev.Frame s.dev e [.pages, .interrupts] fun _ => False)

/-! ### The registers of a page (R48, R50, R53, R58, R61, R62, R392, R393, R474) -/

/-- R50, R62, R58, R61: a page that is not FREE. MBX_RSP_ACK bit 0 clears VALID. EVT_RD takes a value that leaves at most 32 records
unread, and another one only records MBX_PROTO with ARG 3. At the end of a heartbeat period of an ACTIVE page a new HEARTBEAT value
clears HB_MISSED, a first or second miss counts and records HB_LATE, and a third makes the instance ORPHANED. FW_HEARTBEAT counts on.

R392, R393: the dirty log of an instance. A valid enable starts logging in bitmap 0, an invalid one sets CFG_ERR, and one while
logging runs changes nothing. A swap makes the other bitmap active and SWAP_BUSY reads 1 until it is done, when GEN counts it; a write
of 0 ends logging. -/
def Obligations.PagesAndDirtyLogs : Prop :=
  (∀ (s : State) (pg : Pg) (v : Word), s.dev.power = .on → s.dev.pageLive (pgKey pg) = true →
     let k := pgKey pg
     let p := s.dev.page k
     (v.bit 0 = true → Ends (.mbxRspAck pg v) s (Dev.keep (s.dev.advance 0) ((s.dev.advance 0).setPage k { p with valid := false }))) ∧
     ((p.evWr + 65536 - v.fld 15 0) % 65536 ≤ 32 →
       Ends (.evtRdWrite pg v) s (Dev.keep (s.dev.advance 0) ((s.dev.advance 0).setPage k { p with evRd := v.fld 15 0 }))) ∧
     (32 < (p.evWr + 65536 - v.fld 15 0) % 65536 →
       Ends (.evtRdWrite pg v) s (Dev.keep (s.dev.advance 0) ((s.dev.advance 0).post k 11 3 0))) ∧
     (∀ t, let d := s.dev.advance t
       p.state = .active → s.dev.cpaLost = none → p.tOpen + (p.hbPeriods + 1) * p.hbPeriodMs * 1000000 ≤ d.now →
       (p.hbWrote = true → Ends (.heartbeatPeriodEnd pg t) s
         (Dev.keep d (d.setPage k { p with hbPeriods := p.hbPeriods + 1, hbWrote := false, hbMissed := 0, hbSeen := p.heartbeat }))) ∧
       (p.hbWrote = false → p.hbMissed < 2 → Ends (.heartbeatPeriodEnd pg t) s
         (Dev.keep d ((d.setPage k { p with hbPeriods := p.hbPeriods + 1, hbWrote := false, hbMissed := p.hbMissed + 1 }).post k 8 (p.hbMissed + 1) 0))) ∧
       (p.hbWrote = false → p.hbMissed = 2 → ∃ e, Ends (.heartbeatPeriodEnd pg t) s (Dev.keep d e) ∧
         (e.page k).hbMissed = 3 ∧ (k = 64 → (e.page k).state = .orphaned) ∧
         (∀ n, pg = .inst n → ∃ f : Dev, e = (f.setState k .orphaned).settle ∧ f.serving.look k = none))) ∧
     (∀ t, s.dev.cpaLost = none → ∃ e, Ends (.fwHeartbeat t) s (Dev.keep (s.dev.advance t) e) ∧
       (e.page k).fwHeartbeat = p.fwHeartbeat + 1 ∧ (∀ j, (s.dev.page j).state = .free → e.page j = s.dev.page j) ∧
       Dev.Frame (s.dev.advance t) e [.pages] fun _ => False)) ∧
  (∀ (s : State) (inst : Fin 64) (v : Word), s.dev.power = .on → (s.dev.page inst.val).state ≠ .free →
     let n := inst.val
     let l := (s.dev.page n).dl
     let d := s.dev.advance 0
     (v.bit 0 = true → l.en = false → s.dev.dlOk n l = true →
       Ends (.dlEnable inst v) s (Dev.keep d (d.setDl n { l with en := true, active1 := false }))) ∧
     (v.bit 0 = true → l.en = false → s.dev.dlOk n l = false → Ends (.dlEnable inst v) s (Dev.keep d (d.setDl n { l with cfgErr := true }))) ∧
     (v.bit 0 = true → l.en = true → Ends (.dlEnable inst v) s (Dev.keep d d)) ∧
     (v.bit 0 = false → ∃ e, Ends (.dlEnable inst v) s (Dev.keep d e) ∧ (e.page n).dl = { l with en := false, swapBusy := false } ∧
       (∀ j, j ≠ n → e.page j = s.dev.page j)) ∧
     (l.en = true → l.swapBusy = false →
       Ends (.dlSwap inst) s (Dev.keep d (d.setDl n { l with active1 := !l.active1, swapBusy := true }))) ∧
     (l.en = false ∨ l.swapBusy = true → Ends (.dlSwap inst) s (Dev.keep d d)) ∧
     (l.swapBusy = true → Ends (.dlSwapDone inst) s
       (Dev.keep d ((d.setDl n { l with swapBusy := false, gen := (l.gen + 1) % 65536 }).countHost n 6))))

/-- R71, R475: CNT_SNAPSHOT of a group that the page may capture: the page's block holds the group, the device time, and the value and
OVF of every entry; no counter changes where the group has no count that the spec leaves open. R476: SNAP_CLEAR of an entry of a plain
counter takes the captured value from the live one, once.

R474, R483: a read of the low word of device time, in the page of an instance or at CNT_TIME, answers the low word and latches the
high word of the same time for the master that read it, and for no other. -/
def Obligations.SnapshotsAndTime : Prop :=
  ((∀ (s : State) (m : Mbx) (g size : Nat),
     let k := pgKey m.page
     let d := (s.dev.asked m 0x0A01).openCounts (pgInst m.page) g
     Accepted s.dev m 1 pagesIM → m.req 1 = BitVec.ofNat 32 g → g < 256 → groupSize g = some size → mayCapture k g = true →
     ∃ e, AnswersOk (.cntSnapshot m) s m e [] ∧ (e.page k).snap.valid = true ∧ (e.page k).snap.group = g ∧
       (e.page k).snap.time = e.now ∧ (e.page k).snap.cleared = [] ∧ (e.page k).snap.entries.length = size ∧
       (∀ i, i < size → (e.page k).snap.entries[i]? =
         some ((d.cnt (groupKey (pgInst m.page) g) i).val, (d.cnt (groupKey (pgInst m.page) g) i).ovf)) ∧
       e.cnts = d.cnts ∧ (g ≠ 0x0A → g ≠ 3 → g ≠ 2 → d = s.dev.asked m 0x0A01)) ∧
   (∀ (s : State) (pg : Pg) (v : Word) (val : Nat),
     let k := pgKey pg
     let p := s.dev.page k
     let i := v.fld 11 0
     let key := groupKey (pgInst pg) p.snap.group
     s.dev.power = .on → s.dev.pageLive k = true → v.bit 12 = false → p.snap.valid = true → p.snap.entries[i]? = some (val, false) →
     i ∉ p.snap.cleared → mayClear k p.snap.group = true → isMax p.snap.group i = false →
     ∃ e, Ends (.snapClear pg v) s (Dev.keep (s.dev.advance 0) e) ∧
       e.cnt key i = { s.dev.cnt key i with val := (s.dev.cnt key i).val - val } ∧
       i ∈ (e.page k).snap.cleared ∧ Dev.Frame (s.dev.advance 0) e [.pages, .counters] fun _ => False)) ∧
  (∀ (s : State) (m : Master) (a slot : Nat), s.dev.power = .on →
     ((a = aCntTimeLo ∧ slot = 0) ∨ (∃ k, k ≤ 64 ∧ s.dev.pageLive k = true ∧ a = 0x7E00000000 + k * 65536 + 0xA020 ∧ slot = k + 1)) →
     let d := s.dev.advance 0
     ∃ e, Ends (.timeLoRead a m) s (Dev.keep d e) ∧ e.lastAcc = .read (leBytes 4 d.now) ∧
       Tab.look e.latches (latchKey slot (latchMaster m)) = some (d.now / 2 ^ 32) ∧
       (∀ j m', j ≤ 71 → (j ≠ slot ∨ latchMaster m' ≠ latchMaster m) →
         Tab.look e.latches (latchKey j (latchMaster m')) = Tab.look s.dev.latches (latchKey j (latchMaster m'))) ∧
       Dev.Frame d e [.latches, .accesses] fun _ => False)

/-! ### Commands of queues: taking, running, pressing (R76, R79, R81 to R91, R98, R124 to R126, R134, R184, R208, R293, R315) -/

/-- R53: COMMAND_DONE of a command that is ready, while Sebry runs: the command leaves the list, and event 4 with its opcode, its tag and
its final status is recorded on its page.

R76, R79, R83: the next descriptor of a ring is taken where the queue may take: HEAD counts it, and a valid one joins the window
with its SEQ, its regions and its parameters as memory held them. An invalid one leaves a completion record with E_PARAM, and its queue
halts with event 6, FAULT 1. -/
def Obligations.DescriptorsAreTakenAndDone : Prop :=
  (∀ (s : State) (pg : Pg) (tag : Byte) (t : Nat) (x : DoneCmd), s.dev.power = .on → s.dev.cpaLost = none →
     s.dev.done.find? (fun y => decide (y.page = pgKey pg) && decide (y.tag = tag)) = some x → x.ready = true →
     let d := s.dev.advance t
     Ends (.commandDone pg tag t) s
       (Dev.keep d (({ d with done := d.done.erase x } : Dev).post (pgKey pg) 4 x.opcode (tag.toNat * 65536 + x.status)))) ∧
  (∀ (s : State) (q : QId) (t : Nat) (x : Queue), s.dev.power = .on → s.dev.queue? q.val = some x → x.graph = none → x.head ≠ x.tail →
     s.dev.mayTake q.val = true →
     let d := s.dev.advance t
     let r := d.copyDesc x.head (d.rdWords (x.entry x.head) 16)
     let x' := { x with head := (x.head + 1) % 2 ^ 32, window := x.window ++ [r.1] }
     r.1.seq = x.head ∧ r.1.stage = .taken ∧ r.1.locked = false ∧
     (d.descValid q.val r.1 r.2 = true → Ends (.descriptorTake q t) s (Dev.keep d (d.setQueue q.val x'))) ∧
     (d.descValid q.val r.1 r.2 = false →
       ∃ e, Ends (.descriptorTake q t) s (Dev.keep d e) ∧ e = (d.setQueue q.val x').refuseCmd q.val r.1 .eParam 1 ∧
         (∃ y, e.queue? q.val = some y ∧ y.halted = true ∧ y.head = (x.head + 1) % 2 ^ 32)))

/-- The rows of the commands that engines, sort units and copy units run, by their operation. -/
def classRows : List (Nat × (QId → Word → Nat → Instr)) :=
  [(0x0101, .matmul), (0x0102, .matmulAdd), (0x0201, .convChain), (0x0202, .topk), (0x0203, .nms), (0x0204, .unfold),
   (0x0301, .kvAppend), (0x0302, .attention), (0x0303, .kvTruncate), (0x0304, .ringAllreduce),
   (0x0401, .softmax), (0x0402, .rmsnorm), (0x0403, .layernorm), (0x0404, .activation), (0x0405, .rotate), (0x0406, .quantise),
   (0x0407, .dwconv), (0x0408, .pool), (0x0409, .adamw), (0x0501, .copy), (0x10002, .kernel)]

/-- R87 step 1: the row of a dispatched command whose run nothing holds or stops completes: the command has its operation's effect, a
twinned run closes the records of its output (R245), and it is FINISHED at the present time. So does each of the operations MATMUL,
MATMUL_ADD, CONV_CHAIN, TOPK, NMS, UNFOLD, KV_APPEND, ATTENTION, KV_TRUNCATE, RING_ALLREDUCE, the nine operations of class 0x04, COPY and
KERNEL. A RENDER job does the same, and its counts of partial renders are free values.

R85, R91, R293, R405: what stops a run. An access that the command may not make tears its context down with FAULT 4, and poisoned
input with FAULT 5; data that a silent die holds, or a transfer whose links are DOWN (R18), kills the command for a re-run. -/
def Obligations.ClassCommandsRun : Prop :=
  (∀ (s : State) (q : QId) (seq : Word) (t : Nat) (c : Cmd), s.dev.power = .on → s.dev.cmd? q.val seq.toNat = some c →
     c.stage = .dispatched → c.suspended = none → (c.isSort = true → c.sortDie.isSome = true) →
     let d := s.dev.advance t
     (∀ row, (c.op, row) ∈ classRows → d.Runs q.val c →
       Ends (row q seq t) s (Dev.keep d ((Dev.closeStreams d (d.compute q.val c) q.val c).finish q.val c).settle)) ∧
     (c.op = 0x10001 → d.partialRenders.Runs q.val c →
       let e := d.partialRenders
       Ends (.render q seq t) s (Dev.keep d ((Dev.closeStreams e (e.compute q.val c) q.val c).finish q.val c).settle))) ∧
  (∀ (s : State) (q : QId) (seq : Word) (t : Nat) (c : Cmd) (row : QId → Word → Nat → Instr), s.dev.power = .on →
     s.dev.cmd? q.val seq.toNat = some c → (c.op, row) ∈ classRows → c.stage = .dispatched → c.suspended = none →
     (c.isSort = true → c.sortDie.isSome = true) →
     let d := s.dev.advance t
     let quiet := d.linksLost c || (d.touched q.val c false ++ d.touched q.val c true).any fun r => d.quietAt r.base r.len
     d.linksHeld c = false →
     (quiet = true → Ends (row q seq t) s (Dev.keep d (d.killFault q.val c.seq .link).settle)) ∧
     (∀ a, quiet = false → d.refusedBy q.val c = some a → Ends (row q seq t) s (Dev.keep d (d.tearAccess q.val c a false).settle)) ∧
     (quiet = false → d.refusedBy q.val c = none → ((d.touched q.val c false).any fun r => d.poisoned r.base r.len) = true →
       Ends (row q seq t) s (Dev.keep d (d.tearPoison q.val).settle)))

/-- R227: a context that is torn down is torn, its queues are halted with nothing in their windows, and nothing waits to be fed to
them; the queues of other contexts keep their commands and run on. -/
def Obligations.TeardownHaltsTheContext : Prop :=
  ∀ (d : Dev) (c code : Nat) (x : Ctx), d.ctx? c = some x → x.torn = false → (d.queues.map (·.1)).Nodup →
    (∃ y, (d.teardown c code).ctx? c = some y ∧ y.torn = true) ∧
    (∀ q y, (d.teardown c code).queue? q = some y → y.ctx = c → y.halted = true ∧ y.window = [] ∧ y.feed = []) ∧
    (∀ q y, (d.teardown c code).queue? q = some y → y.ctx ≠ c → ∃ z, d.queue? q = some z ∧ z.window = y.window ∧ z.halted = y.halted)

/-- R315: COPY moves each of its rows. Where no dirty log runs and no two rows of the destination meet, a byte of row r reads as the source's byte did, and every byte outside the destination's rows reads as before. -/
def Obligations.CopyMovesRows : Prop :=
  ∀ (d : Dev) (c : Cmd), d.loggers = [] →
    let n := (c.p 1).fld 19 0
    let len := (c.p 2).fld 23 0
    let src (r : Nat) := (c.region 0).base + r * (c.p 3).toNat
    let dst (r : Nat) := (c.region 1).base + r * (c.p 4).toNat
    (∀ r k, r < n → k < n → r ≠ k → dst r + len ≤ dst k ∨ dst k + len ≤ dst r) →
    (∀ r i, r < n → i < len → (d.phys (dst r + i)).isSome = true → (d.copyRun c).rd8 (dst r + i) = d.rd8 (src r + i)) ∧
    (∀ a, (∀ r, r < n → a < dst r ∨ dst r + len ≤ a) → (d.copyRun c).rd8 a = d.rd8 a) ∧
    Dev.Frame d (d.copyRun c) [.memory, .residency] cbRegs

/-- R124 to R126, R134: in each floating-point format a code that is not a NaN decodes to a value that every rounding mode converts back
to the code, whatever the stochastic draw; a NaN becomes the canonical one, and no clip is marked. -/
def Obligations.FormatsRoundTrip : Prop :=
  ∀ f ∈ [fp32, bf16, fp16, e4m3, e5m2, e3m2, e2m3, e2m1], ∀ code mode draw : Nat, code < 2 ^ (f.sbit + 1) → mode < 3 → draw < 65536 →
    (f.decode code ≠ .nan → f.encode (f.decode code) mode draw = (code, false)) ∧
    (f.decode code = .nan → f.encode (f.decode code) mode draw = (f.nanCode, false))

/-- R80, R81, R87: PRESS of a command that has finished, is first in its queue, whose records have agreed, and that the fit monitor lets
pass completes: its results are published, steps 4 to 8. NOP is pressed in its own row. Where the command held nothing back, signals no
fence, is of no graph and flips no layer, the queue is a host's, no dirty log runs, and the record's place is reachable in memory that
answers, the completion record reads SEQ, OK with the re-runs and the escalation, USER, the run time in µs, the device time and the age
stamp.

R86, R91, R184, R208: a command that has run 4 × CMDLEN without a press tears its context down with FAULT 6. A rank of a chain waits
while the flag of a row of another rank's stripe reads 0, and a flag of 1 ends the wait. A KV_APPEND that is taken comes to its dispatch in the pass. -/
def Obligations.CommandsPressAndWait : Prop :=
  (∀ (s : State) (q : QId) (seq : Word) (t : Nat) (x : Queue) (c : Cmd), s.dev.power = .on → s.dev.queue? q.val = some x →
     x.cmd? seq.toNat = some c → s.dev.isFirst q.val seq.toNat = true → c.agreed = true → c.step3 = none →
     let d := s.dev.advance t
     (c.stage = .finished → Ends (.press q seq t) s (Dev.keep d (d.publish q.val x c).settle)) ∧
     (c.stage = .finished → c.op = 0 → Ends (.nop q seq t) s (Dev.keep d (d.publish q.val x c).settle)) ∧
     (c.held = [] → c.fitHeld = [] → c.pages = [] → c.node = none → c.signal = false → c.op ≠ 0x10001 → x.graph = none → d.loggers = [] →
       d.linesUp (x.compl + c.seq % 2 ^ x.log2n * 32) 32 = true →
       (∀ i, i < 32 → (d.phys (x.compl + c.seq % 2 ^ x.log2n * 32 + i)).isSome = true) →
       (d.publish q.val x c).rdWords (x.compl + c.seq % 2 ^ x.log2n * 32) 8 =
         [BitVec.ofNat 32 c.seq, BitVec.ofNat 32 (min 255 c.reruns * 256 + c.esc % 4 * 64 + 1), c.w 1,
          BitVec.ofNat 32 (min ((c.finT - c.dispT) / 1000) (2 ^ 32 - 1)), BitVec.ofNat 32 d.now, BitVec.ofNat 32 (d.now / 2 ^ 32),
          BitVec.ofNat 32 c.ageStamp, BitVec.ofNat 32 (c.ageStamp / 2 ^ 32)])) ∧
  (∀ (s : State) (q : QId) (seq : Word) (t : Nat) (c : Cmd), s.dev.power = .on → s.dev.cmd? q.val seq.toNat = some c →
     let d := s.dev.advance t
     (∀ x, d.ctx? (d.ctxOfQ q.val) = some x → c.stage ≠ .taken → c.dispT + 4000 * x.cmdlen ≤ d.now →
       Ends (.overrunKill q seq t) s (Dev.keep d (d.teardown (d.ctxOfQ q.val) 6).settle)) ∧
     (∀ rank layer row, c.op = 0x0201 → c.stage = .dispatched → c.haloRow (d.ranksOf q.val c.engines).1 rank layer row = true →
       (d.haloFlag c (d.twinnedQ q.val) layer row = 0 → Ends (.haloFlagWait q seq rank layer row t) s
         (Dev.keep d (d.updCmd q.val seq.toNat fun c => { c with haloWait := insertNew c.haloWait (rank, layer, row) }))) ∧
       (d.haloFlag c (d.twinnedQ q.val) layer row ≠ 0 → Ends (.haloFlagWait q seq rank layer row t) s
         (Dev.keep d (d.updCmd q.val seq.toNat fun c => { c with haloWait := c.haloWait.filter (· ≠ (rank, layer, row)) })))) ∧
     (c.op = 0x0301 → c.stage = .taken → Ends (.kvReserveWait q seq t) s (Dev.keep d d.pass)))

/-! ### The wheel (R39 to R42, R269 to R271) -/

/-- R39: a swap that software asks for waits where the shadow bank is valid, and sets LOAD_ERR where it is not. R41, R42: at a boundary
the slot of the present time begins with its profile, kills what it does not grant, and starts its reference runs. R40: at the end of a
period a waiting swap puts the new bank in force at slot 0, with the epoch at the present time; without one the period begins again.
R269, R271: a reference run whose records have all passed passes where REF_A and REF_B over them, with the bits that a fault has changed in
them, are as expected, else it fails. -/
def Obligations.TheWheelTurns : Prop :=
  ∀ (s : State) (t : Nat), s.dev.power = .on →
    let d := s.dev.advance t
    (s.dev.getB aWhlCtrl 1 = false → s.dev.bankOk (1 - s.dev.whlBank) = true → ∃ e, Ends .wheelSwap s (Dev.keep (s.dev.advance 0) e) ∧
      e.getB aWhlCtrl 1 = true ∧ e.getB aWhlStatus 1 = true ∧
      Dev.Frame (s.dev.advance 0) e [.setup] fun a => a = aWhlCtrl ∨ a = aWhlStatus) ∧
    (s.dev.getB aWhlCtrl 1 = false → s.dev.bankOk (1 - s.dev.whlBank) = false → ∃ e, Ends .wheelSwap s (Dev.keep (s.dev.advance 0) e) ∧
      e.getB aWhlStatus 16 = true ∧ e.getB aWhlStatus 1 = s.dev.getB aWhlStatus 1 ∧
      Dev.Frame (s.dev.advance 0) e [] fun a => a = aWhlStatus) ∧
    (d.whlEn = true → d.slotNow ≠ d.whlSlot → Ends (.slotBoundary t) s (Dev.keep d (d.enterSlot d.slotNow))) ∧
    (d.whlEn = true → d.slotNow = d.whlSlot → Ends (.slotBoundary t) s (Dev.keep d d)) ∧
    (d.getB aWhlStatus 1 = true → d.swapAt ≤ d.now → d.newBoundary = true →
      Ends (.periodBoundary t) s (Dev.keep d d.swapBank)) ∧
    (d.getB aWhlStatus 1 = false → d.whlEn = true → 0 < d.whlNs d.whlBank → d.epoch + d.whlNs d.whlBank ≤ d.now →
      (d.now - d.epoch) % d.whlNs d.whlBank = 0 →
      Ends (.periodBoundary t) s (Dev.keep d ((d.setPair aWhlEpochLo aWhlEpochHi d.now).enterSlot 0))) ∧
    (∀ (pair : Fin 32) (h : Nat) (fa fb : Dword) (g : Graph) (r : RefBlock), d.graph? h = some g → g.ref = some r → d.refOf pair.val = some h →
      0 ∈ (d.pairSt pair.val).closed →
      (sigA ((d.pairSt pair.val).sigs.map (·.1)) ^^^ fa = r.expA ∧ sigB ((d.pairSt pair.val).sigs.map (·.2)) ^^^ fb = r.expB →
        Ends (.referenceRunResult pair h fa fb t) s (Dev.keep d (d.refPass pair.val h).restoreCheck.settle)) ∧
      (¬ (sigA ((d.pairSt pair.val).sigs.map (·.1)) ^^^ fa = r.expA ∧ sigB ((d.pairSt pair.val).sigs.map (·.2)) ^^^ fb = r.expB) →
        Ends (.referenceRunResult pair h fa fb t) s (Dev.keep d (d.refFail pair.val).settle)))

/-! ### Engines, vector cores, the key-value allocator, twins and error reporting (R119 to R123, R157 to R185, R216, R240 to R277) -/

/-- R121 to R123, R216, R262 to R267: the registers of engines and sort units. A kill re-runs the command that holds
the engine, running or finished, or that the sort unit runs. INVAL
empties the codebook RAM of an engine at rest. START runs the chunk that GX_KAT selects on engines at rest that have TEST set, both of a twinned pair, and by
Sebry only in the bounds of R264. The sweep's next chunk that passes moves the
sweep on; a first failure leaves the unit UNTESTED to repeat it, and a second disables the unit. A sweep not complete 20 ms after the
last withdraws the unit. A RAM error of an engine, or of the record RAM of its die's sort unit, sets its bit and is counted; one that ECC corrects does no more. -/
def Obligations.EnginesAreTested : Prop :=
  ∀ (s : State) (t : Nat), s.dev.power = .on →
    let d := s.dev.advance t
    (∀ (e : Fin 64) p, d.cmdOnEngine e.val = some p → p.2.stage ≠ .taken →
      Ends (.gxKill e t) s (Dev.keep d (d.killRerun p.1 p.2.seq .preempt).settle)) ∧
    (∀ (die : Fin 4) p, (d.allCmds.find? fun p => decide (p.2.sortDie = some die.val)) = some p → p.2.stage = .dispatched →
      Ends (.sortKill die t) s (Dev.keep d (d.killRerun p.1 p.2.seq .preempt).settle)) ∧
    (∀ e : Fin 64, s.dev.gxBusy e.val = false → ∃ x, Ends (.gxCbInval e) s (Dev.keep (s.dev.advance 0) x) ∧
      x.getB (aGxCbCtrl e.val) 1 = false ∧ (∀ r ∈ x.resid, r.1 ≠ 64 + e.val) ∧
      Dev.Frame (s.dev.advance 0) x [.residency] fun a => a = aGxCbCtrl e.val) ∧
    (∀ e : Fin 64, (∀ v ∈ s.dev.chunkUnits e.val, s.dev.gxBusy v = false ∧ s.dev.getB (aGxCtrl v) 1 = true) →
      ((s.dev.advance 0).testing = true → (s.dev.testSt e.val).subject = true → (s.dev.advance 0).mayStart e.val = true) →
      ∃ x, Ends (.gxKatStart e) s (Dev.keep (s.dev.advance 0) x) ∧
        (∀ v ∈ s.dev.chunkUnits e.val, x.getF (aGxStatus v) 7 4 = 7 ∧ x.getF (aGxKat v) 2 0 = 1 ∧ x.chunkNo v = s.dev.chunkNo e.val) ∧
        Dev.Frame (s.dev.advance 0) x [] fun a => ∃ v ∈ s.dev.chunkUnits e.val, a = aGxStatus v ∨ a = aGxKat v ∨
          ∃ i < 4, a = aVcStatus (4 * v + i)) ∧
    (∀ (u : TestUnit), s.dev.chunkRuns (unitOf u) = true → s.dev.chunkNo (unitOf u) = (s.dev.testSt (unitOf u)).next →
      (s.dev.testSt (unitOf u)).disabled = false →
      ((s.dev.testSt (unitOf u)).next + 1 < chunksOf (unitOf u) → ∃ x, Ends (.katChunkDone u true t) s (Dev.keep d x) ∧
        ∀ v ∈ s.dev.chunkUnits (unitOf u), (x.testSt v).next = (s.dev.testSt (unitOf u)).next + 1 ∧ (x.testSt v).retry = false) ∧
      ((s.dev.testSt (unitOf u)).retry = false → ∃ x, Ends (.katChunkDone u false t) s (Dev.keep d x) ∧
        x.untested (unitOf u) = true ∧ (x.testSt (unitOf u)).retry = true ∧
        (x.testSt (unitOf u)).next = (s.dev.testSt (unitOf u)).next) ∧
      ((s.dev.testSt (unitOf u)).retry = true → ∃ x : Dev, Ends (.katChunkDone u false t) s (Dev.keep d (x.disableUnit (unitOf u))) ∧
        Dev.Frame d x [.counters, .residency, .cores, .interrupts, .log] fun a => (∃ v ∈ s.dev.chunkUnits (unitOf u), a = aGxKat v ∨
          a = aGxStatus v ∨ a = aGxCbCtrl v ∨ ∃ i < 4, a = aVcStatus (4 * v + i)) ∨ a = aSortStatus (unitOf u - 64) ∨ cntRegs a)) ∧
    (∀ u, d.testing = true → (d.testSt (unitOf u)).subject = true → (d.testSt (unitOf u)).withdrawn = false →
      (d.testSt (unitOf u)).lastEnd + 20000000 ≤ d.now →
      Ends (.sweepDeadline u t) s (Dev.keep d ((d.setUntested (unitOf u) true).withdraw (unitOf u)).settle)) ∧
    (∀ (e : Fin 64) ram corr line, ram ≠ .record → ∃ x : Dev,
      Ends (.engineRamError e ram corr line t) s
        (Dev.keep d (if ram = .operand ∨ (corr = true ∧ ram ≠ .codebook) then x else x.engineUe e.val)) ∧
      x.getB (aGxErr e.val) (ramErr ram corr).2 = true ∧
      x.cnt 0x03 (16 * e.val + (ramErr ram corr).1) = (s.dev.cnt 0x03 (16 * e.val + (ramErr ram corr).1)).add 1 ∧
      Dev.Frame d x [.counters, .interrupts, .log] fun a => a = aGxErr e.val ∨ cntRegs a ∨
        (a = aGxErrAddr e.val ∧ (corr = false ∨ ram = .codebook))) ∧
    (∀ (e : Fin 64) line, ∃ x : Dev, Ends (.engineRamError e .record true line t) s (Dev.keep d x) ∧ x.getB (aSortErr (e.val / 16)) 0 = true ∧
      x.cnt 0x03 (1024 + 8 * (e.val / 16) + 3) = (s.dev.cnt 0x03 (1024 + 8 * (e.val / 16) + 3)).add 1 ∧
      Dev.Frame d x [.counters, .interrupts, .log] fun a => a = aSortErr (e.val / 16) ∨ cntRegs a) ∧
    (∀ (e : Fin 64) line, Ends (.engineRamError e .record false line t) s (Dev.keep d (d.sortRamError (e.val / 16) false line)))

/-- R164, R165, R158: what the instructions leave. VSEGSUM.VX in its integer form gives element j of its destination the sum modulo 2³²
of the active elements of segment j, and VHBFLY.VX the rounded sums and differences at distance h. No other scalar state of the core changes, and x0 reads 0. -/
def Obligations.VectorResults : Prop :=
  ∀ (c : VCore) (vd vs2 l n : Nat), c.lmul8 = 8 → c.vl ≤ 16 → vd < 32 → vs2 < 32 → vd ≠ vs2 →
    (∀ vm, isPow2 l = true → c.vl % l = 0 → ∀ j, j < c.vl / l →
      (c.vsegsum vd vs2 l vm true n).el vd 32 j =
        ((((List.range l).map (j * l + ·)).filter (c.active vm)).map fun i => c.el vs2 32 i).sum % 2 ^ 32) ∧
    (isPow2 l = true → c.vl % (2 * l) = 0 → ∀ i, i < c.vl →
      (c.vhbfly vd vs2 l n).el vd 32 i =
        if i % (2 * l) < l then fp32.rne ((c.fe vs2 i).add (c.fe vs2 (i + l))) else fp32.rne ((c.fe vs2 (i - l)).sub (c.fe vs2 i))) ∧
    (∀ vm int, (c.vsegsum vd vs2 l vm int n).x = c.x ∧ (c.vsegsum vd vs2 l vm int n).vtype = c.vtype ∧
      (c.vsegsum vd vs2 l vm int n).vl = c.vl ∧ (∀ r, r < 32 → r ≠ vd → (c.vsegsum vd vs2 l vm int n).vr r = c.vr r)) ∧
    (∀ w, (c.setX 0 w) = c ∧ (c.setX 0 w).xr 0 = 0)

/-- R157 to R168, R171: a Tolgesko vector instruction on a core that runs, whose form and operands R163 to R168 permit, retires: its
results are in the core and the pc is past it. One of a form that is not permitted traps with cause 2, and the command's context is torn
down with FAULT 4; what is checked on each core is the same.

R169, R171, R177, R178, R322: MSWAIT retires with the flag where it satisfies the condition and waits where it does not; the wait
retires when a later read satisfies it. A core's kernel ends with STATE 0. A trap while a core of either kind
runs is recorded and tears the command's context down, with FAULT 5 for poison; a corrected RAM error is counted, and it and a cache parity
error set their bits alone. A shader core does not implement MSWAIT. RST of a core at rest clears its registers. -/
def Obligations.CoresRun : Prop :=
  (∀ (s : State) (k : Fin 288) (i : VIns) (t : Nat), s.dev.power = .on → s.dev.coreRuns k.val = true →
     let d := s.dev.advance t
     let c := s.dev.core k.val
     let n := s.dev.freeCtr
     let retire (x : VCore) : Dev := { d.setCore k.val { x with pc := x.pc + 4 } with freeCtr := n + vecDraws }
     let l := (c.xr i.rs1.val).toNat
     (c.vecOk = true → i.funct3.val = 0 → i.rs1.val = 0 →
       Ends (.vrstat k i t) s (Dev.keep d (retire (c.vrstat i.vd.val i.vs2.val (vmN i) n)))) ∧
     (c.vecOk = true → i.funct3.val ≤ 1 → c.segOk i.vd.val i.vs2.val l = true →
       Ends (.vsegsum k i t) s (Dev.keep d (retire (c.vsegsum i.vd.val i.vs2.val l (vmN i) (decide (i.funct3.val = 1)) n)))) ∧
     (c.vecOk = true → i.funct3.val = 0 → i.vm = true → c.bflyOk i.vd.val i.vs2.val l = true →
       Ends (.vhbfly k i t) s (Dev.keep d (retire (c.vhbfly i.vd.val i.vs2.val l n)))) ∧
     (c.vecOk = true → i.funct3.val ≤ 5 → i.rs1.val = 0 →
       Ends (.vqscale k i t) s (Dev.keep d (retire (c.convert i.vd.val i.vs2.val (vmN i) (c.quant i.funct3.val) n)))) ∧
     (c.vecOk = true → i.funct3.val ≤ 2 → l % 256 = 0 → l < 0x10000 →
       Ends (.vcbnear k i t) s (Dev.keep d (retire
         (c.convert i.vd.val i.vs2.val (vmN i) (c.near i.funct3.val (c.bookAt l (if i.funct3.val = 0 then 256 else 16))) n)))) ∧
     (c.vecOk = false → ∀ row ∈ [Instr.vrstat, .vsegsum, .vhbfly, .vqscale, .vcbnear],
       Ends (row k i t) s (Dev.keep d (d.trapFault k.val 2 c.pc.toNat 4)))) ∧
  (∀ (s : State) (k : Fin 256) (t : Nat), s.dev.power = .on →
     let d := s.dev.advance t
     let c := s.dev.core k.val
     let x : Fin 288 := ⟨k.val, Nat.lt_trans k.isLt (by decide)⟩
     (∀ i : VIns, let a := (c.xr i.rs1.val).toNat
       let ref : Word := BitVec.ofNat 32 (c.xr i.vs2.val).toNat
       s.dev.coreRuns k.val = true → i.funct3.val = 7 → i.vm = true → s.dev.flagOk k.val a = true →
       (msOk (s.dev.rd32 a) ref = true → Ends (.mswait x i t) s (Dev.keep d (d.setCore k.val (c.msRetire i.vd.val (s.dev.rd32 a))))) ∧
       (msOk (s.dev.rd32 a) ref = false → Ends (.mswait x i t) s
         (Dev.keep d ((d.setCore k.val { c with wait := some (i.vd.val, a, ref) }).setF (aVcStatus k.val) 7 4 2)))) ∧
     (∀ rd a ref, c.wait = some (rd, a, ref) → msOk (s.dev.rd32 a) ref = true →
       Ends (.mswaitSatisfied x t) s (Dev.keep d ((d.setCore k.val (c.msRetire rd (s.dev.rd32 a))).setF (aVcStatus k.val) 7 4 1))) ∧
     (s.dev.getF (aVcStatus k.val) 7 4 = 1 → s.dev.cmdOnEngine (k.val / 4) = none →
       Ends (.kernelEnd k t) s (Dev.keep d (d.setF (aVcStatus k.val) 7 4 0))) ∧
     (∀ (y : Fin 288) cause pc,
       (s.dev.coreRuns y.val = true → Ends (.vcTrap y .exc cause pc t) s (Dev.keep d (d.trapFault y.val cause.val pc.toNat 4)) ∧
         Ends (.vcTrap y .poison cause pc t) s (Dev.keep d (d.trapFault y.val cause.val pc.toNat 5))) ∧
       Ends (.vcTrap y .lramUe cause pc t) s (Dev.keep d (d.lramUe y.val cause.val pc.toNat))) ∧
     (∀ (y : Fin 288) i, 256 ≤ y.val → s.dev.coreRuns y.val = true →
       Ends (.mswait y i t) s (Dev.keep d (d.trapFault y.val 2 (s.dev.core y.val).pc.toNat 4))) ∧
     (∀ cause pc, (∃ e, Ends (.vcTrap x .lramCe cause pc t) s (Dev.keep d e) ∧ e.getB (aVcErr k.val) 0 = true ∧
         Dev.Frame d e [.counters, .interrupts, .log] fun a => a = aVcErr k.val ∨ cntRegs a) ∧
       ∃ e, Ends (.vcTrap x .icParity cause pc t) s (Dev.keep d e) ∧ e.getB (aVcErr k.val) 2 = true ∧
         Dev.Frame d e [] fun a => a = aVcErr k.val) ∧
     (∀ code cause pc q, s.dev.cmdOnCore k.val = some q →
       ∃ e : Dev, d.trapFault k.val cause pc code = (e.teardown (e.ctxOfQ q.1) code).settle ∧
         e.getB (aVcErr k.val) 3 = true ∧ (e.core k.val).mepc = BitVec.ofNat 64 pc ∧ (e.core k.val).mcause = BitVec.ofNat 64 cause) ∧
     (s.dev.vcBusy k.val = false → ∃ e, Ends (.vcRst k) s (Dev.keep (s.dev.advance 0) e) ∧ e.core k.val = {} ∧
       e.getF (aVcStatus k.val) 7 4 = 0 ∧ (∀ j, j ≠ k.val → e.core j = s.dev.core j) ∧
       Dev.Frame (s.dev.advance 0) e [.cores] fun a => a = aVcStatus k.val))

/-- R184, R197: INIT makes every pool of a die invalid with no page on its stack. VALID puts the pages of an invalid pool on its stack,
page 0 to be taken first. An uncorrectable error of the allocator's state marks the pool, and the contexts of the graphs that own it are
torn down with FAULT 5, as those are whose taken commands name it. -/
def Obligations.KvPoolsAreKept : Prop :=
  ∀ (s : State) (die : Fin 4) (pool : Fin 32) (t : Nat), s.dev.power = .on →
    (∃ e, Ends (.kvInit die) s (Dev.keep (s.dev.advance 0) e) ∧ e.poolValid die.val pool.val = false ∧ e.stackOfPool die.val pool.val = [] ∧
      (∀ n q, n ≠ die.val → q < 32 → e.stackOfPool n q = s.dev.stackOfPool n q)) ∧
    (s.dev.poolValid die.val pool.val = false → ∃ e, Ends (.kvPoolValid die pool) s (Dev.keep (s.dev.advance 0) e) ∧
      e.poolValid die.val pool.val = true ∧ e.stackOfPool die.val pool.val = List.range (s.dev.poolCount die.val pool.val)) ∧
    (∀ page freeList, ∃ e : Dev, Ends (.kvStateError die pool page freeList t) s
        (Dev.keep (s.dev.advance t) (forEach (e.poolCtxs die.val pool.val) (fun c d => d.teardown c 5) e).settle) ∧
      e.getB (aKvErr die.val) (if freeList then 2 else 1) = true ∧ e.getB (aKvPoolCfg die.val pool.val) 6 = true ∧
      e.reg (aKvErrPage die.val) = BitVec.ofNat 32 (pool.val * 2 ^ 18 + page % 2 ^ 18))

/-- R248: the table of verdicts on a record, whole, and a difference in the number of records. R246: equal doublewords give equal
signatures, and SIG_B tells any single doubleword that differs. R245: a stream closes a record after every 64 writes and one at its end,
which says how many there are.

R249, R251, R258: a finding quarantines the pair with its cause, reports it, and a checker fault or a second quarantine within one
hour keeps it so. Its delay buffer is empty, and a sweep of both engines begins anew. Only its own status and error registers change, with the counters and the report. -/
def Obligations.FindingsQuarantine : Prop :=
  ((∀ (r : TwinRecord) (l t : List Dword),
     let a := recEqA r l t
     let b := recEqB r l t
     let v := recVerdict r l t
     (v = .pass ↔ r.entry ≠ .bad ∧ a = true ∧ b = true ∧ r.differ = false) ∧
     (v = .mismatch ↔ r.entry ≠ .bad ∧ ((a = false ∧ b = false) ∨ (a = true ∧ b = true ∧ r.differ = true))) ∧
     (v = .disagree ↔ r.entry ≠ .bad ∧ a ≠ b) ∧ (v = .dbUe ↔ r.entry = .bad) ∧
     (r.cmpAOk = true → (a = true ↔ sigA l = sigA t)) ∧ (r.cmpBOk = true → (b = true ↔ sigB l = sigB t)) ∧
     (r.cmpAOk = false → (a = true ↔ sigA l ≠ sigA t)) ∧ (r.cmpBOk = false → (b = true ↔ sigB l ≠ sigB t))) ∧
   (∀ l : List Dword, ∀ x y : Dword, sigB (x :: l) = sigB (y :: l) → x = y) ∧
   (∀ (l : List Dword) (x : Dword), sigB (l ++ [x]) = sigB l + BitVec.ofNat 64 (l.length + 1) * x) ∧
   ∀ (ws : List (List Dword)) (tail : List Dword), (∀ w ∈ ws, w.length = 10) →
     let rs := closeRecords ws tail
     rs.length = ws.length / 64 + 1 ∧ (∀ i < ws.length / 64, ((rs[i]?).map List.length) = some 640) ∧
     rs.flatten = ws.flatten ++ tail ++ [BitVec.ofNat 64 rs.length]) ∧
  (∀ (d : Dev) (p : Nat) (f : Finding), p < 32 → f ∈ [findMismatch, findDisagree, findDbUe, findSelftest, findLag] →
     d.cpbLost = none →
     let e := d.quarantine p f
     e.pairState p = 4 ∧ e.getF (aTwinPstatus p) 6 4 = f.cause ∧ e.getF (aTwinPerr p) 4 0 = Nat.lor (d.getF (aTwinPerr p) 4 0) f.perr ∧
     ((e.pairSt p).stuck = true ↔ (d.pairSt p).stuck = true ∨ f.checker = true ∨ ∃ t ∈ (d.pairSt p).quarT, d.now < t + 3600000000000) ∧
     e.getB aSafeSeen (if f.checker then 2 else 1) = true ∧
     (e.pairSt p).delay = [] ∧ (∀ u, u / 2 = p → (e.testSt u).next = 0 ∧ (e.testSt u).swept = false) ∧
     Dev.Frame d e [.twins, .tests, .commands, .counters, .safety, .log, .interrupts] fun a => a = aTwinPstatus p ∨ a = aTwinPerr p ∨
       cntRegs a ∨ repRegs a)

/-- R243 to R249, R256 to R259: the rows of engine pairs. The next record of what a pair runs passes where its signatures and
compares agree; else it is kept and is a finding, a late one where a kill has ended the run. The lag register stays within 4,096 cycles, and a
corrected entry sets its bit. Without a run no record closes. A lag timeout of what a pair runs is a finding. A joining pair that a check slice
reserves goes on joining. Else it is TWINNED with both engines UNTESTED after a passed self-test where its group is not suspended, and QUARANTINED after a
failed one. A pair that splits is SPLIT where the configuration registers compare equal, else QUARANTINED. A self-test that passes leaves a joining
or TWINNED pair as it is, and releases a QUARANTINED one whose sweep has passed; one that fails is a finding. QCLR in SERVICE makes a QUARANTINED pair SPLIT.

R252, R253, R511: a checkpoint or a finding of a host pair that runs twinned. Signatures that agree change nothing. Where both
comparators tell them apart the cause is a copy mismatch, where one does a checker fault. A finding makes the pair QUARANTINED with its cause
and the retired count, and its queues are empty. The cores of a pair of application cores execute nothing more, and it is reported; CPA and CPB are lost. -/
def Obligations.PairsAreJudged : Prop :=
  (∀ (s : State) (p : Fin 32) (t : Nat), s.dev.power = .on →
     let d := s.dev.advance t
     let st := s.dev.pairState p.val
     (∀ r run ds last, (st = 2 ∨ st = 3) → d.pairRun p.val = some run →
       d.recordOf p.val ((d.pairSt p.val).passed r.stream.val) r run = some (ds, last) →
       let n := (d.pairSt p.val).passed r.stream.val
       let e : Dev := (({ d with freeCtr := d.freeCtr + 643 } : Dev).seenLag p.val).entryRead p.val r.entry
       let v := recVerdict r (deviate r.lead ds) (deviate r.trail ds)
       e.getF (aTwinPstatus p.val) 28 16 ≤ max (s.dev.getF (aTwinPstatus p.val) 28 16) 4096 ∧
       (r.entry = .corrected → e.getB (aTwinPerr p.val) 2 = true) ∧
       (v = .pass → Ends (.recordCompare p r t) s (Dev.keep d (e.recordPassed p.val run r.stream.val n last (deviate r.lead ds)))) ∧
       (∀ f, v.finding = some f →
         let x := e.keepRecord p.val r.stream.val n (deviate r.lead ds) (deviate r.trail ds)
         (∀ q c row, run = .ended q c row → Ends (.recordCompare p r t) s (Dev.keep d (x.lateFinding p.val f q c row))) ∧
         ((∀ q c row, run ≠ .ended q c row) → Ends (.recordCompare p r t) s (Dev.keep d (x.finding p.val f))))) ∧
     (∀ r, (st = 2 ∨ st = 3) → d.pairRun p.val = none → Ends (.recordCompare p r t) s (Dev.keep d d)) ∧
     (st = 2 → (d.cmdsOn p.val ≠ [] ∨ (d.refOf p.val).isSome = true) → Ends (.lagTimeout p t) s (Dev.keep d (d.finding p.val findLag))) ∧
     (∀ v, st = 1 → bitOf d.checkMask p.val = true → Ends (.twinJoin p v t) s (Dev.keep d (Dev.advanceTrans d))) ∧
     (∀ v, st = 1 → bitOf d.checkMask p.val = false → d.suspendedPair p.val = false → selfOk v = true → ∃ e, Ends (.twinJoin p v t) s (Dev.keep d (Dev.advanceTrans (Dev.settle e))) ∧
       e.pairState p.val = 2 ∧ e.untested (2 * p.val) = true ∧ e.untested (2 * p.val + 1) = true) ∧
     (∀ v, st = 1 → bitOf d.checkMask p.val = false → selfOk v = false → ∃ e, Ends (.twinJoin p v t) s (Dev.keep d (Dev.advanceTrans (Dev.settle e))) ∧
       e.pairState p.val = 4 ∧ (e.pairSt p.val).stuck = true) ∧
     (∀ r, st = 3 → recVerdict r (deviate r.lead (d.finalDwords (2 * p.val))) (deviate r.trail (d.finalDwords (2 * p.val + 1))) = .pass →
       ∃ e, Ends (.twinSplit p r t) s (Dev.keep d (Dev.settle e)) ∧ e.pairState p.val = 0) ∧
     (∀ r, st = 3 → recVerdict r (deviate r.lead (d.finalDwords (2 * p.val))) (deviate r.trail (d.finalDwords (2 * p.val + 1))) ≠ .pass →
       ∃ e, Ends (.twinSplit p r t) s (Dev.keep d (Dev.settle e)) ∧ e.pairState p.val = 4) ∧
     (∀ v, (st = 1 ∨ st = 2) → d.cmdsOn p.val = [] → selfOk v = true → Ends (.twinSelftest p v t) s (Dev.keep d d.restoreCheck)) ∧
     (∀ v, (st = 1 ∨ st = 2) → d.cmdsOn p.val = [] → selfOk v = false →
       Ends (.twinSelftest p v t) s (Dev.keep d (d.finding p.val findSelftest).restoreCheck)) ∧
     (∀ v, st = 4 → d.cmdsOn p.val = [] → selfOk v = true → (d.pairSt p.val).sweepOk = true → (d.pairSt p.val).stuck = false →
       Ends (.twinSelftest p v t) s (Dev.keep d (d.release p.val).settle.restoreCheck)) ∧
     (s.dev.pers = .service → st = 4 → ∃ e, Ends (.twinQclr p) s (Dev.keep (s.dev.advance 0) e) ∧ e.pairState p.val = 0 ∧
       (e.pairSt p.val).stuck = false ∧ Dev.Frame (s.dev.advance 0) e [.twins] fun a => a = aTwinPstatus p.val)) ∧
  (∀ (s : State) (hp : HostPair) (t : Nat) (retired : Dword), s.dev.power = .on → s.dev.getF (aTwinHstatus (hpIdx hp)) 2 0 = 2 →
     let d := s.dev.advance t
     let h := hpIdx hp
     let n := retired.toNat
     (∀ l : List Dword, Ends (.twinCheckpoint hp l l true true retired t) s (Dev.keep d d)) ∧
     (∀ (l l' : List Dword) (a b : Bool), decide (sigA l = sigA l') ≠ a → decide (sigB l = sigB l') ≠ b →
       Ends (.twinCheckpoint hp l l' a b retired t) s (Dev.keep d (d.hostFinding h 4 0b0100 false false n))) ∧
     (∀ (l l' : List Dword) (a b : Bool), (decide (sigA l = sigA l') = a ↔ decide (sigB l = sigB l') ≠ b) →
       Ends (.twinCheckpoint hp l l' a b retired t) s (Dev.keep d (d.hostFinding h 2 0b0010 true false n))) ∧
     Ends (.acpairFinding hp .mismatch retired t) s (Dev.keep d (d.hostFinding h 1 0b0001 false false n)) ∧
     Ends (.acpairFinding hp .checker retired t) s (Dev.keep d (d.hostFinding h 2 0b0010 true false n)) ∧
     Ends (.acpairFinding hp .lag retired t) s (Dev.keep d (d.hostFinding h 6 0b1001 false true n)) ∧
     (∀ cause herr checker lag, cause < 8 → let e := d.hostFinding h cause herr checker lag n
       e.getF (aTwinHstatus h) 2 0 = 4 ∧ e.getF (aTwinHstatus h) 6 4 = cause ∧ e.pair (aTwinHretLo h) (aTwinHretHi h) = n ∧
       e.hostQs.look h = none ∧ (∀ core < 24, core / 2 = h → e.coreExecutes core = false) ∧
       ((∃ k, hp = .ac k) → e.getB aSafeSeen (if checker then 2 else 1) = true) ∧
       (hp = .cpa → e.cpaLost ≠ none) ∧ (hp = .cpb → e.cpbLost ≠ none)))

/-- R273 to R277: the watchdogs and the error-reporting registers. A kick of CPA and one of CPB count from their own pair alone. A pair
whose watchdog runs out while no debugger halts it is lost, reported with code 14 or 15, latched. CPB reports a code that is its own, ends
a condition, and locks the configuration; from another master each is logged without effect, as a kick is. A pulse of WARN_N whose time is over ends. -/
def Obligations.WatchdogsAndReports : Prop :=
  ∀ (s : State) (t : Nat), s.dev.power = .on →
    let d := s.dev.advance t
    (s.dev.kickA + d.wdtNs ≤ d.now → s.dev.dbgHalt.look 24 = none → s.dev.cpaLost = none → ∃ e, Ends (.wdtExpire false t) s (Dev.keep d e) ∧
      e.cpaLost = some d.now ∧ e.faultLatched = true ∧ e.getB aSafeSeen 14 = true) ∧
    (s.dev.kickB + d.wdtNs ≤ d.now → s.dev.dbgHalt.look 25 = none → s.dev.cpbLost = none → ∃ e, Ends (.wdtExpire true t) s (Dev.keep d e) ∧
      e.cpbLost = some d.now ∧ e.faultLatched = true ∧ e.getB aSafeSeen 15 = true) ∧
    (s.dev.cpaLost = none → Ends (.safeWdtKick .cpa 1 t) s (Dev.keep d { d with kickA := d.now })) ∧
    (s.dev.cpbLost = none → Ends (.safeWdtKick .cpb 2 t) s
      (Dev.keep d (({ d with kickB := d.now } : Dev).setB aSafeOut 2 (!d.getB aSafeOut 2)))) ∧
    (∀ m, (m ≠ .cpa → Ends (.safeWdtKick m 1 t) s (Dev.keep d (d.noEffect (d.masterNo m) aSafeKick 1))) ∧
      (m ≠ .cpb → Ends (.safeWdtKick m 2 t) s (Dev.keep d (d.noEffect (d.masterNo m) aSafeKick 2)))) ∧
    (∀ v : Word, cpbCode (v.fld 7 0) = true → (repClass (v.fld 7 0) = .heldC → v.bit 8 = true) →
      ∃ subject, subject < 2 ^ 32 ∧ Ends (.safeReport .cpb v t) s
        (Dev.keep d (({ d with freeCtr := d.freeCtr + 1 } : Dev).report (v.fld 7 0) subject))) ∧
    (∀ v : Word, cpbCode (v.fld 7 0) = true → repClass (v.fld 7 0) = .heldC → v.bit 8 = false →
      Ends (.safeReport .cpb v t) s (Dev.keep d (d.endCode (v.fld 7 0)))) ∧
    (∀ m v, m ≠ .cpb → Ends (.safeReport m v t) s (Dev.keep d (d.noEffect (d.masterNo m) aSafeReport v)) ∧
      Ends (.safeCfgLock m) s (Dev.keep (s.dev.advance 0) ((s.dev.advance 0).noEffect (s.dev.masterNo m) aSafeCfg 0x80000000))) ∧
    (∃ e, Ends (.safeCfgLock .cpb) s (Dev.keep (s.dev.advance 0) e) ∧ e.getB aSafeCfg 31 = true ∧
      Dev.Frame (s.dev.advance 0) e [] fun a => a = aSafeCfg) ∧
    (∀ x, s.dev.warnEnd = some x → x ≤ d.now → Ends (.warnPulseEnd t) s (Dev.keep d ({ d with warnEnd := none } : Dev).refreshWarn))

/-! ### Links, memory lines, bandwidth, DMA, graphics and display (R13 to R20, R284, R290 to R318, R334 to R347) -/

/-- R17, R18, R20, R291: a CRC error on a link or a stack's interface replays the flit, or retrains once 8 replays have failed. A retrain
that ends well lets what waited go on, one that fails is repeated, and a third failure within 1 ms takes the link DOWN, or the stack. A link that is
DOWN comes up in SERVICE alone. A die that goes offline is told with event 16 and report 11, which is latched.

R290, R292: the patrol scrub counts the line it reads; it logs one that it corrects, and poisons one that it cannot. -/
def Obligations.LinksAndLines : Prop :=
  (∀ (s : State) (t : Nat), s.dev.power = .on →
     let d := s.dev.advance t
     (∀ l : LinkId, (d.link l.val).down = false → (d.link l.val).training = false →
       let i := d.fiFlit l.val
       (∀ y, (d.link l.val).replay d.now 40 = some y → Ends (.linkCrcError l t) s (Dev.keep d { i.2 with links := i.2.links.put l.val { y with
         crc := (d.link l.val).crc.add 1, crcInj := if i.1 then (d.link l.val).crcInj.add 1 else (d.link l.val).crcInj } })) ∧
       ((d.link l.val).replay d.now 40 = none → Ends (.linkCrcError l t) s
         (Dev.keep d { i.2 with links := i.2.links.put l.val { d.link l.val with training := true, replays := 0 } }))) ∧
     (∀ n : Fin 4, (d.stackIf n.val).training = false → d.stackUp n.val = true →
       (∀ y, (d.stackIf n.val).replay d.now 60 = some y → Ends (.stackCrcError n t) s
         (Dev.keep d (({ d with stackIfs := d.stackIfs.put n.val y } : Dev).count 0x06 (8 * n.val + 2) 1))) ∧
       ((d.stackIf n.val).replay d.now 60 = none → Ends (.stackCrcError n t) s (Dev.keep d
         (({ d with stackIfs := d.stackIfs.put n.val { d.stackIf n.val with training := true, replays := 0 } } : Dev).count 0x06 (8 * n.val + 4) 1)))) ∧
     (∀ l : LinkId, (d.link l.val).down = false → ∃ e, Ends (.linkDown l t) s (Dev.keep d (Dev.settle e)) ∧ e.linkUp l.val = false) ∧
     (∀ (l : Fin 8), (d.link l.val).down = false → (d.link l.val).training = true → let x := d.link l.val
       Ends (.linkRetrainComplete false l true t) s
         (Dev.keep d ({ d with links := d.links.put l.val { x with training := false, fails := [] } } : Dev).settle) ∧
       ((x.failed d.now).length < 3 → Ends (.linkRetrainComplete false l false t) s
         (Dev.keep d { d with links := d.links.put l.val { x with fails := x.failed d.now } })) ∧
       (3 ≤ (x.failed d.now).length → Ends (.linkRetrainComplete false l false t) s (Dev.keep d (d.downLink l.val)))) ∧
     (∀ n : Fin 8, n.val < 4 → (d.stackIf n.val).training = true → d.stackUp n.val = true → let x := d.stackIf n.val
       Ends (.linkRetrainComplete true n true t) s
         (Dev.keep d ({ d with stackIfs := d.stackIfs.put n.val { x with training := false, fails := [] } } : Dev).settle) ∧
       ((x.failed d.now).length < 3 → Ends (.linkRetrainComplete true n false t) s
         (Dev.keep d (({ d with stackIfs := d.stackIfs.put n.val { x with fails := x.failed d.now } } : Dev).count 0x06 (8 * n.val + 4) 1))) ∧
       (3 ≤ (x.failed d.now).length → Ends (.linkRetrainComplete true n false t) s (Dev.keep d (d.stackLost n.val)))) ∧
     (∀ l : Fin 8, (d.link l.val).down = true →
       (∀ ok, d.pers ≠ .service ∨ ok = false → Ends (.linkRetrainComplete false l ok t) s (Dev.keep d d)) ∧
       (d.pers = .service → ∃ e, Ends (.linkRetrainComplete false l true t) s (Dev.keep d (Dev.settle e)) ∧ e.linkUp l.val = true)) ∧
     (∀ n : Fin 4, n.val ∉ s.dev.dieOff → ∃ x : Dev, let e := (x.post 64 16 n.val 0).report 11 n.val
       Ends (.dieOffline n t) s (Dev.keep d (Dev.settle e.reFig)) ∧ n.val ∈ e.dieOff ∧
       (11, n.val) ∈ e.held.map (fun p => (p.1 % 32, p.2)) ∧ e.faultLatched = true)) ∧
  (∀ (s : State) (n : Fin 4) (line t : Nat), s.dev.power = .on → s.dev.pers ≠ .sleep → s.dev.stackUp n.val = true →
     let d := s.dev.advance t
     let k := n.val * gib36 + line % (gib36 / 64) * 64
     Ends (.patrolScrub n line .clean t) s (Dev.keep d (d.count 0x06 (8 * n.val + 3) 1)) ∧
     (∃ e, Ends (.patrolScrub n line .corrected t) s (Dev.keep d e) ∧ (∃ x ∈ e.log, x.kind = 4 ∧ x.subject = n.val ∧
       x.addr = s.dev.devOf k ∧ x.detail = 0 ∧ x.time = d.now) ∧ Dev.Frame d e [.counters, .log, .interrupts] cntRegs) ∧
     (∃ e, Ends (.patrolScrub n line .uncorrectable t) s (Dev.keep d e) ∧ k ∈ e.poison ∧
       (∀ j, j ∈ s.dev.poison → j ∈ e.poison)))

/-- R300: the cut. The factors never exceed 1, LEASE is cut before BEST_EFFORT and that before COCKPIT, and what the factors leave of the
three kinds with what is never cut keeps to the figure, where cutting them can. -/
def Obligations.TheCutKeepsToTheFigure : Prop :=
  ∀ safety display cock best lease fig : Nat,
    let c := cutOf safety display cock best lease fig
    c.lease ≤ 65536 ∧ c.best ≤ 65536 ∧ c.cock ≤ 65536 ∧
    (c.best < 65536 → lease = 0 ∨ c.lease = 0) ∧ (c.cock < 65536 → (lease = 0 ∨ c.lease = 0) ∧ (best = 0 ∨ c.best = 0)) ∧
    (safety + display + cock + best + lease ≤ fig → c.lease = 65536 ∧ c.best = 65536 ∧ c.cock = 65536) ∧
    (safety + display ≤ fig →
      (safety + display) * 65536 + cock * c.cock + best * c.best + lease * c.lease ≤ fig * 65536)

/-- R284, R297, R299, R301: the registers of the regulator. At a window boundary a master's count returns to 0, a budgeted master takes
its new budget, the budget of any other stays, and waiting accesses go on. A new figure is the lesser of the thermal and the link figure, and the cut is evaluated again. LAT_CLR clears every
latency monitor. A bit of the interleave mask changes only where the granule holds no valid ownership entry, and bit 0 never. -/
def Obligations.BandwidthIsRegulated : Prop :=
  ∀ (s : State) (t : Nat), s.dev.power = .on →
    let d := s.dev.advance t
    (∀ m : Fin 192, m.val ∉ masters → Ends (.bwrWindowBoundary m t) s (Dev.keep d d)) ∧
    (∀ m : Fin 192, m.val ∈ masters → ∃ e : Dev, Ends (.bwrWindowBoundary m t) s (Dev.keep d e.serveWaits) ∧ e.reg (aBwrMused m.val) = 0 ∧
      (d.budgeted m.val = true → e.reg (aBwrMeff m.val) = BitVec.ofNat 32 (d.effOf d.cutNow m.val)) ∧
      Dev.Frame d e [.counters, .interrupts, .log] fun a => a = aBwrMused m.val ∨ (a = aBwrMeff m.val ∧ d.budgeted m.val = true) ∨ cntRegs a) ∧
    (d.fig = min (d.getF aPwrTherm 12 0) d.linkFig → Ends (.derateChange t) s (Dev.keep d d)) ∧
    (d.fig ≠ min (d.getF aPwrTherm 12 0) d.linkFig → ∃ e : Dev, Ends (.derateChange t) s (Dev.keep d (e.reCut d)) ∧
      e.fig = min (d.getF aPwrTherm 12 0) d.linkFig ∧ e.getB aBwrStatus 8 = true) ∧
    (∃ e, Ends .bwrLatClr s (Dev.keep (s.dev.advance 0) e) ∧ (∀ m ∈ masters, ∀ c, c < 8 → e.reg (aBwrLat m c) = 0) ∧
      Dev.Frame (s.dev.advance 0) e [] fun a => ∃ m c, m ∈ masters ∧ c < 8 ∧ a = aBwrLat m c) ∧
    (∀ (hi : Bool) (v : Word), ∃ e, Ends (.bwrIlvWrite hi v) s (Dev.keep (s.dev.advance 0) e) ∧
      (∀ i, i < 36 → s.dev.granuleOwned i = true ∨ i = 0 → e.ilvBit i = s.dev.ilvBit i) ∧
      (∀ i, i < 36 → s.dev.granuleOwned i = false → i ≠ 0 →
        e.ilvBit i = if hi = decide (32 ≤ i) then v.bit (i % 32) else s.dev.ilvBit i) ∧
      Dev.Frame (s.dev.advance 0) e [.log] fun a => a = aBwrIlvLo ∨ a = aBwrIlvHi)

/-- R308, R310, R312, R314, R317: DMA. START of an enabled channel at rest fetches the descriptor at NEXT. A request is counted; at
255 a line that no channel uses only marks its overrun, and one in use ends its channel's descriptor in error. An engine moves a burst of the channel
it picks. A descriptor whose bytes have moved is written back, no lock or link holding its line, and chains, or leaves the channel IDLE with DONE. A disabled channel is IDLE. CLR takes a line's requests away. -/
def Obligations.DmaMoves : Prop :=
  ∀ (s : State) (ch : Fin 512) (line : Fin 192) (t : Nat), s.dev.power = .on →
    let d := s.dev.advance t
    (d.dmaEn ch.val = true → d.dmaState ch.val = 0 → Ends (.dmaStart ch t) s (Dev.keep d (d.dmaFetch ch.val (d.dmaNext ch.val)))) ∧
    (d.dmaUser line.val = none → d.getF (aDmaReq line.val) 7 0 < 255 → ∃ e, Ends (.dmaRequest line t) s (Dev.keep d e) ∧
      e.getF (aDmaReq line.val) 7 0 = d.getF (aDmaReq line.val) 7 0 + 1 ∧ Dev.Frame d e [] fun a => a = aDmaReq line.val) ∧
    (d.dmaUser line.val = none → d.getF (aDmaReq line.val) 7 0 = 255 → ∃ e, Ends (.dmaRequest line t) s (Dev.keep d e) ∧
      e.getB (aDmaReq line.val) 8 = true ∧ e.getF (aDmaReq line.val) 7 0 = 255 ∧ Dev.Frame d e [] fun a => a = aDmaReq line.val) ∧
    (∀ (g : Fin 5) k c, d.dmaPick g.val = some k → d.dmaCh.look k = some c → Ends (.dmaBurst g t) s (Dev.keep d (d.dmaMove k c))) ∧
    (∀ k, d.dmaUser line.val = some k → let n := d.getF (aDmaReq line.val) 7 0
      (n < 255 → let x := d.setF (aDmaReq line.val) 7 0 (n + 1)
        Ends (.dmaRequest line t) s (Dev.keep d (if x.dmaState k = 2 then x.dmaReady k else x))) ∧
      (n = 255 → Ends (.dmaRequest line t) s (Dev.keep d (d.dmaError k 4 (d.dmaCur k))))) ∧
    (∀ c : DmaCh, d.dmaCh.look ch.val = some c → d.dmaState ch.val = 4 →
      ((d.dmaBad ch.val (d.dmaCur ch.val) 32).isNone && d.mustWaitFrom (dmaSrc ch.val) (d.dmaCur ch.val) 32 true) = false →
      let w := d.dmaWriteBack ch.val c.done 0 true
      (c.chain = false → ∃ e, Ends (.dmaDescComplete ch t) s (Dev.keep d e) ∧ e.dmaState ch.val = 0 ∧ e.getB (aDmaStatus ch.val) 1 = true ∧
        e.dmaCh.look ch.val = none ∧ (c.irq = true → d.getB (aDmaCfg ch.val) 0 = true → .dma ch.val ∈ e.irqs) ∧ ∀ a, e.rd8 a = w.rd8 a) ∧
      (c.chain = true → ∃ e : Dev, Ends (.dmaDescComplete ch t) s (Dev.keep d (e.dmaFetch ch.val c.next)) ∧
        e.dmaCh.look ch.val = none ∧ (c.irq = true → d.getB (aDmaCfg ch.val) 0 = true → .dma ch.val ∈ e.irqs) ∧ ∀ a, e.rd8 a = w.rd8 a)) ∧
    (∃ e, Ends (.dmaDisable ch) s (Dev.keep (s.dev.advance 0) e) ∧ e.dmaEn ch.val = false ∧ e.dmaState ch.val = 0 ∧
      e.dmaCh.look ch.val = none) ∧
    (∃ e, Ends (.dmaReqClr line) s (Dev.keep (s.dev.advance 0) e) ∧ e.getF (aDmaReq line.val) 7 0 = 0 ∧
      e.getB (aDmaReq line.val) 8 = s.dev.getB (aDmaReq line.val) 8 ∧ Dev.Frame (s.dev.advance 0) e [] fun a => a = aDmaReq line.val)

/-- R310, R311: a burst from memory to memory that no check stops. The burst's bytes at the destination are the source's, REMAIN falls by
their number, and no byte elsewhere changes (no dirty log runs, and the ranges are reachable). -/
def Obligations.BurstsCopy : Prop :=
  ∀ (d : Dev) (ch : Nat) (c : DmaCh), ch < 512 → d.loggers = [] → c.req = 0xFF → c.fromLine = false → c.toLine = false → 0 < c.burst →
    d.dmaBad ch c.srcAt c.burst = none → d.dmaBad ch c.dstAt c.burst = none → d.poisoned c.srcAt c.burst = false →
    d.quietAt c.srcAt c.burst = false → d.quietAt c.dstAt c.burst = false →
    d.pathLost (dmaSrc ch) c.srcAt c.burst = false → d.pathLost (dmaSrc ch) c.dstAt c.burst = false →
    let e := d.dmaMove ch c
    (∀ i, i < c.burst → (d.phys (c.dstAt + i)).isSome = true → e.rd8 (c.dstAt + i) = d.rd8 (c.srcAt + i)) ∧
    (∀ a, (a < c.dstAt ∨ c.dstAt + c.burst ≤ a) → e.rd8 a = d.rd8 a) ∧
    (e.reg (aDmaRemain ch)) = BitVec.ofNat 32 (c.len - (c.done + c.burst)) ∧
    ((e.dmaCh.look ch).map (·.done)) = some (c.done + c.burst) ∧ e.own = d.own ∧ e.queues = d.queues

/-- R334 to R336, R341, R347: the graphics unit. A kill re-runs the running job. A RENDER job that is to stop is suspended at a boundary,
and killed where none comes in time. A guard time that an unpressed compositor job of the pipe needs begins a pass. A tile memory error
that is corrected is only marked; another tears down the context of the running job, with FAULT 5. -/
def Obligations.GraphicsUnitEvents : Prop :=
  ∀ (s : State) (t : Nat), s.dev.power = .on →
    let d := s.dev.advance t
    (∀ p, d.gfxRunning = some p → Ends (.gfxKill t) s (Dev.keep d (d.killRerun p.1 p.2.seq .preempt).settle)) ∧
    (∀ p, d.gfxRunning = some p → d.getF aGfxStatus 2 0 = 4 →
      Ends (.jobSuspend true t) s (Dev.keep d (((d.updCmd p.1 p.2.seq fun c => { c with suspended := some 0 }).setF aGfxStatus 2 0 0).count
        0x08 1 1).settle) ∧
      Ends (.jobSuspend false t) s (Dev.keep d (d.killJob p.1 p.2.seq ((d.gfxStopCause p.1 p.2).getD .preempt)).settle)) ∧
    (∀ (pipe : Fin 4) x, x ∈ d.allCmds → d.isComp x.1 x.2 = true → x.2.render.pipe = pipe.val →
      ((d.pipes.lookD pipe.val {}).lastLatch).getD 0 ≤ x.2.takenT → d.deadline x.2 ≤ d.now + d.getF (aDispCtrl pipe.val) 23 8 * 100000 →
      d.now < d.deadline x.2 → Ends (.compositorGuard pipe t) s
        (Dev.keep d ({ d with pipes := d.pipes.upd pipe.val {} fun x => { x with guarding := true } } : Dev).pass)) ∧
    (∃ e, Ends (.tileMemError true t) s (Dev.keep d e) ∧ e.getB aGfxErr 0 = true ∧ Dev.Frame d e [] fun a => a = aGfxErr) ∧
    (∀ p, d.gfxRunning = some p → ∃ e : Dev, Ends (.tileMemError false t) s (Dev.keep d (e.tearPoison p.1).settle) ∧ e.getB aGfxErr 1 = true)

/-- R337 to R345: a latch of a pipe that scans out with every surface permitted forms the new layer set; a frame whose compositor job has
not pressed keeps the old one and is counted. FRAME counts each. An underrun is marked and counted. A camera frame that does not fit its
stream's configuration, and one in error, end in error; a frame of the configured kind is taken in chunks, and where no channel drains it and the
port's buffer has room it is buffered whole, padded to lines and with its status line. -/
def Obligations.PipesLatchAndCamerasStore : Prop :=
  ∀ (s : State) (t : Nat), s.dev.power = .on →
    let d := s.dev.advance t
    (∀ p : Fin 4, let x := d.pipes.lookD p.val {}
      d.getB (aDispCtrl p.val) 0 = true → d.missed p.val = false → (∀ l ∈ x.next, d.layerOk l.2 = true) →
      ∃ e : Dev, Ends (.displayLatch p t) s (Dev.keep d e.pass) ∧ e.reg (aDispFrame p.val) = d.reg (aDispFrame p.val) + 1 ∧
        e.pipes.lookD p.val {} = { x with cur := x.next, pend := [], flips := [], under := false, guarding := false, lastLatch := some d.now } ∧
        Dev.Frame d e [.display] fun a => a = aDispFrame p.val) ∧
    (∀ p : Fin 4, let x := d.pipes.lookD p.val {}
      d.getB (aDispCtrl p.val) 0 = true → d.missed p.val = true → (∀ l ∈ x.cur, d.layerOk l.2 = true) →
      ∃ e : Dev, Ends (.displayLatch p t) s (Dev.keep d e.pass) ∧ e.reg (aDispFrame p.val) = d.reg (aDispFrame p.val) + 1 ∧
        (e.pipes.lookD p.val {}).cur = x.cur ∧ (e.pipes.lookD p.val {}).pend = x.pend ∧ (e.pipes.lookD p.val {}).flips = x.flips ∧
        e.getB (aDispStatus p.val) 0 = true ∧ e.cnt 0x08 (12 + p.val) = (d.cnt 0x08 (12 + p.val)).add 1) ∧
    (∀ p : Fin 4, d.getB (aDispCtrl p.val) 0 = true → ∃ e, Ends (.displayUnderrun p t) s (Dev.keep d e) ∧
      e.getB (aDispStatus p.val) 1 = true ∧ (e.pipes.lookD p.val {}).under = true ∧
      e.cnt 0x08 (16 + p.val) = (d.cnt 0x08 (16 + p.val)).add 1) ∧
    (∀ (port : Fin 16) (stream : Fin 4) kind c, port.val ∈ d.boot.camPorts → Tab.look d.boot.cams (4 * port.val + stream.val) = some c →
      Ends (.cameraFrameError port stream kind t) s (Dev.keep d (d.cameraError (4 * port.val + stream.val)))) ∧
    (∀ (port : Fin 16) (stream : Fin 4) (vc : Fin 16) (lines : List (List Byte)) (c : CamCfg) ty, port.val ∈ d.boot.camPorts →
      Tab.look d.boot.cams (4 * port.val + stream.val) = some c → vc.val = stream.val → camType c.dt = some ty →
      ((lines.length ≠ c.h ∨ ¬ ∀ l ∈ lines, l.length = c.w * ty.1) →
        Ends (.cameraFrame port stream vc c.dt lines t) s (Dev.keep d (d.cameraError (4 * port.val + stream.val)))) ∧
      (let r := 4 * port.val + stream.val
        let x := d.cams.lookD r {}
        let body := if c.dt = 0x1E then lines.flatten else lines.flatMap (camRow ty.2)
        let all := body ++ List.replicate (alignUp body.length 64 - body.length) (0 : Byte) ++
          (List.replicate 8 (0 : Byte) ++ leBytes 8 d.now ++ List.replicate 48 (0 : Byte))
        let e := d.cameraChunks r (all.length / 1024 + 1) all
        let y : Dev := { e with cams := e.cams.adjust r fun x => { x with error := false } }
        lines.length = c.h → (∀ l ∈ lines, l.length = c.w * ty.1) →
        Ends (.cameraFrame port stream vc c.dt lines t) s (Dev.keep d y) ∧
        (d.dmaUser r = none → x.error = false → d.portBuf port.val + all.length ≤ 65536 →
          (y.cams.lookD r {}).error = false ∧ (y.cams.lookD r {}).buf = x.buf ++ all)))

/-! ### The vehicle network gateway (R350 to R372, R395) -/

/-- R351, R352, R353, R354, R356, R357, R358, R359, R364, R368, R395: frames and rings, where no injection is armed and no unit is held. A port
that runs counts a frame received without error and gives it to the checks of R351 on; one with a symbol or FCS error, too short or too long is
dropped and counted. A CAN frame goes to the service, or while CPA is lost into the receive FIFO. A frame acknowledged leaves its queue
and lowers TEC; one that is not keeps its place and raises it, to bus-off past 255. The frame picked at a port leaves on the wire, or into the ring of an
IP port; a port that needs MACsec and has no association drops it. After a collision on a TS port it is tried
again, at most 16 times. A container whose time has passed is sent. One trip frame goes out on each authenticated channel. -/
def Obligations.FramesPassTheGateway : Prop :=
  ∀ (s : State) (t : Nat), s.dev.power = .on → s.dev.fiArmed = false → s.dev.fi.held = [] →
    let d := s.dev.advance t
    (∀ (port : Fin 22) frame node, d.swRuns port.val = true → 64 ≤ frame.length + 4 → frame.length + 4 ≤ 2000 →
      Ends (.ethFrameRx port frame .none node t) s (Dev.keep d ((d.gwCount port.val 13).ethIn port.val frame node))) ∧
    (∀ (port : Fin 22) frame node, d.swRuns port.val = true →
      Ends (.ethFrameRx port frame .symbol node t) s (Dev.keep d (d.ethDrop port.val .symbol)) ∧
      (d.ethRoute port.val (beNat (frame.take 6)) (d.ethCfg port.val).vid = none →
        Ends (.ethFrameRx port frame .fcs node t) s (Dev.keep d (d.ethDrop port.val .fcs))) ∧
      (frame.length + 4 < 64 → Ends (.ethFrameRx port frame .none node t) s (Dev.keep d (d.ethDrop port.val .runt))) ∧
      (2000 < frame.length + 4 → Ends (.ethFrameRx port frame .none node t) s (Dev.keep d (d.ethDrop port.val .oversize)))) ∧
    (∀ (ch : Fin 16) f, d.getB (aCanCtrl ch.val) 0 = true → d.portOn (d.canCfg ch.val).parkOn = true →
      d.getF (aCanStatus ch.val) 17 16 ≠ 3 →
      (d.cpaLost = none → d.gw.canRx.lookD ch.val [] = [] → ∃ e : Dev, Ends (.canFrameRx ch f t) s (Dev.keep d e) ∧
        e = { (({ d.gwCount (32 + ch.val) 11 with gw := { d.gw with canRx := d.gw.canRx.del ch.val } } : Dev).canHandle ch.val f) with
          injUnit := d.injUnit }) ∧
      (d.cpaLost ≠ none → (d.gw.canRx.lookD ch.val []).length < 64 → ∃ e : Dev, Ends (.canFrameRx ch f t) s (Dev.keep d e) ∧
        e.gw.canRx.lookD ch.val [] = d.gw.canRx.lookD ch.val [] ++ [(f, d.injUnit)] ∧
        Dev.Frame d e [.gateway, .counters, .interrupts, .log] cntRegs)) ∧
    (∀ (ch : Fin 16) (q : Nat) f, d.getB (aCanCtrl ch.val) 0 = true → d.portOn (d.canCfg ch.val).parkOn = true →
      d.getF (aCanStatus ch.val) 17 16 ≠ 3 → d.canNext ch.val = some (q, f) →
      (∃ e : Dev, Ends (.canFrameTx ch .acked t) s (Dev.keep d e) ∧ e.gw.sentCan.look ch.val = some f ∧
        e.gw.canTx.lookD (ch.val * 4 + q) [] = (d.gw.canTx.lookD (ch.val * 4 + q) []).drop 1 ∧
        e.getF (aCanStatus ch.val) 7 0 = d.getF (aCanStatus ch.val) 7 0 - 1 ∧
        (∀ c : Nat, c ≠ ch.val * 4 + q → e.gw.canTx.lookD c [] = d.gw.canTx.lookD c [])) ∧
      (d.getF (aCanStatus ch.val) 7 0 < 120 → ∃ e : Dev, Ends (.canFrameTx ch .error t) s (Dev.keep d e) ∧
        (∀ c : Nat, e.gw.canTx.lookD c [] = d.gw.canTx.lookD c []) ∧
        e.getF (aCanStatus ch.val) 7 0 = d.getF (aCanStatus ch.val) 7 0 + 8) ∧
      (247 < d.getF (aCanStatus ch.val) 7 0 → ∃ e : Dev, Ends (.canFrameTx ch .error t) s (Dev.keep d e) ∧
        e.getF (aCanStatus ch.val) 17 16 = 3 ∧ ∀ k : Nat, k < 4 → e.gw.canTx.lookD (ch.val * 4 + k) [] = [])) ∧
    (∀ (port : Fin 22) tc f, d.swRuns port.val = true → d.egressPick port.val = some (tc, f) →
      let pop : Dev := { d with gw := { d.gw with egress := d.gw.egress.put (port.val * 8 + tc) ((d.gw.egress.lookD (port.val * 8 + tc) []).drop 1)
                                                  tries := d.gw.tries.del port.val } }
      (19 ≤ port.val → Ends (.ethFrameTx port false t) s (Dev.keep d (pop.ethLeave port.val f.bytes f))) ∧
      (port.val < 14 → (d.gw.macsec.lookD port.val {}).valid = [] → (d.ethCfg port.val).unprotected = false →
        Ends (.ethFrameTx port false t) s (Dev.keep d (pop.ethDrop port.val .macsec))) ∧
      (port.val < 19 → (d.gw.macsec.lookD port.val {}).valid = [] → (d.ethCfg port.val).unprotected = true ∨ 14 ≤ port.val →
        ∃ e : Dev, Ends (.ethFrameTx port false t) s (Dev.keep d e) ∧ e.gw.sentEth.look port.val = some f.wire ∧
          e.gw.egress.lookD (port.val * 8 + tc) [] = (d.gw.egress.lookD (port.val * 8 + tc) []).drop 1 ∧
          Dev.Frame d e [.gateway, .counters, .interrupts, .log] cntRegs) ∧
      (isTs port.val = true → d.gw.tries.lookD port.val 0 < 15 → ∃ e : Dev, Ends (.ethFrameTx port true t) s (Dev.keep d e) ∧
        e.gw.egress = d.gw.egress ∧ e.gw.tries.look port.val = some (d.gw.tries.lookD port.val 0 + 1)) ∧
      (isTs port.val = true → 15 ≤ d.gw.tries.lookD port.val 0 → ∃ e : Dev, Ends (.ethFrameTx port true t) s (Dev.keep d e) ∧
        e.gw.egress.lookD (port.val * 8 + tc) [] = (d.gw.egress.lookD (port.val * 8 + tc) []).drop 1 ∧
        e.gw.tries.look port.val = none)) ∧
    (∀ (i : Nat) en, d.gw.table.entries[i]? = some en → rtKind en = 5 → d.cpaLost = none →
      (d.gw.boxes.lookD ((rw_ en 1).fld 7 0) {}).pdus ≠ [] →
      (d.gw.boxes.lookD ((rw_ en 1).fld 7 0) {}).since + (rw_ en 6).toNat * 1000 ≤ d.now →
      ∃ e : Dev, Ends (.containerTmax i t) s (Dev.keep d e) ∧ (e.gw.boxes.lookD ((rw_ en 1).fld 7 0) {}).pdus = [] ∧
        e.gw.canTx = d.gw.canTx ∧ Dev.Frame d e [.gateway, .counters, .interrupts, .log] cntRegs) ∧
    (∀ key, d.cpaLost = none → d.gw.noTrip = false → d.keys.look 56 = some key → Ends (.tripFrameSend t) s
      (Dev.keep d (forEach d.authChannels (fun c d => d.canQueue c 3 (d.tripFrame key)) d))) ∧
    (∀ n : Fin 64, d.cpaLost = none → (d.page n.val).state ≠ .free → (d.inst n.val).bindKind = 0 → Ends (.ipTxPoll n t) s
      (Dev.keep d (forEach (d.boot.ips.filter fun (p : Nat × IpCfg) => p.2.cluster = (d.inst n.val).bindIdx) (fun p d => d.ipPoll p.1 p.2.nent) d)))

/-- R355, R356, R359, R362, R365, R370, R372: the gateway's events. A follower without a beacon falls back to CSMA/CD and returns with the
next one. More drops in a second than DROP_LIMIT post event 13. A Sync steers the rate and sets the offset and ends a holdover; three
missed ones begin it and post event 12. A controller in bus-off recovers with AUTO_REC or RECOVER. A gate's loaded list starts at its time.
A redundancy stream's history is reset. A posted write of CPA or CPB that fails beyond the bridge is kept in PB_ERR, the first of them with
its address and master. -/
def Obligations.GatewayEventsAreKept : Prop :=
  ∀ (s : State) (t : Nat), s.dev.power = .on →
    let d := s.dev.advance t
    (∀ port : Fin 22, isTs port.val = true →
      (d.getF (aSwPortStatus port.val) 9 8 = 2 → ∃ e, Ends (.plcaBeaconLoss port t) s (Dev.keep d e) ∧
        e.getF (aSwPortStatus port.val) 9 8 = 3 ∧ e.cnt 0x09 (16 * port.val + 11) = (d.cnt 0x09 (16 * port.val + 11)).add 1) ∧
      (d.getF (aSwPortStatus port.val) 9 8 = 3 → ∃ e, Ends (.plcaBeacon port t) s (Dev.keep d e) ∧
        e.getF (aSwPortStatus port.val) 9 8 = 2 ∧ Dev.Frame d e [] fun a => a = aSwPortStatus port.val) ∧
      ((d.ethCfg port.val).dropLimit < d.gw.drops.lookD port.val 0 → Ends (.dropLimit port t) s
        (Dev.keep d (({ d with gw := { d.gw with drops := d.gw.drops.del port.val } } : Dev).post 64 13 port.val
          (min (d.gw.drops.lookD port.val 0) (2 ^ 32 - 1))))) ∧
      (d.gw.drops.lookD port.val 0 ≤ (d.ethCfg port.val).dropLimit → Ends (.dropLimit port t) s
        (Dev.keep d { d with gw := { d.gw with drops := d.gw.drops.del port.val } }))) ∧
    (∀ port : Fin 22, d.cpaLost = none → d.follower port.val = true →
      (∀ ofs rate : Int, -(2 ^ 63) ≤ ofs → ofs < 2 ^ 63 → ∃ e : Dev, Ends (.gptpSyncRx port ofs rate t) s (Dev.keep d e) ∧
        e.reg aCntTbRate = rateWord rate ∧ sext 64 (e.pair aSwOfsLo aSwOfsHi) = ofs ∧ port.val ∉ e.gw.holdover) ∧
      (∃ e : Dev, Ends (.holdover port t) s (Dev.keep d (Dev.post e 64 12 port.val 0)) ∧ port.val ∈ e.gw.holdover ∧
        e.cnt 0x09 (16 * port.val + 15) = (d.cnt 0x09 (16 * port.val + 15)).add 1)) ∧
    (∀ ch : Fin 16, d.getF (aCanStatus ch.val) 17 16 = 3 →
      (d.getB (aCanCtrl ch.val) 2 = true ∨ d.getB (aCanCtrl ch.val) 3 = true → ∃ e, Ends (.busOffRecovery ch t) s (Dev.keep d e) ∧
        e.reg (aCanStatus ch.val) = 0 ∧ e.getB (aCanCtrl ch.val) 3 = false) ∧
      (∃ e, Ends (.canRecover ch) s (Dev.keep (s.dev.advance 0) e) ∧
        e.getB (aCanCtrl ch.val) 3 = true ∧ Dev.Frame (s.dev.advance 0) e [] fun a => a = aCanCtrl ch.val)) ∧
    (∀ (port : Fin 22) g l, d.gw.gates.look port.val = some g → g.pending = some l → (g.at_ : Int) ≤ d.gptpNow →
      ∃ e : Dev, Ends (.gateListActivate port none t) s (Dev.keep d e) ∧
        e.gw.gates.look port.val = some { active := some { l with base := g.at_ }, idle := l.init } ∧ Dev.Frame d e [.gateway] fun _ => False) ∧
    (∀ (port : Fin 22) (i : Fin 256) g l, d.gw.sgates.look i.val = some g → g.pending = some l → (g.at_ : Int) ≤ d.gptpNow →
      ∃ e : Dev, Ends (.gateListActivate port (some i) t) s (Dev.keep d e) ∧
        e.gw.sgates.look i.val = some { active := some { l with base := g.at_ }, idle := l.init } ∧ Dev.Frame d e [.gateway] fun _ => False) ∧
    (∀ (i : Fin 128) c, d.gw.cb.look i.val = some c → ∃ e : Dev, Ends (.recoveryResetTimeout i t) s (Dev.keep d e) ∧
      e.gw.cb.look i.val = some { c with takeAny := true, seen := [] } ∧ Dev.Frame d e [.gateway] fun _ => False) ∧
    (∀ (a : Nat) (m : Master), isSwReg a = true → m = .cpa ∨ m = .cpb →
      (d.getB aSwPbErr 0 = false → ∃ e, Ends (.pbWriteFail a m t) s (Dev.keep d e) ∧ e.getB aSwPbErr 0 = true ∧
        e.reg aSwPbErrAddr = BitVec.ofNat 32 a ∧ e.reg aSwPbErrSrc = BitVec.ofNat 32 (d.masterNo m % 256) ∧ .bridge ∈ e.irqs) ∧
      (d.getB aSwPbErr 0 = true → ∃ e, Ends (.pbWriteFail a m t) s (Dev.keep d e) ∧ e.getB aSwPbErr 1 = true ∧
        e.reg aSwPbErrAddr = d.reg aSwPbErrAddr ∧ e.reg aSwPbErrSrc = d.reg aSwPbErrSrc))

/-! ### Host interfaces and the ends of resets (R379 to R390, R494) -/

/-- R379, R380, R383, R385 to R388, R494: where no host access waits, a request of a function to its mailbox page acts on that page:
the physical function's of the manager's port on the manager page and on INST0's, a virtual function's on its instance's; a request to the
window acts on the instance's window. A function whose FLR has begun answers none. An FLR and a link that goes down squash what the
functions' instances run. PERST_N low holds the port's domain in reset, and high releases it. -/
def Obligations.HostPortsActOnTheirInstances : Prop :=
  ∀ (s : State) (port : Fin 2) (t : Nat), s.dev.power = .on →
    let d := s.dev.advance t
    let p := port.val
    (d.pcieOn p = true → s.dev.waiting = [] →
      (∀ off w len, d.getB (aPcieCtrl p) 1 = true → off + len ≤ 65536 →
        Ends (.pcieMemRequest port 0 0 off w len t) s (Dev.keep d ((d.countHost 0 0).pageAcc 64 off w len (.pcie port 0))) ∧
        Ends (.pcieMemRequest port 0 4 off w len t) s (Dev.keep d ((d.countHost 0 0).pageAcc 0 off w len (.pcie port 0)))) ∧
      (∀ (fn : Fin 65) (n : Nat) off w len, fn.val ≠ 0 → fn.val ≤ d.getF (aPcieVfcfg p) 6 0 → d.vfInst p fn.val = some n →
        ((d.inst n).flr = false → off + len ≤ 65536 → Ends (.pcieMemRequest port fn 0 off w len t) s
          (Dev.keep d ((d.countHost n 0).pageAcc n off w len (.pcie port fn)))) ∧
        ((d.inst n).flr = false → off + len ≤ d.bar2Size p → Ends (.pcieMemRequest port fn 2 off w len t) s
          (Dev.keep d (((d.countHost n 0).countFree (0x100 + n) 4).winAcc n (d.vfMaster p fn.val) off w len))) ∧
        ((d.inst n).flr = true → ∀ bar, ∃ e : Dev, Ends (.pcieMemRequest port fn bar off w len t) s (Dev.keep d e) ∧
          e.lastAcc = (if w.isSome then .discarded else .unsupported) ∧ e.cnt (0x100 + n) 1 = (d.cnt (0x100 + n) 1).add 1 ∧
          Dev.Same d e .memory ∧ ∀ k : Nat, (e.page k).state = (d.page k).state))) ∧
    (d.pcieOn p = true →
      Ends (.pcieFlr port 0 t) s (Dev.keep d ((d.setB (aPcieErr p) 2 true).flrPort p)) ∧
      (∀ (fn : Fin 65) (n : Nat), fn.val ≠ 0 → d.vfInst p fn.val = some n → (d.page n).state = .active →
        let x := ((d.setB (aPcieErr p) 2 true).countHost n 3).fiDiscard 3 (d.bindMaster (d.inst n).bindKind (d.inst n).bindIdx - 128)
        let y := (x.beginSquash n).settle
        Ends (.pcieFlr port fn t) s (Dev.keep d (if (y.page n).state = .squashing then y.setInst n { y.inst n with flr := true } else y))) ∧
      (∀ (fn : Fin 65) (n : Nat), fn.val ≠ 0 → d.vfInst p fn.val = some n → (d.page n).state = .squashing →
        ∃ e : Dev, Ends (.pcieFlr port fn t) s (Dev.keep d e) ∧ (e.inst n).flr = true ∧ e.getB (aPcieErr p) 2 = true ∧ e.queues = d.queues)) ∧
    (d.getB (aPcieCtrl p) 0 = true → Ends (.pcieLinkReset port t) s (Dev.keep d ((d.setB (aPcieErr p) 3 true).flrPort p))) ∧
    (d.getF (aRstDomStatus (17 + p)) 2 0 ≠ 2 →
      Ends (.pciePerst port false t) s (Dev.keep d ((d.setF (aRstDomStatus (17 + p)) 2 0 2).resetPort p).settle)) ∧
    (d.getF (aRstDomStatus (17 + p)) 2 0 = 2 → ∃ e, Ends (.pciePerst port true t) s (Dev.keep d e) ∧
      e.getF (aRstDomStatus (17 + p)) 2 0 = 0 ∧ Dev.Frame d e [] fun a => a = aRstDomStatus (17 + p) ∨ a = aPcieStatus p)

/-- R385, R386, R387, R388: a drain ends in SQUASHING 2 ms after it was accepted and not before; an instance whose grace is over is
squashed. Once nothing of a squashed instance is in flight, its reset is complete: the instance is in RESET_DONE, it has no context, no
graph and no service left, and the commands that waited for its reset are done. One that is to be destroyed is gone, with its page. -/
def Obligations.ResetsComplete : Prop :=
  ∀ (s : State) (n : Fin 64) (t : Nat), s.dev.power = .on →
    let d := s.dev.advance t
    (∀ t0, (d.page n.val).state = .draining → (d.inst n.val).drainT = some t0 →
      (t0 + 2000000 ≤ d.now → Ends (.drainTimeout n t) s (Dev.keep d (d.beginSquash n.val).settle)) ∧
      (d.now < t0 + 2000000 → Ends (.drainTimeout n t) s (Dev.keep d d))) ∧
    (∀ t0, d.trans = none → (d.inst n.val).graceEnd = some t0 → t0 ≤ d.now →
      (d.page n.val).state = .active ∨ (d.page n.val).state = .orphaned → Ends (.evictGraceEnd n t) s
        (Dev.keep d ((d.setInst n.val { d.inst n.val with graceEnd := none }).beginSquash n.val).settle)) ∧
    (d.quietInst n.val = true → (d.inst n.val).destroy = false → (d.page n.val).state = .squashing →
      ∃ e : Dev, Ends (.resetComplete n t) s (Dev.keep d e.advanceTrans.settle) ∧ (e.page n.val).state = .resetDone ∧
        (∀ c x, e.ctxs.look c = some x → x.inst ≠ n.val) ∧ (∀ g x, e.graphs.look g = some x → x.inst ≠ n.val) ∧
        Tab.look e.serving n.val = none ∧
        (∀ x, x ∈ e.done → x.opcode ∈ resetOps → x.arg = n.val → x.ready = true)) ∧
    (d.quietInst n.val = true → (d.inst n.val).destroy = true → (d.page n.val).state = .resetDone →
      ∃ e : Dev, Ends (.resetComplete n t) s (Dev.keep d e.advanceTrans.settle) ∧ (e.page n.val).state = .free ∧
        Tab.look e.insts n.val = none)

/-! ### Power, temperature, clocks and reset domains (R30, R398 to R412, R453 to R465) -/

/-- R457, R460 to R464: a site reads the higher of its two sensors, and 106 °C without one; readings more than 5 °C apart, and a failed sensor, set SENSOR. A step above 105 °C takes one from the engine's duty, and sets THROTTLE; a step below 102 °C gives one
back. The thermal figure follows the four temperatures where it differs by 16 GB/s. Above 420 W the rind takes a step from every engine
and sets HW_LIMIT; below 400 W it gives one back. Between 90 % and 98 % of the cap Sebry changes nothing; above, it lowers the engines of
LEASE groups first. VAUX33 goes off on an overload, and comes back on a retry that finds none. -/
def Obligations.PowerAndHeatAreHeld : Prop :=
  ∀ (s : State) (t : Nat), s.dev.power = .on →
    let d := s.dev.advance t
    (∀ (g : Fin 64) (x y : Option Int) n, d.therm.lookD g.val 0 = n → let tj := siteReading x y
      (1050 < tj → n < 15 → ∃ e : Dev, Ends (.thermalThrottleStep g.val x y t) s (Dev.keep d e) ∧ e.therm.lookD g.val 0 = n + 1 ∧
        e.hwDuty g.val = d.hwDuty g.val - 1 ∧ e.getB aPwrStatus 1 = true ∧ (n = 0 → (16, g.val) ∈ e.held) ∧
        e.getB aPwrStatus 5 = (d.getB aPwrStatus 5 || sensorsDiffer x y)) ∧
      (tj < 1020 → 0 < n → ∃ e : Dev, Ends (.thermalReleaseStep g.val x y t) s (Dev.keep d e) ∧ e.therm.lookD g.val 0 = n - 1 ∧
        e.hwDuty g.val = min (e.thermDuty g.val) (d.hwDuty g.val + 1)) ∧
      (1020 ≤ tj → ∃ e : Dev, Ends (.thermalReleaseStep g.val x y t) s (Dev.keep d e) ∧
        e.getB aPwrStatus 5 = (d.getB aPwrStatus 5 || sensorsDiffer x y) ∧
        Dev.Frame d e [.counters, .interrupts, .log] fun a => a = aPwrTjmax ∨ cntRegs a ∨ (a = aPwrStatus ∧ sensorsDiffer x y = true))) ∧
    (∀ (site : Nat) x y, let e := d.sensorCheck site x y
      Ends (.thermalThrottleStep site x y t) s (Dev.keep d (e.throttle site (siteReading x y))) ∧
      Ends (.thermalReleaseStep site x y t) s (Dev.keep d (e.thermRelease site (siteReading x y)))) ∧
    (∀ x y : Int, siteReading (some x) (some y) = max x y ∧ (sensorsDiffer (some x) (some y) = true ↔ 50 < x - y ∨ 50 < y - x)) ∧
    siteReading none none = 1060 ∧ (∀ x, sensorsDiffer none x = true ∧ sensorsDiffer x none = true) ∧
    (∀ temps : List Int,
      (d.getF aPwrTherm 12 0 + 16 ≤ d.thermalFig temps ∨ d.thermalFig temps + 16 ≤ d.getF aPwrTherm 12 0 →
        ∃ e : Dev, Ends (.thermalFigureEval temps t) s (Dev.keep d e.reFig) ∧ e.getF aPwrTherm 12 0 = d.thermalFig temps) ∧
      (d.getF aPwrTherm 12 0 < d.thermalFig temps + 16 → d.thermalFig temps < d.getF aPwrTherm 12 0 + 16 →
        ∃ e, Ends (.thermalFigureEval temps t) s (Dev.keep d e) ∧ Dev.Frame d e [] fun a => a = aPwrTstack)) ∧
    (∀ w : Nat,
      (420 < w → ∃ e : Dev, Ends (.powerLimitStep w t) s (Dev.keep d e) ∧ e.getB aPwrStatus 2 = true ∧
        ∀ g : Nat, g < 64 → e.hwDuty g = d.hwDuty g - 1) ∧
      (w < 400 → d.getB aPwrStatus 2 = true → ∃ e : Dev, Ends (.powerLimitStep w t) s (Dev.keep d e) ∧
        (∀ g : Nat, g < 64 → e.hwDuty g = min (d.thermDuty g) (d.hwDuty g + 1)) ∧
        (e.getB aPwrStatus 2 = true ↔ ∃ g : Nat, g < 64 ∧ e.hwDuty g < d.thermDuty g)) ∧
      (400 ≤ w → w ≤ 420 → ∃ e, Ends (.powerLimitStep w t) s (Dev.keep d e) ∧ Dev.Frame d e [.supervision] fun a => a = aPwrAvg)) ∧
    (∀ w : Nat, let cap := d.getF aPwrCtrl 8 0
      d.cpaLost = none →
      (90 * cap ≤ 100 * w → 100 * w ≤ 98 * cap → ∃ e, Ends (.capCheck w t) s (Dev.keep d e) ∧
        Dev.Frame d e [.supervision] fun a => a = aPwrAvg) ∧
      (98 * cap < 100 * w → (d.kindEngines .lease).any d.canLower = true → ∃ e, Ends (.capCheck w t) s (Dev.keep d e) ∧
        ∀ g : Nat, g < 64 → e.getF (aGxDuty g) 11 8 =
          if g ∈ d.kindEngines .lease then d.getF (aGxDuty g) 11 8 - 1 else d.getF (aGxDuty g) 11 8)) ∧
    (d.auxOff = false → ∃ e : Dev, Ends (.vauxOverload t) s (Dev.keep d e) ∧ e.auxOff = true ∧ e.getB aPwrStatus 3 = true ∧
      Dev.Frame d e [.supervision] fun a => a = aPwrStatus) ∧
    (d.auxOff = true → ∃ e : Dev, Ends (.vauxRetry false t) s (Dev.keep d e) ∧ e.auxOff = false ∧
      Dev.Frame d e [.supervision] fun _ => False)

/-- R399, R400, R405, R406, R408, R410, R411: a clock's frequency changes while it runs; STOP stops it. A running clock that fails its
monitor sets MON_FAULT and is counted: that of a die takes the die offline, that of the control processors or of what they need leads to
their loss, another resets its domain and posts event 15. A gated domain that is asked for wakes; one that does not sets MON_FAULT. An idle
one is stopped. A requested reset quiesces its domain, which then is in reset, and a release lets it run. -/
def Obligations.ClocksAndDomainsFollow : Prop :=
  ∀ (s : State) (i : Fin 22) (r : Fin 20) (t : Nat), s.dev.power = .on →
    let d := s.dev.advance t
    (∀ v : Word,
      ((clkStep i.val).isSome = true → v.fld 23 0 ≠ d.getF (aClkCtrl i.val) 23 0 → d.getB (aClkStatus i.val) 24 = true →
        v.bit 24 = false → d.getB (aClkCtrl i.val) 24 = false → ∃ e, Ends (.clkFreqSet i v t) s (Dev.keep d e) ∧
          e.getF (aClkCtrl i.val) 23 0 = v.fld 23 0 ∧ e.getF (aClkStatus i.val) 23 0 = d.clkFor i.val (v.fld 23 0) ∧
          e.getB (aClkCtrl i.val) 25 = v.bit 25) ∧
      (noStop i.val = false → v.bit 24 = true → ∃ e, Ends (.clkFreqSet i v t) s (Dev.keep d e) ∧
        e.getB (aClkStatus i.val) 24 = false ∧ e.getF (aClkStatus i.val) 23 0 = 0 ∧ e.getB (aClkCtrl i.val) 24 = true)) ∧
    (d.getB (aClkStatus i.val) 24 = true →
      let x := ((d.setB (aClkStatus i.val) 26 true).logE 15 0 i.val (aClkStatus i.val) 0).countDev 3
      (i.val ≤ 3 → Ends (.clkMonFault i t) s (Dev.keep d ((x.domReset (3 + i.val) true).offline i.val).settle)) ∧
      (i.val ∈ [4, 8, 20, 21] → ∃ e : Dev, Ends (.clkMonFault i t) s (Dev.keep d e) ∧ e.clkFail = true ∧ e.cpaLost ≠ none ∧ e.cpbLost ≠ none) ∧
      (i.val ∈ [5, 6, 7, 9, 10, 11, 12, 13, 14, 15] →
        Ends (.clkMonFault i t) s (Dev.keep d ((x.domReset (clkDomain i.val) true).post 64 15 i.val 0).settle))) ∧
    (d.gatedNow i.val = true →
      (∃ e, Ends (.domainWake i t) s (Dev.keep d e) ∧ e.getB (aClkStatus i.val) 24 = true) ∧
      (i.val ≠ 9 → ∃ e, Ends (.domainWakeTimeout i t) s (Dev.keep d e) ∧ e.getB (aClkStatus i.val) 26 = true ∧
        e.getB (aClkStatus i.val) 24 = false)) ∧
    (autoGated i.val = true → s.dev.getB (aClkCtrl i.val) 25 = true → s.dev.getB (aClkStatus i.val) 24 = true → s.dev.idleDomain i.val = true →
      ∃ e, Ends (.autogateStop i) s (Dev.keep (s.dev.advance 0) e) ∧ e.getB (aClkStatus i.val) 24 = false ∧
        Dev.Frame (s.dev.advance 0) e [] fun a => a = aClkStatus i.val) ∧
    (d.getF (aRstDomStatus r.val) 2 0 = 0 → d.rstAllowed r.val = true → ∃ e : Dev, e.getF (aRstDomStatus r.val) 2 0 = 1 ∧
      e.rstT.look r.val = some d.now ∧ (7 ≤ r.val → Ends (.rstDomReq r t) s (Dev.keep d e)) ∧
      (r.val < 7 → Ends (.rstDomReq r t) s (Dev.keep d (e.tearAll fun c => e.ctxOn c (r.val - 3) || e.ctxIn c (r.val - 3)).settle))) ∧
    (d.rstAllowed r.val = false → Ends (.rstDomReq r t) s (Dev.keep d (d.noEffect 71 (aRstDomCtrl r.val) 1))) ∧
    (d.getF (aRstDomStatus r.val) 2 0 = 1 → d.inFlight r.val = false →
      Ends (.rstDomInReset r t) s (Dev.keep d (d.domReset r.val false).settle)) ∧
    (11 ≤ r.val → r.val ≤ 14 → (d.domReset r.val false).getF (aRstDomStatus r.val) 2 0 = 2 ∧
      (d.domReset r.val false).getB (aRstDomStatus r.val) 3 = false) ∧
    (d.getF (aRstDomStatus r.val) 2 0 = 2 → ∃ e : Dev, e.getF (aRstDomStatus r.val) 2 0 = 0 ∧ Ends (.rstDomRel r t) s (Dev.keep d e.settle))

/-- R32, R33, R36: a wake event of a configured source leads from PARK to DRIVE, and in SERVICE posts event 9 alone. DRIVE ready, once
every SAFETY group is whole and has passed a reference run, puts DRIVE in force without DEGRADED, and the PERS_SET that
asked for it is done. -/
def Obligations.WakesLeadToDrive : Prop :=
  ∀ (s : State) (t : Nat), s.dev.power = .on →
    let d := s.dev.advance t
    (∀ src : WakeSrc, d.wakes src = true → d.cpaLost = none → d.trans = none →
      (d.pers = .park → Ends (.wakeEvent src t) s (Dev.keep d (d.toDrive .park []))) ∧
      (d.pers = .service → ∀ n, src = .pin n → Ends (.wakeEvent src t) s (Dev.keep d (d.post 64 9 n.val 0)))) ∧
    (∀ x : Transition, d.trans = some x → x.dst = .drive → x.did 6 = true → bitOf d.fuseOpen 0 = false →
      (∀ g, g ∈ d.safetyGroups → d.groupWhole g.1 g.2 = true ∧ d.hasRef g.1 = true ∧ g.2.refOk = true) →
      ∃ e : Dev, Ends (.driveReady t) s (Dev.keep d ((e.persDone 0).settle)) ∧ e.pers = .drive ∧ e.degraded = false ∧ e.trans = none)

/-! ### Device resets, power, SLEEP (R273, R407, R453 to R456, R465 to R468, R495) -/

/-- R273, R407, R423, R453, R456, R465, R467, R468, R495: what ends and begins the device's run. RST_DEV resets it in SERVICE, RESET_N in
every state with power, and RESET_DELAY once it has run out since the loss of CPA or CPB. After power-good, and after each of these
resets, fuses stand. VIN out of its range leaves no power. A running rail of a die that fails takes the die offline; another one, and a thermal shutdown,
leave the rind alone. A commitment to SLEEP in PARK leaves the rind, and a wake of an enabled source boots. -/
def Obligations.DeviceResetsAndPower : Prop :=
  ∀ (s : State) (t : Nat), let d := s.dev.advance t
    let ends (c : Instr) (e : Dev) := exec c s = .next { s with dev := { e with fuse := s.dev.fuse } }
    (∀ v : Word, s.dev.power = .on → v.bit 0 = true → s.dev.pers = .service → ends (.rstDev v t) (d.devReset 4)) ∧
    (∀ v : Word, s.dev.power = .on → v.bit 0 = false ∨ s.dev.pers ≠ .service → ends (.rstDev v t) (Dev.keep d d)) ∧
    ends (.resetN t) (s.dev.devReset 2) ∧
    (s.dev.power = .on → d.delayOver = true → ends (.resetDelayExpire t) (d.devReset (if s.dev.clkFail then 5 else 3))) ∧
    ends (.powerGood t) s.dev.powerGood ∧
    (∃ e : Dev, ends (.vinOvervoltage t) e ∧ ends (.vinUndervoltage t) e ∧ e.power = .none ∧ e.flash = s.dev.flash ∧ e.keys = [] ∧
      e.queues = [] ∧ e.insts = []) ∧
    (∀ rail n, s.dev.power = .on → s.dev.railRuns rail = true → railDie rail = some n →
      ends (.railFault rail t) (Dev.keep d ((d.domReset (3 + n) true).offline n).settle)) ∧
    (∀ rail, s.dev.power = .on → s.dev.railRuns rail = true → railDie rail = none → let e := (d.setB aPwrEvt 1 true).shutdown
      ends (.railFault rail t) e ∧ e.power = .shut ∧ e.getB aPwrEvt 1 = true) ∧
    (∀ site : Nat, site < 256 → s.dev.power = .on → ∃ e : Dev, ends (.thermalShutdown site t) e ∧ e.power = .shut ∧
      e.getB aPwrEvt 0 = true ∧ e.getF aPwrEvt 15 8 = site) ∧
    (s.dev.power = .on → d.pers = .park → ∃ e : Dev, ends (.sleepCommit t) e ∧ e.power = .sleep ∧ e.pers = .sleep ∧ e.queues = [] ∧
      e.keys = s.dev.keys ∧ ∀ i, i < 21 → e.getB (aClkStatus i) 24 = false) ∧
    (∀ timer pins, s.dev.power = .sleep → s.dev.fired timer pins ≠ [] →
      ends (.sleepWake timer pins t) (s.dev.wakeBoot (s.dev.fired timer pins)))

/-! ### Registers, cores and debug (R9, R26, R281 to R288, R428, R435, R438 to R445) -/

/-- R428, R435, R441, R442, R445: a certificate that every check passes opens its enables; one that fails leaves its code and opens none. A
halt under an open enable halts the core at once, a resumption lets it go on, a trace of it runs, and registers are read and written under enable 0. What
no enable covers is denied: it reads 0 and sets the mark, which a clear takes away. CLOSE closes what a certificate opened. ZEROISE empties every key slot. A lock of the worlds stays. -/
def Obligations.DebugAndKeysAreGuarded : Prop :=
  ∀ (s : State) (t : Nat), s.dev.power = .on →
    let d := s.dev.advance t
    let o := s.dev.advance 0
    (∀ b : List Byte, b.length = 288 → d.auxOff = false → ∃ e, Ends (.debugCert b t) s (Dev.keep d e) ∧
      (Dev.Frame d e [.counters, .interrupts, .log] fun a => a = aDbgStatus ∨ cntRegs a) ∧
      if d.certCheck b = 0 then
        ∀ k, k < 4 → bitOf (wordAt b 28) k = true → e.getB aDbgStatus k = true ∧ e.getB aDbgStatus (k + 4) = true
      else e.getF aDbgStatus 15 12 = d.certCheck b ∧ e.getF aDbgStatus 7 0 = d.getF aDbgStatus 7 0) ∧
    (∀ n : Nat, n < 26 → d.auxOff = false →
      (d.dbgEn (if d.viCore n then 0 else 2) = true →
        (∃ e : Dev, Ends (.debugAccess (.halt n) t) s (Dev.keep d e) ∧ (e.dbgHalt.look n).isSome = true ∧ Dev.Frame d e [.debug] fun _ => False) ∧
        (∃ e : Dev, Ends (.debugAccess (.resume n) t) s (Dev.keep d e) ∧ e.dbgHalt.look n = none ∧
          Dev.Frame d e [.debug, .safety] fun _ => False)) ∧
      (d.dbgEn (if d.viCore n then 0 else 2) = false → ∃ e : Dev, Ends (.debugAccess (.halt n) t) s (Dev.keep d e) ∧ e.dbgHalt = d.dbgHalt ∧
        e.dbgDenied = true ∧ e.lastAcc = .read [0, 0, 0, 0])) ∧
    (d.auxOff = false → d.dbgEn 0 = true → ∀ a v, Ends (.debugAccess (.read a) t) s (Dev.keep d (d.fwRead .dbg a)) ∧
      Ends (.debugAccess (.write a v) t) s (Dev.keep d (d.fwWrite .dbg a v))) ∧
    (∀ n : Nat, n < 26 → d.auxOff = false → ∃ e : Dev, Ends (.debugAccess (.trace n) t) s (Dev.keep d e) ∧
      if d.dbgEn (if d.viCore n then 1 else 3) = true then (if n < 24 then n / 8 * 8 else n) ∈ e.trace ∧ Dev.Frame d e [.debug] fun _ => False
      else e.dbgDenied = true ∧ e.trace = d.trace) ∧
    (d.auxOff = false → d.dbgEn 0 = false → d.dbgEn 1 = false → d.dbgEn 2 = false → ∀ a, ∃ e : Dev,
      Ends (.debugAccess (.read a) t) s (Dev.keep d e) ∧ e.dbgDenied = true ∧ e.lastAcc = .read [0, 0, 0, 0]) ∧
    (d.auxOff = false → d.dbgEn 0 = false → d.dbgEn 2 = false → ∀ a v, ∃ e : Dev, Ends (.debugAccess (.write a v) t) s (Dev.keep d e) ∧
      e.dbgDenied = true ∧ Dev.Frame d e [.debug, .counters, .accesses, .interrupts, .log] cntRegs) ∧
    (d.auxOff = false → ∃ e : Dev, Ends (.debugAccess .clearDenied t) s (Dev.keep d e) ∧ e.dbgDenied = false ∧ Dev.Frame d e [.debug] fun _ => False) ∧
    (∀ v : Word, Ends (.debugClose v) s (Dev.keep o (o.closeDbg (v.fld 3 0)).fiCheck) ∧
      ∀ k, k < 4 → v.bit k = true → (o.closeDbg (v.fld 3 0)).getB aDbgStatus (k + 4) = false) ∧
    (∀ v : Word, v.bit 0 = true → ∃ e : Dev, Ends (.keyZeroise v) s (Dev.keep o e) ∧ e.keys = [] ∧
      (∀ p x, e.gw.macsec.look p = some x → x.valid = []) ∧ e.queues = o.queues ∧ Dev.Same o e .memory) ∧
    (∃ e, Ends .worldLock s (Dev.keep o e) ∧ e.getB aWorldLock 0 = true ∧ Dev.Frame o e [] fun a => a = aWorldLock)

/-- R9, R10, R26, R277, R281, R282, R284, R286, R288, R293: a write of CPA to a budget register writes it as its fields allow and
no other register; a SAFE_ register takes only CPB's. A core's access to its own page acts on the page; a store of a core to memory
that every check passes and nothing holds writes those bytes and, where no dirty log runs, no other; where a check refuses, nothing is
written, the regulator records the address and the core takes an access fault. A core that does not execute makes no access. Of a twinned
pair, a write of the leading core waits in the compare queue and goes out once the trailing core has made it too; a load of the trailing
core is answered from the load-value queue, and one of another address is a finding (R252). -/
def Obligations.RegisterWritesAndCoreAccesses : Prop :=
  ∀ (s : State) (t : Nat), s.dev.power = .on →
    let d := s.dev.advance t
    (∀ v : Word, s.dev.fwRuns .cpa = true →
      (∀ m prof, m < 192 → prof < 8 → ∃ e, Ends (.registerWrite .cpa (aBwrMbud m prof) v t) s (Dev.keep d e) ∧
        e.reg (aBwrMbud m prof) = RegField.write ((regFields (aBwrMbud m prof)).getD []) (d.reg (aBwrMbud m prof)) v ∧
        Dev.Frame d e [] fun a => a = aBwrMbud m prof) ∧
      (∀ a, 0x7F00040000 ≤ a → a < 0x7F00050000 → ∃ e, Ends (.registerWrite .cpa a v t) s (Dev.keep d e) ∧ Dev.Frame d e [.log] fun _ => False)) ∧
    (∀ (core : Fin 24) kind a n data, d.coreExecutes core.val = false →
      Ends (.applicationCoreAccess core kind a n data t) s (Dev.keep d d)) ∧
    (∀ (core : Fin 24) kind a n data, d.coreExecutes core.val = true → d.twinnedCore core.val = false → kind ≠ .fetch → isPage a = true →
      d.corePage core.val (pageAt a) = true → a % 65536 + n ≤ 65536 → Ends (.applicationCoreAccess core kind a n data t) s
        (Dev.keep d (d.pageAcc (pageAt a) (a % 65536) (if kind = .store then some (data.take n) else none) n (.core core)))) ∧
    (∀ (core : Fin 24) kind a n data (i : Nat), d.coreExecutes core.val = true → d.twinnedCore core.val = false → isPage a = false → d.coreInst core.val = some i →
      d.quietAt a n = false → (∀ x, d.accBad (d.inst i).pt i a n = some x → ∃ e : Dev,
        Ends (.applicationCoreAccess core kind a n data t) s (Dev.keep d e) ∧ e.lastAcc = .coreFault x ∧
        e.reg aBwrFaultLo = BitVec.ofNat 32 x ∧ e.getB aBwrStatus 9 = true ∧ Dev.Same d e .memory)) ∧
    (∀ (core : Fin 24) a n data, d.coreExecutes core.val = true → d.twinnedCore core.val = true →
      let q := d.hostQs.lookD (core.val / 2) {}
      (core.val % 2 = 0 → q.writes.length < 64 → ∃ e, Ends (.applicationCoreAccess core .store a n data t) s (Dev.keep d e) ∧
        (e.hostQs.lookD (core.val / 2) {}).writes = q.writes ++ [(a, n, data.take n)] ∧ Dev.Same d e .memory ∧
        e.getF (aTwinHstatus (core.val / 2)) 14 8 = q.writes.length + 1) ∧
      (∀ ws, core.val % 2 = 1 → q.writes = (a, n, data.take n) :: ws → ∃ lead : Fin 24, lead.val = core.val - 1 ∧
        Ends (.applicationCoreAccess core .store a n data t) s
          (Dev.keep d ((d.setHostQ (core.val / 2) { q with writes := ws }).coreIssue lead .store a n (data.take n)))) ∧
      (∀ r ls, core.val % 2 = 1 → q.loads = (a, n, r) :: ls → ∃ e, Ends (.applicationCoreAccess core .load a n data t) s (Dev.keep d e) ∧
        e.lastAcc = r ∧ (e.hostQs.lookD (core.val / 2) {}).loads = ls ∧ Dev.Same d e .memory) ∧
      (∀ r ls b, core.val % 2 = 1 → q.loads = (b, n, r) :: ls → a ≠ b →
        ∃ e, Ends (.applicationCoreAccess core .load a n data t) s (Dev.keep d e) ∧ e.getF (aTwinHstatus (core.val / 2)) 2 0 = 4 ∧
          Dev.Same d e .memory)) ∧
    (∀ (core : Fin 24) a n data (i : Nat), d.coreExecutes core.val = true → d.twinnedCore core.val = false → isPage a = false → d.coreInst core.val = some i →
      d.quietAt a n = false → d.accBad (d.inst i).pt i a n = none → d.mustWait a n true = false → d.behindCore core.val a n = false →
      d.pathLost none a n = false → d.stalled (68 + core.val / 8) = false → n ≤ data.length → d.loggers = [] →
      ∃ e : Dev, Ends (.applicationCoreAccess core .store a n data t) s (Dev.keep d e.settle) ∧
        (∀ x, (x < a ∨ a + n ≤ x) → e.rd8 x = d.rd8 x) ∧
        ∀ k (h : k < (data.take n).length), e.rd8 (a + k) = (data.take n)[k])

/-- R281, R283, R286: isolation. A store of a core reaches only bytes of granules that its instance may reach: where some byte changes,
the ownership entry of the byte's granule passes for the partition and the instance that the core's cluster is bound to, or the byte is of
a bitmap of a dirty log that runs. -/
def Obligations.StoresStayInOwnedMemory : Prop :=
  ∀ (d : Dev) (core a n : Nat) (data : List Byte) (x : Nat),
    (d.coreMem core true a n data).rd8 x ≠ d.rd8 x →
    (∃ i k, d.coreInst core = some i ∧ d.phys x = some k ∧ isDram k = true ∧ ownPasses (d.ownOf k) (d.inst i).pt i = true) ∨
    ∃ j ∈ d.loggers, (d.page j).dl.inMaps x = true
end

