-- ==== Sys2Proof/Laws/Bits.lean ====
section
/-! SUPPORT. Bit fields: a field reads what was last written to it, and a write leaves the bits outside it. -/

namespace Sys2Proof

theorem getLsbD_fieldMask (hi lo i : Nat) : (fieldMask hi lo).getLsbD i = (decide (lo ≤ i) && decide (i ≤ hi) && decide (i < 32)) := by
  unfold fieldMask
  rw [BitVec.getLsbD_ofNat, Nat.testBit_mul_two_pow, Nat.testBit_two_pow_sub_one]
  rcases Nat.lt_or_ge i lo with h | h
  · simp [Nat.not_le.mpr h]
  · simp only [h, decide_true, Bool.true_and]
    by_cases h1 : i ≤ hi <;> by_cases h2 : i < 32 <;> simp [h1, h2] <;> omega

/-- Bit i after a field write. -/
theorem Word.getLsbD_put (w : Word) (hi lo v i : Nat) :
    (w.put hi lo v).getLsbD i = if lo ≤ i ∧ i ≤ hi ∧ i < 32 then v.testBit (i - lo) else w.getLsbD i := by
  unfold Word.put
  simp only [BitVec.getLsbD_or, BitVec.getLsbD_and, BitVec.getLsbD_not, getLsbD_fieldMask, BitVec.getLsbD_ofNat,
    Nat.testBit_mul_two_pow]
  by_cases h1 : lo ≤ i <;> by_cases h2 : i ≤ hi <;> by_cases h3 : i < 32 <;> simp [h1, h2, h3]
  all_goals first
    | (intro h; exact absurd h (by omega))
    | (rw [BitVec.getLsbD_of_ge]; omega)
    | skip

theorem testBit_bitsOf (n hi lo i : Nat) : (bitsOf n hi lo).testBit i = (decide (i < hi + 1 - lo) && n.testBit (lo + i)) := by
  unfold bitsOf
  rw [Nat.testBit_mod_two_pow, Nat.testBit_div_two_pow]
  simp [Nat.add_comm]

theorem Word.testBit_fld (w : Word) (hi lo i : Nat) : (w.fld hi lo).testBit i = (decide (i < hi + 1 - lo) && w.getLsbD (lo + i)) := by
  unfold Word.fld; rw [testBit_bitsOf]; rfl

/-- A field reads the low bits of what was written to it. -/
theorem Word.fld_put_self (w : Word) (hi lo v : Nat) (h : hi < 32) : (w.put hi lo v).fld hi lo = v % 2 ^ (hi + 1 - lo) := by
  apply Nat.eq_of_testBit_eq
  intro i
  rw [Word.testBit_fld, Word.getLsbD_put, Nat.testBit_mod_two_pow]
  by_cases h1 : i < hi + 1 - lo
  · have h2 : lo ≤ lo + i ∧ lo + i ≤ hi ∧ lo + i < 32 := ⟨by omega, by omega, by omega⟩
    rw [if_pos h2]; simp [h1]
  · simp [h1]

/-- A write leaves a field that shares no bit with it. -/
theorem Word.fld_put_ne (w : Word) (hi lo v hi' lo' : Nat) (h : hi' < lo ∨ hi < lo') :
    (w.put hi lo v).fld hi' lo' = w.fld hi' lo' := by
  apply Nat.eq_of_testBit_eq
  intro i
  rw [Word.testBit_fld, Word.testBit_fld, Word.getLsbD_put]
  by_cases h1 : i < hi' + 1 - lo'
  · rw [if_neg (by omega)]
  · simp [h1]

theorem bitOf_eq (n i : Nat) : bitOf n i = n.testBit i := by
  unfold bitOf; rw [Nat.testBit_eq_decide_div_mod_eq]

theorem Word.bit_eq (w : Word) (i : Nat) : w.bit i = w.getLsbD i := bitOf_eq w.toNat i

theorem testBit_b2n_zero (b : Bool) : (b2n b).testBit 0 = b := by cases b <;> rfl

/-- A bit reads what was last written to it. -/
theorem Word.bit_put_self (w : Word) (i : Nat) (b : Bool) (h : i < 32) : (w.put i i (b2n b)).bit i = b := by
  rw [Word.bit_eq, Word.getLsbD_put, if_pos ⟨Nat.le_refl _, Nat.le_refl _, h⟩, Nat.sub_self, testBit_b2n_zero]

/-- A write leaves a bit outside the field. -/
theorem Word.bit_put_ne (w : Word) (hi lo v i : Nat) (h : i < lo ∨ hi < i) : (w.put hi lo v).bit i = w.bit i := by
  rw [Word.bit_eq, Word.bit_eq, Word.getLsbD_put, if_neg (by omega)]

end Sys2Proof
end

