-- ==== Sys2Proof/Laws/Memory.lean ====
section
/-! SUPPORT. Memory: a read after a write, and the canonical form that every operation keeps. -/

namespace Sys2Proof.Machine

@[simp] theorem Memory.wf_nil : Memory.wf [] = true := rfl

/-- The canonical form, one cell at a time. -/
theorem Memory.wf_cons (k : Nat) (v : Byte) (m : Memory) :
    Memory.wf ((k, v) :: m) = true ↔ v ≠ Memory.blank ∧ (∀ c ∈ m.head?, k < c.1) ∧ Memory.wf m = true := by
  cases m with
  | nil => simp [Memory.wf]
  | cons c m => obtain ⟨k', v'⟩ := c; simp [Memory.wf, and_assoc]

/-- Below the first cell everything reads blank. -/
theorem Memory.read_below {m : Memory} {a : Nat} (h : Memory.wf m = true) (hb : ∀ c ∈ m.head?, a < c.1) :
    Memory.read m a = Memory.blank := by
  induction m with
  | nil => rfl
  | cons c m ih =>
    obtain ⟨k, v⟩ := c
    rw [Memory.wf_cons] at h
    have hk : a < k := hb (k, v) (by simp)
    have : k ≠ a := by omega
    simp only [Memory.read, this, if_false]
    exact ih h.2.2 fun c hc => Nat.lt_trans hk (h.2.1 c hc)

/-- The first cell of a filtered memory lies no lower. -/
theorem Memory.head_filter {m : Memory} {k : Nat} (p : Host.Cell → Bool) (h : Memory.wf m = true) (hh : ∀ c ∈ m.head?, k < c.1) :
    ∀ c ∈ (m.filter p).head?, k < c.1 := by
  induction m with
  | nil => simp
  | cons c m ih =>
    obtain ⟨k', v⟩ := c
    rw [Memory.wf_cons] at h
    have hk : k < k' := hh (k', v) (by simp)
    simp only [List.filter]
    split
    · simpa using hk
    · exact ih h.2.2 fun c hc => Nat.lt_trans hk (h.2.1 c hc)

/-- Taking cells away keeps the canonical form. -/
theorem Memory.wf_filter (m : Memory) (p : Host.Cell → Bool) (h : Memory.wf m = true) : Memory.wf (m.filter p) = true := by
  induction m with
  | nil => rfl
  | cons c m ih =>
    obtain ⟨k, v⟩ := c
    rw [Memory.wf_cons] at h
    simp only [List.filter]
    split
    · rw [Memory.wf_cons]; exact ⟨h.1, Memory.head_filter p h.2.2 h.2.1, ih h.2.2⟩
    · exact ih h.2.2

/-- The first cell after a put. -/
theorem Memory.head_put {m : Memory} {a k : Nat} {b : Byte} (h : ∀ c ∈ m.head?, k < c.1) (ha : k < a) :
    ∀ c ∈ (Memory.put m a b).head?, k < c.1 := by
  cases m with
  | nil => simp [Memory.put, ha]
  | cons c m =>
    obtain ⟨k', v⟩ := c
    have hk : k < k' := h (k', v) (by simp)
    simp only [Memory.put]
    split
    · simpa using ha
    · split <;> simp <;> omega

/-- A put keeps the canonical form. -/
theorem Memory.wf_put (m : Memory) (a : Nat) (b : Byte) (hb : b ≠ Memory.blank) (h : Memory.wf m = true) :
    Memory.wf (Memory.put m a b) = true := by
  induction m with
  | nil => simp [Memory.put, Memory.wf, hb]
  | cons c m ih =>
    obtain ⟨k, v⟩ := c
    have h0 := h
    rw [Memory.wf_cons] at h
    simp only [Memory.put]
    split
    · rename_i hk; rw [Memory.wf_cons]; exact ⟨hb, by simpa using hk, h0⟩
    · split
      · rename_i he; subst he; rw [Memory.wf_cons]; exact ⟨hb, h.2.1, h.2.2⟩
      · rw [Memory.wf_cons]; exact ⟨h.1, Memory.head_put h.2.1 (by omega), ih h.2.2⟩

/-- A write keeps the canonical form. -/
theorem Memory.wf_write (m : Memory) (a : Nat) (b : Byte) (h : Memory.wf m = true) : Memory.wf (Memory.write m a b) = true := by
  unfold Memory.write
  split
  · exact Memory.wf_filter m _ h
  · rename_i hb; exact Memory.wf_put m a b hb h

/-- A read among the cells that a condition on the address keeps. -/
theorem Memory.read_filter (m : Memory) (p : Nat → Bool) (a : Nat) :
    Memory.read (m.filter fun c => p c.1) a = if p a then Memory.read m a else Memory.blank := by
  induction m with
  | nil => simp [Memory.read]
  | cons c m ih =>
    obtain ⟨k, v⟩ := c
    simp only [List.filter]
    by_cases hk : k = a
    · subst hk
      cases hp : p k <;> simp [Memory.read, hp] at ih ⊢
      exact ih
    · cases hp : p k <;> simp [Memory.read, hk, ih]

/-- A read of the byte written. -/
theorem Memory.read_write_self (m : Memory) (a : Nat) (b : Byte) : Memory.read (Memory.write m a b) a = b := by
  unfold Memory.write
  split
  · rename_i hb
    have := Memory.read_filter m (fun k => decide (k ≠ a)) a
    simp only [ne_eq, not_true, decide_false, Bool.false_eq_true, if_false] at this
    rw [hb, ← this]
  · induction m with
    | nil => simp [Memory.put, Memory.read]
    | cons c m ih =>
      obtain ⟨k, v⟩ := c
      simp only [Memory.put]
      split
      · simp [Memory.read]
      · split
        · simp [Memory.read]
        · rename_i h1 h2; simp only [Memory.read, Ne.symm h2, if_false]; exact ih

/-- A write leaves every other byte. -/
theorem Memory.read_write_ne (m : Memory) {a x : Nat} (b : Byte) (h : x ≠ a) :
    Memory.read (Memory.write m a b) x = Memory.read m x := by
  unfold Memory.write
  split
  · have := Memory.read_filter m (fun k => decide (k ≠ a)) x
    simp only [ne_eq, h, not_false_eq_true, decide_true, if_true] at this
    exact this
  · induction m with
    | nil => simp [Memory.put, Memory.read, Ne.symm h]
    | cons c m ih =>
      obtain ⟨k, v⟩ := c
      simp only [Memory.put]
      split
      · simp [Memory.read, Ne.symm h]
      · split
        · rename_i he; subst he; simp [Memory.read, Ne.symm h]
        · simp [Memory.read, ih]

theorem Memory.wf_writeBytes (bs : List Byte) (m : Memory) (a : Nat) (h : Memory.wf m = true) :
    Memory.wf (Memory.writeBytes m a bs) = true := by
  induction bs generalizing m a with
  | nil => exact h
  | cons b t ih => exact ih _ _ (Memory.wf_write m a b h)

theorem Memory.wf_clear (m : Memory) (a n : Nat) (h : Memory.wf m = true) : Memory.wf (Memory.clear m a n) = true :=
  Memory.wf_filter m _ h

end Sys2Proof.Machine
end

