-- ==== Sys2Proof/Laws/State.lean ====
section
/-! SUPPORT. The fields of the device after the updates that the operations are built from: one lemma per field per update. -/

namespace Sys2Proof.Machine

@[simp] theorem Dev.advance_power (d : Dev) (t : Nat) : (d.advance t).power = d.power := rfl
@[simp] theorem Dev.advance_fuse (d : Dev) (t : Nat) : (d.advance t).fuse = d.fuse := rfl
@[simp] theorem Dev.advance_tb (d : Dev) (t : Nat) : (d.advance t).tb = max d.tb (t * 2 ^ 32) := rfl
@[simp] theorem Dev.advance_freeCtr (d : Dev) (t : Nat) : (d.advance t).freeCtr = d.freeCtr := rfl
@[simp] theorem Dev.advance_regs (d : Dev) (t : Nat) : (d.advance t).regs = d.regs := rfl
@[simp] theorem Dev.advance_own (d : Dev) (t : Nat) : (d.advance t).own = d.own := rfl
@[simp] theorem Dev.advance_mem (d : Dev) (t : Nat) : (d.advance t).mem = d.mem := rfl
@[simp] theorem Dev.advance_dramFree (d : Dev) (t : Nat) : (d.advance t).dramFree = d.dramFree := rfl
@[simp] theorem Dev.advance_msMem (d : Dev) (t : Nat) : (d.advance t).msMem = d.msMem := rfl
@[simp] theorem Dev.advance_msFree (d : Dev) (t : Nat) : (d.advance t).msFree = d.msFree := rfl
@[simp] theorem Dev.advance_poison (d : Dev) (t : Nat) : (d.advance t).poison = d.poison := rfl
@[simp] theorem Dev.advance_pers (d : Dev) (t : Nat) : (d.advance t).pers = d.pers := rfl
@[simp] theorem Dev.advance_wakeCo (d : Dev) (t : Nat) : (d.advance t).wakeCo = d.wakeCo := rfl
@[simp] theorem Dev.advance_degraded (d : Dev) (t : Nat) : (d.advance t).degraded = d.degraded := rfl
@[simp] theorem Dev.advance_trans (d : Dev) (t : Nat) : (d.advance t).trans = d.trans := rfl
@[simp] theorem Dev.advance_reported (d : Dev) (t : Nat) : (d.advance t).reported = d.reported := rfl
@[simp] theorem Dev.advance_faultLatched (d : Dev) (t : Nat) : (d.advance t).faultLatched = d.faultLatched := rfl
@[simp] theorem Dev.advance_driveCap (d : Dev) (t : Nat) : (d.advance t).driveCap = d.driveCap := rfl
@[simp] theorem Dev.advance_setupT (d : Dev) (t : Nat) : (d.advance t).setupT = d.setupT := rfl
@[simp] theorem Dev.advance_parts (d : Dev) (t : Nat) : (d.advance t).parts = d.parts := rfl
@[simp] theorem Dev.advance_egs (d : Dev) (t : Nat) : (d.advance t).egs = d.egs := rfl
@[simp] theorem Dev.advance_swapT (d : Dev) (t : Nat) : (d.advance t).swapT = d.swapT := rfl
@[simp] theorem Dev.advance_wheels (d : Dev) (t : Nat) : (d.advance t).wheels = d.wheels := rfl
@[simp] theorem Dev.advance_pages (d : Dev) (t : Nat) : (d.advance t).pages = d.pages := rfl
@[simp] theorem Dev.advance_insts (d : Dev) (t : Nat) : (d.advance t).insts = d.insts := rfl
@[simp] theorem Dev.advance_done (d : Dev) (t : Nat) : (d.advance t).done = d.done := rfl
@[simp] theorem Dev.advance_ctxs (d : Dev) (t : Nat) : (d.advance t).ctxs = d.ctxs := rfl
@[simp] theorem Dev.advance_ctxGen (d : Dev) (t : Nat) : (d.advance t).ctxGen = d.ctxGen := rfl
@[simp] theorem Dev.advance_queues (d : Dev) (t : Nat) : (d.advance t).queues = d.queues := rfl
@[simp] theorem Dev.advance_resid (d : Dev) (t : Nat) : (d.advance t).resid = d.resid := rfl
@[simp] theorem Dev.advance_kvStacks (d : Dev) (t : Nat) : (d.advance t).kvStacks = d.kvStacks := rfl
@[simp] theorem Dev.advance_kvPages (d : Dev) (t : Nat) : (d.advance t).kvPages = d.kvPages := rfl
@[simp] theorem Dev.advance_kvWait (d : Dev) (t : Nat) : (d.advance t).kvWait = d.kvWait := rfl
@[simp] theorem Dev.advance_graphs (d : Dev) (t : Nat) : (d.advance t).graphs = d.graphs := rfl
@[simp] theorem Dev.advance_serving (d : Dev) (t : Nat) : (d.advance t).serving = d.serving := rfl
@[simp] theorem Dev.advance_pairs (d : Dev) (t : Nat) : (d.advance t).pairs = d.pairs := rfl
@[simp] theorem Dev.advance_hostQs (d : Dev) (t : Nat) : (d.advance t).hostQs = d.hostQs := rfl
@[simp] theorem Dev.advance_tests (d : Dev) (t : Nat) : (d.advance t).tests = d.tests := rfl
@[simp] theorem Dev.advance_refRuns (d : Dev) (t : Nat) : (d.advance t).refRuns = d.refRuns := rfl
@[simp] theorem Dev.advance_wheelDirty (d : Dev) (t : Nat) : (d.advance t).wheelDirty = d.wheelDirty := rfl
@[simp] theorem Dev.advance_held (d : Dev) (t : Nat) : (d.advance t).held = d.held := rfl
@[simp] theorem Dev.advance_warnEnd (d : Dev) (t : Nat) : (d.advance t).warnEnd = d.warnEnd := rfl
@[simp] theorem Dev.advance_cpaLost (d : Dev) (t : Nat) : (d.advance t).cpaLost = d.cpaLost := rfl
@[simp] theorem Dev.advance_cpbLost (d : Dev) (t : Nat) : (d.advance t).cpbLost = d.cpbLost := rfl
@[simp] theorem Dev.advance_kickA (d : Dev) (t : Nat) : (d.advance t).kickA = d.kickA := rfl
@[simp] theorem Dev.advance_kickB (d : Dev) (t : Nat) : (d.advance t).kickB = d.kickB := rfl
@[simp] theorem Dev.advance_log (d : Dev) (t : Nat) : (d.advance t).log = d.log := rfl
@[simp] theorem Dev.advance_cnts (d : Dev) (t : Nat) : (d.advance t).cnts = d.cnts := rfl
@[simp] theorem Dev.advance_lockFull (d : Dev) (t : Nat) : (d.advance t).lockFull = d.lockFull := rfl
@[simp] theorem Dev.advance_irqs (d : Dev) (t : Nat) : (d.advance t).irqs = d.irqs := rfl
@[simp] theorem Dev.advance_latches (d : Dev) (t : Nat) : (d.advance t).latches = d.latches := rfl
@[simp] theorem Dev.advance_links (d : Dev) (t : Nat) : (d.advance t).links = d.links := rfl
@[simp] theorem Dev.advance_stackIfs (d : Dev) (t : Nat) : (d.advance t).stackIfs = d.stackIfs := rfl
@[simp] theorem Dev.advance_dieOff (d : Dev) (t : Nat) : (d.advance t).dieOff = d.dieOff := rfl
@[simp] theorem Dev.advance_keys (d : Dev) (t : Nat) : (d.advance t).keys = d.keys := rfl
@[simp] theorem Dev.advance_gw (d : Dev) (t : Nat) : (d.advance t).gw = d.gw := rfl
@[simp] theorem Dev.advance_boot (d : Dev) (t : Nat) : (d.advance t).boot = d.boot := rfl
@[simp] theorem Dev.advance_rstT (d : Dev) (t : Nat) : (d.advance t).rstT = d.rstT := rfl
@[simp] theorem Dev.advance_clkFail (d : Dev) (t : Nat) : (d.advance t).clkFail = d.clkFail := rfl
@[simp] theorem Dev.advance_capOver (d : Dev) (t : Nat) : (d.advance t).capOver = d.capOver := rfl
@[simp] theorem Dev.advance_capBase (d : Dev) (t : Nat) : (d.advance t).capBase = d.capBase := rfl
@[simp] theorem Dev.advance_therm (d : Dev) (t : Nat) : (d.advance t).therm = d.therm := rfl
@[simp] theorem Dev.advance_pwrMs (d : Dev) (t : Nat) : (d.advance t).pwrMs = d.pwrMs := rfl
@[simp] theorem Dev.advance_auxOff (d : Dev) (t : Nat) : (d.advance t).auxOff = d.auxOff := rfl
@[simp] theorem Dev.advance_flash (d : Dev) (t : Nat) : (d.advance t).flash = d.flash := rfl
@[simp] theorem Dev.advance_minSvn (d : Dev) (t : Nat) : (d.advance t).minSvn = d.minSvn := rfl
@[simp] theorem Dev.advance_pipes (d : Dev) (t : Nat) : (d.advance t).pipes = d.pipes := rfl
@[simp] theorem Dev.advance_vcs (d : Dev) (t : Nat) : (d.advance t).vcs = d.vcs := rfl
@[simp] theorem Dev.advance_cams (d : Dev) (t : Nat) : (d.advance t).cams = d.cams := rfl
@[simp] theorem Dev.advance_dmaCh (d : Dev) (t : Nat) : (d.advance t).dmaCh = d.dmaCh := rfl
@[simp] theorem Dev.advance_dmaLast (d : Dev) (t : Nat) : (d.advance t).dmaLast = d.dmaLast := rfl
@[simp] theorem Dev.advance_fi (d : Dev) (t : Nat) : (d.advance t).fi = d.fi := rfl
@[simp] theorem Dev.advance_injUnit (d : Dev) (t : Nat) : (d.advance t).injUnit = d.injUnit := rfl
@[simp] theorem Dev.advance_dbgHalt (d : Dev) (t : Nat) : (d.advance t).dbgHalt = d.dbgHalt := rfl
@[simp] theorem Dev.advance_dbgDenied (d : Dev) (t : Nat) : (d.advance t).dbgDenied = d.dbgDenied := rfl
@[simp] theorem Dev.advance_trace (d : Dev) (t : Nat) : (d.advance t).trace = d.trace := rfl
@[simp] theorem Dev.advance_waiting (d : Dev) (t : Nat) : (d.advance t).waiting = d.waiting := rfl
@[simp] theorem Dev.advance_lastAcc (d : Dev) (t : Nat) : (d.advance t).lastAcc = d.lastAcc := rfl

@[simp] theorem Dev.keep_power (d e : Dev) : (Dev.keep d e).power = d.power := rfl
@[simp] theorem Dev.keep_fuse (d e : Dev) : (Dev.keep d e).fuse = d.fuse := rfl
@[simp] theorem Dev.keep_tb (d e : Dev) : (Dev.keep d e).tb = d.tb := rfl
@[simp] theorem Dev.keep_freeCtr (d e : Dev) : (Dev.keep d e).freeCtr = e.freeCtr := rfl
@[simp] theorem Dev.keep_regs (d e : Dev) : (Dev.keep d e).regs = d.lockedRegs.foldl (fun r a => r.put a (d.reg a)) e.regs := rfl
@[simp] theorem Dev.keep_own (d e : Dev) : (Dev.keep d e).own = e.own := rfl
@[simp] theorem Dev.keep_mem (d e : Dev) : (Dev.keep d e).mem = e.mem := rfl
@[simp] theorem Dev.keep_dramFree (d e : Dev) : (Dev.keep d e).dramFree = e.dramFree := rfl
@[simp] theorem Dev.keep_msMem (d e : Dev) : (Dev.keep d e).msMem = e.msMem := rfl
@[simp] theorem Dev.keep_msFree (d e : Dev) : (Dev.keep d e).msFree = e.msFree := rfl
@[simp] theorem Dev.keep_poison (d e : Dev) : (Dev.keep d e).poison = e.poison := rfl
@[simp] theorem Dev.keep_pers (d e : Dev) : (Dev.keep d e).pers = e.pers := rfl
@[simp] theorem Dev.keep_wakeCo (d e : Dev) : (Dev.keep d e).wakeCo = e.wakeCo := rfl
@[simp] theorem Dev.keep_degraded (d e : Dev) : (Dev.keep d e).degraded = e.degraded := rfl
@[simp] theorem Dev.keep_trans (d e : Dev) : (Dev.keep d e).trans = e.trans := rfl
@[simp] theorem Dev.keep_reported (d e : Dev) : (Dev.keep d e).reported = e.reported := rfl
@[simp] theorem Dev.keep_faultLatched (d e : Dev) : (Dev.keep d e).faultLatched = (d.faultLatched || e.faultLatched) := rfl
@[simp] theorem Dev.keep_driveCap (d e : Dev) : (Dev.keep d e).driveCap = e.driveCap := rfl
@[simp] theorem Dev.keep_setupT (d e : Dev) : (Dev.keep d e).setupT = e.setupT := rfl
@[simp] theorem Dev.keep_parts (d e : Dev) : (Dev.keep d e).parts = e.parts := rfl
@[simp] theorem Dev.keep_egs (d e : Dev) : (Dev.keep d e).egs = e.egs := rfl
@[simp] theorem Dev.keep_swapT (d e : Dev) : (Dev.keep d e).swapT = e.swapT := rfl
@[simp] theorem Dev.keep_wheels (d e : Dev) : (Dev.keep d e).wheels = e.wheels := rfl
@[simp] theorem Dev.keep_pages (d e : Dev) : (Dev.keep d e).pages = e.pages := rfl
@[simp] theorem Dev.keep_insts (d e : Dev) : (Dev.keep d e).insts = e.insts := rfl
@[simp] theorem Dev.keep_done (d e : Dev) : (Dev.keep d e).done = e.done := rfl
@[simp] theorem Dev.keep_ctxs (d e : Dev) : (Dev.keep d e).ctxs = e.ctxs := rfl
@[simp] theorem Dev.keep_ctxGen (d e : Dev) : (Dev.keep d e).ctxGen = e.ctxGen := rfl
@[simp] theorem Dev.keep_queues (d e : Dev) : (Dev.keep d e).queues = e.queues := rfl
@[simp] theorem Dev.keep_resid (d e : Dev) : (Dev.keep d e).resid = e.resid := rfl
@[simp] theorem Dev.keep_kvStacks (d e : Dev) : (Dev.keep d e).kvStacks = e.kvStacks := rfl
@[simp] theorem Dev.keep_kvPages (d e : Dev) : (Dev.keep d e).kvPages = e.kvPages := rfl
@[simp] theorem Dev.keep_kvWait (d e : Dev) : (Dev.keep d e).kvWait = e.kvWait := rfl
@[simp] theorem Dev.keep_graphs (d e : Dev) : (Dev.keep d e).graphs = e.graphs := rfl
@[simp] theorem Dev.keep_serving (d e : Dev) : (Dev.keep d e).serving = e.serving := rfl
@[simp] theorem Dev.keep_pairs (d e : Dev) : (Dev.keep d e).pairs = e.pairs := rfl
@[simp] theorem Dev.keep_hostQs (d e : Dev) : (Dev.keep d e).hostQs = e.hostQs := rfl
@[simp] theorem Dev.keep_tests (d e : Dev) : (Dev.keep d e).tests = e.tests := rfl
@[simp] theorem Dev.keep_refRuns (d e : Dev) : (Dev.keep d e).refRuns = e.refRuns := rfl
@[simp] theorem Dev.keep_wheelDirty (d e : Dev) : (Dev.keep d e).wheelDirty = e.wheelDirty := rfl
@[simp] theorem Dev.keep_held (d e : Dev) : (Dev.keep d e).held = e.held := rfl
@[simp] theorem Dev.keep_warnEnd (d e : Dev) : (Dev.keep d e).warnEnd = e.warnEnd := rfl
@[simp] theorem Dev.keep_cpaLost (d e : Dev) : (Dev.keep d e).cpaLost = d.cpaLost.or e.cpaLost := rfl
@[simp] theorem Dev.keep_cpbLost (d e : Dev) : (Dev.keep d e).cpbLost = d.cpbLost.or e.cpbLost := rfl
@[simp] theorem Dev.keep_kickA (d e : Dev) : (Dev.keep d e).kickA = e.kickA := rfl
@[simp] theorem Dev.keep_kickB (d e : Dev) : (Dev.keep d e).kickB = e.kickB := rfl
@[simp] theorem Dev.keep_log (d e : Dev) : (Dev.keep d e).log = e.log := rfl
@[simp] theorem Dev.keep_cnts (d e : Dev) : (Dev.keep d e).cnts = e.cnts := rfl
@[simp] theorem Dev.keep_lockFull (d e : Dev) : (Dev.keep d e).lockFull = e.lockFull := rfl
@[simp] theorem Dev.keep_irqs (d e : Dev) : (Dev.keep d e).irqs = e.irqs := rfl
@[simp] theorem Dev.keep_latches (d e : Dev) : (Dev.keep d e).latches = e.latches := rfl
@[simp] theorem Dev.keep_links (d e : Dev) : (Dev.keep d e).links = e.links := rfl
@[simp] theorem Dev.keep_stackIfs (d e : Dev) : (Dev.keep d e).stackIfs = e.stackIfs := rfl
@[simp] theorem Dev.keep_dieOff (d e : Dev) : (Dev.keep d e).dieOff = e.dieOff := rfl
@[simp] theorem Dev.keep_keys (d e : Dev) : (Dev.keep d e).keys = e.keys := rfl
@[simp] theorem Dev.keep_gw (d e : Dev) : (Dev.keep d e).gw = e.gw := rfl
@[simp] theorem Dev.keep_boot (d e : Dev) : (Dev.keep d e).boot = e.boot := rfl
@[simp] theorem Dev.keep_rstT (d e : Dev) : (Dev.keep d e).rstT = e.rstT := rfl
@[simp] theorem Dev.keep_clkFail (d e : Dev) : (Dev.keep d e).clkFail = e.clkFail := rfl
@[simp] theorem Dev.keep_capOver (d e : Dev) : (Dev.keep d e).capOver = e.capOver := rfl
@[simp] theorem Dev.keep_capBase (d e : Dev) : (Dev.keep d e).capBase = e.capBase := rfl
@[simp] theorem Dev.keep_therm (d e : Dev) : (Dev.keep d e).therm = e.therm := rfl
@[simp] theorem Dev.keep_pwrMs (d e : Dev) : (Dev.keep d e).pwrMs = e.pwrMs := rfl
@[simp] theorem Dev.keep_auxOff (d e : Dev) : (Dev.keep d e).auxOff = e.auxOff := rfl
@[simp] theorem Dev.keep_flash (d e : Dev) : (Dev.keep d e).flash = e.flash := rfl
@[simp] theorem Dev.keep_minSvn (d e : Dev) : (Dev.keep d e).minSvn = max d.minSvn e.minSvn := rfl
@[simp] theorem Dev.keep_pipes (d e : Dev) : (Dev.keep d e).pipes = e.pipes := rfl
@[simp] theorem Dev.keep_vcs (d e : Dev) : (Dev.keep d e).vcs = e.vcs := rfl
@[simp] theorem Dev.keep_cams (d e : Dev) : (Dev.keep d e).cams = e.cams := rfl
@[simp] theorem Dev.keep_dmaCh (d e : Dev) : (Dev.keep d e).dmaCh = e.dmaCh := rfl
@[simp] theorem Dev.keep_dmaLast (d e : Dev) : (Dev.keep d e).dmaLast = e.dmaLast := rfl
@[simp] theorem Dev.keep_fi (d e : Dev) : (Dev.keep d e).fi = e.fi := rfl
@[simp] theorem Dev.keep_injUnit (d e : Dev) : (Dev.keep d e).injUnit = e.injUnit := rfl
@[simp] theorem Dev.keep_dbgHalt (d e : Dev) : (Dev.keep d e).dbgHalt = e.dbgHalt := rfl
@[simp] theorem Dev.keep_dbgDenied (d e : Dev) : (Dev.keep d e).dbgDenied = e.dbgDenied := rfl
@[simp] theorem Dev.keep_trace (d e : Dev) : (Dev.keep d e).trace = e.trace := rfl
@[simp] theorem Dev.keep_waiting (d e : Dev) : (Dev.keep d e).waiting = e.waiting := rfl
@[simp] theorem Dev.keep_lastAcc (d e : Dev) : (Dev.keep d e).lastAcc = e.lastAcc := rfl

@[simp] theorem Dev.setReg_power (d : Dev) (a : Nat) (w : Word) : (d.setReg a w).power = d.power := rfl
@[simp] theorem Dev.setReg_fuse (d : Dev) (a : Nat) (w : Word) : (d.setReg a w).fuse = d.fuse := rfl
@[simp] theorem Dev.setReg_tb (d : Dev) (a : Nat) (w : Word) : (d.setReg a w).tb = d.tb := rfl
@[simp] theorem Dev.setReg_freeCtr (d : Dev) (a : Nat) (w : Word) : (d.setReg a w).freeCtr = d.freeCtr := rfl
@[simp] theorem Dev.setReg_regs (d : Dev) (a : Nat) (w : Word) : (d.setReg a w).regs = d.regs.put a w := rfl
@[simp] theorem Dev.setReg_own (d : Dev) (a : Nat) (w : Word) : (d.setReg a w).own = d.own := rfl
@[simp] theorem Dev.setReg_mem (d : Dev) (a : Nat) (w : Word) : (d.setReg a w).mem = d.mem := rfl
@[simp] theorem Dev.setReg_dramFree (d : Dev) (a : Nat) (w : Word) : (d.setReg a w).dramFree = d.dramFree := rfl
@[simp] theorem Dev.setReg_msMem (d : Dev) (a : Nat) (w : Word) : (d.setReg a w).msMem = d.msMem := rfl
@[simp] theorem Dev.setReg_msFree (d : Dev) (a : Nat) (w : Word) : (d.setReg a w).msFree = d.msFree := rfl
@[simp] theorem Dev.setReg_poison (d : Dev) (a : Nat) (w : Word) : (d.setReg a w).poison = d.poison := rfl
@[simp] theorem Dev.setReg_pers (d : Dev) (a : Nat) (w : Word) : (d.setReg a w).pers = d.pers := rfl
@[simp] theorem Dev.setReg_wakeCo (d : Dev) (a : Nat) (w : Word) : (d.setReg a w).wakeCo = d.wakeCo := rfl
@[simp] theorem Dev.setReg_degraded (d : Dev) (a : Nat) (w : Word) : (d.setReg a w).degraded = d.degraded := rfl
@[simp] theorem Dev.setReg_trans (d : Dev) (a : Nat) (w : Word) : (d.setReg a w).trans = d.trans := rfl
@[simp] theorem Dev.setReg_reported (d : Dev) (a : Nat) (w : Word) : (d.setReg a w).reported = d.reported := rfl
@[simp] theorem Dev.setReg_faultLatched (d : Dev) (a : Nat) (w : Word) : (d.setReg a w).faultLatched = d.faultLatched := rfl
@[simp] theorem Dev.setReg_driveCap (d : Dev) (a : Nat) (w : Word) : (d.setReg a w).driveCap = d.driveCap := rfl
@[simp] theorem Dev.setReg_setupT (d : Dev) (a : Nat) (w : Word) : (d.setReg a w).setupT = d.setupT := rfl
@[simp] theorem Dev.setReg_parts (d : Dev) (a : Nat) (w : Word) : (d.setReg a w).parts = d.parts := rfl
@[simp] theorem Dev.setReg_egs (d : Dev) (a : Nat) (w : Word) : (d.setReg a w).egs = d.egs := rfl
@[simp] theorem Dev.setReg_swapT (d : Dev) (a : Nat) (w : Word) : (d.setReg a w).swapT = d.swapT := rfl
@[simp] theorem Dev.setReg_wheels (d : Dev) (a : Nat) (w : Word) : (d.setReg a w).wheels = d.wheels := rfl
@[simp] theorem Dev.setReg_pages (d : Dev) (a : Nat) (w : Word) : (d.setReg a w).pages = d.pages := rfl
@[simp] theorem Dev.setReg_insts (d : Dev) (a : Nat) (w : Word) : (d.setReg a w).insts = d.insts := rfl
@[simp] theorem Dev.setReg_done (d : Dev) (a : Nat) (w : Word) : (d.setReg a w).done = d.done := rfl
@[simp] theorem Dev.setReg_ctxs (d : Dev) (a : Nat) (w : Word) : (d.setReg a w).ctxs = d.ctxs := rfl
@[simp] theorem Dev.setReg_ctxGen (d : Dev) (a : Nat) (w : Word) : (d.setReg a w).ctxGen = d.ctxGen := rfl
@[simp] theorem Dev.setReg_queues (d : Dev) (a : Nat) (w : Word) : (d.setReg a w).queues = d.queues := rfl
@[simp] theorem Dev.setReg_resid (d : Dev) (a : Nat) (w : Word) : (d.setReg a w).resid = d.resid := rfl
@[simp] theorem Dev.setReg_kvStacks (d : Dev) (a : Nat) (w : Word) : (d.setReg a w).kvStacks = d.kvStacks := rfl
@[simp] theorem Dev.setReg_kvPages (d : Dev) (a : Nat) (w : Word) : (d.setReg a w).kvPages = d.kvPages := rfl
@[simp] theorem Dev.setReg_kvWait (d : Dev) (a : Nat) (w : Word) : (d.setReg a w).kvWait = d.kvWait := rfl
@[simp] theorem Dev.setReg_graphs (d : Dev) (a : Nat) (w : Word) : (d.setReg a w).graphs = d.graphs := rfl
@[simp] theorem Dev.setReg_serving (d : Dev) (a : Nat) (w : Word) : (d.setReg a w).serving = d.serving := rfl
@[simp] theorem Dev.setReg_pairs (d : Dev) (a : Nat) (w : Word) : (d.setReg a w).pairs = d.pairs := rfl
@[simp] theorem Dev.setReg_hostQs (d : Dev) (a : Nat) (w : Word) : (d.setReg a w).hostQs = d.hostQs := rfl
@[simp] theorem Dev.setReg_tests (d : Dev) (a : Nat) (w : Word) : (d.setReg a w).tests = d.tests := rfl
@[simp] theorem Dev.setReg_refRuns (d : Dev) (a : Nat) (w : Word) : (d.setReg a w).refRuns = d.refRuns := rfl
@[simp] theorem Dev.setReg_wheelDirty (d : Dev) (a : Nat) (w : Word) : (d.setReg a w).wheelDirty = d.wheelDirty := rfl
@[simp] theorem Dev.setReg_held (d : Dev) (a : Nat) (w : Word) : (d.setReg a w).held = d.held := rfl
@[simp] theorem Dev.setReg_warnEnd (d : Dev) (a : Nat) (w : Word) : (d.setReg a w).warnEnd = d.warnEnd := rfl
@[simp] theorem Dev.setReg_cpaLost (d : Dev) (a : Nat) (w : Word) : (d.setReg a w).cpaLost = d.cpaLost := rfl
@[simp] theorem Dev.setReg_cpbLost (d : Dev) (a : Nat) (w : Word) : (d.setReg a w).cpbLost = d.cpbLost := rfl
@[simp] theorem Dev.setReg_kickA (d : Dev) (a : Nat) (w : Word) : (d.setReg a w).kickA = d.kickA := rfl
@[simp] theorem Dev.setReg_kickB (d : Dev) (a : Nat) (w : Word) : (d.setReg a w).kickB = d.kickB := rfl
@[simp] theorem Dev.setReg_log (d : Dev) (a : Nat) (w : Word) : (d.setReg a w).log = d.log := rfl
@[simp] theorem Dev.setReg_cnts (d : Dev) (a : Nat) (w : Word) : (d.setReg a w).cnts = d.cnts := rfl
@[simp] theorem Dev.setReg_lockFull (d : Dev) (a : Nat) (w : Word) : (d.setReg a w).lockFull = d.lockFull := rfl
@[simp] theorem Dev.setReg_irqs (d : Dev) (a : Nat) (w : Word) : (d.setReg a w).irqs = d.irqs := rfl
@[simp] theorem Dev.setReg_latches (d : Dev) (a : Nat) (w : Word) : (d.setReg a w).latches = d.latches := rfl
@[simp] theorem Dev.setReg_links (d : Dev) (a : Nat) (w : Word) : (d.setReg a w).links = d.links := rfl
@[simp] theorem Dev.setReg_stackIfs (d : Dev) (a : Nat) (w : Word) : (d.setReg a w).stackIfs = d.stackIfs := rfl
@[simp] theorem Dev.setReg_dieOff (d : Dev) (a : Nat) (w : Word) : (d.setReg a w).dieOff = d.dieOff := rfl
@[simp] theorem Dev.setReg_keys (d : Dev) (a : Nat) (w : Word) : (d.setReg a w).keys = d.keys := rfl
@[simp] theorem Dev.setReg_gw (d : Dev) (a : Nat) (w : Word) : (d.setReg a w).gw = d.gw := rfl
@[simp] theorem Dev.setReg_boot (d : Dev) (a : Nat) (w : Word) : (d.setReg a w).boot = d.boot := rfl
@[simp] theorem Dev.setReg_rstT (d : Dev) (a : Nat) (w : Word) : (d.setReg a w).rstT = d.rstT := rfl
@[simp] theorem Dev.setReg_clkFail (d : Dev) (a : Nat) (w : Word) : (d.setReg a w).clkFail = d.clkFail := rfl
@[simp] theorem Dev.setReg_capOver (d : Dev) (a : Nat) (w : Word) : (d.setReg a w).capOver = d.capOver := rfl
@[simp] theorem Dev.setReg_capBase (d : Dev) (a : Nat) (w : Word) : (d.setReg a w).capBase = d.capBase := rfl
@[simp] theorem Dev.setReg_therm (d : Dev) (a : Nat) (w : Word) : (d.setReg a w).therm = d.therm := rfl
@[simp] theorem Dev.setReg_pwrMs (d : Dev) (a : Nat) (w : Word) : (d.setReg a w).pwrMs = d.pwrMs := rfl
@[simp] theorem Dev.setReg_auxOff (d : Dev) (a : Nat) (w : Word) : (d.setReg a w).auxOff = d.auxOff := rfl
@[simp] theorem Dev.setReg_flash (d : Dev) (a : Nat) (w : Word) : (d.setReg a w).flash = d.flash := rfl
@[simp] theorem Dev.setReg_minSvn (d : Dev) (a : Nat) (w : Word) : (d.setReg a w).minSvn = d.minSvn := rfl
@[simp] theorem Dev.setReg_pipes (d : Dev) (a : Nat) (w : Word) : (d.setReg a w).pipes = d.pipes := rfl
@[simp] theorem Dev.setReg_vcs (d : Dev) (a : Nat) (w : Word) : (d.setReg a w).vcs = d.vcs := rfl
@[simp] theorem Dev.setReg_cams (d : Dev) (a : Nat) (w : Word) : (d.setReg a w).cams = d.cams := rfl
@[simp] theorem Dev.setReg_dmaCh (d : Dev) (a : Nat) (w : Word) : (d.setReg a w).dmaCh = d.dmaCh := rfl
@[simp] theorem Dev.setReg_dmaLast (d : Dev) (a : Nat) (w : Word) : (d.setReg a w).dmaLast = d.dmaLast := rfl
@[simp] theorem Dev.setReg_fi (d : Dev) (a : Nat) (w : Word) : (d.setReg a w).fi = d.fi := rfl
@[simp] theorem Dev.setReg_injUnit (d : Dev) (a : Nat) (w : Word) : (d.setReg a w).injUnit = d.injUnit := rfl
@[simp] theorem Dev.setReg_dbgHalt (d : Dev) (a : Nat) (w : Word) : (d.setReg a w).dbgHalt = d.dbgHalt := rfl
@[simp] theorem Dev.setReg_dbgDenied (d : Dev) (a : Nat) (w : Word) : (d.setReg a w).dbgDenied = d.dbgDenied := rfl
@[simp] theorem Dev.setReg_trace (d : Dev) (a : Nat) (w : Word) : (d.setReg a w).trace = d.trace := rfl
@[simp] theorem Dev.setReg_waiting (d : Dev) (a : Nat) (w : Word) : (d.setReg a w).waiting = d.waiting := rfl
@[simp] theorem Dev.setReg_lastAcc (d : Dev) (a : Nat) (w : Word) : (d.setReg a w).lastAcc = d.lastAcc := rfl

@[simp] theorem Dev.setPage_power (d : Dev) (k : Nat) (p : Page) : (d.setPage k p).power = d.power := rfl
@[simp] theorem Dev.setPage_fuse (d : Dev) (k : Nat) (p : Page) : (d.setPage k p).fuse = d.fuse := rfl
@[simp] theorem Dev.setPage_tb (d : Dev) (k : Nat) (p : Page) : (d.setPage k p).tb = d.tb := rfl
@[simp] theorem Dev.setPage_freeCtr (d : Dev) (k : Nat) (p : Page) : (d.setPage k p).freeCtr = d.freeCtr := rfl
@[simp] theorem Dev.setPage_regs (d : Dev) (k : Nat) (p : Page) : (d.setPage k p).regs = d.regs := rfl
@[simp] theorem Dev.setPage_own (d : Dev) (k : Nat) (p : Page) : (d.setPage k p).own = d.own := rfl
@[simp] theorem Dev.setPage_mem (d : Dev) (k : Nat) (p : Page) : (d.setPage k p).mem = d.mem := rfl
@[simp] theorem Dev.setPage_dramFree (d : Dev) (k : Nat) (p : Page) : (d.setPage k p).dramFree = d.dramFree := rfl
@[simp] theorem Dev.setPage_msMem (d : Dev) (k : Nat) (p : Page) : (d.setPage k p).msMem = d.msMem := rfl
@[simp] theorem Dev.setPage_msFree (d : Dev) (k : Nat) (p : Page) : (d.setPage k p).msFree = d.msFree := rfl
@[simp] theorem Dev.setPage_poison (d : Dev) (k : Nat) (p : Page) : (d.setPage k p).poison = d.poison := rfl
@[simp] theorem Dev.setPage_pers (d : Dev) (k : Nat) (p : Page) : (d.setPage k p).pers = d.pers := rfl
@[simp] theorem Dev.setPage_wakeCo (d : Dev) (k : Nat) (p : Page) : (d.setPage k p).wakeCo = d.wakeCo := rfl
@[simp] theorem Dev.setPage_degraded (d : Dev) (k : Nat) (p : Page) : (d.setPage k p).degraded = d.degraded := rfl
@[simp] theorem Dev.setPage_trans (d : Dev) (k : Nat) (p : Page) : (d.setPage k p).trans = d.trans := rfl
@[simp] theorem Dev.setPage_reported (d : Dev) (k : Nat) (p : Page) : (d.setPage k p).reported = d.reported := rfl
@[simp] theorem Dev.setPage_faultLatched (d : Dev) (k : Nat) (p : Page) : (d.setPage k p).faultLatched = d.faultLatched := rfl
@[simp] theorem Dev.setPage_driveCap (d : Dev) (k : Nat) (p : Page) : (d.setPage k p).driveCap = d.driveCap := rfl
@[simp] theorem Dev.setPage_setupT (d : Dev) (k : Nat) (p : Page) : (d.setPage k p).setupT = d.setupT := rfl
@[simp] theorem Dev.setPage_parts (d : Dev) (k : Nat) (p : Page) : (d.setPage k p).parts = d.parts := rfl
@[simp] theorem Dev.setPage_egs (d : Dev) (k : Nat) (p : Page) : (d.setPage k p).egs = d.egs := rfl
@[simp] theorem Dev.setPage_swapT (d : Dev) (k : Nat) (p : Page) : (d.setPage k p).swapT = d.swapT := rfl
@[simp] theorem Dev.setPage_wheels (d : Dev) (k : Nat) (p : Page) : (d.setPage k p).wheels = d.wheels := rfl
@[simp] theorem Dev.setPage_pages (d : Dev) (k : Nat) (p : Page) : (d.setPage k p).pages = d.pages.put k p := rfl
@[simp] theorem Dev.setPage_insts (d : Dev) (k : Nat) (p : Page) : (d.setPage k p).insts = d.insts := rfl
@[simp] theorem Dev.setPage_done (d : Dev) (k : Nat) (p : Page) : (d.setPage k p).done = d.done := rfl
@[simp] theorem Dev.setPage_ctxs (d : Dev) (k : Nat) (p : Page) : (d.setPage k p).ctxs = d.ctxs := rfl
@[simp] theorem Dev.setPage_ctxGen (d : Dev) (k : Nat) (p : Page) : (d.setPage k p).ctxGen = d.ctxGen := rfl
@[simp] theorem Dev.setPage_queues (d : Dev) (k : Nat) (p : Page) : (d.setPage k p).queues = d.queues := rfl
@[simp] theorem Dev.setPage_resid (d : Dev) (k : Nat) (p : Page) : (d.setPage k p).resid = d.resid := rfl
@[simp] theorem Dev.setPage_kvStacks (d : Dev) (k : Nat) (p : Page) : (d.setPage k p).kvStacks = d.kvStacks := rfl
@[simp] theorem Dev.setPage_kvPages (d : Dev) (k : Nat) (p : Page) : (d.setPage k p).kvPages = d.kvPages := rfl
@[simp] theorem Dev.setPage_kvWait (d : Dev) (k : Nat) (p : Page) : (d.setPage k p).kvWait = d.kvWait := rfl
@[simp] theorem Dev.setPage_graphs (d : Dev) (k : Nat) (p : Page) : (d.setPage k p).graphs = d.graphs := rfl
@[simp] theorem Dev.setPage_serving (d : Dev) (k : Nat) (p : Page) : (d.setPage k p).serving = d.serving := rfl
@[simp] theorem Dev.setPage_pairs (d : Dev) (k : Nat) (p : Page) : (d.setPage k p).pairs = d.pairs := rfl
@[simp] theorem Dev.setPage_hostQs (d : Dev) (k : Nat) (p : Page) : (d.setPage k p).hostQs = d.hostQs := rfl
@[simp] theorem Dev.setPage_tests (d : Dev) (k : Nat) (p : Page) : (d.setPage k p).tests = d.tests := rfl
@[simp] theorem Dev.setPage_refRuns (d : Dev) (k : Nat) (p : Page) : (d.setPage k p).refRuns = d.refRuns := rfl
@[simp] theorem Dev.setPage_wheelDirty (d : Dev) (k : Nat) (p : Page) : (d.setPage k p).wheelDirty = d.wheelDirty := rfl
@[simp] theorem Dev.setPage_held (d : Dev) (k : Nat) (p : Page) : (d.setPage k p).held = d.held := rfl
@[simp] theorem Dev.setPage_warnEnd (d : Dev) (k : Nat) (p : Page) : (d.setPage k p).warnEnd = d.warnEnd := rfl
@[simp] theorem Dev.setPage_cpaLost (d : Dev) (k : Nat) (p : Page) : (d.setPage k p).cpaLost = d.cpaLost := rfl
@[simp] theorem Dev.setPage_cpbLost (d : Dev) (k : Nat) (p : Page) : (d.setPage k p).cpbLost = d.cpbLost := rfl
@[simp] theorem Dev.setPage_kickA (d : Dev) (k : Nat) (p : Page) : (d.setPage k p).kickA = d.kickA := rfl
@[simp] theorem Dev.setPage_kickB (d : Dev) (k : Nat) (p : Page) : (d.setPage k p).kickB = d.kickB := rfl
@[simp] theorem Dev.setPage_log (d : Dev) (k : Nat) (p : Page) : (d.setPage k p).log = d.log := rfl
@[simp] theorem Dev.setPage_cnts (d : Dev) (k : Nat) (p : Page) : (d.setPage k p).cnts = d.cnts := rfl
@[simp] theorem Dev.setPage_lockFull (d : Dev) (k : Nat) (p : Page) : (d.setPage k p).lockFull = d.lockFull := rfl
@[simp] theorem Dev.setPage_irqs (d : Dev) (k : Nat) (p : Page) : (d.setPage k p).irqs = d.irqs := rfl
@[simp] theorem Dev.setPage_latches (d : Dev) (k : Nat) (p : Page) : (d.setPage k p).latches = d.latches := rfl
@[simp] theorem Dev.setPage_links (d : Dev) (k : Nat) (p : Page) : (d.setPage k p).links = d.links := rfl
@[simp] theorem Dev.setPage_stackIfs (d : Dev) (k : Nat) (p : Page) : (d.setPage k p).stackIfs = d.stackIfs := rfl
@[simp] theorem Dev.setPage_dieOff (d : Dev) (k : Nat) (p : Page) : (d.setPage k p).dieOff = d.dieOff := rfl
@[simp] theorem Dev.setPage_keys (d : Dev) (k : Nat) (p : Page) : (d.setPage k p).keys = d.keys := rfl
@[simp] theorem Dev.setPage_gw (d : Dev) (k : Nat) (p : Page) : (d.setPage k p).gw = d.gw := rfl
@[simp] theorem Dev.setPage_boot (d : Dev) (k : Nat) (p : Page) : (d.setPage k p).boot = d.boot := rfl
@[simp] theorem Dev.setPage_rstT (d : Dev) (k : Nat) (p : Page) : (d.setPage k p).rstT = d.rstT := rfl
@[simp] theorem Dev.setPage_clkFail (d : Dev) (k : Nat) (p : Page) : (d.setPage k p).clkFail = d.clkFail := rfl
@[simp] theorem Dev.setPage_capOver (d : Dev) (k : Nat) (p : Page) : (d.setPage k p).capOver = d.capOver := rfl
@[simp] theorem Dev.setPage_capBase (d : Dev) (k : Nat) (p : Page) : (d.setPage k p).capBase = d.capBase := rfl
@[simp] theorem Dev.setPage_therm (d : Dev) (k : Nat) (p : Page) : (d.setPage k p).therm = d.therm := rfl
@[simp] theorem Dev.setPage_pwrMs (d : Dev) (k : Nat) (p : Page) : (d.setPage k p).pwrMs = d.pwrMs := rfl
@[simp] theorem Dev.setPage_auxOff (d : Dev) (k : Nat) (p : Page) : (d.setPage k p).auxOff = d.auxOff := rfl
@[simp] theorem Dev.setPage_flash (d : Dev) (k : Nat) (p : Page) : (d.setPage k p).flash = d.flash := rfl
@[simp] theorem Dev.setPage_minSvn (d : Dev) (k : Nat) (p : Page) : (d.setPage k p).minSvn = d.minSvn := rfl
@[simp] theorem Dev.setPage_pipes (d : Dev) (k : Nat) (p : Page) : (d.setPage k p).pipes = d.pipes := rfl
@[simp] theorem Dev.setPage_vcs (d : Dev) (k : Nat) (p : Page) : (d.setPage k p).vcs = d.vcs := rfl
@[simp] theorem Dev.setPage_cams (d : Dev) (k : Nat) (p : Page) : (d.setPage k p).cams = d.cams := rfl
@[simp] theorem Dev.setPage_dmaCh (d : Dev) (k : Nat) (p : Page) : (d.setPage k p).dmaCh = d.dmaCh := rfl
@[simp] theorem Dev.setPage_dmaLast (d : Dev) (k : Nat) (p : Page) : (d.setPage k p).dmaLast = d.dmaLast := rfl
@[simp] theorem Dev.setPage_fi (d : Dev) (k : Nat) (p : Page) : (d.setPage k p).fi = d.fi := rfl
@[simp] theorem Dev.setPage_injUnit (d : Dev) (k : Nat) (p : Page) : (d.setPage k p).injUnit = d.injUnit := rfl
@[simp] theorem Dev.setPage_dbgHalt (d : Dev) (k : Nat) (p : Page) : (d.setPage k p).dbgHalt = d.dbgHalt := rfl
@[simp] theorem Dev.setPage_dbgDenied (d : Dev) (k : Nat) (p : Page) : (d.setPage k p).dbgDenied = d.dbgDenied := rfl
@[simp] theorem Dev.setPage_trace (d : Dev) (k : Nat) (p : Page) : (d.setPage k p).trace = d.trace := rfl
@[simp] theorem Dev.setPage_waiting (d : Dev) (k : Nat) (p : Page) : (d.setPage k p).waiting = d.waiting := rfl
@[simp] theorem Dev.setPage_lastAcc (d : Dev) (k : Nat) (p : Page) : (d.setPage k p).lastAcc = d.lastAcc := rfl

@[simp] theorem Dev.setInst_power (d : Dev) (n : Nat) (i : Inst) : (d.setInst n i).power = d.power := rfl
@[simp] theorem Dev.setInst_fuse (d : Dev) (n : Nat) (i : Inst) : (d.setInst n i).fuse = d.fuse := rfl
@[simp] theorem Dev.setInst_tb (d : Dev) (n : Nat) (i : Inst) : (d.setInst n i).tb = d.tb := rfl
@[simp] theorem Dev.setInst_freeCtr (d : Dev) (n : Nat) (i : Inst) : (d.setInst n i).freeCtr = d.freeCtr := rfl
@[simp] theorem Dev.setInst_regs (d : Dev) (n : Nat) (i : Inst) : (d.setInst n i).regs = d.regs := rfl
@[simp] theorem Dev.setInst_own (d : Dev) (n : Nat) (i : Inst) : (d.setInst n i).own = d.own := rfl
@[simp] theorem Dev.setInst_mem (d : Dev) (n : Nat) (i : Inst) : (d.setInst n i).mem = d.mem := rfl
@[simp] theorem Dev.setInst_dramFree (d : Dev) (n : Nat) (i : Inst) : (d.setInst n i).dramFree = d.dramFree := rfl
@[simp] theorem Dev.setInst_msMem (d : Dev) (n : Nat) (i : Inst) : (d.setInst n i).msMem = d.msMem := rfl
@[simp] theorem Dev.setInst_msFree (d : Dev) (n : Nat) (i : Inst) : (d.setInst n i).msFree = d.msFree := rfl
@[simp] theorem Dev.setInst_poison (d : Dev) (n : Nat) (i : Inst) : (d.setInst n i).poison = d.poison := rfl
@[simp] theorem Dev.setInst_pers (d : Dev) (n : Nat) (i : Inst) : (d.setInst n i).pers = d.pers := rfl
@[simp] theorem Dev.setInst_wakeCo (d : Dev) (n : Nat) (i : Inst) : (d.setInst n i).wakeCo = d.wakeCo := rfl
@[simp] theorem Dev.setInst_degraded (d : Dev) (n : Nat) (i : Inst) : (d.setInst n i).degraded = d.degraded := rfl
@[simp] theorem Dev.setInst_trans (d : Dev) (n : Nat) (i : Inst) : (d.setInst n i).trans = d.trans := rfl
@[simp] theorem Dev.setInst_reported (d : Dev) (n : Nat) (i : Inst) : (d.setInst n i).reported = d.reported := rfl
@[simp] theorem Dev.setInst_faultLatched (d : Dev) (n : Nat) (i : Inst) : (d.setInst n i).faultLatched = d.faultLatched := rfl
@[simp] theorem Dev.setInst_driveCap (d : Dev) (n : Nat) (i : Inst) : (d.setInst n i).driveCap = d.driveCap := rfl
@[simp] theorem Dev.setInst_setupT (d : Dev) (n : Nat) (i : Inst) : (d.setInst n i).setupT = d.setupT := rfl
@[simp] theorem Dev.setInst_parts (d : Dev) (n : Nat) (i : Inst) : (d.setInst n i).parts = d.parts := rfl
@[simp] theorem Dev.setInst_egs (d : Dev) (n : Nat) (i : Inst) : (d.setInst n i).egs = d.egs := rfl
@[simp] theorem Dev.setInst_swapT (d : Dev) (n : Nat) (i : Inst) : (d.setInst n i).swapT = d.swapT := rfl
@[simp] theorem Dev.setInst_wheels (d : Dev) (n : Nat) (i : Inst) : (d.setInst n i).wheels = d.wheels := rfl
@[simp] theorem Dev.setInst_pages (d : Dev) (n : Nat) (i : Inst) : (d.setInst n i).pages = d.pages := rfl
@[simp] theorem Dev.setInst_insts (d : Dev) (n : Nat) (i : Inst) : (d.setInst n i).insts = d.insts.put n i := rfl
@[simp] theorem Dev.setInst_done (d : Dev) (n : Nat) (i : Inst) : (d.setInst n i).done = d.done := rfl
@[simp] theorem Dev.setInst_ctxs (d : Dev) (n : Nat) (i : Inst) : (d.setInst n i).ctxs = d.ctxs := rfl
@[simp] theorem Dev.setInst_ctxGen (d : Dev) (n : Nat) (i : Inst) : (d.setInst n i).ctxGen = d.ctxGen := rfl
@[simp] theorem Dev.setInst_queues (d : Dev) (n : Nat) (i : Inst) : (d.setInst n i).queues = d.queues := rfl
@[simp] theorem Dev.setInst_resid (d : Dev) (n : Nat) (i : Inst) : (d.setInst n i).resid = d.resid := rfl
@[simp] theorem Dev.setInst_kvStacks (d : Dev) (n : Nat) (i : Inst) : (d.setInst n i).kvStacks = d.kvStacks := rfl
@[simp] theorem Dev.setInst_kvPages (d : Dev) (n : Nat) (i : Inst) : (d.setInst n i).kvPages = d.kvPages := rfl
@[simp] theorem Dev.setInst_kvWait (d : Dev) (n : Nat) (i : Inst) : (d.setInst n i).kvWait = d.kvWait := rfl
@[simp] theorem Dev.setInst_graphs (d : Dev) (n : Nat) (i : Inst) : (d.setInst n i).graphs = d.graphs := rfl
@[simp] theorem Dev.setInst_serving (d : Dev) (n : Nat) (i : Inst) : (d.setInst n i).serving = d.serving := rfl
@[simp] theorem Dev.setInst_pairs (d : Dev) (n : Nat) (i : Inst) : (d.setInst n i).pairs = d.pairs := rfl
@[simp] theorem Dev.setInst_hostQs (d : Dev) (n : Nat) (i : Inst) : (d.setInst n i).hostQs = d.hostQs := rfl
@[simp] theorem Dev.setInst_tests (d : Dev) (n : Nat) (i : Inst) : (d.setInst n i).tests = d.tests := rfl
@[simp] theorem Dev.setInst_refRuns (d : Dev) (n : Nat) (i : Inst) : (d.setInst n i).refRuns = d.refRuns := rfl
@[simp] theorem Dev.setInst_wheelDirty (d : Dev) (n : Nat) (i : Inst) : (d.setInst n i).wheelDirty = d.wheelDirty := rfl
@[simp] theorem Dev.setInst_held (d : Dev) (n : Nat) (i : Inst) : (d.setInst n i).held = d.held := rfl
@[simp] theorem Dev.setInst_warnEnd (d : Dev) (n : Nat) (i : Inst) : (d.setInst n i).warnEnd = d.warnEnd := rfl
@[simp] theorem Dev.setInst_cpaLost (d : Dev) (n : Nat) (i : Inst) : (d.setInst n i).cpaLost = d.cpaLost := rfl
@[simp] theorem Dev.setInst_cpbLost (d : Dev) (n : Nat) (i : Inst) : (d.setInst n i).cpbLost = d.cpbLost := rfl
@[simp] theorem Dev.setInst_kickA (d : Dev) (n : Nat) (i : Inst) : (d.setInst n i).kickA = d.kickA := rfl
@[simp] theorem Dev.setInst_kickB (d : Dev) (n : Nat) (i : Inst) : (d.setInst n i).kickB = d.kickB := rfl
@[simp] theorem Dev.setInst_log (d : Dev) (n : Nat) (i : Inst) : (d.setInst n i).log = d.log := rfl
@[simp] theorem Dev.setInst_cnts (d : Dev) (n : Nat) (i : Inst) : (d.setInst n i).cnts = d.cnts := rfl
@[simp] theorem Dev.setInst_lockFull (d : Dev) (n : Nat) (i : Inst) : (d.setInst n i).lockFull = d.lockFull := rfl
@[simp] theorem Dev.setInst_irqs (d : Dev) (n : Nat) (i : Inst) : (d.setInst n i).irqs = d.irqs := rfl
@[simp] theorem Dev.setInst_latches (d : Dev) (n : Nat) (i : Inst) : (d.setInst n i).latches = d.latches := rfl
@[simp] theorem Dev.setInst_links (d : Dev) (n : Nat) (i : Inst) : (d.setInst n i).links = d.links := rfl
@[simp] theorem Dev.setInst_stackIfs (d : Dev) (n : Nat) (i : Inst) : (d.setInst n i).stackIfs = d.stackIfs := rfl
@[simp] theorem Dev.setInst_dieOff (d : Dev) (n : Nat) (i : Inst) : (d.setInst n i).dieOff = d.dieOff := rfl
@[simp] theorem Dev.setInst_keys (d : Dev) (n : Nat) (i : Inst) : (d.setInst n i).keys = d.keys := rfl
@[simp] theorem Dev.setInst_gw (d : Dev) (n : Nat) (i : Inst) : (d.setInst n i).gw = d.gw := rfl
@[simp] theorem Dev.setInst_boot (d : Dev) (n : Nat) (i : Inst) : (d.setInst n i).boot = d.boot := rfl
@[simp] theorem Dev.setInst_rstT (d : Dev) (n : Nat) (i : Inst) : (d.setInst n i).rstT = d.rstT := rfl
@[simp] theorem Dev.setInst_clkFail (d : Dev) (n : Nat) (i : Inst) : (d.setInst n i).clkFail = d.clkFail := rfl
@[simp] theorem Dev.setInst_capOver (d : Dev) (n : Nat) (i : Inst) : (d.setInst n i).capOver = d.capOver := rfl
@[simp] theorem Dev.setInst_capBase (d : Dev) (n : Nat) (i : Inst) : (d.setInst n i).capBase = d.capBase := rfl
@[simp] theorem Dev.setInst_therm (d : Dev) (n : Nat) (i : Inst) : (d.setInst n i).therm = d.therm := rfl
@[simp] theorem Dev.setInst_pwrMs (d : Dev) (n : Nat) (i : Inst) : (d.setInst n i).pwrMs = d.pwrMs := rfl
@[simp] theorem Dev.setInst_auxOff (d : Dev) (n : Nat) (i : Inst) : (d.setInst n i).auxOff = d.auxOff := rfl
@[simp] theorem Dev.setInst_flash (d : Dev) (n : Nat) (i : Inst) : (d.setInst n i).flash = d.flash := rfl
@[simp] theorem Dev.setInst_minSvn (d : Dev) (n : Nat) (i : Inst) : (d.setInst n i).minSvn = d.minSvn := rfl
@[simp] theorem Dev.setInst_pipes (d : Dev) (n : Nat) (i : Inst) : (d.setInst n i).pipes = d.pipes := rfl
@[simp] theorem Dev.setInst_vcs (d : Dev) (n : Nat) (i : Inst) : (d.setInst n i).vcs = d.vcs := rfl
@[simp] theorem Dev.setInst_cams (d : Dev) (n : Nat) (i : Inst) : (d.setInst n i).cams = d.cams := rfl
@[simp] theorem Dev.setInst_dmaCh (d : Dev) (n : Nat) (i : Inst) : (d.setInst n i).dmaCh = d.dmaCh := rfl
@[simp] theorem Dev.setInst_dmaLast (d : Dev) (n : Nat) (i : Inst) : (d.setInst n i).dmaLast = d.dmaLast := rfl
@[simp] theorem Dev.setInst_fi (d : Dev) (n : Nat) (i : Inst) : (d.setInst n i).fi = d.fi := rfl
@[simp] theorem Dev.setInst_injUnit (d : Dev) (n : Nat) (i : Inst) : (d.setInst n i).injUnit = d.injUnit := rfl
@[simp] theorem Dev.setInst_dbgHalt (d : Dev) (n : Nat) (i : Inst) : (d.setInst n i).dbgHalt = d.dbgHalt := rfl
@[simp] theorem Dev.setInst_dbgDenied (d : Dev) (n : Nat) (i : Inst) : (d.setInst n i).dbgDenied = d.dbgDenied := rfl
@[simp] theorem Dev.setInst_trace (d : Dev) (n : Nat) (i : Inst) : (d.setInst n i).trace = d.trace := rfl
@[simp] theorem Dev.setInst_waiting (d : Dev) (n : Nat) (i : Inst) : (d.setInst n i).waiting = d.waiting := rfl
@[simp] theorem Dev.setInst_lastAcc (d : Dev) (n : Nat) (i : Inst) : (d.setInst n i).lastAcc = d.lastAcc := rfl

@[simp] theorem Dev.raise_power (d : Dev) (i : Irq) : (d.raise i).power = d.power := rfl
@[simp] theorem Dev.raise_fuse (d : Dev) (i : Irq) : (d.raise i).fuse = d.fuse := rfl
@[simp] theorem Dev.raise_tb (d : Dev) (i : Irq) : (d.raise i).tb = d.tb := rfl
@[simp] theorem Dev.raise_freeCtr (d : Dev) (i : Irq) : (d.raise i).freeCtr = d.freeCtr := rfl
@[simp] theorem Dev.raise_regs (d : Dev) (i : Irq) : (d.raise i).regs = d.regs := rfl
@[simp] theorem Dev.raise_own (d : Dev) (i : Irq) : (d.raise i).own = d.own := rfl
@[simp] theorem Dev.raise_mem (d : Dev) (i : Irq) : (d.raise i).mem = d.mem := rfl
@[simp] theorem Dev.raise_dramFree (d : Dev) (i : Irq) : (d.raise i).dramFree = d.dramFree := rfl
@[simp] theorem Dev.raise_msMem (d : Dev) (i : Irq) : (d.raise i).msMem = d.msMem := rfl
@[simp] theorem Dev.raise_msFree (d : Dev) (i : Irq) : (d.raise i).msFree = d.msFree := rfl
@[simp] theorem Dev.raise_poison (d : Dev) (i : Irq) : (d.raise i).poison = d.poison := rfl
@[simp] theorem Dev.raise_pers (d : Dev) (i : Irq) : (d.raise i).pers = d.pers := rfl
@[simp] theorem Dev.raise_wakeCo (d : Dev) (i : Irq) : (d.raise i).wakeCo = d.wakeCo := rfl
@[simp] theorem Dev.raise_degraded (d : Dev) (i : Irq) : (d.raise i).degraded = d.degraded := rfl
@[simp] theorem Dev.raise_trans (d : Dev) (i : Irq) : (d.raise i).trans = d.trans := rfl
@[simp] theorem Dev.raise_reported (d : Dev) (i : Irq) : (d.raise i).reported = d.reported := rfl
@[simp] theorem Dev.raise_faultLatched (d : Dev) (i : Irq) : (d.raise i).faultLatched = d.faultLatched := rfl
@[simp] theorem Dev.raise_driveCap (d : Dev) (i : Irq) : (d.raise i).driveCap = d.driveCap := rfl
@[simp] theorem Dev.raise_setupT (d : Dev) (i : Irq) : (d.raise i).setupT = d.setupT := rfl
@[simp] theorem Dev.raise_parts (d : Dev) (i : Irq) : (d.raise i).parts = d.parts := rfl
@[simp] theorem Dev.raise_egs (d : Dev) (i : Irq) : (d.raise i).egs = d.egs := rfl
@[simp] theorem Dev.raise_swapT (d : Dev) (i : Irq) : (d.raise i).swapT = d.swapT := rfl
@[simp] theorem Dev.raise_wheels (d : Dev) (i : Irq) : (d.raise i).wheels = d.wheels := rfl
@[simp] theorem Dev.raise_pages (d : Dev) (i : Irq) : (d.raise i).pages = d.pages := rfl
@[simp] theorem Dev.raise_insts (d : Dev) (i : Irq) : (d.raise i).insts = d.insts := rfl
@[simp] theorem Dev.raise_done (d : Dev) (i : Irq) : (d.raise i).done = d.done := rfl
@[simp] theorem Dev.raise_ctxs (d : Dev) (i : Irq) : (d.raise i).ctxs = d.ctxs := rfl
@[simp] theorem Dev.raise_ctxGen (d : Dev) (i : Irq) : (d.raise i).ctxGen = d.ctxGen := rfl
@[simp] theorem Dev.raise_queues (d : Dev) (i : Irq) : (d.raise i).queues = d.queues := rfl
@[simp] theorem Dev.raise_resid (d : Dev) (i : Irq) : (d.raise i).resid = d.resid := rfl
@[simp] theorem Dev.raise_kvStacks (d : Dev) (i : Irq) : (d.raise i).kvStacks = d.kvStacks := rfl
@[simp] theorem Dev.raise_kvPages (d : Dev) (i : Irq) : (d.raise i).kvPages = d.kvPages := rfl
@[simp] theorem Dev.raise_kvWait (d : Dev) (i : Irq) : (d.raise i).kvWait = d.kvWait := rfl
@[simp] theorem Dev.raise_graphs (d : Dev) (i : Irq) : (d.raise i).graphs = d.graphs := rfl
@[simp] theorem Dev.raise_serving (d : Dev) (i : Irq) : (d.raise i).serving = d.serving := rfl
@[simp] theorem Dev.raise_pairs (d : Dev) (i : Irq) : (d.raise i).pairs = d.pairs := rfl
@[simp] theorem Dev.raise_hostQs (d : Dev) (i : Irq) : (d.raise i).hostQs = d.hostQs := rfl
@[simp] theorem Dev.raise_tests (d : Dev) (i : Irq) : (d.raise i).tests = d.tests := rfl
@[simp] theorem Dev.raise_refRuns (d : Dev) (i : Irq) : (d.raise i).refRuns = d.refRuns := rfl
@[simp] theorem Dev.raise_wheelDirty (d : Dev) (i : Irq) : (d.raise i).wheelDirty = d.wheelDirty := rfl
@[simp] theorem Dev.raise_held (d : Dev) (i : Irq) : (d.raise i).held = d.held := rfl
@[simp] theorem Dev.raise_warnEnd (d : Dev) (i : Irq) : (d.raise i).warnEnd = d.warnEnd := rfl
@[simp] theorem Dev.raise_cpaLost (d : Dev) (i : Irq) : (d.raise i).cpaLost = d.cpaLost := rfl
@[simp] theorem Dev.raise_cpbLost (d : Dev) (i : Irq) : (d.raise i).cpbLost = d.cpbLost := rfl
@[simp] theorem Dev.raise_kickA (d : Dev) (i : Irq) : (d.raise i).kickA = d.kickA := rfl
@[simp] theorem Dev.raise_kickB (d : Dev) (i : Irq) : (d.raise i).kickB = d.kickB := rfl
@[simp] theorem Dev.raise_log (d : Dev) (i : Irq) : (d.raise i).log = d.log := rfl
@[simp] theorem Dev.raise_cnts (d : Dev) (i : Irq) : (d.raise i).cnts = d.cnts := rfl
@[simp] theorem Dev.raise_lockFull (d : Dev) (i : Irq) : (d.raise i).lockFull = d.lockFull := rfl
@[simp] theorem Dev.raise_irqs (d : Dev) (i : Irq) : (d.raise i).irqs = insertNew d.irqs i := rfl
@[simp] theorem Dev.raise_latches (d : Dev) (i : Irq) : (d.raise i).latches = d.latches := rfl
@[simp] theorem Dev.raise_links (d : Dev) (i : Irq) : (d.raise i).links = d.links := rfl
@[simp] theorem Dev.raise_stackIfs (d : Dev) (i : Irq) : (d.raise i).stackIfs = d.stackIfs := rfl
@[simp] theorem Dev.raise_dieOff (d : Dev) (i : Irq) : (d.raise i).dieOff = d.dieOff := rfl
@[simp] theorem Dev.raise_keys (d : Dev) (i : Irq) : (d.raise i).keys = d.keys := rfl
@[simp] theorem Dev.raise_gw (d : Dev) (i : Irq) : (d.raise i).gw = d.gw := rfl
@[simp] theorem Dev.raise_boot (d : Dev) (i : Irq) : (d.raise i).boot = d.boot := rfl
@[simp] theorem Dev.raise_rstT (d : Dev) (i : Irq) : (d.raise i).rstT = d.rstT := rfl
@[simp] theorem Dev.raise_clkFail (d : Dev) (i : Irq) : (d.raise i).clkFail = d.clkFail := rfl
@[simp] theorem Dev.raise_capOver (d : Dev) (i : Irq) : (d.raise i).capOver = d.capOver := rfl
@[simp] theorem Dev.raise_capBase (d : Dev) (i : Irq) : (d.raise i).capBase = d.capBase := rfl
@[simp] theorem Dev.raise_therm (d : Dev) (i : Irq) : (d.raise i).therm = d.therm := rfl
@[simp] theorem Dev.raise_pwrMs (d : Dev) (i : Irq) : (d.raise i).pwrMs = d.pwrMs := rfl
@[simp] theorem Dev.raise_auxOff (d : Dev) (i : Irq) : (d.raise i).auxOff = d.auxOff := rfl
@[simp] theorem Dev.raise_flash (d : Dev) (i : Irq) : (d.raise i).flash = d.flash := rfl
@[simp] theorem Dev.raise_minSvn (d : Dev) (i : Irq) : (d.raise i).minSvn = d.minSvn := rfl
@[simp] theorem Dev.raise_pipes (d : Dev) (i : Irq) : (d.raise i).pipes = d.pipes := rfl
@[simp] theorem Dev.raise_vcs (d : Dev) (i : Irq) : (d.raise i).vcs = d.vcs := rfl
@[simp] theorem Dev.raise_cams (d : Dev) (i : Irq) : (d.raise i).cams = d.cams := rfl
@[simp] theorem Dev.raise_dmaCh (d : Dev) (i : Irq) : (d.raise i).dmaCh = d.dmaCh := rfl
@[simp] theorem Dev.raise_dmaLast (d : Dev) (i : Irq) : (d.raise i).dmaLast = d.dmaLast := rfl
@[simp] theorem Dev.raise_fi (d : Dev) (i : Irq) : (d.raise i).fi = d.fi := rfl
@[simp] theorem Dev.raise_injUnit (d : Dev) (i : Irq) : (d.raise i).injUnit = d.injUnit := rfl
@[simp] theorem Dev.raise_dbgHalt (d : Dev) (i : Irq) : (d.raise i).dbgHalt = d.dbgHalt := rfl
@[simp] theorem Dev.raise_dbgDenied (d : Dev) (i : Irq) : (d.raise i).dbgDenied = d.dbgDenied := rfl
@[simp] theorem Dev.raise_trace (d : Dev) (i : Irq) : (d.raise i).trace = d.trace := rfl
@[simp] theorem Dev.raise_waiting (d : Dev) (i : Irq) : (d.raise i).waiting = d.waiting := rfl
@[simp] theorem Dev.raise_lastAcc (d : Dev) (i : Irq) : (d.raise i).lastAcc = d.lastAcc := rfl

@[simp] theorem Dev.logPush_power (d : Dev) (e : LogEntry) : (d.logPush e).power = d.power := rfl
@[simp] theorem Dev.logPush_fuse (d : Dev) (e : LogEntry) : (d.logPush e).fuse = d.fuse := rfl
@[simp] theorem Dev.logPush_tb (d : Dev) (e : LogEntry) : (d.logPush e).tb = d.tb := rfl
@[simp] theorem Dev.logPush_freeCtr (d : Dev) (e : LogEntry) : (d.logPush e).freeCtr = d.freeCtr := rfl
@[simp] theorem Dev.logPush_regs (d : Dev) (e : LogEntry) : (d.logPush e).regs = d.regs := rfl
@[simp] theorem Dev.logPush_own (d : Dev) (e : LogEntry) : (d.logPush e).own = d.own := rfl
@[simp] theorem Dev.logPush_mem (d : Dev) (e : LogEntry) : (d.logPush e).mem = d.mem := rfl
@[simp] theorem Dev.logPush_dramFree (d : Dev) (e : LogEntry) : (d.logPush e).dramFree = d.dramFree := rfl
@[simp] theorem Dev.logPush_msMem (d : Dev) (e : LogEntry) : (d.logPush e).msMem = d.msMem := rfl
@[simp] theorem Dev.logPush_msFree (d : Dev) (e : LogEntry) : (d.logPush e).msFree = d.msFree := rfl
@[simp] theorem Dev.logPush_poison (d : Dev) (e : LogEntry) : (d.logPush e).poison = d.poison := rfl
@[simp] theorem Dev.logPush_pers (d : Dev) (e : LogEntry) : (d.logPush e).pers = d.pers := rfl
@[simp] theorem Dev.logPush_wakeCo (d : Dev) (e : LogEntry) : (d.logPush e).wakeCo = d.wakeCo := rfl
@[simp] theorem Dev.logPush_degraded (d : Dev) (e : LogEntry) : (d.logPush e).degraded = d.degraded := rfl
@[simp] theorem Dev.logPush_trans (d : Dev) (e : LogEntry) : (d.logPush e).trans = d.trans := rfl
@[simp] theorem Dev.logPush_reported (d : Dev) (e : LogEntry) : (d.logPush e).reported = d.reported := rfl
@[simp] theorem Dev.logPush_faultLatched (d : Dev) (e : LogEntry) : (d.logPush e).faultLatched = d.faultLatched := rfl
@[simp] theorem Dev.logPush_driveCap (d : Dev) (e : LogEntry) : (d.logPush e).driveCap = d.driveCap := rfl
@[simp] theorem Dev.logPush_setupT (d : Dev) (e : LogEntry) : (d.logPush e).setupT = d.setupT := rfl
@[simp] theorem Dev.logPush_parts (d : Dev) (e : LogEntry) : (d.logPush e).parts = d.parts := rfl
@[simp] theorem Dev.logPush_egs (d : Dev) (e : LogEntry) : (d.logPush e).egs = d.egs := rfl
@[simp] theorem Dev.logPush_swapT (d : Dev) (e : LogEntry) : (d.logPush e).swapT = d.swapT := rfl
@[simp] theorem Dev.logPush_wheels (d : Dev) (e : LogEntry) : (d.logPush e).wheels = d.wheels := rfl
@[simp] theorem Dev.logPush_pages (d : Dev) (e : LogEntry) : (d.logPush e).pages = d.pages := rfl
@[simp] theorem Dev.logPush_insts (d : Dev) (e : LogEntry) : (d.logPush e).insts = d.insts := rfl
@[simp] theorem Dev.logPush_done (d : Dev) (e : LogEntry) : (d.logPush e).done = d.done := rfl
@[simp] theorem Dev.logPush_ctxs (d : Dev) (e : LogEntry) : (d.logPush e).ctxs = d.ctxs := rfl
@[simp] theorem Dev.logPush_ctxGen (d : Dev) (e : LogEntry) : (d.logPush e).ctxGen = d.ctxGen := rfl
@[simp] theorem Dev.logPush_queues (d : Dev) (e : LogEntry) : (d.logPush e).queues = d.queues := rfl
@[simp] theorem Dev.logPush_resid (d : Dev) (e : LogEntry) : (d.logPush e).resid = d.resid := rfl
@[simp] theorem Dev.logPush_kvStacks (d : Dev) (e : LogEntry) : (d.logPush e).kvStacks = d.kvStacks := rfl
@[simp] theorem Dev.logPush_kvPages (d : Dev) (e : LogEntry) : (d.logPush e).kvPages = d.kvPages := rfl
@[simp] theorem Dev.logPush_kvWait (d : Dev) (e : LogEntry) : (d.logPush e).kvWait = d.kvWait := rfl
@[simp] theorem Dev.logPush_graphs (d : Dev) (e : LogEntry) : (d.logPush e).graphs = d.graphs := rfl
@[simp] theorem Dev.logPush_serving (d : Dev) (e : LogEntry) : (d.logPush e).serving = d.serving := rfl
@[simp] theorem Dev.logPush_pairs (d : Dev) (e : LogEntry) : (d.logPush e).pairs = d.pairs := rfl
@[simp] theorem Dev.logPush_hostQs (d : Dev) (e : LogEntry) : (d.logPush e).hostQs = d.hostQs := rfl
@[simp] theorem Dev.logPush_tests (d : Dev) (e : LogEntry) : (d.logPush e).tests = d.tests := rfl
@[simp] theorem Dev.logPush_refRuns (d : Dev) (e : LogEntry) : (d.logPush e).refRuns = d.refRuns := rfl
@[simp] theorem Dev.logPush_wheelDirty (d : Dev) (e : LogEntry) : (d.logPush e).wheelDirty = d.wheelDirty := rfl
@[simp] theorem Dev.logPush_held (d : Dev) (e : LogEntry) : (d.logPush e).held = d.held := rfl
@[simp] theorem Dev.logPush_warnEnd (d : Dev) (e : LogEntry) : (d.logPush e).warnEnd = d.warnEnd := rfl
@[simp] theorem Dev.logPush_cpaLost (d : Dev) (e : LogEntry) : (d.logPush e).cpaLost = d.cpaLost := rfl
@[simp] theorem Dev.logPush_cpbLost (d : Dev) (e : LogEntry) : (d.logPush e).cpbLost = d.cpbLost := rfl
@[simp] theorem Dev.logPush_kickA (d : Dev) (e : LogEntry) : (d.logPush e).kickA = d.kickA := rfl
@[simp] theorem Dev.logPush_kickB (d : Dev) (e : LogEntry) : (d.logPush e).kickB = d.kickB := rfl
@[simp] theorem Dev.logPush_log (d : Dev) (e : LogEntry) : (d.logPush e).log = (if d.log.length < 65536 then d.log else d.log.drop 1) ++ [{ e with inj := d.injUnit }] := rfl
@[simp] theorem Dev.logPush_cnts (d : Dev) (e : LogEntry) : (d.logPush e).cnts = d.cnts := rfl
@[simp] theorem Dev.logPush_lockFull (d : Dev) (e : LogEntry) : (d.logPush e).lockFull = d.lockFull := rfl
@[simp] theorem Dev.logPush_irqs (d : Dev) (e : LogEntry) : (d.logPush e).irqs = d.irqs := rfl
@[simp] theorem Dev.logPush_latches (d : Dev) (e : LogEntry) : (d.logPush e).latches = d.latches := rfl
@[simp] theorem Dev.logPush_links (d : Dev) (e : LogEntry) : (d.logPush e).links = d.links := rfl
@[simp] theorem Dev.logPush_stackIfs (d : Dev) (e : LogEntry) : (d.logPush e).stackIfs = d.stackIfs := rfl
@[simp] theorem Dev.logPush_dieOff (d : Dev) (e : LogEntry) : (d.logPush e).dieOff = d.dieOff := rfl
@[simp] theorem Dev.logPush_keys (d : Dev) (e : LogEntry) : (d.logPush e).keys = d.keys := rfl
@[simp] theorem Dev.logPush_gw (d : Dev) (e : LogEntry) : (d.logPush e).gw = d.gw := rfl
@[simp] theorem Dev.logPush_boot (d : Dev) (e : LogEntry) : (d.logPush e).boot = d.boot := rfl
@[simp] theorem Dev.logPush_rstT (d : Dev) (e : LogEntry) : (d.logPush e).rstT = d.rstT := rfl
@[simp] theorem Dev.logPush_clkFail (d : Dev) (e : LogEntry) : (d.logPush e).clkFail = d.clkFail := rfl
@[simp] theorem Dev.logPush_capOver (d : Dev) (e : LogEntry) : (d.logPush e).capOver = d.capOver := rfl
@[simp] theorem Dev.logPush_capBase (d : Dev) (e : LogEntry) : (d.logPush e).capBase = d.capBase := rfl
@[simp] theorem Dev.logPush_therm (d : Dev) (e : LogEntry) : (d.logPush e).therm = d.therm := rfl
@[simp] theorem Dev.logPush_pwrMs (d : Dev) (e : LogEntry) : (d.logPush e).pwrMs = d.pwrMs := rfl
@[simp] theorem Dev.logPush_auxOff (d : Dev) (e : LogEntry) : (d.logPush e).auxOff = d.auxOff := rfl
@[simp] theorem Dev.logPush_flash (d : Dev) (e : LogEntry) : (d.logPush e).flash = d.flash := rfl
@[simp] theorem Dev.logPush_minSvn (d : Dev) (e : LogEntry) : (d.logPush e).minSvn = d.minSvn := rfl
@[simp] theorem Dev.logPush_pipes (d : Dev) (e : LogEntry) : (d.logPush e).pipes = d.pipes := rfl
@[simp] theorem Dev.logPush_vcs (d : Dev) (e : LogEntry) : (d.logPush e).vcs = d.vcs := rfl
@[simp] theorem Dev.logPush_cams (d : Dev) (e : LogEntry) : (d.logPush e).cams = d.cams := rfl
@[simp] theorem Dev.logPush_dmaCh (d : Dev) (e : LogEntry) : (d.logPush e).dmaCh = d.dmaCh := rfl
@[simp] theorem Dev.logPush_dmaLast (d : Dev) (e : LogEntry) : (d.logPush e).dmaLast = d.dmaLast := rfl
@[simp] theorem Dev.logPush_fi (d : Dev) (e : LogEntry) : (d.logPush e).fi = d.fi := rfl
@[simp] theorem Dev.logPush_injUnit (d : Dev) (e : LogEntry) : (d.logPush e).injUnit = d.injUnit := rfl
@[simp] theorem Dev.logPush_dbgHalt (d : Dev) (e : LogEntry) : (d.logPush e).dbgHalt = d.dbgHalt := rfl
@[simp] theorem Dev.logPush_dbgDenied (d : Dev) (e : LogEntry) : (d.logPush e).dbgDenied = d.dbgDenied := rfl
@[simp] theorem Dev.logPush_trace (d : Dev) (e : LogEntry) : (d.logPush e).trace = d.trace := rfl
@[simp] theorem Dev.logPush_waiting (d : Dev) (e : LogEntry) : (d.logPush e).waiting = d.waiting := rfl
@[simp] theorem Dev.logPush_lastAcc (d : Dev) (e : LogEntry) : (d.logPush e).lastAcc = d.lastAcc := rfl

end Sys2Proof.Machine
end

