-- ==== Sys2Proof/Laws/Tab.lean ====
section
/-! SUPPORT. Reads of sparse tables after writes, and folds that keep a property. -/

namespace Sys2Proof

variable {α : Type}

@[simp] theorem Tab.look_nil (k : Nat) : Tab.look ([] : Tab α) k = none := rfl

@[simp] theorem Tab.look_put_self (t : Tab α) (k : Nat) (x : α) : Tab.look (Tab.put t k x) k = some x := by
  induction t with
  | nil => simp [Tab.put, Tab.look]
  | cons p t ih =>
    obtain ⟨k', v⟩ := p
    simp only [Tab.put]
    split
    · simp [Tab.look]
    · split
      · simp [Tab.look]
      · rename_i h; simp [Tab.look, Ne.symm h, ih]

theorem Tab.look_put_ne (t : Tab α) {k j : Nat} (x : α) (h : j ≠ k) : Tab.look (Tab.put t k x) j = Tab.look t j := by
  induction t with
  | nil => simp [Tab.put, Tab.look, Ne.symm h]
  | cons p t ih =>
    obtain ⟨k', v⟩ := p
    simp only [Tab.put]
    split
    · simp [Tab.look, Ne.symm h]
    · split
      · rename_i h1; subst h1; simp [Tab.look, Ne.symm h]
      · simp [Tab.look, ih]

theorem Tab.look_put (t : Tab α) (k j : Nat) (x : α) :
    Tab.look (Tab.put t k x) j = if j = k then some x else Tab.look t j := by
  split
  · rename_i h; rw [h, look_put_self]
  · rename_i h; rw [look_put_ne t x h]

@[simp] theorem Tab.lookD_put_self (t : Tab α) (k : Nat) (x y : α) : Tab.lookD (Tab.put t k x) k y = x := by
  simp [Tab.lookD]

theorem Tab.lookD_put_ne (t : Tab α) {k j : Nat} (x y : α) (h : j ≠ k) : Tab.lookD (Tab.put t k x) j y = Tab.lookD t j y := by
  simp [Tab.lookD, Tab.look_put_ne t x h]

/-- The later write of a key is the one that stays. -/
theorem Tab.put_put (t : Tab α) (k : Nat) (x y : α) : Tab.put (Tab.put t k x) k y = Tab.put t k y := by
  induction t with
  | nil => simp [Tab.put]
  | cons c t ih =>
    obtain ⟨j, v⟩ := c
    simp only [Tab.put]
    by_cases h1 : k < j
    · simp [h1, Tab.put]
    · by_cases h2 : k = j
      · simp [h2, Tab.put]
      · simp [h1, h2, Tab.put, ih]

/-- A write of a key that lies in a sorted table's order keeps the order. -/
theorem Tab.sorted_put (t : Tab α) (k : Nat) (x : α) (h : Tab.sorted t = true) : Tab.sorted (Tab.put t k x) = true := by
  induction t with
  | nil => rfl
  | cons p t ih =>
    obtain ⟨k', v⟩ := p
    simp only [Tab.put]
    split
    · rename_i hlt; simp [Tab.sorted, hlt, h]
    · split
      · rename_i _ he; subst he
        cases t with
        | nil => rfl
        | cons q t => obtain ⟨k2, v2⟩ := q; simpa [Tab.sorted] using h
      · rename_i h1 h2
        cases t with
        | nil => simp [Tab.put, Tab.sorted]; omega
        | cons q t =>
          obtain ⟨k2, v2⟩ := q
          simp only [Tab.sorted, Bool.and_eq_true, decide_eq_true_eq] at h
          have := ih h.2
          simp only [Tab.put] at this ⊢
          split at this <;> rename_i hk
          · simp only [hk, if_true, Tab.sorted, Bool.and_eq_true, decide_eq_true_eq]
            refine ⟨by omega, trivial, h.2⟩
          · simp only [hk, if_false] at this ⊢
            split at this <;> rename_i hk2
            · simp only [hk2, if_true, Tab.sorted, Bool.and_eq_true, decide_eq_true_eq] at this ⊢
              exact ⟨by omega, this⟩
            · simp only [hk2, if_false, Tab.sorted, Bool.and_eq_true, decide_eq_true_eq] at this ⊢
              exact ⟨h.1, this⟩

/-- A read among the entries that a condition on the key keeps. -/
theorem Tab.look_filter (t : Tab α) (p : Nat → Bool) (k : Nat) :
    Tab.look (t.filter fun c => p c.1) k = if p k then Tab.look t k else none := by
  induction t with
  | nil => simp
  | cons c t ih =>
    obtain ⟨j, v⟩ := c
    simp only [List.filter]
    by_cases hk : j = k
    · subst hk
      cases hp : p j <;> simp [Tab.look, hp] at ih ⊢
      exact ih
    · cases hp : p j <;> simp [Tab.look, hk, ih]

/-- What every step of a fold keeps, the fold keeps. -/
theorem forEach_keeps {σ β : Type} (P : σ → Prop) (f : β → σ → σ) (hf : ∀ b s, P s → P (f b s)) (l : List β) (s : σ) (h : P s) :
    P (forEach l f s) := by
  unfold forEach
  induction l generalizing s with
  | nil => exact h
  | cons b l ih => exact ih (f b s) (hf b s h)

theorem forUpTo_keeps {σ : Type} (P : σ → Prop) (f : Nat → σ → σ) (hf : ∀ i s, P s → P (f i s)) (n : Nat) (s : σ) (h : P s) :
    P (forUpTo n f s) := forEach_keeps P f hf (List.range n) s h

/-- A field that every step of a fold leaves, the fold leaves. -/
theorem forEach_same {σ β γ : Type} (g : σ → γ) (f : β → σ → σ) (hf : ∀ b s, g (f b s) = g s) (l : List β) (s : σ) :
    g (forEach l f s) = g s :=
  forEach_keeps (fun x => g x = g s) f (fun b x hx => by rw [hf, hx]) l s rfl

theorem forUpTo_same {σ γ : Type} (g : σ → γ) (f : Nat → σ → σ) (hf : ∀ i s, g (f i s) = g s) (n : Nat) (s : σ) :
    g (forUpTo n f s) = g s := forEach_same g f hf (List.range n) s

end Sys2Proof
end

