-- ==== Sys2Proof/Laws/Regs.lean ====
section
/-! SUPPORT. Registers and memory of the device: reads after writes, what a command's effect keeps, and the address map. -/

namespace Sys2Proof.Machine

/-! ### Registers -/

@[simp] theorem Dev.reg_setReg_self (d : Dev) (a : Nat) (w : Word) : (d.setReg a w).reg a = w := by simp [Dev.reg]

theorem Dev.reg_setReg_ne (d : Dev) {a b : Nat} (w : Word) (h : b ≠ a) : (d.setReg a w).reg b = d.reg b := by
  simp [Dev.reg, Tab.look_put_ne _ _ h]

/-- Registers follow the table alone. -/
theorem Dev.reg_congr {d e : Dev} (h : e.regs = d.regs) (a : Nat) : e.reg a = d.reg a := by simp [Dev.reg, h]

theorem Dev.reg_setF_ne (d : Dev) {a b : Nat} (hi lo v : Nat) (h : b ≠ a) : (d.setF a hi lo v).reg b = d.reg b :=
  Dev.reg_setReg_ne d _ h

theorem Dev.reg_setB_ne (d : Dev) {a b : Nat} (i : Nat) (v : Bool) (h : b ≠ a) : (d.setB a i v).reg b = d.reg b :=
  Dev.reg_setReg_ne d _ h

/-- A field reads the low bits of what was last written to it. -/
theorem Dev.getF_setF_self (d : Dev) (a hi lo v : Nat) (h : hi < 32) : (d.setF a hi lo v).getF a hi lo = v % 2 ^ (hi + 1 - lo) := by
  simp [Dev.getF, Dev.setF, Word.fld_put_self _ _ _ _ h]

/-- A field write leaves the other fields of the register. -/
theorem Dev.getF_setF_ne (d : Dev) (a hi lo v hi' lo' : Nat) (h : hi' < lo ∨ hi < lo') :
    (d.setF a hi lo v).getF a hi' lo' = d.getF a hi' lo' := by
  simp [Dev.getF, Dev.setF, Word.fld_put_ne _ _ _ _ _ _ h]

/-- A bit reads what was last written to it. -/
theorem Dev.getB_setB_self (d : Dev) (a i : Nat) (b : Bool) (h : i < 32) : (d.setB a i b).getB a i = b := by
  simp [Dev.getB, Dev.setB, Dev.setF, Word.bit_put_self _ _ _ h]

/-- A bit write leaves the other bits of the register. -/
theorem Dev.getB_setB_ne (d : Dev) (a i j : Nat) (b : Bool) (h : j ≠ i) : (d.setB a i b).getB a j = d.getB a j := by
  have : j < i ∨ i < j := by omega
  simp [Dev.getB, Dev.setB, Dev.setF, Word.bit_put_ne _ _ _ _ _ this]

/-! ### What a command's effect keeps -/

theorem foldl_put_look (l : List Nat) (f : Nat → Word) (r : Tab Word) (a : Nat) :
    Tab.look (l.foldl (fun r a => r.put a (f a)) r) a = if a ∈ l then some (f a) else Tab.look r a := by
  induction l generalizing r with
  | nil => simp
  | cons b l ih =>
    simp only [List.foldl_cons, ih, List.mem_cons, Tab.look_put]
    by_cases h1 : a ∈ l
    · simp [h1]
    · by_cases h2 : a = b
      · simp [h2]
      · simp [h1, h2]

/-- A register after a command: what it was if a lock holds it, else what the effect left. -/
theorem Dev.reg_keep (d e : Dev) (a : Nat) : (Dev.keep d e).reg a = if a ∈ d.lockedRegs then d.reg a else e.reg a := by
  unfold Dev.keep
  rw [Dev.reg, foldl_put_look]
  split <;> simp [Dev.reg]

/-- The registers that some lock can hold. -/
def lockables : List Nat := [aSafeCfg, aWorldLock, aWorldEth, aWorldCan, aWorldAphy, aWorldHost]

theorem Dev.reg_keep_free (d e : Dev) {a : Nat} (h : a ∉ lockables) : (Dev.keep d e).reg a = e.reg a := by
  rw [Dev.reg_keep, if_neg]
  intro hm
  apply h
  unfold Dev.lockedRegs at hm
  unfold lockables
  simp only [List.mem_append] at hm
  rcases hm with hm | hm
  · split at hm <;> simp_all
  · split at hm <;> simp_all

/-- A register that the effect leaves, the command leaves. -/
theorem Dev.reg_keep_same (d e : Dev) {a : Nat} (h : e.reg a = d.reg a) : (Dev.keep d e).reg a = d.reg a := by
  rw [Dev.reg_keep]; split <;> simp [h]

/-! ### Time -/

theorem Dev.now_advance (d : Dev) (t : Nat) : (d.advance t).now = max d.now t := by
  simp only [Dev.now, Dev.advance_tb]
  omega

theorem Dev.reg_advance (d : Dev) (t a : Nat) : (d.advance t).reg a = d.reg a := rfl

/-- A command on a powered device. -/
theorem Dev.act_on {d : Dev} (h : d.power = .on) (t : Nat) (f : Dev → Dev) :
    d.act t f = Dev.keep (d.advance t) (f (d.advance t)) := by simp [Dev.act, h]

/-- A device without its rails does nothing. -/
theorem Dev.act_off {d : Dev} (h : d.power ≠ .on) (t : Nat) (f : Dev → Dev) : d.act t f = d := by simp [Dev.act, h]

/-! ### Memory -/

/-- Bytes follow the cells, what is lost, and the interleave registers. -/
theorem Dev.phys_congr {d e : Dev} (hl : e.reg aBwrIlvLo = d.reg aBwrIlvLo) (hh : e.reg aBwrIlvHi = d.reg aBwrIlvHi) (a : Nat) :
    e.phys a = d.phys a := by
  have h : ∀ g, e.ilvBit g = d.ilvBit g := by intro g; simp [Dev.ilvBit, Dev.getB, hl, hh]
  simp [Dev.phys, h]

theorem Dev.rd8_congr {d e : Dev} (hl : e.reg aBwrIlvLo = d.reg aBwrIlvLo) (hh : e.reg aBwrIlvHi = d.reg aBwrIlvHi)
    (hm : e.mem = d.mem) (hs : e.msMem = d.msMem) (hf : e.dramFree = d.dramFree) (hg : e.msFree = d.msFree) (a : Nat) :
    e.rd8 a = d.rd8 a := by
  simp [Dev.rd8, Dev.phys_congr hl hh, hm, Dev.dramMask, hf, Dev.msRead, hs, hg]

/-- The interleave bit that decides an address. -/
theorem Dev.ilvBit_congr {d e : Dev} (h : e.regs = d.regs) (g : Nat) : e.ilvBit g = d.ilvBit g := by
  simp [Dev.ilvBit, Dev.getB, Dev.reg_congr h]

/-- An offset in the interleaved window as its 16 KiB row, its stack and its byte. -/
theorem ilv_split (u : Nat) (hu : u < 4 * gib36) : ∃ i s r, u = 16384 * i + 4096 * s + r ∧ s < 4 ∧ r < 4096 ∧ i < 9437184 ∧
    u / 4096 % 4 = s ∧ u / 16384 = i ∧ u % 4096 = r := by
  refine ⟨u / 16384, u / 4096 % 4, u % 4096, ?_, ?_, ?_, ?_, rfl, rfl, rfl⟩ <;> simp only [gib36] at hu <;> omega

theorem off_lt {a c g : Nat} (h : c ≤ a) (h' : a < c + g) : a - c < g := by omega

theorem row_lt {i r : Nat} (hi : i < 9437184) (hr : r < 4096) : i * 4096 + r < gib36 := by simp only [gib36]; omega

/-- The address at which a cell is reached is the one that reaches it (R283). -/
theorem Dev.devOf_phys (d : Dev) {a k : Nat} (h : d.phys a = some k) : d.devOf k = a := by
  unfold Dev.phys at h
  simp only at h
  split at h
  · split at h
    · simp at h
    · rename_i h1 h2
      simp only [Option.some.injEq] at h
      subst h
      have h2' : d.ilvBit (a % gib36 / 2 ^ 30) = false := by simpa using h2
      simp only [Dev.devOf, h2', Bool.and_false, Bool.false_eq_true, if_false]
  · split at h
    · rename_i h1 h2
      simp only [Option.some.injEq] at h
      subst h
      have : isDram a = false := by unfold isDram; exact decide_eq_false h1
      simp [Dev.devOf, this]
    · split at h
      · rename_i h3
        obtain ⟨h3, h3'⟩ := h3
        split at h
        · rename_i hi
          simp only [Option.some.injEq] at h
          obtain ⟨i, s, r, hu, hs, hr, hlt, e1, e2, e3⟩ := ilv_split (a - 0x5000000000) (off_lt h3 h3')
          rw [e1, e2, e3] at h
          have hrow := row_lt hlt hr
          have hmod : k % gib36 = i * 4096 + r := by
            rw [← h, Nat.mul_comm, Nat.mul_add_mod]; exact Nat.mod_eq_of_lt hrow
          have hdiv : stackOf k = s := by
            unfold stackOf
            rw [← h, Nat.mul_comm, Nat.mul_add_div (by decide), Nat.div_eq_of_lt hrow]; rfl
          have hd : isDram k = true := by
            unfold isDram
            have := Nat.mul_le_mul_right gib36 (Nat.le_sub_one_of_lt hs)
            exact decide_eq_true (by rw [← h]; omega)
          have hg : (i * 4096 + r) / 2 ^ 30 = (a - 0x5000000000) / 2 ^ 32 := by rw [hu]; omega
          have h4 : (i * 4096 + r) / 4096 = i := by omega
          have h5 : (i * 4096 + r) % 4096 = r := by omega
          unfold Dev.devOf
          simp only [hmod, hd, hg, hi, Bool.and_self, if_true, hdiv, h4, h5]
          have h6 : (i * 4 + s) * 4096 + r = a - 0x5000000000 := by rw [hu]; omega
          rw [Nat.add_assoc, h6, Nat.add_comm]
          exact Nat.sub_add_cancel h3
        · simp at h
      · simp at h

/-- No two addresses reach one cell (R283). -/
theorem Dev.phys_inj (d : Dev) {a b k : Nat} (ha : d.phys a = some k) (hb : d.phys b = some k) : a = b :=
  (d.devOf_phys ha).symm.trans (d.devOf_phys hb)

end Sys2Proof.Machine
end

