-- ==== Sys2Proof/Laws/DevMem.lean ====
section
/-! SUPPORT. Bytes of the device's memory: a read after a write, what a write leaves, and the canonical form that every memory
operation keeps. -/

namespace Sys2Proof.Machine

/-! ### One byte -/

theorem Dev.wr8_regs (d : Dev) (a : Nat) (b : Byte) : (d.wr8 a b).regs = d.regs := by
  unfold Dev.wr8; split <;> try rfl
  split <;> rfl

theorem Dev.wr8_dramFree (d : Dev) (a : Nat) (b : Byte) : (d.wr8 a b).dramFree = d.dramFree := by
  unfold Dev.wr8; split <;> try rfl
  split <;> rfl

theorem Dev.wr8_msFree (d : Dev) (a : Nat) (b : Byte) : (d.wr8 a b).msFree = d.msFree := by
  unfold Dev.wr8; split <;> try rfl
  split <;> rfl

theorem Dev.phys_wr8 (d : Dev) (a : Nat) (b : Byte) (x : Nat) : (d.wr8 a b).phys x = d.phys x :=
  Dev.phys_congr (Dev.reg_congr (d.wr8_regs a b) _) (Dev.reg_congr (d.wr8_regs a b) _) x

/-- A write keeps the canonical form. -/
theorem Dev.wf_wr8 (d : Dev) (a : Nat) (b : Byte) (h : Memory.wf d.mem = true) : Memory.wf (d.wr8 a b).mem = true := by
  unfold Dev.wr8
  split
  · split
    · exact Memory.wf_write _ _ _ h
    · exact h
  · exact h

/-- A read of the byte written. -/
theorem Dev.rd8_wr8_self (d : Dev) (a : Nat) (b : Byte) (hp : (d.phys a).isSome = true) :
    (d.wr8 a b).rd8 a = b := by
  obtain ⟨k, hk⟩ := Option.isSome_iff_exists.mp hp
  have hk' := d.phys_wr8 a b a
  rw [hk] at hk'
  unfold Dev.rd8
  rw [hk']
  simp only [Dev.dramMask, Dev.wr8_dramFree]
  unfold Dev.wr8
  simp only [hk]
  by_cases hd : isDram k = true
  · simp [hd, Memory.read_write_self, Dev.dramMask, BitVec.xor_assoc]
  · simp [hd, Dev.msRead]

/-- A write leaves every other byte. -/
theorem Dev.rd8_wr8_ne (d : Dev) {a x : Nat} (b : Byte) (h : x ≠ a) : (d.wr8 a b).rd8 x = d.rd8 x := by
  unfold Dev.rd8
  rw [Dev.phys_wr8]
  cases hx : d.phys x with
  | none => rfl
  | some k =>
    simp only [Dev.dramMask, Dev.wr8_dramFree, Dev.msRead, Dev.wr8_msFree]
    unfold Dev.wr8
    cases ha : d.phys a with
    | none => rfl
    | some j =>
      have hne : k ≠ j := fun e => h (d.phys_inj (by rw [hx, e]) ha)
      by_cases hd : isDram j = true
      · simp [hd, Memory.read_write_ne _ _ hne]
      · simp [hd, Tab.look_put_ne _ _ hne]

/-! ### Bytes without checks -/

theorem Dev.wrRaw_regs (bs : List Byte) (d : Dev) (a : Nat) : (d.wrRaw a bs).regs = d.regs := by
  induction bs generalizing d a with
  | nil => rfl
  | cons b t ih => rw [Dev.wrRaw, ih, Dev.wr8_regs]

theorem Dev.wf_wrRaw (bs : List Byte) (d : Dev) (a : Nat) (h : Memory.wf d.mem = true) : Memory.wf (d.wrRaw a bs).mem = true := by
  induction bs generalizing d a with
  | nil => exact h
  | cons b t ih => exact ih _ _ (d.wf_wr8 a b h)

theorem Dev.phys_wrRaw (bs : List Byte) (d : Dev) (a x : Nat) : (d.wrRaw a bs).phys x = d.phys x :=
  Dev.phys_congr (Dev.reg_congr (Dev.wrRaw_regs bs d a) _) (Dev.reg_congr (Dev.wrRaw_regs bs d a) _) x

/-- Bytes outside the range stay. -/
theorem Dev.rd8_wrRaw_out (bs : List Byte) (d : Dev) (a x : Nat) (h : x < a ∨ a + bs.length ≤ x) :
    (d.wrRaw a bs).rd8 x = d.rd8 x := by
  induction bs generalizing d a with
  | nil => rfl
  | cons b t ih =>
    simp only [List.length_cons] at h
    rw [Dev.wrRaw, ih _ _ (by omega), Dev.rd8_wr8_ne _ _ (by omega)]

/-- Bytes inside the range read as written. -/
theorem Dev.rd8_wrRaw_in (bs : List Byte) (d : Dev) (a i : Nat) (hi : i < bs.length)
    (hp : (d.phys (a + i)).isSome = true) : (d.wrRaw a bs).rd8 (a + i) = bs[i] := by
  induction bs generalizing d a i with
  | nil => simp at hi
  | cons b t ih =>
    rw [Dev.wrRaw]
    cases i with
    | zero =>
      rw [Dev.rd8_wrRaw_out _ _ _ _ (by omega)]
      simpa using d.rd8_wr8_self a b hp
    | succ i =>
      have := ih (d.wr8 a b) (a + 1) i (by simpa using hi) (by rw [Dev.phys_wr8]; simpa [Nat.add_assoc, Nat.add_comm 1] using hp)
      simpa [Nat.add_assoc, Nat.add_comm 1] using this

/-! ### Poison, caches, dirty logs -/

theorem Dev.unpoison_eq (d : Dev) (a n : Nat) : ∃ p, d.unpoison a n = { d with poison := p } := by
  unfold Dev.unpoison; split
  · exact ⟨d.poison, rfl⟩
  · exact ⟨_, rfl⟩

theorem Dev.unpoison_mem (d : Dev) (a n : Nat) : (d.unpoison a n).mem = d.mem := by
  obtain ⟨p, h⟩ := d.unpoison_eq a n; rw [h]

theorem Dev.rd8_unpoison (d : Dev) (a n x : Nat) : (d.unpoison a n).rd8 x = d.rd8 x := by
  obtain ⟨p, h⟩ := d.unpoison_eq a n; rw [h]; rfl

/-- The registers that a fold of register writes leaves. -/
theorem Dev.forEach_setB_reg {α : Type} (l : List α) (f : α → Nat) (i : Nat) (v : Bool) (d : Dev) (b : Nat) (h : ∀ x, f x ≠ b) :
    (forEach l (fun x d => d.setB (f x) i v) d).reg b = d.reg b :=
  forEach_same (fun d => d.reg b) _ (fun x d => d.reg_setB_ne i v (Ne.symm (h x))) l d

theorem Dev.forEach_setB_eq {α : Type} (l : List α) (f : α → Nat) (i : Nat) (v : Bool) (d : Dev) :
    ∃ r, forEach l (fun x d => d.setB (f x) i v) d = { d with regs := r } :=
  forEach_keeps (fun e => ∃ r, e = { d with regs := r }) _ (fun x e he => by obtain ⟨r, he⟩ := he; subst he; exact ⟨_, rfl⟩)
    l d ⟨d.regs, rfl⟩

/-- What invalidating copies does: registers and the residency list change, nothing else. -/
theorem Dev.uncache_eq (d : Dev) (a n : Nat) : ∃ r l, d.uncache a n = { d with regs := r, resid := l } := by
  unfold Dev.uncache
  simp only
  split
  · obtain ⟨r, h⟩ := Dev.forEach_setB_eq (d.resid.filter fun x => rangesMeet x.2.1 x.2.2 (alignDown a 64) (alignUp (a + n) 64 - alignDown a 64) && decide (64 ≤ x.1))
      (fun x => aGxCbCtrl (x.1 - 64)) 1 false d
    rw [h]
    exact ⟨r, _, rfl⟩
  · exact ⟨d.regs, d.resid, rfl⟩

theorem aGxCbCtrl_ge (e : Nat) : 0x7F10100010 ≤ aGxCbCtrl e := by
  simp only [aGxCbCtrl, aGx, dieBase]; omega

theorem Dev.reg_uncache (d : Dev) (a n b : Nat) (hb : ∀ e, aGxCbCtrl e ≠ b) : (d.uncache a n).reg b = d.reg b := by
  unfold Dev.uncache
  simp only
  split
  · exact Dev.forEach_setB_reg _ (fun x : Nat × Nat × Nat => aGxCbCtrl (x.1 - 64)) 1 false d b (fun x => hb _)
  · rfl

theorem cb_ne_ilvLo (e : Nat) : aGxCbCtrl e ≠ aBwrIlvLo := by
  have := aGxCbCtrl_ge e; simp only [aBwrIlvLo, aBwr]; omega

theorem cb_ne_ilvHi (e : Nat) : aGxCbCtrl e ≠ aBwrIlvHi := by
  have := aGxCbCtrl_ge e; simp only [aBwrIlvHi, aBwr]; omega

theorem Dev.rd8_uncache (d : Dev) (a n x : Nat) : (d.uncache a n).rd8 x = d.rd8 x := by
  have hl := d.reg_uncache a n aBwrIlvLo cb_ne_ilvLo
  have hh := d.reg_uncache a n aBwrIlvHi cb_ne_ilvHi
  obtain ⟨r, l, h⟩ := d.uncache_eq a n
  rw [h] at hl hh ⊢
  exact Dev.rd8_congr hl hh rfl rfl rfl rfl x

theorem Dev.logDirty_off (d : Dev) (a n : Nat) (h : d.loggers = []) : d.logDirty a n = d := by
  unfold Dev.logDirty; split <;> simp [h, forEach]

theorem Dev.wf_uncache (d : Dev) (a n : Nat) (h : Memory.wf d.mem = true) : Memory.wf (d.uncache a n).mem = true := by
  obtain ⟨r, l, e⟩ := d.uncache_eq a n
  rw [e]
  exact h

theorem Dev.wf_markDirty (d : Dev) (n a : Nat) (h : Memory.wf d.mem = true) : Memory.wf (d.markDirty n a).mem = true := by
  unfold Dev.markDirty
  simp only
  split
  · exact h
  · split
    · exact h
    · split
      · exact Dev.wf_uncache _ _ _ (d.wf_wr8 _ _ h)
      · exact h

theorem Dev.wf_logDirty (d : Dev) (a n : Nat) (h : Memory.wf d.mem = true) : Memory.wf (d.logDirty a n).mem = true := by
  unfold Dev.logDirty
  split
  · exact h
  · exact forEach_keeps (fun d => Memory.wf d.mem = true) _
      (fun i d hd => forUpTo_keeps (fun d => Memory.wf d.mem = true) _ (fun k d hd => d.wf_markDirty i _ hd) _ d hd) _ d h

/-! ### Bytes written by a master -/

theorem Dev.wf_wrN (d : Dev) (a : Nat) (bs : List Byte) (h : Memory.wf d.mem = true) : Memory.wf (d.wrN a bs).mem = true := by
  unfold Dev.wrN
  refine Dev.wf_logDirty _ _ _ ?_
  obtain ⟨r, l, e⟩ := ((d.wrRaw a bs).unpoison a bs.length).uncache_eq a bs.length
  rw [e]
  show Memory.wf ((d.wrRaw a bs).unpoison a bs.length).mem = true
  rw [Dev.unpoison_mem]
  exact Dev.wf_wrRaw bs d a h

/-- Clearing a range keeps the canonical form. -/
theorem Dev.wf_zero (d : Dev) (a n : Nat) (h : Memory.wf d.mem = true) : Memory.wf (d.zero a n).mem = true := by
  unfold Dev.zero
  simp only
  refine Dev.wf_logDirty _ _ _ ?_
  generalize he : (if d.dramFree = [] ∧ d.msFree = [] then
      { d with mem := d.mem.filter fun c => !(decide (a ≤ d.devOf c.1) && decide (d.devOf c.1 < a + n)),
               msMem := d.msMem.filter fun c => !(decide (a ≤ c.1) && decide (c.1 < a + n)) }
    else d.wrRaw a (List.replicate n 0)) = e
  have hw : Memory.wf e.mem = true := by
    subst he
    split
    · exact Memory.wf_filter _ _ h
    · exact Dev.wf_wrRaw _ d a h
  obtain ⟨r, l, e2⟩ := (e.unpoison a n).uncache_eq a n
  rw [e2]
  show Memory.wf (e.unpoison a n).mem = true
  rw [Dev.unpoison_mem]
  exact hw

theorem Dev.wrRaw_loggers (bs : List Byte) (d : Dev) (a : Nat) : (d.wrRaw a bs).loggers = d.loggers := by
  have : (d.wrRaw a bs).pages = d.pages := by
    induction bs generalizing d a with
    | nil => rfl
    | cons b t ih => rw [Dev.wrRaw, ih]; unfold Dev.wr8; split <;> try rfl
                     split <;> rfl
  simp [Dev.loggers, this]

theorem Dev.uncache_loggers (d : Dev) (a n : Nat) : (d.uncache a n).loggers = d.loggers := by
  obtain ⟨r, l, e⟩ := d.uncache_eq a n; rw [e]; rfl

theorem Dev.unpoison_loggers (d : Dev) (a n : Nat) : (d.unpoison a n).loggers = d.loggers := by
  obtain ⟨p, e⟩ := d.unpoison_eq a n; rw [e]; rfl

/-- Where no dirty log runs, a write leaves every byte outside its range. -/
theorem Dev.rd8_wrN_out (d : Dev) (a : Nat) (bs : List Byte) (x : Nat) (hl : d.loggers = []) (h : x < a ∨ a + bs.length ≤ x) :
    (d.wrN a bs).rd8 x = d.rd8 x := by
  unfold Dev.wrN
  rw [Dev.logDirty_off _ _ _ (by rw [Dev.uncache_loggers, Dev.unpoison_loggers, Dev.wrRaw_loggers, hl]), Dev.rd8_uncache,
    Dev.rd8_unpoison, Dev.rd8_wrRaw_out _ _ _ _ h]

/-- Where no dirty log runs, a write's bytes read as written. -/
theorem Dev.rd8_wrN_in (d : Dev) (a : Nat) (bs : List Byte) (i : Nat) (hl : d.loggers = []) (hi : i < bs.length)
    (hp : (d.phys (a + i)).isSome = true) : (d.wrN a bs).rd8 (a + i) = bs[i] := by
  unfold Dev.wrN
  rw [Dev.logDirty_off _ _ _ (by rw [Dev.uncache_loggers, Dev.unpoison_loggers, Dev.wrRaw_loggers, hl]), Dev.rd8_uncache,
    Dev.rd8_unpoison, Dev.rd8_wrRaw_in _ _ _ _ hi hp]

/-! ### Zeroing -/

theorem Dev.zeroed_regs (d : Dev) (a n : Nat) : (if d.dramFree = [] ∧ d.msFree = [] then
      ({ d with mem := d.mem.filter fun c => !(decide (a ≤ d.devOf c.1) && decide (d.devOf c.1 < a + n)),
                msMem := d.msMem.filter fun c => !(decide (a ≤ c.1) && decide (c.1 < a + n)) } : Dev)
    else d.wrRaw a (List.replicate n 0)).loggers = d.loggers := by
  split
  · rfl
  · exact Dev.wrRaw_loggers _ d a

theorem Dev.rd8_at {d : Dev} {x k : Nat} (h : d.phys x = some k) :
    d.rd8 x = if isDram k then d.mem.read k ^^^ d.dramMask k else d.msRead k := by simp only [Dev.rd8, h]

theorem Dev.rd8_nowhere {d : Dev} {x : Nat} (h : d.phys x = none) : d.rd8 x = 0 := by simp only [Dev.rd8, h]

/-- A device whose bytes of a range are taken away where no byte is open. -/
def Dev.Cleared (d e : Dev) (a n : Nat) : Prop :=
  e.regs = d.regs ∧ e.dramFree = d.dramFree ∧ e.msFree = d.msFree ∧
  e.mem = d.mem.filter (fun c => !(decide (a ≤ d.devOf c.1) && decide (d.devOf c.1 < a + n))) ∧
  e.msMem = d.msMem.filter fun c => !(decide (a ≤ c.1) && decide (c.1 < a + n))

theorem Dev.Cleared.read {d e : Dev} {a n : Nat} (h : Dev.Cleared d e a n) (hd : d.dramFree = []) (hm : d.msFree = []) (x : Nat) :
    e.rd8 x = if a ≤ x ∧ x < a + n then 0 else d.rd8 x := by
  obtain ⟨hr, hf, hg, h1, h2⟩ := h
  have hp : e.phys x = d.phys x := Dev.phys_congr (Dev.reg_congr hr _) (Dev.reg_congr hr _) x
  cases hx : d.phys x with
  | none => rw [Dev.rd8_nowhere (hp.trans hx), Dev.rd8_nowhere hx]; simp
  | some k =>
    rw [Dev.rd8_at (hp.trans hx), Dev.rd8_at hx]
    have hk := d.devOf_phys hx
    have hmask : ∀ (g : Dev), g.dramFree = [] → g.dramMask k = 0 := by
      intro g hg; simp [Dev.dramMask, hg]
    rw [hmask d hd, hmask e (hf.trans hd)]
    by_cases hdr : isDram k = true
    · have := Memory.read_filter d.mem (fun k => !(decide (a ≤ d.devOf k) && decide (d.devOf k < a + n))) k
      rw [hk, ← h1] at this
      simp only [hdr, if_true, this]
      by_cases hin : a ≤ x ∧ x < a + n
      · simp [hin, Memory.blank]
      · have : (!(decide (a ≤ x) && decide (x < a + n))) = true := by simp; omega
        simp only [this, if_true, hin, if_false]
    · have hkx : k = x := by
        have : isDram k = false := by simpa using hdr
        simpa [Dev.devOf, this] using hk
      subst hkx
      have := Tab.look_filter d.msMem (fun k => !(decide (a ≤ k) && decide (k < a + n))) k
      rw [← h2] at this
      simp only [hdr, Dev.msRead, this, hg, hm]
      by_cases hin : a ≤ k ∧ k < a + n
      · simp [hin, Memory.blank]
      · have : (!(decide (a ≤ k) && decide (k < a + n))) = true := by simp; omega
        simp [this, hin]

/-- Where no dirty log runs, a zeroed range reads 0 and every other byte is as before. -/
theorem Dev.rd8_zero (d : Dev) (a n x : Nat) (hl : d.loggers = []) :
    (d.zero a n).rd8 x = if a ≤ x ∧ x < a + n then 0 else d.rd8 x := by
  unfold Dev.zero
  simp only
  rw [Dev.logDirty_off _ _ _ (by rw [Dev.uncache_loggers, Dev.unpoison_loggers, Dev.zeroed_regs, hl]), Dev.rd8_uncache, Dev.rd8_unpoison]
  split
  · rename_i hf
    refine Dev.Cleared.read (d := d) (a := a) (n := n) ?_ hf.1 hf.2 x
    exact ⟨rfl, rfl, rfl, rfl, rfl⟩
  · by_cases hin : a ≤ x ∧ x < a + n
    · rw [if_pos hin]
      cases hx : d.phys x with
      | none => exact Dev.rd8_nowhere ((Dev.phys_wrRaw _ _ _ _).trans hx)
      | some k =>
        have he : a + (x - a) = x := by omega
        have hlen : x - a < (List.replicate n (0 : Byte)).length := by simp; omega
        have := Dev.rd8_wrRaw_in (List.replicate n 0) d a (x - a) hlen (by rw [he, hx]; rfl)
        rw [he] at this
        simpa using this
    · rw [if_neg hin]
      exact Dev.rd8_wrRaw_out _ d a x (by simp; omega)

/-! ### What a write can change -/

/-- A device that differs from another only where a write of memory reaches: the bytes, poison, operand buffers and codebook RAMs
with their registers, and the overflow marks of dirty logs. -/
def Dev.WroteFrom (d e : Dev) : Prop :=
  ∃ m ms p r l pg, e = { d with mem := m, msMem := ms, poison := p, regs := r, resid := l, pages := pg }

theorem Dev.WroteFrom.refl (d : Dev) : Dev.WroteFrom d d := ⟨d.mem, d.msMem, d.poison, d.regs, d.resid, d.pages, rfl⟩

theorem Dev.WroteFrom.trans {d e f : Dev} (h : Dev.WroteFrom d e) (g : Dev.WroteFrom e f) : Dev.WroteFrom d f := by
  obtain ⟨_, _, _, _, _, _, rfl⟩ := h
  obtain ⟨m, ms, p, r, l, pg, rfl⟩ := g
  exact ⟨m, ms, p, r, l, pg, rfl⟩

theorem Dev.wr8_wrote (d : Dev) (a : Nat) (b : Byte) : Dev.WroteFrom d (d.wr8 a b) := by
  unfold Dev.wr8
  split
  · split
    · exact ⟨_, d.msMem, d.poison, d.regs, d.resid, d.pages, rfl⟩
    · exact ⟨d.mem, _, d.poison, d.regs, d.resid, d.pages, rfl⟩
  · exact .refl d

theorem Dev.wrRaw_wrote (bs : List Byte) (d : Dev) (a : Nat) : Dev.WroteFrom d (d.wrRaw a bs) := by
  induction bs generalizing d a with
  | nil => exact .refl d
  | cons b t ih => exact (d.wr8_wrote a b).trans (ih _ _)

theorem Dev.unpoison_wrote (d : Dev) (a n : Nat) : Dev.WroteFrom d (d.unpoison a n) := by
  obtain ⟨p, e⟩ := d.unpoison_eq a n
  exact ⟨d.mem, d.msMem, p, d.regs, d.resid, d.pages, e⟩

theorem Dev.uncache_wrote (d : Dev) (a n : Nat) : Dev.WroteFrom d (d.uncache a n) := by
  obtain ⟨r, l, e⟩ := d.uncache_eq a n
  exact ⟨d.mem, d.msMem, d.poison, r, l, d.pages, e⟩

theorem Dev.markDirty_wrote (d : Dev) (n a : Nat) : Dev.WroteFrom d (d.markDirty n a) := by
  unfold Dev.markDirty
  simp only
  split
  · exact .refl d
  · split
    · exact .refl d
    · split
      · exact (d.wr8_wrote _ _).trans (Dev.uncache_wrote _ _ _)
      · exact ⟨d.mem, d.msMem, d.poison, d.regs, d.resid, _, rfl⟩

theorem Dev.logDirty_wrote (d : Dev) (a n : Nat) : Dev.WroteFrom d (d.logDirty a n) := by
  unfold Dev.logDirty
  split
  · exact .refl d
  · exact forEach_keeps (Dev.WroteFrom d) _ (fun i e h => forUpTo_keeps (Dev.WroteFrom d) _ (fun k e h => h.trans (e.markDirty_wrote i _)) _ e h)
      _ d (.refl d)

/-- All that a write can change. -/
theorem Dev.wrN_wrote (d : Dev) (a : Nat) (bs : List Byte) : Dev.WroteFrom d (d.wrN a bs) :=
  (((Dev.wrRaw_wrote bs d a).trans (Dev.unpoison_wrote _ _ _)).trans (Dev.uncache_wrote _ _ _)).trans (Dev.logDirty_wrote _ _ _)

/-- All that zeroing can change. -/
theorem Dev.zero_wrote (d : Dev) (a n : Nat) : Dev.WroteFrom d (d.zero a n) := by
  unfold Dev.zero
  simp only
  refine Dev.WroteFrom.trans ?_ (((Dev.unpoison_wrote _ _ _).trans (Dev.uncache_wrote _ _ _)).trans (Dev.logDirty_wrote _ _ _))
  split
  · exact ⟨_, _, d.poison, d.regs, d.resid, d.pages, rfl⟩
  · exact Dev.wrRaw_wrote _ d a

end Sys2Proof.Machine
end

