-- ==== Sys2Proof/Laws/Frame.lean ====
section
/-! SUPPORT. Frames: what each shared operation leaves as it is, and how frames compose. -/

namespace Sys2Proof.Machine

/-! ### Composition -/

theorem Dev.Same.refl (d : Dev) (k : Kind) : Dev.Same d d k := by cases k <;> simp [Dev.Same]

theorem Dev.Same.trans {d e f : Dev} {k : Kind} (h : Dev.Same d e k) (g : Dev.Same e f k) : Dev.Same d f k := by
  cases k <;> simp_all [Dev.Same]

theorem Dev.Frame.refl (d : Dev) (ks : List Kind) (rs : Nat → Prop) : Dev.Frame d d ks rs :=
  ⟨fun k _ => .refl d k, fun _ _ => rfl, rfl, rfl, Nat.le_refl _⟩

/-- A frame may name more than changes. -/
theorem Dev.Frame.mono {d e : Dev} {ks ks' : List Kind} {rs rs' : Nat → Prop} (h : Dev.Frame d e ks rs)
    (hk : ∀ k ∈ ks, k ∈ ks') (hr : ∀ a, rs a → rs' a) : Dev.Frame d e ks' rs' :=
  ⟨fun k hn => h.same k fun hm => hn (hk k hm), fun a hn => h.regs a fun hm => hn (hr a hm), h.fuse, h.power, h.time⟩

/-- Two effects, one after the other. -/
theorem Dev.Frame.trans {d e f : Dev} {ks : List Kind} {rs : Nat → Prop} (h : Dev.Frame d e ks rs) (g : Dev.Frame e f ks rs) :
    Dev.Frame d f ks rs :=
  ⟨fun k hn => (h.same k hn).trans (g.same k hn), fun a hn => (g.regs a hn).trans (h.regs a hn), g.fuse.trans h.fuse,
    g.power.trans h.power, Nat.le_trans h.time g.time⟩

/-- Two effects whose frames differ. -/
theorem Dev.Frame.comp {d e f : Dev} {ks ks' : List Kind} {rs rs' : Nat → Prop} (h : Dev.Frame d e ks rs)
    (g : Dev.Frame e f ks' rs') : Dev.Frame d f (ks ++ ks') fun a => rs a ∨ rs' a :=
  (h.mono (fun _ hm => List.mem_append_left _ hm) fun _ hm => Or.inl hm).trans
    (g.mono (fun _ hm => List.mem_append_right _ hm) fun _ hm => Or.inr hm)

/-- An effect repeated over a list. -/
theorem Dev.Frame.forEach {α : Type} {ks : List Kind} {rs : Nat → Prop} (l : List α) (f : α → Dev → Dev)
    (h : ∀ x ∈ l, ∀ d, Dev.Frame d (f x d) ks rs) (d : Dev) : Dev.Frame d (forEach l f d) ks rs := by
  induction l generalizing d with
  | nil => exact .refl d ks rs
  | cons x l ih => exact (h x (by simp) d).trans (ih (fun y hy => h y (by simp [hy])) (f x d))

/-! ### Single updates -/

theorem Dev.frame_advance (d : Dev) (t : Nat) : Dev.Frame d (d.advance t) [] fun _ => False := by
  refine ⟨?_, fun _ _ => rfl, rfl, rfl, Nat.le_max_left _ _⟩
  intro q hq
  cases q <;> simp [Dev.Same] at hq ⊢
  intro a; rfl

theorem Dev.frame_setPage (d : Dev) (k : Nat) (p : Page) : Dev.Frame d (d.setPage k p) [.pages] fun _ => False := by
  refine ⟨?_, fun _ _ => rfl, rfl, rfl, Nat.le_refl _⟩
  intro q hq
  cases q <;> simp [Dev.Same] at hq ⊢
  intro a; rfl

theorem Dev.frame_setInst (d : Dev) (k : Nat) (p : Inst) : Dev.Frame d (d.setInst k p) [.instances] fun _ => False := by
  refine ⟨?_, fun _ _ => rfl, rfl, rfl, Nat.le_refl _⟩
  intro q hq
  cases q <;> simp [Dev.Same] at hq ⊢
  intro a; rfl

theorem Dev.frame_raise (d : Dev) (i : Irq) : Dev.Frame d (d.raise i) [.interrupts] fun _ => False := by
  refine ⟨?_, fun _ _ => rfl, rfl, rfl, Nat.le_refl _⟩
  intro q hq
  cases q <;> simp [Dev.Same] at hq ⊢
  intro a; rfl

theorem Dev.frame_logPush (d : Dev) (x : LogEntry) : Dev.Frame d (d.logPush x) [.log] fun _ => False := by
  refine ⟨?_, fun _ _ => rfl, rfl, rfl, Nat.le_refl _⟩
  intro q hq
  cases q <;> simp [Dev.Same] at hq ⊢
  intro a; rfl

theorem Dev.frame_logE (d : Dev) (kind c s a x : Nat) : Dev.Frame d (d.logE kind c s a x) [.log] fun _ => False := d.frame_logPush _

/-- A register that does not set the memory layout. -/
theorem Dev.frame_setReg (d : Dev) (a : Nat) (w : Word) (hl : aBwrIlvLo ≠ a) (hh : aBwrIlvHi ≠ a) :
    Dev.Frame d (d.setReg a w) [] fun b => b = a := by
  refine ⟨?_, fun b hb => Dev.reg_setReg_ne d w hb, rfl, rfl, Nat.le_refl _⟩
  intro q hq
  cases q <;> simp [Dev.Same] at hq ⊢
  intro b
  exact Dev.rd8_congr (Dev.reg_setReg_ne d w hl) (Dev.reg_setReg_ne d w hh) rfl rfl rfl rfl b

theorem Dev.frame_setF (d : Dev) (a hi lo v : Nat) (hl : aBwrIlvLo ≠ a) (hh : aBwrIlvHi ≠ a) :
    Dev.Frame d (d.setF a hi lo v) [] fun b => b = a := d.frame_setReg a _ hl hh

theorem Dev.frame_setB (d : Dev) (a i : Nat) (v : Bool) (hl : aBwrIlvLo ≠ a) (hh : aBwrIlvHi ≠ a) :
    Dev.Frame d (d.setB a i v) [] fun b => b = a := d.frame_setReg a _ hl hh

theorem Dev.frame_begin (d : Dev) (m : Mbx) (op x y : Nat) (r : Bool) (st : Nat) :
    Dev.Frame d (d.begin m op x y r st) [.commands] fun _ => False := by
  refine ⟨?_, fun _ _ => rfl, rfl, rfl, Nat.le_refl _⟩
  intro q hq
  cases q <;> simp [Dev.Same, Dev.begin] at hq ⊢
  intro a; rfl

/-! ### Events, counters, reports -/

/-- All that an event can change. -/
theorem Dev.post_eq (d : Dev) (k c a x : Nat) : ∃ pg cn iq, d.post k c a x = { d with pages := pg, cnts := cn, irqs := iq } := by
  unfold Dev.post
  simp only
  split
  · exact ⟨d.pages, d.cnts, d.irqs, rfl⟩
  · split
    · split
      · exact ⟨_, _, _, rfl⟩
      · exact ⟨_, d.cnts, _, rfl⟩
    · split
      · exact ⟨_, _, d.irqs, rfl⟩
      · exact ⟨_, d.cnts, d.irqs, rfl⟩

theorem Dev.frame_post (d : Dev) (k c a x : Nat) : Dev.Frame d (d.post k c a x) [.pages, .counters, .interrupts] fun _ => False := by
  obtain ⟨pg, cn, iq, e⟩ := d.post_eq k c a x
  rw [e]
  refine ⟨?_, fun _ _ => rfl, rfl, rfl, Nat.le_refl _⟩
  intro q hq
  cases q <;> simp [Dev.Same] at hq ⊢
  intro a; rfl

theorem Dev.frame_setState (d : Dev) (n : Nat) (st : InstState) :
    Dev.Frame d (d.setState n st) [.pages, .counters, .interrupts] fun _ => False :=
  ((d.frame_setPage n _).mono (by simp) fun _ h => h).trans (Dev.frame_post _ _ _ _ _)

theorem Dev.frame_cnts (d : Dev) (t : Tab Counter) : Dev.Frame d { d with cnts := t } [.counters] fun _ => False := by
  refine ⟨?_, fun _ _ => rfl, rfl, rfl, Nat.le_refl _⟩
  intro q hq
  cases q <;> simp [Dev.Same] at hq ⊢
  intro a; rfl

theorem Dev.frame_cntUpd (d : Dev) (g i : Nat) (f : Counter → Counter) :
    Dev.Frame d (d.cntUpd g i f) [.pages, .counters, .interrupts, .log] cntRegs := by
  unfold Dev.cntUpd
  simp only
  have h1 : Dev.Frame d { d with cnts := d.cnts.put (cntKey g i) (f (d.cnt g i)) } [.pages, .counters, .interrupts, .log] cntRegs :=
    (d.frame_cnts _).mono (by simp) (by simp)
  have hp : ∀ (x : Dev) k c a y, Dev.Frame x (x.post k c a y) [.pages, .counters, .interrupts, .log] cntRegs := fun x k c a y =>
    (x.frame_post k c a y).mono (by simp) (by simp)
  have hb : ∀ (x : Dev) j b, Dev.Frame x (x.setB aCntOvfStat j b) [.pages, .counters, .interrupts, .log] cntRegs := fun x j b =>
    (x.frame_setB aCntOvfStat j b (by decide) (by decide)).mono (by simp) fun _ h => h
  have hl : ∀ (x : Dev) a b c e h, Dev.Frame x ((x.raise .counter).logE a b c e h) [.pages, .counters, .interrupts, .log] cntRegs :=
    fun x a b c e h => ((x.frame_raise _).mono (by simp) (by simp)).trans ((Dev.frame_logE _ _ _ _ _ _).mono (by simp) (by simp))
  split
  · split
    · split
      · exact ((h1.trans (hb _ _ _)).trans (hl _ _ _ _ _ _)).trans ((hp _ _ _ _ _).trans (hp _ _ _ _ _))
      · exact (h1.trans (hb _ _ _)).trans ((hp _ _ _ _ _).trans (hp _ _ _ _ _))
    · exact h1.trans ((hp _ _ _ _ _).trans (hp _ _ _ _ _))
  · split
    · split
      · exact (h1.trans (hb _ _ _)).trans (hl _ _ _ _ _ _)
      · exact h1.trans (hb _ _ _)
    · exact h1

theorem Dev.frame_count (d : Dev) (g i k : Nat) : Dev.Frame d (d.count g i k) [.pages, .counters, .interrupts, .log] cntRegs := by
  unfold Dev.count
  simp only
  split
  · exact (d.frame_cntUpd _ _ _).trans (Dev.frame_cntUpd _ _ _ _)
  · exact d.frame_cntUpd _ _ _

theorem Dev.frame_countMax (d : Dev) (g i k : Nat) : Dev.Frame d (d.countMax g i k) [.pages, .counters, .interrupts, .log] cntRegs :=
  d.frame_cntUpd _ _ _

theorem Dev.frame_held (d : Dev) (h : List (Nat × Nat)) (w : Option Nat) (f : Bool) :
    Dev.Frame d { d with held := h, warnEnd := w, faultLatched := f } [.safety] fun _ => False := by
  refine ⟨?_, fun _ _ => rfl, rfl, rfl, Nat.le_refl _⟩
  intro q hq
  cases q <;> simp [Dev.Same] at hq ⊢
  intro a; rfl

theorem Dev.frame_refreshCond (d : Dev) (c : Nat) : Dev.Frame d (d.refreshCond c) [.safety, .log] repRegs :=
  (d.frame_setB aSafeCond _ _ (by decide) (by decide)).mono (by simp) fun _ h => Or.inr (Or.inl h)

theorem Dev.frame_refreshWarn (d : Dev) : Dev.Frame d d.refreshWarn [.safety, .log] repRegs :=
  (d.frame_setB aSafeOut _ _ (by decide) (by decide)).mono (by simp) fun _ h => Or.inr (Or.inr h)

theorem Dev.frame_refreshFault (d : Dev) : Dev.Frame d d.refreshFault [.safety, .log] repRegs :=
  (d.frame_setB aSafeOut _ _ (by decide) (by decide)).mono (by simp) fun _ h => Or.inr (Or.inr h)

theorem Dev.frame_driveFault (d : Dev) : Dev.Frame d d.driveFault [.safety, .log] repRegs :=
  ((d.frame_held d.held d.warnEnd true).mono (by simp) (by simp)).trans (Dev.frame_refreshFault _)

theorem Dev.frame_reportAs (d : Dev) (cls : RepClass) (c s x : Nat) : Dev.Frame d (d.reportAs cls c s x) [.safety, .log] repRegs := by
  unfold Dev.reportAs
  simp only
  split
  · exact .refl d _ _
  · have h1 : Dev.Frame d ((d.setB aSafeSeen c true).logE 1 c s 0 x) [.safety, .log] repRegs :=
      ((d.frame_setB aSafeSeen c true (by decide) (by decide)).mono (by simp) fun _ h => Or.inl h).trans
        ((Dev.frame_logE _ _ _ _ _ _).mono (by simp) (by simp))
    have hh : ∀ (y : Dev) h w f, Dev.Frame y { y with held := h, warnEnd := w, faultLatched := f } [.safety, .log] repRegs :=
      fun y h w f => (y.frame_held h w f).mono (by simp) (by simp)
    split
    · exact (h1.trans (hh _ _ _ _)).trans (Dev.frame_refreshWarn _)
    · split
      · exact (((h1.trans (hh _ _ _ _)).trans (Dev.frame_refreshCond _ _)).trans (Dev.frame_refreshWarn _)).trans (Dev.frame_driveFault _)
      · exact ((h1.trans (hh _ _ _ _)).trans (Dev.frame_refreshCond _ _)).trans (Dev.frame_refreshWarn _)

theorem Dev.frame_report (d : Dev) (c s x : Nat) : Dev.Frame d (d.report c s x) [.safety, .log] repRegs := d.frame_reportAs _ _ _ _

theorem Dev.frame_endCond (d : Dev) (c s : Nat) : Dev.Frame d (d.endCond c s) [.safety, .log] repRegs := by
  unfold Dev.endCond
  split
  · exact .refl d _ _
  · exact (((d.frame_held _ d.warnEnd d.faultLatched).mono (by simp) (by simp)).trans (Dev.frame_refreshCond _ _)).trans (Dev.frame_refreshWarn _)

theorem Dev.frame_endCode (d : Dev) (c : Nat) : Dev.Frame d (d.endCode c) [.safety, .log] repRegs := by
  unfold Dev.endCode
  split
  · exact .refl d _ _
  · exact (((d.frame_held _ d.warnEnd d.faultLatched).mono (by simp) (by simp)).trans (Dev.frame_refreshCond _ _)).trans (Dev.frame_refreshWarn _)

/-! ### Memory -/

/-- A device that a write of memory can leave, where no dirty log runs. -/
theorem Dev.frame_stored (d : Dev) (m : Memory) (ms : Tab Byte) (p : List Nat) (r : Tab Word) (l : List (Nat × Nat × Nat))
    (hr : ∀ a, ¬ cbRegs a → ({ d with mem := m, msMem := ms, poison := p, regs := r, resid := l } : Dev).reg a = d.reg a) :
    Dev.Frame d { d with mem := m, msMem := ms, poison := p, regs := r, resid := l } [.memory, .residency] cbRegs := by
  refine ⟨?_, hr, rfl, rfl, Nat.le_refl _⟩
  intro q hq
  cases q <;> simp [Dev.Same] at hq ⊢

theorem Dev.frame_wr8 (d : Dev) (a : Nat) (b : Byte) : Dev.Frame d (d.wr8 a b) [.memory, .residency] cbRegs := by
  unfold Dev.wr8
  split
  · split
    · exact d.frame_stored _ d.msMem d.poison d.regs d.resid fun _ _ => rfl
    · exact d.frame_stored d.mem _ d.poison d.regs d.resid fun _ _ => rfl
  · exact .refl d _ _

theorem Dev.frame_wrRaw (bs : List Byte) (d : Dev) (a : Nat) : Dev.Frame d (d.wrRaw a bs) [.memory, .residency] cbRegs := by
  induction bs generalizing d a with
  | nil => exact .refl d _ _
  | cons b t ih => exact (d.frame_wr8 a b).trans (ih _ _)

theorem Dev.frame_unpoison (d : Dev) (a n : Nat) : Dev.Frame d (d.unpoison a n) [.memory, .residency] cbRegs := by
  obtain ⟨p, e⟩ := d.unpoison_eq a n
  rw [e]
  exact d.frame_stored d.mem d.msMem p d.regs d.resid fun _ _ => rfl

theorem Dev.frame_uncache (d : Dev) (a n : Nat) : Dev.Frame d (d.uncache a n) [.memory, .residency] cbRegs := by
  have hr : ∀ x, ¬ cbRegs x → (d.uncache a n).reg x = d.reg x := fun x hx => d.reg_uncache a n x fun e he => hx ⟨e, he.symm⟩
  obtain ⟨r, l, e⟩ := d.uncache_eq a n
  rw [e] at hr ⊢
  exact d.frame_stored d.mem d.msMem d.poison r l hr

/-- A write of memory where no dirty log runs. -/
theorem Dev.frame_wrN (d : Dev) (a : Nat) (bs : List Byte) (h : d.loggers = []) : Dev.Frame d (d.wrN a bs) [.memory, .residency] cbRegs := by
  unfold Dev.wrN
  rw [Dev.logDirty_off _ _ _ (by rw [Dev.uncache_loggers, Dev.unpoison_loggers, Dev.wrRaw_loggers, h])]
  exact ((Dev.frame_wrRaw bs d a).trans (Dev.frame_unpoison _ _ _)).trans (Dev.frame_uncache _ _ _)

theorem Dev.frame_zero (d : Dev) (a n : Nat) (h : d.loggers = []) : Dev.Frame d (d.zero a n) [.memory, .residency] cbRegs := by
  unfold Dev.zero
  simp only
  rw [Dev.logDirty_off _ _ _ (by rw [Dev.uncache_loggers, Dev.unpoison_loggers, Dev.zeroed_regs, h])]
  refine .trans (.trans ?_ (Dev.frame_unpoison _ _ _)) (Dev.frame_uncache _ _ _)
  split
  · exact d.frame_stored _ _ d.poison d.regs d.resid fun _ _ => rfl
  · exact Dev.frame_wrRaw _ d a

/-- What every command leaves: its own wrapper. -/
theorem Dev.frame_keep (d e : Dev) {ks : List Kind} {rs : Nat → Prop} (h : Dev.Frame d e ks rs)
    (hl : ¬ rs aBwrIlvLo) (hh : ¬ rs aBwrIlvHi) : Dev.Frame d (Dev.keep d e) ks rs := by
  refine ⟨?_, fun a ha => Dev.reg_keep_same d e (h.regs a ha), rfl, rfl, Nat.le_refl _⟩
  intro q hq
  have := h.same q hq
  have hmem : ∀ a, (Dev.keep d e).rd8 a = e.rd8 a := fun a =>
    Dev.rd8_congr ((Dev.reg_keep_same d e (h.regs _ hl)).trans (h.regs _ hl).symm)
      ((Dev.reg_keep_same d e (h.regs _ hh)).trans (h.regs _ hh).symm) rfl rfl rfl rfl a
  cases q
  case memory => exact ⟨fun a => (hmem a).trans (this.1 a), this.2⟩
  case safety =>
    obtain ⟨h1, h2, h3, h4, h5, h6, h7⟩ := this
    refine ⟨h1, h2, ?_, ?_, ?_, h6, h7⟩
    · simp [h3]
    · simp [h4]
    · simp [h5]
  case supervision =>
    obtain ⟨h1, h2, h3, h4, h5, h6, h7, h8, h9, h10, h11⟩ := this
    refine ⟨h1, h2, h3, h4, h5, h6, h7, h8, h9, ?_, h11⟩
    simp [h10]
  all_goals exact this

end Sys2Proof.Machine
end

