-- ==== Sys2Proof/Laws/Sci.lean ====
section
/-! SUPPORT. The mailbox exchange: what a request's layout and a response change, and a command whose checks all pass. -/

namespace Sys2Proof.Machine

/-! ### Pages -/

@[simp] theorem Dev.page_setPage_self (d : Dev) (k : Nat) (p : Page) : (d.setPage k p).page k = p := by simp [Dev.page]

theorem Dev.page_setPage_ne (d : Dev) {k j : Nat} (p : Page) (h : j ≠ k) : (d.setPage k p).page j = d.page j := by
  simp [Dev.page, Tab.lookD_put_ne _ _ _ h]

theorem Dev.setPage_setPage (d : Dev) (k : Nat) (p q : Page) : (d.setPage k p).setPage k q = d.setPage k q := by
  unfold Dev.setPage
  show { d with pages := (d.pages.put k p).put k q } = { d with pages := d.pages.put k q }
  rw [Tab.put_put]

@[simp] theorem Dev.inst_setInst_self (d : Dev) (k : Nat) (p : Inst) : (d.setInst k p).inst k = p := by simp [Dev.inst]

theorem Dev.inst_setInst_ne (d : Dev) {k j : Nat} (p : Inst) (h : j ≠ k) : (d.setInst k p).inst j = d.inst j := by
  simp [Dev.inst, Tab.lookD_put_ne _ _ _ h]

theorem mem_insertNew {α : Type} [DecidableEq α] (l : List α) (x : α) : x ∈ insertNew l x := by
  unfold insertNew; split <;> simp [*]

/-! ### Statuses -/

/-- No check fails: no status. -/
theorem firstStatus_none (l : List (Bool × Status)) (h : ∀ c ∈ l, c.1 = false) : firstStatus l = none := by
  unfold firstStatus
  induction l with
  | nil => rfl
  | cons c l ih =>
    have hc : c.1 = false := h c (by simp)
    simp only [List.foldl_cons, hc, Bool.false_eq_true, if_false]
    exact ih fun c hc => h c (by simp [hc])

/-! ### The exchange -/

/-- What the request's layout changes: REQ and GO of the page. -/
theorem Dev.asked_eq (d : Dev) (m : Mbx) (opcode : Nat) :
    ∃ r, d.asked m opcode = (d.advance m.t).setPage (pgKey m.page) { d.page (pgKey m.page) with req := r, go := true } := by
  refine ⟨((writeReq (d.advance m.t) m opcode).page (pgKey m.page)).req, ?_⟩
  unfold Dev.asked writeReq
  simp only [Dev.page_setPage_self, Dev.setPage_setPage]
  rfl

/-- What a response changes: the page, the pending interrupts, the count of draws. -/
theorem postRsp_eq (d : Dev) (k : Nat) (tag : Byte) (st : Status) (ws : List Word) :
    ∃ r, postRsp d k tag st ws = ((({ d with freeCtr := d.freeCtr + 16 } : Dev).setPage k
      { d.page k with rsp := r, rspStatus := st.code, rspTag := tag.toNat, valid := true, go := false }).raise (pageIrq k 0)) ∧
      (ws.length < 16 → ∀ i (h : i < ws.length), Tab.look r (i + 1) = some ws[i]) := by
  refine ⟨_, rfl, ?_⟩
  intro hn i hi
  have key : ∀ (f : Nat → Word) n j, j < n → Tab.look ((List.range n).map fun i => (i, f i)) j = some (f j) := by
    intro f n
    have : ∀ (l : List Nat) j, j ∈ l → Tab.look (l.map fun i => (i, f i)) j = some (f j) := by
      intro l j
      induction l with
      | nil => simp
      | cons a l ih =>
        intro h
        simp only [List.map_cons, Tab.look]
        split
        · rename_i e; subst e; rfl
        · rename_i e; exact ih (by simpa [Ne.symm e] using h)
    intro j hj
    exact this _ j (by simpa using hj)
  rw [key _ 16 (i + 1) (by omega)]
  have : i + 1 < ws.length + 1 := by omega
  simp [this]

theorem postRsp_answered (d : Dev) (k : Nat) (tag : Byte) (st : Status) (ws : List Word) (h : ws.length < 16) :
    ((postRsp d k tag st ws).page k).Answered tag st ws ∧ pageIrq k 0 ∈ (postRsp d k tag st ws).irqs := by
  obtain ⟨r, e, hr⟩ := postRsp_eq d k tag st ws
  rw [e]
  refine ⟨?_, ?_⟩
  · have : ∀ x : Dev, (x.raise (pageIrq k 0)).page k = x.page k := fun _ => rfl
    rw [this, Dev.page_setPage_self]
    exact ⟨rfl, rfl, rfl, rfl, hr h⟩
  · simp [mem_insertNew]

/-- A request on a page that takes it: the body runs and its response is posted. -/
theorem mailbox_ready (m : Mbx) (opcode : Nat) (body : Dev → Option SciOut) (d : Dev) (h : d.MbxReady (pgKey m.page)) :
    mailbox m opcode body (d.advance m.t) =
      match body (d.asked m opcode) with
      | some o => postRsp (if o.status = .ok then o else { o with words := [] } : SciOut).dev (pgKey m.page) m.tag
          (if o.status = .ok then o else { o with words := [] } : SciOut).status (if o.status = .ok then o else { o with words := [] } : SciOut).words
      | none => d.asked m opcode := by
  have hp : ((d.advance m.t).page (pgKey m.page)).state ≠ .free := h.state
  have hg : ((d.advance m.t).page (pgKey m.page)).go = false := h.go
  have hw : ((writeReq (d.advance m.t) m opcode).page (pgKey m.page)).valid = false := by
    unfold writeReq; rw [Dev.page_setPage_self]; exact h.valid
  have hv : ((d.advance m.t).page (pgKey m.page)).valid = false := h.valid
  have hc : (d.asked m opcode).cpaLost = none := h.cpa
  unfold mailbox
  simp only [hp, if_false, hg, hv, Bool.false_eq_true]
  show (if (d.asked m opcode).cpaLost.isSome = true then _ else _) = _
  rw [hc]
  rfl

/-- A command of the interface whose checks all pass runs its effect and answers. -/
theorem sciCmd_ok (m : Mbx) (opcode nwords : Nat) (pages : PageSet) (checks : Dev → List (Bool × Status)) (effect : Dev → SciOut)
    (d : Dev) (o q p : Bool) (h : Accepted d m nwords pages o q p) (e : Dev) (ws : List Word)
    (hc : ∀ c ∈ checks (d.asked m opcode), c.1 = false) (ho : effect (d.asked m opcode) = .okay e ws) :
    sciCmd m opcode nwords pages checks effect (d.advance m.t) (o, q, p) = postRsp e (pgKey m.page) m.tag .ok ws := by
  obtain ⟨r, ha⟩ := d.asked_eq m opcode
  have hst : ((d.asked m opcode).page (pgKey m.page)).state = (d.page (pgKey m.page)).state := by
    rw [ha, Dev.page_setPage_self]
  have hpg : pages.has (d.asked m opcode) m.page = true := by
    rw [ha]; exact h.page
  have hrun : sciRun m nwords pages (o, q, p) checks effect (d.asked m opcode) = effect (d.asked m opcode) := by
    unfold sciRun
    simp only [hst, h.state]
    rw [firstStatus_none]
    intro c hcm
    simp only [List.mem_append, List.mem_cons, List.not_mem_nil, or_false] at hcm
    rcases hcm with (rfl | rfl | rfl) | hcm
    · simp [h.words]
    · simp [h.rsv]
    · simp [hpg]
    · exact hc c hcm
  unfold sciCmd
  rw [mailbox_ready _ _ _ _ h.ready, hrun, ho]
  rfl

/-- The same for the row of a command. -/
theorem answersOk (c : Instr) (s : State) (m : Mbx) (opcode nwords : Nat) (pages : PageSet) (checks : Dev → List (Bool × Status))
    (effect : Dev → SciOut) (o q p : Bool)
    (hx : exec c s = s.act m.t fun d => sciCmd m opcode nwords pages checks effect d (o, q, p))
    (h : Accepted s.dev m nwords pages o q p) (e : Dev) (ws : List Word)
    (hc : ∀ c ∈ checks (s.dev.asked m opcode), c.1 = false) (ho : effect (s.dev.asked m opcode) = .okay e ws) :
    AnswersOk c s m e ws := by
  unfold AnswersOk Ends
  rw [hx, State.act, Dev.act_on h.ready.power, sciCmd_ok m opcode nwords pages checks effect s.dev o q p h e ws hc ho]

end Sys2Proof.Machine
end

