-- ==== Sys2Proof/Laws/Exec.lean ====
section
/-! SUPPORT. The dispatch: `exec` of each command is its meaning. One equation per command, by which proofs reach a meaning
without unfolding the dispatch. -/

namespace Sys2Proof.Machine

theorem exec_sessionOpen (s : State) : ∀ m, exec (.sessionOpen m) s = execSessionOpen m s := fun _ => rfl
theorem exec_instQuery (s : State) : ∀ m, exec (.instQuery m) s = execInstQuery m s := fun _ => rfl
theorem exec_evictAck (s : State) : ∀ m, exec (.evictAck m) s = execEvictAck m s := fun _ => rfl
theorem exec_instReset (s : State) : ∀ m, exec (.instReset m) s = execInstReset m s := fun _ => rfl
theorem exec_memAlloc (s : State) : ∀ m, exec (.memAlloc m) s = execMemAlloc m s := fun _ => rfl
theorem exec_memFree (s : State) : ∀ m, exec (.memFree m) s = execMemFree m s := fun _ => rfl
theorem exec_ctxCreate (s : State) : ∀ m, exec (.ctxCreate m) s = execCtxCreate m s := fun _ => rfl
theorem exec_ctxDestroy (s : State) : ∀ m, exec (.ctxDestroy m) s = execCtxDestroy m s := fun _ => rfl
theorem exec_qCreate (s : State) : ∀ m, exec (.qCreate m) s = execQCreate m s := fun _ => rfl
theorem exec_qDestroy (s : State) : ∀ m, exec (.qDestroy m) s = execQDestroy m s := fun _ => rfl
theorem exec_qReset (s : State) : ∀ m, exec (.qReset m) s = execQReset m s := fun _ => rfl
theorem exec_ctxQuery (s : State) : ∀ m, exec (.ctxQuery m) s = execCtxQuery m s := fun _ => rfl
theorem exec_graphLoad (s : State) : ∀ m, exec (.graphLoad m) s = execGraphLoad m s := fun _ => rfl
theorem exec_graphUnload (s : State) : ∀ m, exec (.graphUnload m) s = execGraphUnload m s := fun _ => rfl
theorem exec_graphBufQuery (s : State) : ∀ m, exec (.graphBufQuery m) s = execGraphBufQuery m s := fun _ => rfl
theorem exec_serveStart (s : State) : ∀ m, exec (.serveStart m) s = execServeStart m s := fun _ => rfl
theorem exec_serveStop (s : State) : ∀ m, exec (.serveStop m) s = execServeStop m s := fun _ => rfl
theorem exec_safeFallbackBind (s : State) : ∀ m, exec (.safeFallbackBind m) s = execSafeFallbackBind m s := fun _ => rfl
theorem exec_safeAgeSet (s : State) : ∀ m, exec (.safeAgeSet m) s = execSafeAgeSet m s := fun _ => rfl
theorem exec_safeRefinputSet (s : State) : ∀ m, exec (.safeRefinputSet m) s = execSafeRefinputSet m s := fun _ => rfl
theorem exec_safeStatus (s : State) : ∀ m, exec (.safeStatus m) s = execSafeStatus m s := fun _ => rfl
theorem exec_gwRoutesSet (s : State) : ∀ m, exec (.gwRoutesSet m) s = execGwRoutesSet m s := fun _ => rfl
theorem exec_gwKeySet (s : State) : ∀ m, exec (.gwKeySet m) s = execGwKeySet m s := fun _ => rfl
theorem exec_gwStatus (s : State) : ∀ m, exec (.gwStatus m) s = execGwStatus m s := fun _ => rfl
theorem exec_dispLayerSet (s : State) : ∀ m, exec (.dispLayerSet m) s = execDispLayerSet m s := fun _ => rfl
theorem exec_dispFlip (s : State) : ∀ m, exec (.dispFlip m) s = execDispFlip m s := fun _ => rfl
theorem exec_persQuery (s : State) : ∀ m, exec (.persQuery m) s = execPersQuery m s := fun _ => rfl
theorem exec_persSet (s : State) : ∀ m, exec (.persSet m) s = execPersSet m s := fun _ => rfl
theorem exec_pwrCapSet (s : State) : ∀ m, exec (.pwrCapSet m) s = execPwrCapSet m s := fun _ => rfl
theorem exec_mgrInstCreate (s : State) : ∀ m, exec (.mgrInstCreate m) s = execMgrInstCreate m s := fun _ => rfl
theorem exec_mgrInstDestroy (s : State) : ∀ m, exec (.mgrInstDestroy m) s = execMgrInstDestroy m s := fun _ => rfl
theorem exec_mgrInstReset (s : State) : ∀ m, exec (.mgrInstReset m) s = execMgrInstReset m s := fun _ => rfl
theorem exec_mgrInstAttach (s : State) : ∀ m, exec (.mgrInstAttach m) s = execMgrInstAttach m s := fun _ => rfl
theorem exec_mgrEvict (s : State) : ∀ m, exec (.mgrEvict m) s = execMgrEvict m s := fun _ => rfl
theorem exec_mgrPartDefine (s : State) : ∀ m, exec (.mgrPartDefine m) s = execMgrPartDefine m s := fun _ => rfl
theorem exec_mgrEgDefine (s : State) : ∀ m, exec (.mgrEgDefine m) s = execMgrEgDefine m s := fun _ => rfl
theorem exec_mgrWheelSet (s : State) : ∀ m, exec (.mgrWheelSet m) s = execMgrWheelSet m s := fun _ => rfl
theorem exec_mgrBwSet (s : State) : ∀ m, exec (.mgrBwSet m) s = execMgrBwSet m s := fun _ => rfl
theorem exec_mgrPairSet (s : State) : ∀ m, exec (.mgrPairSet m) s = execMgrPairSet m s := fun _ => rfl
theorem exec_cntSnapshot (s : State) : ∀ m, exec (.cntSnapshot m) s = execCntSnapshot m s := fun _ => rfl
theorem exec_diagLogRead (s : State) : ∀ m, exec (.diagLogRead m) s = execDiagLogRead m s := fun _ => rfl
theorem exec_fiArm (s : State) : ∀ m, exec (.fiArm m) s = execFiArm m s := fun _ => rfl
theorem exec_fiDisarm (s : State) : ∀ m, exec (.fiDisarm m) s = execFiDisarm m s := fun _ => rfl
theorem exec_mbxRspAck (s : State) : ∀ pg v, exec (.mbxRspAck pg v) s = execMbxRspAck pg v s := fun _ _ => rfl
theorem exec_evtRdWrite (s : State) : ∀ pg v, exec (.evtRdWrite pg v) s = execEvtRdWrite pg v s := fun _ _ => rfl
theorem exec_heartbeatPeriodEnd (s : State) : ∀ pg t, exec (.heartbeatPeriodEnd pg t) s = execHeartbeatPeriodEnd pg t s := fun _ _ => rfl
theorem exec_fwHeartbeat (s : State) : ∀ t, exec (.fwHeartbeat t) s = execFwHeartbeat t s := fun _ => rfl
theorem exec_doorbellWrite (s : State) : ∀ inst dbidx wide hiHalf v t, exec (.doorbellWrite inst dbidx wide hiHalf v t) s = execDoorbellWrite inst dbidx wide hiHalf v t s := fun _ _ _ _ _ _ => rfl
theorem exec_contextUnpark (s : State) : ∀ ctx t, exec (.contextUnpark ctx t) s = execContextUnpark ctx t s := fun _ _ => rfl
theorem exec_descriptorTake (s : State) : ∀ q t, exec (.descriptorTake q t) s = execDescriptorTake q t s := fun _ _ => rfl
theorem exec_nop (s : State) : ∀ q seq t, exec (.nop q seq t) s = execNop q seq t s := fun _ _ _ => rfl
theorem exec_matmul (s : State) : ∀ q seq t, exec (.matmul q seq t) s = execMatmul q seq t s := fun _ _ _ => rfl
theorem exec_matmulAdd (s : State) : ∀ q seq t, exec (.matmulAdd q seq t) s = execMatmulAdd q seq t s := fun _ _ _ => rfl
theorem exec_convChain (s : State) : ∀ q seq t, exec (.convChain q seq t) s = execConvChain q seq t s := fun _ _ _ => rfl
theorem exec_haloFlagWait (s : State) : ∀ q seq rank layer row t, exec (.haloFlagWait q seq rank layer row t) s = execHaloFlagWait q seq rank layer row t s := fun _ _ _ _ _ _ => rfl
theorem exec_topk (s : State) : ∀ q seq t, exec (.topk q seq t) s = execTopk q seq t s := fun _ _ _ => rfl
theorem exec_nms (s : State) : ∀ q seq t, exec (.nms q seq t) s = execNms q seq t s := fun _ _ _ => rfl
theorem exec_unfold (s : State) : ∀ q seq t, exec (.unfold q seq t) s = execUnfold q seq t s := fun _ _ _ => rfl
theorem exec_kvAppend (s : State) : ∀ q seq t, exec (.kvAppend q seq t) s = execKvAppend q seq t s := fun _ _ _ => rfl
theorem exec_kvReserveWait (s : State) : ∀ q seq t, exec (.kvReserveWait q seq t) s = execKvReserveWait q seq t s := fun _ _ _ => rfl
theorem exec_attention (s : State) : ∀ q seq t, exec (.attention q seq t) s = execAttention q seq t s := fun _ _ _ => rfl
theorem exec_kvTruncate (s : State) : ∀ q seq t, exec (.kvTruncate q seq t) s = execKvTruncate q seq t s := fun _ _ _ => rfl
theorem exec_ringAllreduce (s : State) : ∀ q seq t, exec (.ringAllreduce q seq t) s = execRingAllreduce q seq t s := fun _ _ _ => rfl
theorem exec_softmax (s : State) : ∀ q seq t, exec (.softmax q seq t) s = execSoftmax q seq t s := fun _ _ _ => rfl
theorem exec_rmsnorm (s : State) : ∀ q seq t, exec (.rmsnorm q seq t) s = execRmsnorm q seq t s := fun _ _ _ => rfl
theorem exec_layernorm (s : State) : ∀ q seq t, exec (.layernorm q seq t) s = execLayernorm q seq t s := fun _ _ _ => rfl
theorem exec_activation (s : State) : ∀ q seq t, exec (.activation q seq t) s = execActivation q seq t s := fun _ _ _ => rfl
theorem exec_rotate (s : State) : ∀ q seq t, exec (.rotate q seq t) s = execRotate q seq t s := fun _ _ _ => rfl
theorem exec_quantise (s : State) : ∀ q seq t, exec (.quantise q seq t) s = execQuantise q seq t s := fun _ _ _ => rfl
theorem exec_dwconv (s : State) : ∀ q seq t, exec (.dwconv q seq t) s = execDwconv q seq t s := fun _ _ _ => rfl
theorem exec_pool (s : State) : ∀ q seq t, exec (.pool q seq t) s = execPool q seq t s := fun _ _ _ => rfl
theorem exec_adamw (s : State) : ∀ q seq t, exec (.adamw q seq t) s = execAdamw q seq t s := fun _ _ _ => rfl
theorem exec_copy (s : State) : ∀ q seq t, exec (.copy q seq t) s = execCopy q seq t s := fun _ _ _ => rfl
theorem exec_render (s : State) : ∀ q seq t, exec (.render q seq t) s = execRender q seq t s := fun _ _ _ => rfl
theorem exec_kernel (s : State) : ∀ q seq t, exec (.kernel q seq t) s = execKernel q seq t s := fun _ _ _ => rfl
theorem exec_press (s : State) : ∀ q seq t, exec (.press q seq t) s = execPress q seq t s := fun _ _ _ => rfl
theorem exec_graphRunStart (s : State) : ∀ graph t, exec (.graphRunStart graph t) s = execGraphRunStart graph t s := fun _ _ => rfl
theorem exec_servingStep (s : State) : ∀ inst t, exec (.servingStep inst t) s = execServingStep inst t s := fun _ _ => rfl
theorem exec_overrunKill (s : State) : ∀ q seq t, exec (.overrunKill q seq t) s = execOverrunKill q seq t s := fun _ _ _ => rfl
theorem exec_slotBoundary (s : State) : ∀ t, exec (.slotBoundary t) s = execSlotBoundary t s := fun _ => rfl
theorem exec_referenceRunResult (s : State) : ∀ pair graph flipA flipB t, exec (.referenceRunResult pair graph flipA flipB t) s = execReferenceRunResult pair graph flipA flipB t s := fun _ _ _ _ _ => rfl
theorem exec_periodBoundary (s : State) : ∀ t, exec (.periodBoundary t) s = execPeriodBoundary t s := fun _ => rfl
theorem exec_wheelSwap (s : State) : exec .wheelSwap s = execWheelSwap s := rfl
theorem exec_gxKill (s : State) : ∀ e t, exec (.gxKill e t) s = execGxKill e t s := fun _ _ => rfl
theorem exec_gxCbInval (s : State) : ∀ e, exec (.gxCbInval e) s = execGxCbInval e s := fun _ => rfl
theorem exec_gxKatStart (s : State) : ∀ e, exec (.gxKatStart e) s = execGxKatStart e s := fun _ => rfl
theorem exec_katChunkDone (s : State) : ∀ u pass t, exec (.katChunkDone u pass t) s = execKatChunkDone u pass t s := fun _ _ _ => rfl
theorem exec_sweepDeadline (s : State) : ∀ u t, exec (.sweepDeadline u t) s = execSweepDeadline u t s := fun _ _ => rfl
theorem exec_engineRamError (s : State) : ∀ e ram correctable line t, exec (.engineRamError e ram correctable line t) s = execEngineRamError e ram correctable line t s := fun _ _ _ _ _ => rfl
theorem exec_vrstat (s : State) : ∀ core ins t, exec (.vrstat core ins t) s = execVrstat core ins t s := fun _ _ _ => rfl
theorem exec_vsegsum (s : State) : ∀ core ins t, exec (.vsegsum core ins t) s = execVsegsum core ins t s := fun _ _ _ => rfl
theorem exec_vhbfly (s : State) : ∀ core ins t, exec (.vhbfly core ins t) s = execVhbfly core ins t s := fun _ _ _ => rfl
theorem exec_vqscale (s : State) : ∀ core ins t, exec (.vqscale core ins t) s = execVqscale core ins t s := fun _ _ _ => rfl
theorem exec_vcbnear (s : State) : ∀ core ins t, exec (.vcbnear core ins t) s = execVcbnear core ins t s := fun _ _ _ => rfl
theorem exec_mswait (s : State) : ∀ core ins t, exec (.mswait core ins t) s = execMswait core ins t s := fun _ _ _ => rfl
theorem exec_mswaitSatisfied (s : State) : ∀ core t, exec (.mswaitSatisfied core t) s = execMswaitSatisfied core t s := fun _ _ => rfl
theorem exec_kernelEnd (s : State) : ∀ vc t, exec (.kernelEnd vc t) s = execKernelEnd vc t s := fun _ _ => rfl
theorem exec_vcTrap (s : State) : ∀ core kind cause pc t, exec (.vcTrap core kind cause pc t) s = execVcTrap core kind cause pc t s := fun _ _ _ _ _ => rfl
theorem exec_vcRst (s : State) : ∀ vc, exec (.vcRst vc) s = execVcRst vc s := fun _ => rfl
theorem exec_kvInit (s : State) : ∀ die, exec (.kvInit die) s = execKvInit die s := fun _ => rfl
theorem exec_kvPoolValid (s : State) : ∀ die pool, exec (.kvPoolValid die pool) s = execKvPoolValid die pool s := fun _ _ => rfl
theorem exec_kvStateError (s : State) : ∀ die pool page freeList t, exec (.kvStateError die pool page freeList t) s = execKvStateError die pool page freeList t s := fun _ _ _ _ _ => rfl
theorem exec_sortKill (s : State) : ∀ die t, exec (.sortKill die t) s = execSortKill die t s := fun _ _ => rfl
theorem exec_recordCompare (s : State) : ∀ pair r t, exec (.recordCompare pair r t) s = execRecordCompare pair r t s := fun _ _ _ => rfl
theorem exec_lagTimeout (s : State) : ∀ pair t, exec (.lagTimeout pair t) s = execLagTimeout pair t s := fun _ _ => rfl
theorem exec_twinCheckpoint (s : State) : ∀ hp lead trail cmpAOk cmpBOk retired t, exec (.twinCheckpoint hp lead trail cmpAOk cmpBOk retired t) s = execTwinCheckpoint hp lead trail cmpAOk cmpBOk retired t s := fun _ _ _ _ _ _ _ => rfl
theorem exec_acpairFinding (s : State) : ∀ hp cause retired t, exec (.acpairFinding hp cause retired t) s = execAcpairFinding hp cause retired t s := fun _ _ _ _ => rfl
theorem exec_twinSelftest (s : State) : ∀ pair v t, exec (.twinSelftest pair v t) s = execTwinSelftest pair v t s := fun _ _ _ => rfl
theorem exec_twinQclr (s : State) : ∀ pair, exec (.twinQclr pair) s = execTwinQclr pair s := fun _ => rfl
theorem exec_twinSplit (s : State) : ∀ pair r t, exec (.twinSplit pair r t) s = execTwinSplit pair r t s := fun _ _ _ => rfl
theorem exec_twinJoin (s : State) : ∀ pair v t, exec (.twinJoin pair v t) s = execTwinJoin pair v t s := fun _ _ _ => rfl
theorem exec_wdtExpire (s : State) : ∀ cpb t, exec (.wdtExpire cpb t) s = execWdtExpire cpb t s := fun _ _ => rfl
theorem exec_safeWdtKick (s : State) : ∀ m v t, exec (.safeWdtKick m v t) s = execSafeWdtKick m v t s := fun _ _ _ => rfl
theorem exec_safeReport (s : State) : ∀ m v t, exec (.safeReport m v t) s = execSafeReport m v t s := fun _ _ _ => rfl
theorem exec_safeCfgLock (s : State) : ∀ m, exec (.safeCfgLock m) s = execSafeCfgLock m s := fun _ => rfl
theorem exec_warnPulseEnd (s : State) : ∀ t, exec (.warnPulseEnd t) s = execWarnPulseEnd t s := fun _ => rfl
theorem exec_resetDelayExpire (s : State) : ∀ t, exec (.resetDelayExpire t) s = execResetDelayExpire t s := fun _ => rfl
theorem exec_linkCrcError (s : State) : ∀ l t, exec (.linkCrcError l t) s = execLinkCrcError l t s := fun _ _ => rfl
theorem exec_linkDown (s : State) : ∀ l t, exec (.linkDown l t) s = execLinkDown l t s := fun _ _ => rfl
theorem exec_dieOffline (s : State) : ∀ die t, exec (.dieOffline die t) s = execDieOffline die t s := fun _ _ => rfl
theorem exec_stackCrcError (s : State) : ∀ stack t, exec (.stackCrcError stack t) s = execStackCrcError stack t s := fun _ _ => rfl
theorem exec_patrolScrub (s : State) : ∀ stack line r t, exec (.patrolScrub stack line r t) s = execPatrolScrub stack line r t s := fun _ _ _ _ => rfl
theorem exec_bwrWindowBoundary (s : State) : ∀ master t, exec (.bwrWindowBoundary master t) s = execBwrWindowBoundary master t s := fun _ _ => rfl
theorem exec_derateChange (s : State) : ∀ t, exec (.derateChange t) s = execDerateChange t s := fun _ => rfl
theorem exec_bwrLatClr (s : State) : exec .bwrLatClr s = execBwrLatClr s := rfl
theorem exec_bwrIlvWrite (s : State) : ∀ hi v, exec (.bwrIlvWrite hi v) s = execBwrIlvWrite hi v s := fun _ _ => rfl
theorem exec_dmaStart (s : State) : ∀ ch t, exec (.dmaStart ch t) s = execDmaStart ch t s := fun _ _ => rfl
theorem exec_dmaDisable (s : State) : ∀ ch, exec (.dmaDisable ch) s = execDmaDisable ch s := fun _ => rfl
theorem exec_dmaRequest (s : State) : ∀ line t, exec (.dmaRequest line t) s = execDmaRequest line t s := fun _ _ => rfl
theorem exec_dmaBurst (s : State) : ∀ engine t, exec (.dmaBurst engine t) s = execDmaBurst engine t s := fun _ _ => rfl
theorem exec_dmaDescComplete (s : State) : ∀ ch t, exec (.dmaDescComplete ch t) s = execDmaDescComplete ch t s := fun _ _ => rfl
theorem exec_dmaReqClr (s : State) : ∀ line, exec (.dmaReqClr line) s = execDmaReqClr line s := fun _ => rfl
theorem exec_gfxKill (s : State) : ∀ t, exec (.gfxKill t) s = execGfxKill t s := fun _ => rfl
theorem exec_jobSuspend (s : State) : ∀ boundary t, exec (.jobSuspend boundary t) s = execJobSuspend boundary t s := fun _ _ => rfl
theorem exec_compositorGuard (s : State) : ∀ pipe t, exec (.compositorGuard pipe t) s = execCompositorGuard pipe t s := fun _ _ => rfl
theorem exec_displayLatch (s : State) : ∀ pipe t, exec (.displayLatch pipe t) s = execDisplayLatch pipe t s := fun _ _ => rfl
theorem exec_displayUnderrun (s : State) : ∀ pipe t, exec (.displayUnderrun pipe t) s = execDisplayUnderrun pipe t s := fun _ _ => rfl
theorem exec_tileMemError (s : State) : ∀ correctable t, exec (.tileMemError correctable t) s = execTileMemError correctable t s := fun _ _ => rfl
theorem exec_cameraFrame (s : State) : ∀ port stream vc dt lines t, exec (.cameraFrame port stream vc dt lines t) s = execCameraFrame port stream vc dt lines t s := fun _ _ _ _ _ _ => rfl
theorem exec_cameraFrameError (s : State) : ∀ port stream kind t, exec (.cameraFrameError port stream kind t) s = execCameraFrameError port stream kind t s := fun _ _ _ _ => rfl
theorem exec_ethFrameRx (s : State) : ∀ port frame err node t, exec (.ethFrameRx port frame err node t) s = execEthFrameRx port frame err node t s := fun _ _ _ _ _ => rfl
theorem exec_canFrameRx (s : State) : ∀ ch f t, exec (.canFrameRx ch f t) s = execCanFrameRx ch f t s := fun _ _ _ => rfl
theorem exec_canFrameTx (s : State) : ∀ ch res t, exec (.canFrameTx ch res t) s = execCanFrameTx ch res t s := fun _ _ _ => rfl
theorem exec_containerTmax (s : State) : ∀ entry t, exec (.containerTmax entry t) s = execContainerTmax entry t s := fun _ _ => rfl
theorem exec_tripFrameSend (s : State) : ∀ t, exec (.tripFrameSend t) s = execTripFrameSend t s := fun _ => rfl
theorem exec_plcaBeaconLoss (s : State) : ∀ port t, exec (.plcaBeaconLoss port t) s = execPlcaBeaconLoss port t s := fun _ _ => rfl
theorem exec_plcaBeacon (s : State) : ∀ port t, exec (.plcaBeacon port t) s = execPlcaBeacon port t s := fun _ _ => rfl
theorem exec_dropLimit (s : State) : ∀ port t, exec (.dropLimit port t) s = execDropLimit port t s := fun _ _ => rfl
theorem exec_gptpSyncRx (s : State) : ∀ port ofsNs ratePpb t, exec (.gptpSyncRx port ofsNs ratePpb t) s = execGptpSyncRx port ofsNs ratePpb t s := fun _ _ _ _ => rfl
theorem exec_holdover (s : State) : ∀ port t, exec (.holdover port t) s = execHoldover port t s := fun _ _ => rfl
theorem exec_busOffRecovery (s : State) : ∀ ch t, exec (.busOffRecovery ch t) s = execBusOffRecovery ch t s := fun _ _ => rfl
theorem exec_canRecover (s : State) : ∀ ch, exec (.canRecover ch) s = execCanRecover ch s := fun _ => rfl
theorem exec_gateListActivate (s : State) : ∀ port streamGate t, exec (.gateListActivate port streamGate t) s = execGateListActivate port streamGate t s := fun _ _ _ => rfl
theorem exec_pbWriteFail (s : State) : ∀ addr m t, exec (.pbWriteFail addr m t) s = execPbWriteFail addr m t s := fun _ _ _ => rfl
theorem exec_ipTxPoll (s : State) : ∀ inst t, exec (.ipTxPoll inst t) s = execIpTxPoll inst t s := fun _ _ => rfl
theorem exec_pcieMemRequest (s : State) : ∀ port fn bar offset write len t, exec (.pcieMemRequest port fn bar offset write len t) s = execPcieMemRequest port fn bar offset write len t s := fun _ _ _ _ _ _ _ => rfl
theorem exec_pcieFlr (s : State) : ∀ port fn t, exec (.pcieFlr port fn t) s = execPcieFlr port fn t s := fun _ _ _ => rfl
theorem exec_pcieLinkReset (s : State) : ∀ port t, exec (.pcieLinkReset port t) s = execPcieLinkReset port t s := fun _ _ => rfl
theorem exec_drainTimeout (s : State) : ∀ inst t, exec (.drainTimeout inst t) s = execDrainTimeout inst t s := fun _ _ => rfl
theorem exec_resetComplete (s : State) : ∀ inst t, exec (.resetComplete inst t) s = execResetComplete inst t s := fun _ _ => rfl
theorem exec_evictGraceEnd (s : State) : ∀ inst t, exec (.evictGraceEnd inst t) s = execEvictGraceEnd inst t s := fun _ _ => rfl
theorem exec_dlEnable (s : State) : ∀ inst v, exec (.dlEnable inst v) s = execDlEnable inst v s := fun _ _ => rfl
theorem exec_dlSwap (s : State) : ∀ inst, exec (.dlSwap inst) s = execDlSwap inst s := fun _ => rfl
theorem exec_dlSwapDone (s : State) : ∀ inst, exec (.dlSwapDone inst) s = execDlSwapDone inst s := fun _ => rfl
theorem exec_snapClear (s : State) : ∀ pg v, exec (.snapClear pg v) s = execSnapClear pg v s := fun _ _ => rfl
theorem exec_timeLoRead (s : State) : ∀ addr m, exec (.timeLoRead addr m) s = execTimeLoRead addr m s := fun _ _ => rfl
theorem exec_wakeEvent (s : State) : ∀ src t, exec (.wakeEvent src t) s = execWakeEvent src t s := fun _ _ => rfl
theorem exec_driveReady (s : State) : ∀ t, exec (.driveReady t) s = execDriveReady t s := fun _ => rfl
theorem exec_clkFreqSet (s : State) : ∀ idx v t, exec (.clkFreqSet idx v t) s = execClkFreqSet idx v t s := fun _ _ _ => rfl
theorem exec_clkMonFault (s : State) : ∀ idx t, exec (.clkMonFault idx t) s = execClkMonFault idx t s := fun _ _ => rfl
theorem exec_domainWake (s : State) : ∀ idx t, exec (.domainWake idx t) s = execDomainWake idx t s := fun _ _ => rfl
theorem exec_domainWakeTimeout (s : State) : ∀ idx t, exec (.domainWakeTimeout idx t) s = execDomainWakeTimeout idx t s := fun _ _ => rfl
theorem exec_rstDomReq (s : State) : ∀ r t, exec (.rstDomReq r t) s = execRstDomReq r t s := fun _ _ => rfl
theorem exec_rstDomInReset (s : State) : ∀ r t, exec (.rstDomInReset r t) s = execRstDomInReset r t s := fun _ _ => rfl
theorem exec_rstDomRel (s : State) : ∀ r t, exec (.rstDomRel r t) s = execRstDomRel r t s := fun _ _ => rfl
theorem exec_rstDev (s : State) : ∀ v t, exec (.rstDev v t) s = execRstDev v t s := fun _ _ => rfl
theorem exec_resetN (s : State) : ∀ t, exec (.resetN t) s = execResetN t s := fun _ => rfl
theorem exec_powerGood (s : State) : ∀ t, exec (.powerGood t) s = execPowerGood t s := fun _ => rfl
theorem exec_vinOvervoltage (s : State) : ∀ t, exec (.vinOvervoltage t) s = execVinOvervoltage t s := fun _ => rfl
theorem exec_vinUndervoltage (s : State) : ∀ t, exec (.vinUndervoltage t) s = execVinUndervoltage t s := fun _ => rfl
theorem exec_railFault (s : State) : ∀ rail t, exec (.railFault rail t) s = execRailFault rail t s := fun _ _ => rfl
theorem exec_vauxOverload (s : State) : ∀ t, exec (.vauxOverload t) s = execVauxOverload t s := fun _ => rfl
theorem exec_vauxRetry (s : State) : ∀ overload t, exec (.vauxRetry overload t) s = execVauxRetry overload t s := fun _ _ => rfl
theorem exec_capCheck (s : State) : ∀ avgW t, exec (.capCheck avgW t) s = execCapCheck avgW t s := fun _ _ => rfl
theorem exec_powerLimitStep (s : State) : ∀ avgW t, exec (.powerLimitStep avgW t) s = execPowerLimitStep avgW t s := fun _ _ => rfl
theorem exec_thermalThrottleStep (s : State) : ∀ site a b t, exec (.thermalThrottleStep site a b t) s = execThermalThrottleStep site a b t s := fun _ _ _ _ => rfl
theorem exec_thermalReleaseStep (s : State) : ∀ site a b t, exec (.thermalReleaseStep site a b t) s = execThermalReleaseStep site a b t s := fun _ _ _ _ => rfl
theorem exec_thermalFigureEval (s : State) : ∀ temps t, exec (.thermalFigureEval temps t) s = execThermalFigureEval temps t s := fun _ _ => rfl
theorem exec_thermalShutdown (s : State) : ∀ site t, exec (.thermalShutdown site t) s = execThermalShutdown site t s := fun _ _ => rfl
theorem exec_sleepCommit (s : State) : ∀ t, exec (.sleepCommit t) s = execSleepCommit t s := fun _ => rfl
theorem exec_sleepWake (s : State) : ∀ timer pins t, exec (.sleepWake timer pins t) s = execSleepWake timer pins t s := fun _ _ _ => rfl
theorem exec_debugCert (s : State) : ∀ bytes t, exec (.debugCert bytes t) s = execDebugCert bytes t s := fun _ _ => rfl
theorem exec_debugAccess (s : State) : ∀ op t, exec (.debugAccess op t) s = execDebugAccess op t s := fun _ _ => rfl
theorem exec_debugClose (s : State) : ∀ v, exec (.debugClose v) s = execDebugClose v s := fun _ => rfl
theorem exec_keyZeroise (s : State) : ∀ v, exec (.keyZeroise v) s = execKeyZeroise v s := fun _ => rfl
theorem exec_worldLock (s : State) : exec .worldLock s = execWorldLock s := rfl
theorem exec_fiArmReg (s : State) : exec .fiArmReg s = execFiArmReg s := rfl
theorem exec_fiDisarmReg (s : State) : exec .fiDisarmReg s = execFiDisarmReg s := rfl
theorem exec_fiHeldRelease (s : State) : ∀ t, exec (.fiHeldRelease t) s = execFiHeldRelease t s := fun _ => rfl
theorem exec_registerWrite (s : State) : ∀ m addr v t, exec (.registerWrite m addr v t) s = execRegisterWrite m addr v t s := fun _ _ _ _ => rfl
theorem exec_commandDone (s : State) : ∀ pg tag t, exec (.commandDone pg tag t) s = execCommandDone pg tag t s := fun _ _ _ => rfl
theorem exec_undefinedOpcode (s : State) : ∀ m opcode, exec (.undefinedOpcode m opcode) s = execUndefinedOpcode m opcode s := fun _ _ => rfl
theorem exec_applicationCoreAccess (s : State) : ∀ core kind addr len data t, exec (.applicationCoreAccess core kind addr len data t) s = execApplicationCoreAccess core kind addr len data t s := fun _ _ _ _ _ _ => rfl
theorem exec_linkRetrainComplete (s : State) : ∀ stack n ok t, exec (.linkRetrainComplete stack n ok t) s = execLinkRetrainComplete stack n ok t s := fun _ _ _ _ => rfl
theorem exec_ethFrameTx (s : State) : ∀ port collision t, exec (.ethFrameTx port collision t) s = execEthFrameTx port collision t s := fun _ _ _ => rfl
theorem exec_recoveryResetTimeout (s : State) : ∀ stream t, exec (.recoveryResetTimeout stream t) s = execRecoveryResetTimeout stream t s := fun _ _ => rfl
theorem exec_autogateStop (s : State) : ∀ idx, exec (.autogateStop idx) s = execAutogateStop idx s := fun _ => rfl
theorem exec_pciePerst (s : State) : ∀ port level t, exec (.pciePerst port level t) s = execPciePerst port level t s := fun _ _ _ => rfl

/-- The three shapes of a command: an effect at its device time on a powered device, a restart of the device, or an effect on the
rind that SLEEP does not stop. -/
theorem exec_shape (c : Instr) (s : State) :
    (restarts c = false ∧ ∃ t f, exec c s = s.act t f) ∨
    (restarts c = true ∧ ∃ f, exec c s = s.anew f) ∨
    (restarts c = false ∧ ∃ t f, exec c s = .next { s with dev := s.dev.rindAct t f }) := by
  cases c with
  | sessionOpen _ => exact .inl ⟨rfl, _, _, exec_sessionOpen s _⟩
  | instQuery _ => exact .inl ⟨rfl, _, _, exec_instQuery s _⟩
  | evictAck _ => exact .inl ⟨rfl, _, _, exec_evictAck s _⟩
  | instReset _ => exact .inl ⟨rfl, _, _, exec_instReset s _⟩
  | memAlloc _ => exact .inl ⟨rfl, _, _, exec_memAlloc s _⟩
  | memFree _ => exact .inl ⟨rfl, _, _, exec_memFree s _⟩
  | ctxCreate _ => exact .inl ⟨rfl, _, _, exec_ctxCreate s _⟩
  | ctxDestroy _ => exact .inl ⟨rfl, _, _, exec_ctxDestroy s _⟩
  | qCreate _ => exact .inl ⟨rfl, _, _, exec_qCreate s _⟩
  | qDestroy _ => exact .inl ⟨rfl, _, _, exec_qDestroy s _⟩
  | qReset _ => exact .inl ⟨rfl, _, _, exec_qReset s _⟩
  | ctxQuery _ => exact .inl ⟨rfl, _, _, exec_ctxQuery s _⟩
  | graphLoad _ => exact .inl ⟨rfl, _, _, exec_graphLoad s _⟩
  | graphUnload _ => exact .inl ⟨rfl, _, _, exec_graphUnload s _⟩
  | graphBufQuery _ => exact .inl ⟨rfl, _, _, exec_graphBufQuery s _⟩
  | serveStart _ => exact .inl ⟨rfl, _, _, exec_serveStart s _⟩
  | serveStop _ => exact .inl ⟨rfl, _, _, exec_serveStop s _⟩
  | safeFallbackBind _ => exact .inl ⟨rfl, _, _, exec_safeFallbackBind s _⟩
  | safeAgeSet _ => exact .inl ⟨rfl, _, _, exec_safeAgeSet s _⟩
  | safeRefinputSet _ => exact .inl ⟨rfl, _, _, exec_safeRefinputSet s _⟩
  | safeStatus _ => exact .inl ⟨rfl, _, _, exec_safeStatus s _⟩
  | gwRoutesSet _ => exact .inl ⟨rfl, _, _, exec_gwRoutesSet s _⟩
  | gwKeySet _ => exact .inl ⟨rfl, _, _, exec_gwKeySet s _⟩
  | gwStatus _ => exact .inl ⟨rfl, _, _, exec_gwStatus s _⟩
  | dispLayerSet _ => exact .inl ⟨rfl, _, _, exec_dispLayerSet s _⟩
  | dispFlip _ => exact .inl ⟨rfl, _, _, exec_dispFlip s _⟩
  | persQuery _ => exact .inl ⟨rfl, _, _, exec_persQuery s _⟩
  | persSet _ => exact .inl ⟨rfl, _, _, exec_persSet s _⟩
  | pwrCapSet _ => exact .inl ⟨rfl, _, _, exec_pwrCapSet s _⟩
  | mgrInstCreate _ => exact .inl ⟨rfl, _, _, exec_mgrInstCreate s _⟩
  | mgrInstDestroy _ => exact .inl ⟨rfl, _, _, exec_mgrInstDestroy s _⟩
  | mgrInstReset _ => exact .inl ⟨rfl, _, _, exec_mgrInstReset s _⟩
  | mgrInstAttach _ => exact .inl ⟨rfl, _, _, exec_mgrInstAttach s _⟩
  | mgrEvict _ => exact .inl ⟨rfl, _, _, exec_mgrEvict s _⟩
  | mgrPartDefine _ => exact .inl ⟨rfl, _, _, exec_mgrPartDefine s _⟩
  | mgrEgDefine _ => exact .inl ⟨rfl, _, _, exec_mgrEgDefine s _⟩
  | mgrWheelSet _ => exact .inl ⟨rfl, _, _, exec_mgrWheelSet s _⟩
  | mgrBwSet _ => exact .inl ⟨rfl, _, _, exec_mgrBwSet s _⟩
  | mgrPairSet _ => exact .inl ⟨rfl, _, _, exec_mgrPairSet s _⟩
  | cntSnapshot _ => exact .inl ⟨rfl, _, _, exec_cntSnapshot s _⟩
  | diagLogRead _ => exact .inl ⟨rfl, _, _, exec_diagLogRead s _⟩
  | fiArm _ => exact .inl ⟨rfl, _, _, exec_fiArm s _⟩
  | fiDisarm _ => exact .inl ⟨rfl, _, _, exec_fiDisarm s _⟩
  | mbxRspAck _ _ => exact .inl ⟨rfl, _, _, exec_mbxRspAck s _ _⟩
  | evtRdWrite _ _ => exact .inl ⟨rfl, _, _, exec_evtRdWrite s _ _⟩
  | heartbeatPeriodEnd _ _ => exact .inl ⟨rfl, _, _, exec_heartbeatPeriodEnd s _ _⟩
  | fwHeartbeat _ => exact .inl ⟨rfl, _, _, exec_fwHeartbeat s _⟩
  | doorbellWrite _ _ _ _ _ _ => exact .inl ⟨rfl, _, _, exec_doorbellWrite s _ _ _ _ _ _⟩
  | contextUnpark _ _ => exact .inl ⟨rfl, _, _, exec_contextUnpark s _ _⟩
  | descriptorTake _ _ => exact .inl ⟨rfl, _, _, exec_descriptorTake s _ _⟩
  | nop _ _ _ => exact .inl ⟨rfl, _, _, exec_nop s _ _ _⟩
  | matmul _ _ _ => exact .inl ⟨rfl, _, _, exec_matmul s _ _ _⟩
  | matmulAdd _ _ _ => exact .inl ⟨rfl, _, _, exec_matmulAdd s _ _ _⟩
  | convChain _ _ _ => exact .inl ⟨rfl, _, _, exec_convChain s _ _ _⟩
  | haloFlagWait _ _ _ _ _ _ => exact .inl ⟨rfl, _, _, exec_haloFlagWait s _ _ _ _ _ _⟩
  | topk _ _ _ => exact .inl ⟨rfl, _, _, exec_topk s _ _ _⟩
  | nms _ _ _ => exact .inl ⟨rfl, _, _, exec_nms s _ _ _⟩
  | unfold _ _ _ => exact .inl ⟨rfl, _, _, exec_unfold s _ _ _⟩
  | kvAppend _ _ _ => exact .inl ⟨rfl, _, _, exec_kvAppend s _ _ _⟩
  | kvReserveWait _ _ _ => exact .inl ⟨rfl, _, _, exec_kvReserveWait s _ _ _⟩
  | attention _ _ _ => exact .inl ⟨rfl, _, _, exec_attention s _ _ _⟩
  | kvTruncate _ _ _ => exact .inl ⟨rfl, _, _, exec_kvTruncate s _ _ _⟩
  | ringAllreduce _ _ _ => exact .inl ⟨rfl, _, _, exec_ringAllreduce s _ _ _⟩
  | softmax _ _ _ => exact .inl ⟨rfl, _, _, exec_softmax s _ _ _⟩
  | rmsnorm _ _ _ => exact .inl ⟨rfl, _, _, exec_rmsnorm s _ _ _⟩
  | layernorm _ _ _ => exact .inl ⟨rfl, _, _, exec_layernorm s _ _ _⟩
  | activation _ _ _ => exact .inl ⟨rfl, _, _, exec_activation s _ _ _⟩
  | rotate _ _ _ => exact .inl ⟨rfl, _, _, exec_rotate s _ _ _⟩
  | quantise _ _ _ => exact .inl ⟨rfl, _, _, exec_quantise s _ _ _⟩
  | dwconv _ _ _ => exact .inl ⟨rfl, _, _, exec_dwconv s _ _ _⟩
  | pool _ _ _ => exact .inl ⟨rfl, _, _, exec_pool s _ _ _⟩
  | adamw _ _ _ => exact .inl ⟨rfl, _, _, exec_adamw s _ _ _⟩
  | copy _ _ _ => exact .inl ⟨rfl, _, _, exec_copy s _ _ _⟩
  | render _ _ _ => exact .inl ⟨rfl, _, _, exec_render s _ _ _⟩
  | kernel _ _ _ => exact .inl ⟨rfl, _, _, exec_kernel s _ _ _⟩
  | press _ _ _ => exact .inl ⟨rfl, _, _, exec_press s _ _ _⟩
  | graphRunStart _ _ => exact .inl ⟨rfl, _, _, exec_graphRunStart s _ _⟩
  | servingStep _ _ => exact .inl ⟨rfl, _, _, exec_servingStep s _ _⟩
  | overrunKill _ _ _ => exact .inl ⟨rfl, _, _, exec_overrunKill s _ _ _⟩
  | slotBoundary _ => exact .inl ⟨rfl, _, _, exec_slotBoundary s _⟩
  | referenceRunResult _ _ _ _ _ => exact .inl ⟨rfl, _, _, exec_referenceRunResult s _ _ _ _ _⟩
  | periodBoundary _ => exact .inl ⟨rfl, _, _, exec_periodBoundary s _⟩
  | wheelSwap => exact .inl ⟨rfl, _, _, exec_wheelSwap s⟩
  | gxKill _ _ => exact .inl ⟨rfl, _, _, exec_gxKill s _ _⟩
  | gxCbInval _ => exact .inl ⟨rfl, _, _, exec_gxCbInval s _⟩
  | gxKatStart _ => exact .inl ⟨rfl, _, _, exec_gxKatStart s _⟩
  | katChunkDone _ _ _ => exact .inl ⟨rfl, _, _, exec_katChunkDone s _ _ _⟩
  | sweepDeadline _ _ => exact .inl ⟨rfl, _, _, exec_sweepDeadline s _ _⟩
  | engineRamError _ _ _ _ _ => exact .inl ⟨rfl, _, _, exec_engineRamError s _ _ _ _ _⟩
  | vrstat _ _ _ => exact .inl ⟨rfl, _, _, exec_vrstat s _ _ _⟩
  | vsegsum _ _ _ => exact .inl ⟨rfl, _, _, exec_vsegsum s _ _ _⟩
  | vhbfly _ _ _ => exact .inl ⟨rfl, _, _, exec_vhbfly s _ _ _⟩
  | vqscale _ _ _ => exact .inl ⟨rfl, _, _, exec_vqscale s _ _ _⟩
  | vcbnear _ _ _ => exact .inl ⟨rfl, _, _, exec_vcbnear s _ _ _⟩
  | mswait _ _ _ => exact .inl ⟨rfl, _, _, exec_mswait s _ _ _⟩
  | mswaitSatisfied _ _ => exact .inl ⟨rfl, _, _, exec_mswaitSatisfied s _ _⟩
  | kernelEnd _ _ => exact .inl ⟨rfl, _, _, exec_kernelEnd s _ _⟩
  | vcTrap _ _ _ _ _ => exact .inl ⟨rfl, _, _, exec_vcTrap s _ _ _ _ _⟩
  | vcRst _ => exact .inl ⟨rfl, _, _, exec_vcRst s _⟩
  | kvInit _ => exact .inl ⟨rfl, _, _, exec_kvInit s _⟩
  | kvPoolValid _ _ => exact .inl ⟨rfl, _, _, exec_kvPoolValid s _ _⟩
  | kvStateError _ _ _ _ _ => exact .inl ⟨rfl, _, _, exec_kvStateError s _ _ _ _ _⟩
  | sortKill _ _ => exact .inl ⟨rfl, _, _, exec_sortKill s _ _⟩
  | recordCompare _ _ _ => exact .inl ⟨rfl, _, _, exec_recordCompare s _ _ _⟩
  | lagTimeout _ _ => exact .inl ⟨rfl, _, _, exec_lagTimeout s _ _⟩
  | twinCheckpoint _ _ _ _ _ _ _ => exact .inl ⟨rfl, _, _, exec_twinCheckpoint s _ _ _ _ _ _ _⟩
  | acpairFinding _ _ _ _ => exact .inl ⟨rfl, _, _, exec_acpairFinding s _ _ _ _⟩
  | twinSelftest _ _ _ => exact .inl ⟨rfl, _, _, exec_twinSelftest s _ _ _⟩
  | twinQclr _ => exact .inl ⟨rfl, _, _, exec_twinQclr s _⟩
  | twinSplit _ _ _ => exact .inl ⟨rfl, _, _, exec_twinSplit s _ _ _⟩
  | twinJoin _ _ _ => exact .inl ⟨rfl, _, _, exec_twinJoin s _ _ _⟩
  | wdtExpire _ _ => exact .inl ⟨rfl, _, _, exec_wdtExpire s _ _⟩
  | safeWdtKick _ _ _ => exact .inl ⟨rfl, _, _, exec_safeWdtKick s _ _ _⟩
  | safeReport _ _ _ => exact .inl ⟨rfl, _, _, exec_safeReport s _ _ _⟩
  | safeCfgLock _ => exact .inl ⟨rfl, _, _, exec_safeCfgLock s _⟩
  | warnPulseEnd _ => exact .inl ⟨rfl, _, _, exec_warnPulseEnd s _⟩
  | resetDelayExpire _ => exact .inr (.inl ⟨rfl, _, exec_resetDelayExpire s _⟩)
  | linkCrcError _ _ => exact .inl ⟨rfl, _, _, exec_linkCrcError s _ _⟩
  | linkDown _ _ => exact .inl ⟨rfl, _, _, exec_linkDown s _ _⟩
  | dieOffline _ _ => exact .inl ⟨rfl, _, _, exec_dieOffline s _ _⟩
  | stackCrcError _ _ => exact .inl ⟨rfl, _, _, exec_stackCrcError s _ _⟩
  | patrolScrub _ _ _ _ => exact .inl ⟨rfl, _, _, exec_patrolScrub s _ _ _ _⟩
  | bwrWindowBoundary _ _ => exact .inl ⟨rfl, _, _, exec_bwrWindowBoundary s _ _⟩
  | derateChange _ => exact .inl ⟨rfl, _, _, exec_derateChange s _⟩
  | bwrLatClr => exact .inl ⟨rfl, _, _, exec_bwrLatClr s⟩
  | bwrIlvWrite _ _ => exact .inl ⟨rfl, _, _, exec_bwrIlvWrite s _ _⟩
  | dmaStart _ _ => exact .inl ⟨rfl, _, _, exec_dmaStart s _ _⟩
  | dmaDisable _ => exact .inl ⟨rfl, _, _, exec_dmaDisable s _⟩
  | dmaRequest _ _ => exact .inl ⟨rfl, _, _, exec_dmaRequest s _ _⟩
  | dmaBurst _ _ => exact .inl ⟨rfl, _, _, exec_dmaBurst s _ _⟩
  | dmaDescComplete _ _ => exact .inl ⟨rfl, _, _, exec_dmaDescComplete s _ _⟩
  | dmaReqClr _ => exact .inl ⟨rfl, _, _, exec_dmaReqClr s _⟩
  | gfxKill _ => exact .inl ⟨rfl, _, _, exec_gfxKill s _⟩
  | jobSuspend _ _ => exact .inl ⟨rfl, _, _, exec_jobSuspend s _ _⟩
  | compositorGuard _ _ => exact .inl ⟨rfl, _, _, exec_compositorGuard s _ _⟩
  | displayLatch _ _ => exact .inl ⟨rfl, _, _, exec_displayLatch s _ _⟩
  | displayUnderrun _ _ => exact .inl ⟨rfl, _, _, exec_displayUnderrun s _ _⟩
  | tileMemError _ _ => exact .inl ⟨rfl, _, _, exec_tileMemError s _ _⟩
  | cameraFrame _ _ _ _ _ _ => exact .inl ⟨rfl, _, _, exec_cameraFrame s _ _ _ _ _ _⟩
  | cameraFrameError _ _ _ _ => exact .inl ⟨rfl, _, _, exec_cameraFrameError s _ _ _ _⟩
  | ethFrameRx _ _ _ _ _ => exact .inl ⟨rfl, _, _, exec_ethFrameRx s _ _ _ _ _⟩
  | canFrameRx _ _ _ => exact .inl ⟨rfl, _, _, exec_canFrameRx s _ _ _⟩
  | canFrameTx _ _ _ => exact .inl ⟨rfl, _, _, exec_canFrameTx s _ _ _⟩
  | containerTmax _ _ => exact .inl ⟨rfl, _, _, exec_containerTmax s _ _⟩
  | tripFrameSend _ => exact .inl ⟨rfl, _, _, exec_tripFrameSend s _⟩
  | plcaBeaconLoss _ _ => exact .inl ⟨rfl, _, _, exec_plcaBeaconLoss s _ _⟩
  | plcaBeacon _ _ => exact .inl ⟨rfl, _, _, exec_plcaBeacon s _ _⟩
  | dropLimit _ _ => exact .inl ⟨rfl, _, _, exec_dropLimit s _ _⟩
  | gptpSyncRx _ _ _ _ => exact .inl ⟨rfl, _, _, exec_gptpSyncRx s _ _ _ _⟩
  | holdover _ _ => exact .inl ⟨rfl, _, _, exec_holdover s _ _⟩
  | busOffRecovery _ _ => exact .inl ⟨rfl, _, _, exec_busOffRecovery s _ _⟩
  | canRecover _ => exact .inl ⟨rfl, _, _, exec_canRecover s _⟩
  | gateListActivate _ _ _ => exact .inl ⟨rfl, _, _, exec_gateListActivate s _ _ _⟩
  | pbWriteFail _ _ _ => exact .inl ⟨rfl, _, _, exec_pbWriteFail s _ _ _⟩
  | ipTxPoll _ _ => exact .inl ⟨rfl, _, _, exec_ipTxPoll s _ _⟩
  | pcieMemRequest _ _ _ _ _ _ _ => exact .inl ⟨rfl, _, _, exec_pcieMemRequest s _ _ _ _ _ _ _⟩
  | pcieFlr _ _ _ => exact .inl ⟨rfl, _, _, exec_pcieFlr s _ _ _⟩
  | pcieLinkReset _ _ => exact .inl ⟨rfl, _, _, exec_pcieLinkReset s _ _⟩
  | drainTimeout _ _ => exact .inl ⟨rfl, _, _, exec_drainTimeout s _ _⟩
  | resetComplete _ _ => exact .inl ⟨rfl, _, _, exec_resetComplete s _ _⟩
  | evictGraceEnd _ _ => exact .inl ⟨rfl, _, _, exec_evictGraceEnd s _ _⟩
  | dlEnable _ _ => exact .inl ⟨rfl, _, _, exec_dlEnable s _ _⟩
  | dlSwap _ => exact .inl ⟨rfl, _, _, exec_dlSwap s _⟩
  | dlSwapDone _ => exact .inl ⟨rfl, _, _, exec_dlSwapDone s _⟩
  | snapClear _ _ => exact .inl ⟨rfl, _, _, exec_snapClear s _ _⟩
  | timeLoRead _ _ => exact .inl ⟨rfl, _, _, exec_timeLoRead s _ _⟩
  | wakeEvent _ _ => exact .inl ⟨rfl, _, _, exec_wakeEvent s _ _⟩
  | driveReady _ => exact .inl ⟨rfl, _, _, exec_driveReady s _⟩
  | clkFreqSet _ _ _ => exact .inl ⟨rfl, _, _, exec_clkFreqSet s _ _ _⟩
  | clkMonFault _ _ => exact .inl ⟨rfl, _, _, exec_clkMonFault s _ _⟩
  | domainWake _ _ => exact .inl ⟨rfl, _, _, exec_domainWake s _ _⟩
  | domainWakeTimeout _ _ => exact .inl ⟨rfl, _, _, exec_domainWakeTimeout s _ _⟩
  | rstDomReq _ _ => exact .inl ⟨rfl, _, _, exec_rstDomReq s _ _⟩
  | rstDomInReset _ _ => exact .inl ⟨rfl, _, _, exec_rstDomInReset s _ _⟩
  | rstDomRel _ _ => exact .inl ⟨rfl, _, _, exec_rstDomRel s _ _⟩
  | rstDev _ _ => exact .inr (.inl ⟨rfl, _, exec_rstDev s _ _⟩)
  | resetN _ => exact .inr (.inl ⟨rfl, _, exec_resetN s _⟩)
  | powerGood _ => exact .inr (.inl ⟨rfl, _, exec_powerGood s _⟩)
  | vinOvervoltage _ => exact .inr (.inl ⟨rfl, _, exec_vinOvervoltage s _⟩)
  | vinUndervoltage _ => exact .inr (.inl ⟨rfl, _, exec_vinUndervoltage s _⟩)
  | railFault _ _ => exact .inr (.inl ⟨rfl, _, exec_railFault s _ _⟩)
  | vauxOverload _ => exact .inr (.inr ⟨rfl, _, _, exec_vauxOverload s _⟩)
  | vauxRetry _ _ => exact .inr (.inr ⟨rfl, _, _, exec_vauxRetry s _ _⟩)
  | capCheck _ _ => exact .inl ⟨rfl, _, _, exec_capCheck s _ _⟩
  | powerLimitStep _ _ => exact .inl ⟨rfl, _, _, exec_powerLimitStep s _ _⟩
  | thermalThrottleStep _ _ _ _ => exact .inl ⟨rfl, _, _, exec_thermalThrottleStep s _ _ _ _⟩
  | thermalReleaseStep _ _ _ _ => exact .inl ⟨rfl, _, _, exec_thermalReleaseStep s _ _ _ _⟩
  | thermalFigureEval _ _ => exact .inl ⟨rfl, _, _, exec_thermalFigureEval s _ _⟩
  | thermalShutdown _ _ => exact .inr (.inl ⟨rfl, _, exec_thermalShutdown s _ _⟩)
  | sleepCommit _ => exact .inr (.inl ⟨rfl, _, exec_sleepCommit s _⟩)
  | sleepWake _ _ _ => exact .inr (.inl ⟨rfl, _, exec_sleepWake s _ _ _⟩)
  | debugCert _ _ => exact .inl ⟨rfl, _, _, exec_debugCert s _ _⟩
  | debugAccess _ _ => exact .inl ⟨rfl, _, _, exec_debugAccess s _ _⟩
  | debugClose _ => exact .inl ⟨rfl, _, _, exec_debugClose s _⟩
  | keyZeroise _ => exact .inl ⟨rfl, _, _, exec_keyZeroise s _⟩
  | worldLock => exact .inl ⟨rfl, _, _, exec_worldLock s⟩
  | fiArmReg => exact .inl ⟨rfl, _, _, exec_fiArmReg s⟩
  | fiDisarmReg => exact .inl ⟨rfl, _, _, exec_fiDisarmReg s⟩
  | fiHeldRelease _ => exact .inl ⟨rfl, _, _, exec_fiHeldRelease s _⟩
  | registerWrite _ _ _ _ => exact .inl ⟨rfl, _, _, exec_registerWrite s _ _ _ _⟩
  | commandDone _ _ _ => exact .inl ⟨rfl, _, _, exec_commandDone s _ _ _⟩
  | undefinedOpcode _ _ => exact .inl ⟨rfl, _, _, exec_undefinedOpcode s _ _⟩
  | applicationCoreAccess _ _ _ _ _ _ => exact .inl ⟨rfl, _, _, exec_applicationCoreAccess s _ _ _ _ _ _⟩
  | linkRetrainComplete _ _ _ _ => exact .inl ⟨rfl, _, _, exec_linkRetrainComplete s _ _ _ _⟩
  | ethFrameTx _ _ _ => exact .inl ⟨rfl, _, _, exec_ethFrameTx s _ _ _⟩
  | recoveryResetTimeout _ _ => exact .inl ⟨rfl, _, _, exec_recoveryResetTimeout s _ _⟩
  | autogateStop _ => exact .inl ⟨rfl, _, _, exec_autogateStop s _⟩
  | pciePerst _ _ _ => exact .inl ⟨rfl, _, _, exec_pciePerst s _ _ _⟩

end Sys2Proof.Machine
end

