-- ==== Sys2Proof/WellFormed.lean ====
section
/-! DEFINITION. Which commands are well formed: operands that their rule's layout can carry. The types
of the operands already bound most indices; what is left is checked here. The machine answers an
ill-formed command too, as the hardware would answer the part that it can see. -/

namespace Sys2Proof

/-- A mailbox request holds at most 15 words after MBX_REQ0 (R49). -/
def Mbx.wf (m : Mbx) : Bool := decide (m.words.length ≤ 15)

/-- A frame on an Ethernet port: at least the 14 bytes of addresses and type (R351). -/
def ethWf (frame : List Byte) : Bool := decide (14 ≤ frame.length)

/-- A CAN frame: identifier of 11 or 29 bits and at most 8, 64 or 2,048 data bytes (R358). -/
def CanFrame.wf (f : CanFrame) : Bool :=
  decide (f.id < (if f.ext then 2 ^ 29 else 2 ^ 11)) &&
  decide (f.data.length ≤ (if f.xl then 2048 else if f.fd then 64 else 8))

/-- Well-formed commands. -/
def Instr.wf : Instr → Bool
  | .sessionOpen m | .instQuery m | .evictAck m | .instReset m | .memAlloc m | .memFree m
  | .ctxCreate m | .ctxDestroy m | .qCreate m | .qDestroy m | .qReset m | .ctxQuery m
  | .graphLoad m | .graphUnload m | .graphBufQuery m | .serveStart m | .serveStop m
  | .safeFallbackBind m | .safeAgeSet m | .safeRefinputSet m | .safeStatus m
  | .gwRoutesSet m | .gwKeySet m | .gwStatus m | .dispLayerSet m | .dispFlip m
  | .persQuery m | .persSet m | .pwrCapSet m | .mgrInstCreate m | .mgrInstDestroy m
  | .mgrInstReset m | .mgrInstAttach m | .mgrEvict m | .mgrPartDefine m | .mgrEgDefine m
  | .mgrWheelSet m | .mgrBwSet m | .mgrPairSet m | .cntSnapshot m | .diagLogRead m
  | .fiArm m | .fiDisarm m | .undefinedOpcode m _ => m.wf
  | .ethFrameRx _ f _ _ _ => ethWf f
  | .canFrameRx _ f _ => f.wf
  | .debugCert bytes _ => decide (bytes.length = 288)
  | .thermalFigureEval ts _ => decide (ts.length = 4)
  | .applicationCoreAccess _ _ _ len data _ => decide (len = data.length ∨ data = []) && decide (0 < len)
  | .pcieMemRequest _ _ _ _ w len _ => decide (0 < len) && (match w with | some bs => decide (bs.length = len) | none => true)
  | _ => true

end Sys2Proof
end

