-- ==== Sys2Proof/Tests/Slice0.lean ====
section
/-! SUPPORT. Tests: ill-formed commands, small examples of the spec, and for every statement with hypotheses states and operands
that meet them. -/

namespace Sys2Proof.Tests

open Sys2Proof Sys2Proof.Machine

/- The theorems are elaborated one after the other: many kernel evaluations at once take too many threads. -/
set_option Elab.async false

/-! ### Small states -/

/-- A device with one instance ACTIVE on page 1 and an ACTIVE manager page. -/
def base : Dev :=
  { pages := [(1, { state := .active }), (64, { state := .active })],
    parts := [(1, { worldO := false, kind := .bestEffort, ranges := [(0x40000000, 0x4FFFFFFF)] })],
    insts := [(0, { allocs := [⟨0x80000000, 64, 0, .boot⟩] }),
      (1, { pt := 1, quotaMiB := 64, qQuota := 4, ctxQuota := 4, egMask := 1, allocs := [⟨0x40000000, 48, 0, .mem⟩],
            window := [(0, ⟨0x40000000, false⟩), (1, ⟨0x40200000, false⟩)] })] }

/-- A state with nothing in its queue. -/
def at_ (d : Dev) : State := { dev := d, pending := [] }

def p1 : Pg := .inst 1

/-- A request of words on a page. -/
def mb (page : Pg) (ws : List Word) (t : Nat := 0) : Mbx := { page, tag := 7, words := ws, t }

/-- The acceptance of a request, as a test. -/
def takes (d : Dev) (m : Mbx) (nwords : Nat) (ps : PageSet) (isOpen isQuery isPers : Bool := false) : Bool :=
  decide ((d.page (pgKey m.page)).state ≠ .free) && !(d.page (pgKey m.page)).go && !(d.page (pgKey m.page)).valid && d.cpaLost.isNone &&
  decide (d.power = .on) && decide (m.words.length = nwords) && decide (m.rsv = 0) && ps.has d m.page &&
  (stateStatus m.page (d.page (pgKey m.page)).state isOpen isQuery isPers).isNone

theorem accepted_of_takes {d : Dev} {m : Mbx} {n : Nat} {ps : PageSet} {o q p : Bool} (h : takes d m n ps o q p = true) :
    Accepted d m n ps o q p := by
  simp only [takes, Bool.and_eq_true, decide_eq_true_eq, Bool.not_eq_true', Option.isNone_iff_eq_none] at h
  obtain ⟨⟨⟨⟨⟨⟨⟨⟨h1, h2⟩, h3⟩, h4⟩, h5⟩, h6⟩, h7⟩, h8⟩, h9⟩ := h
  exact ⟨⟨h1, h2, h3, h4, h5⟩, h6, h7, h8, h9⟩

/-! ### Ill-formed commands -/

/-- A request of 16 words, a frame shorter than its addresses, a CAN identifier of 12 bits, a Classical CAN frame of 9 bytes, a
certificate of 287 bytes, three temperatures, a store of no bytes, a write whose length differs from its bytes. -/
theorem test_wf_refuses :
    Instr.wf (.sessionOpen (mb p1 (List.replicate 16 0))) = false ∧ Instr.wf (.ethFrameRx 0 [1, 2, 3] .none 0 0) = false ∧
    Instr.wf (.canFrameRx 0 { id := 2048, data := [] } 0) = false ∧
    Instr.wf (.canFrameRx 0 { id := 1, data := List.replicate 9 0 } 0) = false ∧
    Instr.wf (.debugCert (List.replicate 287 0) 0) = false ∧ Instr.wf (.thermalFigureEval [1, 2, 3] 0) = false ∧
    Instr.wf (.applicationCoreAccess 0 .store 0 0 [] 0) = false ∧ Instr.wf (.applicationCoreAccess 0 .store 0 4 [1] 0) = false ∧
    Instr.wf (.pcieMemRequest 0 0 0 0 (some [1]) 2 0) = false := by decide +kernel

theorem test_wf_accepts :
    Instr.wf (.sessionOpen (mb p1 [0x20000])) = true ∧ Instr.wf (.canFrameRx 0 { id := 2047, data := List.replicate 8 0 } 0) = true ∧
    Instr.wf (.wheelSwap) = true := by decide +kernel

/-! ### The block -/

/-- R480: an idle step is one cycle; at RATE 0 it adds 1 ns. -/
theorem test_idle_tick : ∃ t, step State.reset = .next t ∧ t.dev.now = 1 ∧ t.pending = [] := ⟨_, rfl, by decide +kernel⟩

/-- Commands are taken first in, first out. -/
theorem test_fifo : ∃ t, step { dev := {}, pending := [.worldLock, .wheelSwap] } = .next t ∧ t.pending = [.wheelSwap] ∧
    t.dev.getB aWorldLock 0 = true := ⟨_, rfl, by decide +kernel⟩

theorem wit_emptyQueueIdles : base.power = .on ∧ base.waiting = [] ∧ ({ power := .sleep } : Dev).power ≠ .on := by decide +kernel

/-- A device with its locks set, a FAULT-class report and both control processors lost. -/
def latched : Dev :=
  { (({} : Dev).setB aWorldLock 0 true).setB aSafeCfg 31 true with faultLatched := true, cpaLost := some 1, cpbLost := some 2 }

theorem wit_commandsKeepWhatIsLatched : restarts .wheelSwap = false ∧ latched.faultLatched = true ∧ latched.cpaLost = some 1 ∧
    latched.cpbLost = some 2 ∧ latched.getB aSafeCfg 31 = true ∧ latched.getB aWorldLock 0 = true := by decide +kernel

theorem wit_stepsKeepIdentity : ∃ t, step { dev := latched, pending := [.wheelSwap] } = .next t ∧
    (∀ c ∈ [Instr.wheelSwap].head?, restarts c = false) ∧ latched.getB aWorldLock 0 = true ∧ latched.getB aSafeCfg 31 = true ∧
    latched.faultLatched = true ∧ latched.cpaLost.isSome = true :=
  ⟨_, rfl, by simp [restarts], by decide +kernel⟩

/-- Page 1 with a full event ring, and page 64 with an empty one. -/
def rings : Dev := { pages := [(1, { state := .active, evWr := 32 }), (64, { state := .active })] }

theorem wit_eventRecorded : (rings.page 64).state ≠ .free ∧ rings.cpaLost = none ∧
    ((rings.page 64).evWr + 65536 - (rings.page 64).evRd) % 65536 ≠ 32 ∧ (rings.page 64).evMask.bit 16 = true ∧
    ((rings.page 1).evWr + 65536 - (rings.page 1).evRd) % 65536 = 32 := by decide +kernel

theorem wit_countersSaturate : (⟨2 ^ 48 - 1, true⟩ : Counter).val ≤ 2 ^ 48 - 1 ∧ (⟨2 ^ 48 - 1, false⟩ : Counter).ovf = false ∧
    2 ^ 48 - 1 < (⟨2 ^ 48 - 1, false⟩ : Counter).val + 1 ∧ (⟨2 ^ 48 - 2, false⟩ : Counter).val + 1 ≤ 2 ^ 48 - 1 ∧
    2 ^ 48 - 1 < 2 ^ 48 ∧ 1 * 4096 + 2 ≠ 1 * 4096 + 1 ∧ base.injUnit = false := by decide +kernel

theorem wit_reportsAndConditions : latched.cpbLost.isSome = true ∧ hwSourced 16 = true ∧ base.cpbLost.isSome = false ∧
    repClass 1 = .pulse ∧ repClass 12 = .heldC ∧ repClass 11 = .fault ∧ base.getF aSafeOut 5 4 ≠ 2 := by decide +kernel

theorem wit_memoryIsKept : base.loggers = [] ∧ (base.phys (0x40000000 + 3)).isSome = true ∧ base.phys 0x40000000 = some 0x40000000 ∧
    Memory.wf base.mem = true := by decide +kernel

/-! ### The Sebry command interface -/

/-- A context with an ACTIVE instance's queue Q0 on doorbell 0, empty. -/
def withQ : Dev :=
  { base with ctxs := [(0, { gen := 0, inst := 1, eg := 0, prio := 3, cmdlen := 1000, parked := false })],
              queues := [(0, { ctx := 0, inst := 1, dbidx := 0, ring := 0x40010000, log2n := 4, compl := 0x40020000 })],
              insts := base.insts.put 1 { base.inst 1 with doorbells := [(0, 0)] } }

theorem wit_queriesAnswer :
    takes base (mb p1 []) 0 pagesIM false true = true ∧ takes withQ (mb p1 [0]) 1 pagesI = true ∧ withQ.ctxByHandle 1 0 = some 0 ∧
    takes base (mb .mgr []) 0 pagesVM = true ∧ takes base (mb .mgr [21]) 1 pagesVM = true ∧ takes base (mb .mgr [47]) 1 pagesVM = true ∧
    takes base (mb .mgr []) 0 pagesIM false false true = true ∧ takes base (mb p1 [0x40000000, 0, 1]) 3 pagesVM = true ∧
    (base.inst 1).owns 0x40000000 32 = true := by decide +kernel

/-- Page 1 in another state. -/
def inState (st : InstState) : Dev := base.setPage 1 { base.page 1 with state := st }

theorem wit_sessionsOpen : takes (inState .created) (mb p1 [0x20000]) 1 pagesIM true = true ∧
    ((mb p1 [0x20000]).req 1).fld 31 16 = 2 ∧ ((inState .created).page 1).state ≠ .active ∧
    takes (base.setPage 64 { state := .orphaned }) (mb .mgr [0x20000]) 1 pagesIM true = true ∧
    takes (base.setPage 1 { state := .active, evict := true }) (mb p1 []) 0 pagesI = true := by decide +kernel

theorem wit_instancesReset : takes base (mb p1 [0]) 1 pagesI = true ∧ takes base (mb p1 [1]) 1 pagesI = true ∧
    takes base (mb .mgr [1]) 1 pagesM = true ∧ (base.page 1).state = .active ∧ takes base (mb .mgr [257]) 1 pagesM = true ∧
    (withQ.queue? 0).map (·.inst) = some 1 := by decide +kernel

/-- An ORPHANED instance of a LEASE partition. -/
def orphan : Dev :=
  { inState .orphaned with parts := [(1, { worldO := true, kind := .lease, ranges := [(0x40000000, 0x4FFFFFFF)] })],
                           boot := { totalVf := [4, 0] } }

theorem wit_managerInstanceCommands : takes base (mb .mgr [1]) 1 pagesM = true ∧ (base.page 1).state = .active ∧
    takes (inState .created) (mb .mgr [1]) 1 pagesM = true ∧ takes orphan (mb .mgr [1 * 16384 + 2 * 256 + 1]) 1 pagesM = true ∧
    orphan.bindExists 1 2 = true ∧ orphan.boundTo 1 2 = none ∧ (orphan.page 1).state = .orphaned ∧
    takes orphan (mb .mgr [1, 1000]) 2 pagesM = true ∧ (orphan.part (orphan.inst 1).pt).map (·.kind) = some .lease ∧
    (orphan.page 1).evict = false := by decide +kernel

/-- Three free granules of the partition in stack 0. -/
def roomFor : Dev := forUpTo 3 (fun k (d : Dev) => d.setOwn (0x40800000 + k * 0x200000) (mkOwn true false 1 false 0)) base

set_option maxRecDepth 100000 in
theorem wit_memoryIsAllocatedAndFreed : takes base (mb p1 [4, 0]) 2 pagesI = true ∧ (base.inst 1).quotaFor (4 * 65536) = true ∧
    base.allocUp false 0 = true ∧ ((base.inst 1).runOwned false 0 4).isSome = true ∧ (roomFor.inst 1).runOwned false 0 65 = none ∧
    takes roomFor (mb p1 [65, 0]) 2 pagesI = true ∧ (roomFor.freeRun 1 false 0 3).isSome = true ∧ (roomFor.inst 1).quotaFor (65 * 65536) = true ∧
    roomFor.allocUp false 0 = true ∧ roomFor.loggers = [] ∧
    takes base (mb p1 [0x40000000, 0]) 2 pagesI = true ∧ (base.inst 1).freeable 0x40000000 = some ⟨0x40000000, 48, 0, .mem⟩ ∧ (base.inst 1).owns 0x40000000 1 = true ∧
    base.lockHit 0x40000000 (48 * 65536) true = false ∧ (base.page 1).dl.en = false ∧ base.loggers = [] := by decide +kernel

theorem wit_contextsAndQueues : takes base (mb p1 [7 * 256, 50]) 2 pagesI = true ∧ bitOf (base.inst 1).egMask 0 = true ∧
    base.ctxCount 1 < (base.inst 1).ctxQuota ∧ base.pins 1 = false ∧ base.ctxs.freeKey 0 65536 = some 0 ∧
    takes withQ (mb p1 [0]) 1 pagesI = true ∧ withQ.ctxByHandle 1 0 = some 0 ∧
    takes withQ (mb p1 [0, 0x40030000, 0, 4, 0x40040000, 0]) 6 pagesI = true ∧ (withQ.inst 1).owns 0x40030000 1024 = true ∧
    (withQ.inst 1).owns 0x40040000 512 = true ∧ rangesMeet 0x40030000 1024 0x40040000 512 = false ∧ withQ.isTorn 0 = false ∧
    withQ.qCount 1 < (withQ.inst 1).qQuota ∧ withQ.queues.freeKey 0 16384 = some 1 ∧ (withQ.inst 1).doorbells.freeKey 0 4096 = some 1 ∧
    withQ.queueOf 1 0 = some 0 ∧ (withQ.queue? 0).map (·.head) = some 0 ∧ (withQ.queue? 0).map (·.window) = some [] := by decide +kernel

/-- The same with the context parked, a doorbell served but nothing taken. -/
def parkedQ : Dev :=
  { withQ with ctxs := [(0, { gen := 0, inst := 1, eg := 0, prio := 3, cmdlen := 1000, parked := true })],
               queues := withQ.queues.adjust 0 fun x => { x with tail := 2 } }

theorem wit_doorbellsMoveTheTail : (withQ.inst 1).doorbells.look 0 = some 0 ∧ (withQ.page 1).state = .active ∧
    (withQ.ctx? 0).isSome = true ∧ (16 + 2 ^ 32 - 0) % 2 ^ 32 ≤ 2 ^ 4 ∧ 2 ^ 4 < (17 + 2 ^ 32 - 0) % 2 ^ 32 ∧
    (withQ.inst 1).doorbells.look 4095 = none ∧ (1 + 2 ^ 32 - 0) % 2 ^ 32 < (2 + 2 ^ 32 - 0) % 2 ^ 32 ∧
    ((({ withQ with pages := [(1, { state := .orphaned })] } : Dev).page 1).state ≠ .active) ∧
    ((({ withQ with pages := [(1, { state := .orphaned })] } : Dev).page 1).state ≠ .free) ∧ (parkedQ.ctx? 0).map (·.parked) = some true ∧ parkedQ.freeSlot.isSome = true ∧
    ((parkedQ.queuesOf 0).any fun q => (parkedQ.queue? q).any fun x => decide (x.head ≠ x.tail)) = true := by decide +kernel

/-! ### Graphs, serving, safety -/

/-- A graph package of one fence buffer and one NOP node (R234, R235), its CRC word left out. -/
def pkgWords (crc : Word) : List Word :=
  [0x44424750, 0x00010000, 0x00010001, 0, 192, crc, 64, 128, 0, 0, 0, 0, 0, 0, 0, 0,
   4, 64, 0, 0, 0, 0, 0, 0, 0, 0, 0, 0, 0, 0, 0, 0] ++ [0x10000000] ++ List.replicate 15 0

def pkgCrc : Word := 0x3795d13e

/-- The package in the memory of instance 1. -/
def withPkg : Dev := base.wrWords 0x40000000 (pkgWords pkgCrc)

def mLoad : Mbx := mb p1 [0x40000000, 0, 192]

set_option maxRecDepth 100000 in
theorem wit_graphsAreLoaded : takes withPkg mLoad 3 pagesI = true ∧ (withPkg.inst 1).owns 0x40000000 192 = true ∧
    withPkg.graphs.freeKey 1 65536 = some 1 ∧ ((base.asked mLoad 0x0401).loadGraph 1 1 0x40000000 192).1 = .eParam := by decide +kernel

set_option maxRecDepth 100000 in
theorem wit_packageLoads : ((withPkg.asked mLoad 0x0401).loadGraph 1 1 0x40000000 192).1 = .ok := by decide +kernel

/-- A served graph's configuration. -/
def srv : ServeCfg := { vocab := 2, eos := 1, maxp := 8, pchunk := 16, tokBuf := 0, rowBuf := 1, seqBuf := 2, logBuf := 3 }

/-- A graph of instance 1 on the queue Q0. -/
def gr : Graph :=
  { inst := 1, ctx := 0, queue := 0, prio := 0, eg := 0, trig := 0, done := 0, nodes := [], serve := some srv,
    bufs := [⟨2, 0, 64, 0x40050000, (0, 0, 0), 0⟩, ⟨2, 0, 64, 0x40060000, (0, 0, 0), 0⟩, ⟨2, 0, 64, 0x40070000, (0, 0, 0), 0⟩,
      ⟨3, 0, 64, 0x40080000, (0, 0, 0), 0⟩] }

def withG : Dev := { withQ with graphs := [(1, gr), (2, gr)] }

theorem wit_graphsAreUnloaded : takes withG (mb p1 [1]) 1 pagesI = true ∧ withG.graphOf 1 1 = some gr ∧ withG.served 1 = false ∧
    gr.primary = none ∧ withG.poolNamed 1 = false ∧
    ({ withG with graphs := [(1, { gr with fallback := some 2 }), (2, { gr with primary := some 1 })] } : Dev).served 2 = false ∧
    ({ withG with graphs := [(1, { gr with fallback := some 2 }), (2, { gr with primary := some 1 })] } : Dev).poolNamed 2 = false := by
  decide +kernel

/-- A second queue of the instance, and a service with one sequence. -/
def twoQ : Dev :=
  { withG with queues := withG.queues.put 1 { ctx := 0, inst := 1, dbidx := 1, ring := 0x40090000, log2n := 4, compl := 0x400A0000 },
               insts := withG.insts.put 1 { withG.inst 1 with doorbells := [(0, 0), (1, 1)] } }

def seq1 : Seq :=
  { reqId := 9, prompt := [5], maxNew := 4, temp := 0, topK := 0, topP := 0x3F800000, seed := 1, stops := [], slot := 0 }

def serving1 (b : List Seq) : Dev := { twoQ with queues := twoQ.queues.adjust 1 (fun x => { x with tail := 2 }), serving := [(1, { graph := 1, maxBatch := 8, reqQ := 0, rspQ := 1, batch := b })] }

def stepPlan (d : Dev) (g : Graph) : Dev × List Row :=
  let cap (i : Nat) : Nat := ((g.bufs[i]?).map (·.size / 4)).getD 0
  ((d.dropEnded 1 g.queue g).admits 1 g.queue g srv 512).planRows 1 g.queue g srv (min (cap srv.tokBuf) (cap srv.rowBuf)) 512

set_option maxRecDepth 100000 in
theorem wit_serviceRuns : takes twoQ (mb p1 [1, 256, 65536]) 3 pagesI = true ∧ twoQ.graphOf 1 1 = some gr ∧ gr.serve.isSome = true ∧
    twoQ.queueOf 1 0 = some 0 ∧ twoQ.queueOf 1 1 = some 1 ∧ twoQ.isTorn (twoQ.ctxOfQ 0) = false ∧ twoQ.isTorn (twoQ.ctxOfQ 1) = false ∧
    twoQ.serving.look 1 = none ∧ takes (serving1 [seq1]) (mb p1 []) 0 pagesI = true ∧
    ((serving1 [seq1]).serving.look 1).map (·.batch) = some [seq1] ∧ takes twoQ (mb p1 []) 0 pagesI = true ∧
    (serving1 []).noDispatch = false ∧ (serving1 []).isTorn gr.ctx = false ∧ ((serving1 []).page 1).state = .active ∧
    (stepPlan (serving1 []) gr).2 = [] ∧ (stepPlan (serving1 [seq1]) gr).2 ≠ [] := by decide +kernel

/-- A step whose nodes have pressed but for some commands. -/
def stepped (cs : List Cmd) : Dev :=
  let d := forUpTo 4 (fun die d => d.setB (aSortCtrl die) 0 true) (serving1 [seq1])
  { d with serving := [(1, { graph := 1, maxBatch := 8, reqQ := 0, rspQ := 1, batch := [seq1], rows := [⟨0, 0, 5, true⟩] })],
           queues := d.queues.adjust 0 fun x => { x with feed := cs } }

theorem wit_serviceSteps : (stepped [{ seq := 0, desc := [], ins := [], outs := [], params := [], node := some (1, 0, 0) }]).runRest gr.queue 1 0 ≠ [] ∧
    (stepped []).runRest gr.queue 1 0 = [] ∧ (stepped []).sortsIdle = true := by decide +kernel

theorem wit_safetyCommands : takes withG (mb p1 [1, 2]) 2 pagesV = true ∧ withG.graphOf 1 1 = some gr ∧ withG.graphOf 1 2 = some gr ∧
    sameBufs gr gr 2 = true ∧ sameBufs gr gr 3 = true ∧ gr.bound = false ∧ takes withG (mb p1 [1, 0, 100]) 3 pagesV = true ∧
    takes withG (mb p1 [1, 0, 1000000]) 3 pagesV = true ∧ 0 < (gr.ofKind 3).length := by decide +kernel

theorem wit_graphRunsStart : withG.graph? 1 = some gr ∧ gr.primary = none ∧ (withG.page gr.inst).state = .active ∧
    withG.isTorn gr.ctx = false := by decide +kernel

/-! ### Gateway tables, layers, fault injection, personalities, the manager's definitions -/

/-- A route table of one END entry, and one of four ETH_TO_CAN entries of 65,535 frames a second. -/
def tableOne : List Word := [0x70000000, 0, 0, 0, 0, 0, 32, 0]
def tableOver : List Word :=
  ((List.range 4).flatMap fun _ => [0x40000000, 1, 0, 1, 5, 65535, 0, 0]) ++ [0x70000000, 0, 0, 0, 0, 0, 160, 0]

/-- A key record of usage 1 for a CAN key: KLEN 16, then 24 bytes. -/
def keyRec : List Word := [0x00000110, 0, 0, 0, 0, 0, 0]

set_option maxRecDepth 100000 in
theorem wit_gatewayIsSetUp :
    takes base (mb p1 [0x40000000, 0, 1]) 3 pagesV = true ∧ (base.inst 1).owns 0x40000000 32 = true ∧
    ((base.wrWords 0x40000000 tableOne).rd32 (0x40000000 + 24)).toNat = 32 ∧
    (parseRoutes ((base.wrWords 0x40000000 tableOne).rdWords 0x40000000 8) 1).map (fun t => ratesOver t.entries) = some false ∧
    (parseRoutes ((base.wrWords 0x40000000 tableOver).rdWords 0x40000000 40) 5).map (fun t => ratesOver t.entries) = some true ∧
    (parseRoutes ((base.wrWords 0x40000000 tableOne).rdWords 0x40000000 8) 1).map (fun t => t.entries.any (rtMixes (base.reg aWorldEth) (base.reg aWorldCan))) = some false ∧
    (parseRoutes ((base.wrWords 0x40000000 tableOver).rdWords 0x40000000 40) 5).map (fun t => t.entries.any (rtMixes (base.reg aWorldEth) (base.reg aWorldCan))) = some false ∧
    (base.rd32 (0x40000000 + 24)).toNat < 32 ∧ takes base (mb p1 [71, 0x40000000, 0]) 3 pagesV = true ∧
    (base.inst 1).owns 0x40000000 (4 + ((base.wrWords 0x40000000 keyRec).keyRecord 0x40000000).2.2.2.length) = true ∧
    ((base.wrWords 0x40000000 keyRec).keyRecord 0x40000000).2.2.1 = true ∧ keyFits 71 16 1 = true ∧ keyFits 0 16 0 = true := by
  decide +kernel

/-- Layer 7 of pipe 3 is the partition's. -/
def withLayer : Dev := { base with boot := { layerPt := [(31, 1)] } }

theorem wit_layersAreSetAndFlipped : Tab.look withLayer.boot.layerPt (3 * 8 + 7) = some (withLayer.inst 1).pt ∧
    takes withLayer (mb p1 [63, 0x40000000, 0, 0x00100010, 0, 0]) 6 pagesI = true ∧ dispFmt 0x10 = true ∧
    surfCode 0x10 = 0x10 ∧ 16 % 2 = 0 ∧
    (withLayer.inst 1).owns 0x40000000 ({ inst := 1, addr := 0x40000000, w := 16, h := 16, fmt := 0x10, x := 0, y := 0 } : Layer).bytes = true ∧
    takes withLayer (mb p1 [31, 0x40000000, 0]) 3 pagesI = true ∧ (withLayer.inst 1).owns 0x40000000 (withLayer.layerBytes 3 7) = true := by
  decide +kernel

/-- A device that permits injection, with a program of one entry in INST0's memory. -/
def fiDev (ws : List Word) : Dev := ({ base with pers := .service, regs := [(aDbgStatus, 15)] } : Dev).wrWords 0x80000000 ws
def fiOne : Dev := fiDev [1, 0, 0, 0, 0, 0, 0, 0, 0x90000000]

set_option maxRecDepth 100000 in
theorem wit_faultInjectionIsArmed : fiOne.fiArmed = false ∧ fiOne.fiPermits = true ∧
    takes fiOne (mb .mgr [0x80000000, 0]) 2 pagesM = true ∧ (fiOne.inst 0).owns 0x80000000 64 = true ∧
    fiOne.rd32 0x80000000 = 1 ∧ fiOne.rdWords (0x80000000 + 4) 7 = List.replicate 7 0 ∧
    fiEntryBad (fiOne.rdWords (0x80000000 + 32) 8) = false ∧ takes base (mb .mgr []) 0 pagesM = true ∧ base.fi.held = [] := by
  decide +kernel

/-- A device in PARK whose manager page is ACTIVE. -/
def parked : Dev := { base with pers := .park, reported := true }

theorem wit_personalityAndCap : takes parked (mb .mgr [0]) 1 pagesM = true ∧ parked.trans = none ∧ requestable .park .drive = true ∧
    (∀ x ∈ parked.persChecks .drive, x.1 = false) ∧ requestable .drive .park = true ∧ (∀ x ∈ base.persChecks .park, x.1 = false) ∧
    requestable .lease .park = true ∧ takes base (mb .mgr [120]) 1 pagesM = true ∧ takes base (mb .mgr [280]) 1 pagesM = true ∧
    base.wheels.look 0 = none ∧ base.pers = .drive := by decide +kernel

/-- Room for one more instance: bound to virtual function 2 of port 0. -/
def roomy : Dev :=
  { base with parts := [(1, { worldO := false, kind := .bestEffort, ranges := [(0x40000000, 0x7FFFFFFF)] })],
              boot := { totalVf := [4, 4], bar2 := [5, 0] } }

theorem wit_instancesAreCreated : takes roomy (mb .mgr [1 * 16384 + 2 * 256 + 1, 64, 4096, 65536, 0, 10000, 50]) 7 pagesM = true ∧
    (roomy.part 1).isSome = true ∧ 64 * 2 ^ 20 + 0x1000000 ≤ 2 ^ 30 * 2 ^ (roomy.boot.bar2.getD 0 0) ∧ roomy.trans = none ∧
    roomy.freeInst = some 2 ∧ (∀ c ∈ roomy.bindChecks 1 2 1 none, c.1 = false) ∧
    roomy.promised 1 + 64 * 2 ^ 20 + 0x1000000 ≤ 0x40000000 ∧ ((roomy.part 1).map (·.bytes)) = some 0x40000000 ∧
    roomy.ringsOf 0 = [] := by decide +kernel

/-- A partition definition's range in INST0's memory: 8 MiB at 3 GiB. -/
def withRange : Dev := base.wrWords 0x80000000 [0xC0000000, 0, 0xC07FFFFF, 0]

set_option maxRecDepth 100000 in
theorem wit_managerDefinesPartitions : takes withRange (mb .mgr [3 * 16 + 15, 0x80000000, 0, 1]) 4 pagesM = true ∧
    worldFits .bestEffort false = true ∧ (withRange.inst 0).owns 0x80000000 16 = true ∧
    ((withRange.rangesAt 0x80000000 1).all withRange.rangeOk) = true ∧ withRange.partUsed 15 = false ∧
    withRange.rangesOverlap 15 (withRange.rangesAt 0x80000000 1) = false ∧ withRange.grantsRanges 15 .bestEffort (withRange.rangesAt 0x80000000 1) = false ∧
    (withRange.setMaster 47 15).overcommit [] = false := by
  decide +kernel

theorem wit_managerDefinesTheRest :
    takes base (mb .mgr [31 + 256, 1, 0, 0]) 4 pagesM = true ∧
    (∀ c ∈ base.egChecks 31 { pt := 1, twin := false, engines := 1, spares := 0 }, c.1 = false) ∧
    takes base (mb .mgr [7, 0x80000000, 0]) 3 pagesM = true ∧ (base.inst 0).owns 0x80000000 64 = true ∧
    base.profile ≠ 7 ∧ takes base (mb .mgr [base.profile, 0x80000000, 0]) 3 pagesM = true ∧
    (base.setBudgets 7 (List.replicate 16 0)).overcommit [7] = false ∧ takes base (mb .mgr [256 + 31]) 1 pagesM = true ∧
    base.pairState 31 = 0 ∧ base.untwinnedPair 31 = false ∧ base.pairGroup 31 = none := by decide +kernel

/-- A wheel of one slot in INST0's memory, in DRIVE and in PARK. -/
def withWheel : Dev := base.wrWords 0x80000000 [0x000103E8, 0, 0, 0, 0, 0, 0]
def wheelPark : Dev := { withWheel with pers := .park }

set_option maxRecDepth 100000 in
theorem wit_wheelIsSet : takes withWheel (mb .mgr [1, 0x80000000, 0]) 3 pagesM = true ∧ (withWheel.inst 0).owns 0x80000000 28 = true ∧
    (withWheel.wheelAt 0x80000000).slots.length = 1 ∧
    (withWheel.wheelChecks .park (withWheel.wheelAt 0x80000000)).all (fun x => !x.1) = true ∧
    (wheelPark.wheelChecks .park (wheelPark.wheelAt 0x80000000)).all (fun x => !x.1) = true ∧
    takes wheelPark (mb .mgr [1, 0x80000000, 0]) 3 pagesM = true ∧ wheelPark.pers = .park := by decide +kernel

theorem test_undefinedOpcode : (0xFFFF : Half).toNat ∉ sciOpcodes ∧ base.MbxReady 64 := by
  refine ⟨by decide +kernel, ?_, ?_, ?_, ?_, ?_⟩ <;> decide +kernel

/-! ### Pages, snapshots, time -/

/-- Page 1 with a dirty log's registers. -/
def logPage (l : DirtyLog) : Dev := base.setPage 1 { base.page 1 with dl := l }

def goodLog : DirtyLog := { base0 := 0x40000000, base1 := 0x40010000, len := 64 }

theorem wit_pagesAndDirtyLogs : base.pageLive 1 = true ∧ base.pageLive 64 = true ∧ (1 : Word).bit 0 = true ∧
    ((base.page 1).evWr + 65536 - (0 : Word).fld 15 0) % 65536 ≤ 32 ∧ 32 < ((base.page 1).evWr + 65536 - (1 : Word).fld 15 0) % 65536 ∧
    (base.page 1).state = .active ∧ base.cpaLost = none ∧ (base.page 1).hbWrote = false ∧
    (base.page 1).tOpen + ((base.page 1).hbPeriods + 1) * (base.page 1).hbPeriodMs * 1000000 ≤ 100000000 ∧
    ((base.pageWrite 1 0x200 1).page 1).hbWrote = true ∧
    ((base.setPage 1 { base.page 1 with hbMissed := 2 }).page 1).hbMissed = 2 ∧
    (logPage goodLog).dlOk 1 goodLog = true ∧ base.dlOk 1 {} = false ∧ ((logPage { goodLog with en := true }).page 1).dl.en = true ∧
    ((logPage { goodLog with en := true, swapBusy := true }).page 1).dl.swapBusy = true := by decide +kernel

/-- Page 1 with a snapshot of its instance's group. -/
def snapped : Dev :=
  { base.setPage 1 { base.page 1 with snap := { valid := true, group := 0, time := 0, entries := [(5, false)] } } with
    cnts := [(0x81 * 4096, { val := 7 })] }

theorem wit_snapshotsAndTime : takes base (mb p1 [0]) 1 pagesIM = true ∧ (groupSize 0).isSome = true ∧ mayCapture 1 0 = true ∧
    snapped.pageLive 1 = true ∧ (snapped.page 1).snap.valid = true ∧ (snapped.page 1).snap.entries[0]? = some (5, false) ∧
    0 ∉ (snapped.page 1).snap.cleared ∧ mayClear 1 0 = true ∧ isMax 0 0 = false ∧ (0 : Word).bit 12 = false ∧
    base.pageLive 64 = true := by decide +kernel

/-! ### Commands of queues, the wheel -/

/-- A command of an operation with a parameter block. -/
def cmdOf (op : Word) (ps : List Word := []) (ins outs : List Region := []) : Cmd :=
  { seq := 0, desc := (0x10000000 + op) :: List.replicate 15 0, ins, outs, params := ps.flatMap fun w => leBytes 4 w.toNat,
    stage := .dispatched }

/-- One command in the window of Q0, and the memory of its instance owned. -/
def running (c : Cmd) : Dev :=
  { withQ.setOwn 0x40000000 (mkOwn true false 1 true 1) with
    queues := [(0, { ctx := 0, inst := 1, dbidx := 0, ring := 0x40010000, log2n := 4, compl := 0x40020000, head := 1, tail := 1, window := [c] })] }

/-- The ring of Q0 with one descriptor that names operation 0 (NOP), or the undefined 0xEE. -/
def withDesc (op : Word) : Dev := ({ withQ with queues := withQ.queues.adjust 0 fun x => { x with tail := 1 } } : Dev).wrWords 0x40010000 [0x10000000 + op]

set_option maxRecDepth 100000 in
theorem wit_descriptorsAreTakenAndDone :
    ((withDesc 0).queue? 0).map (fun x => (x.graph, x.head, x.tail)) = some (none, 0, 1) ∧ (withDesc 0).mayTake 0 = true ∧
    (let r := (withDesc 0).copyDesc 0 ((withDesc 0).rdWords 0x40010000 16); (withDesc 0).descValid 0 r.1 r.2) = true ∧
    (withDesc 0xEE).mayTake 0 = true ∧
    (let r := (withDesc 0xEE).copyDesc 0 ((withDesc 0xEE).rdWords 0x40010000 16); (withDesc 0xEE).descValid 0 r.1 r.2) = false := by
  decide +kernel

/-- The acceptance of a run, as a test. -/
def runs (d : Dev) (q : Nat) (c : Cmd) : Bool :=
  !d.linksHeld c && !(d.linksLost c || (d.touched q c false ++ d.touched q c true).any fun r => d.quietAt r.base r.len) && (d.refusedBy q c).isNone &&
  !((d.touched q c false).any fun r => d.poisoned r.base r.len) && !d.bookBeyond c && !d.convBookBeyond c && !d.drawBad c

theorem runs_of_test {d : Dev} {q : Nat} {c : Cmd} (h : runs d q c = true) : d.Runs q c := by
  simp only [runs, Bool.and_eq_true, Bool.not_eq_true', Option.isNone_iff_eq_none] at h
  obtain ⟨⟨⟨⟨⟨⟨h0, h1⟩, h2⟩, h3⟩, h4⟩, h5⟩, h6⟩ := h
  exact ⟨h0, h1, h2, h3, fun _ _ => h4, fun _ => h5, fun _ => h6⟩

/-- COPY of two rows of 64 bytes. -/
def copyTwo : Cmd := cmdOf 0x0501 [0, 2, 64, 128, 64] [⟨0x40000000, 256⟩] [⟨0x40001000, 128⟩]

/-- A command of any operation whose regions and dimensions are empty; the sort unit of die 0 for TOPK and NMS. -/
def emptyCmd (op : Nat) : Cmd := { cmdOf (BitVec.ofNat 32 op) with sortDie := some 0 }

/-- RENDER with no draw. -/
def drawNone : Cmd := { cmdOf 1 with desc := 0x20000001 :: List.replicate 15 0 }

set_option maxRecDepth 100000 in
theorem wit_classCommandsRun : ((running copyTwo).cmd? 0 0) = some copyTwo ∧ copyTwo.op = 0x0501 ∧ copyTwo.suspended = none ∧
    runs (running copyTwo) 0 copyTwo = true ∧
    ((classRows.map (·.1)).all fun op => decide ((emptyCmd (op % 65536)).stage = .dispatched) && runs (running (emptyCmd (op % 65536))) 0 (emptyCmd (op % 65536))) = true ∧
    (((classRows.map (·.1)).filter (· < 65536)).all fun op => decide ((emptyCmd op).op = op)) = true ∧
    drawNone.op = 0x10001 ∧ runs (running drawNone).partialRenders 0 drawNone = true := by decide +kernel

/-- Stack 0 in reset; memory that is not the partition's; a poisoned line of the input. -/
def quietStack : Dev := { running copyTwo with regs := [(aRstDomStatus 3, 1)] }
def notOwned : Dev := { running copyTwo with own := [] }
def poisonedIn : Dev := { running copyTwo with poison := [0x40000000] }

set_option maxRecDepth 100000 in
theorem wit_stoppedRunsFault :
    quietStack.linksHeld copyTwo = false ∧ ((quietStack.touched 0 copyTwo false).any fun r => quietStack.quietAt r.base r.len) = true ∧
    notOwned.refusedBy 0 copyTwo = some 0x40000000 ∧ poisonedIn.refusedBy 0 copyTwo = none ∧
    ((poisonedIn.touched 0 copyTwo false).any fun r => poisonedIn.poisoned r.base r.len) = true ∧
    ((poisonedIn.touched 0 copyTwo true).any fun r => poisonedIn.quietAt r.base r.len) = false := by decide +kernel

theorem wit_teardown : ((running copyTwo).ctx? 0).map (·.torn) = some false ∧ ((running copyTwo).queues.map (·.1)).Nodup := by decide +kernel

set_option maxRecDepth 100000 in
theorem wit_copyMovesRows : (running copyTwo).loggers = [] ∧ (copyTwo.p 1).fld 19 0 = 2 ∧ (copyTwo.p 2).fld 23 0 = 64 ∧
    (copyTwo.p 3).toNat = 128 ∧ (copyTwo.p 4).toNat = 64 ∧ ((running copyTwo).phys (0x40001000 + 64 + 63)).isSome = true := by decide +kernel

theorem wit_formatsRoundTrip : fp16.decode 0x3C00 ≠ .nan ∧ 0x3C00 < 2 ^ (fp16.sbit + 1) ∧ fp16.decode 0x7E01 = .nan ∧
    e2m1.decode 7 ≠ .nan ∧ e5m2.decode 0xFC ≠ .nan := by decide +kernel

/-- A command that has finished. -/
def finished (op : Word) : Cmd := { cmdOf op with stage := .finished, finT := 9000, dispT := 2000, agreed := true }

set_option maxRecDepth 100000 in
theorem wit_commandsPress : ((running (finished 0x0501)).cmd? 0 0) = some (finished 0x0501) ∧
    (running (finished 0x0501)).isFirst 0 0 = true ∧ (finished 0x0501).step3 = none ∧ (finished 0).step3 = none ∧ (finished 0).op = 0 ∧
    (finished 0x0501).agreed = true ∧ (running (finished 0x0501)).linesUp 0x40020000 32 = true ∧ (finished 0x0501).fitHeld = [] ∧ (finished 0x0501).signal = false ∧ (running (finished 0x0501)).loggers = [] ∧
    ((List.range 32).all fun i => ((running (finished 0x0501)).phys (0x40020000 + 0 % 2 ^ 4 * 32 + i)).isSome) = true := by decide +kernel

/-- A chain of two layers whose flag of row 0 reads 0; a KV_APPEND that is taken. -/
def chain : Cmd := { cmdOf 0x0201 [1, 0x00010001] with engines := [0, 1] }
def flagOne : Dev := (running chain).wrWords 0 [1]
def taken : Cmd := { cmdOf 0x0301 with stage := .taken }

set_option maxRecDepth 100000 in
theorem wit_runningCommandsWaitOrOverrun : ((running copyTwo).advance 4000000).ctx? 0 = some { gen := 0, inst := 1, eg := 0, prio := 3, cmdlen := 1000, parked := false } ∧
    copyTwo.stage ≠ .taken ∧ copyTwo.dispT + 4000 * 1000 ≤ ((running copyTwo).advance 4000000).now ∧
    (running chain).haloFlag chain false 0 0 = 0 ∧ chain.op = 0x0201 ∧ (running chain).twinnedQ 0 = false ∧ flagOne.twinnedQ 0 = false ∧
    chain.haloRow ((running chain).ranksOf 0 chain.engines).1 0 0 0 = true ∧
    chain.haloRow (flagOne.ranksOf 0 chain.engines).1 0 0 0 = true ∧ flagOne.haloFlag chain false 0 0 ≠ 0 ∧
    taken.op = 0x0301 ∧ ((running taken).cmd? 0 0) = some taken := by decide +kernel

/-- A wheel of two slots in both banks, running, its swap wanted or not, at slot 0. -/
def wheelRegs (ctrl status : Word) : Tab Word :=
  [(aWhlCtrl, ctrl), (aWhlStatus, status)] ++
  ((List.range 2).flatMap fun b => [(aWhlPeriod b, 0x000203E8), (aWhlSlot b 0 0, 0), (aWhlSlot b 1 0, 500)])
def wheelDev (ctrl status : Word) : Dev := { base with regs := (wheelRegs ctrl status).foldl (fun t p => t.put p.1 p.2) [] }

def badBank : Dev := { base with regs := [(aWhlPeriod 1, 0)] }

def refGraph : Graph := { gr with ref := some ⟨0, [], 5, 6⟩ }
def refDev : Dev := { withG with graphs := [(1, refGraph)], refRuns := [(3, 1)], pairs := [(3, { closed := [0], sigs := [(7, 8)] })] }

set_option maxRecDepth 100000 in
theorem wit_theWheelTurns : (wheelDev 1 0).bankOk (1 - (wheelDev 1 0).whlBank) = true ∧ (wheelDev 1 0).getB aWhlCtrl 1 = false ∧
    badBank.bankOk (1 - badBank.whlBank) = false ∧ badBank.getB aWhlCtrl 1 = false ∧ (wheelDev 1 0).whlEn = true ∧ ((wheelDev 1 0).advance 5000000).slotNow = 1 ∧
    (wheelDev 1 0).whlSlot = 0 ∧ (wheelDev 1 0).slotNow = 0 ∧ ((wheelDev 3 2).advance 10000000).getB aWhlStatus 1 = true ∧
    ((wheelDev 3 2).advance 10000000).newBoundary = true ∧
    ((wheelDev 3 2).advance 10000000).swapAt ≤ ((wheelDev 3 2).advance 10000000).now ∧
    ((wheelDev 1 0).advance 10000000).getB aWhlStatus 1 = false ∧
    (((wheelDev 1 0).advance 10000000).now - ((wheelDev 1 0).advance 10000000).epoch) % ((wheelDev 1 0).advance 10000000).whlNs 0 = 0 ∧
    refDev.graph? 1 = some refGraph ∧ refDev.refOf 3 = some 1 ∧ 0 ∈ (refDev.pairSt 3).closed ∧
    sigB ((refDev.pairSt 3).sigs.map (·.2)) = 8 ∧ sigA ((refDev.pairSt 3).sigs.map (·.1)) ≠ 5 ∧
    sigB ((refDev.pairSt 3).sigs.map (·.2)) ^^^ 14 = 6 := by decide +kernel

/-! ### Engines, cores, pools, twins, watchdogs -/

/-- Engine 5 and the sort unit of die 2 run commands; engine 9 has TEST set; a unit's sweep of 20 ms is over. -/
def working : Dev := running { copyTwo with engines := [5, 6], sortDie := some 2 }
def testable : Dev := { base with regs := [(aGxCtrl 9, 2)] }
def sweeping : Dev := { base with regs := [(aGxStatus 9, 0x70), (aGxKat 9, 0x30000)], tests := [(9, { subject := true, next := 3 }), (65, { subject := true, retry := true })] }

theorem wit_enginesAreTested : (working.cmdOnEngine 5).map (fun p => (p.1, p.2.stage)) = some (0, .dispatched) ∧
    (working.allCmds.find? fun p => decide (p.2.sortDie = some 2)).map (fun p => (p.1, p.2.stage)) = some (0, .dispatched) ∧
    testable.chunkUnits 9 = [9] ∧ testable.gxBusy 9 = false ∧ testable.getB (aGxCtrl 9) 1 = true ∧ (testable.testSt 9).subject = false ∧
    sweeping.chunkRuns 9 = true ∧ sweeping.chunkNo 9 = (sweeping.testSt 9).next ∧ sweeping.chunkRuns (unitOf (.sort 1)) = true ∧
    sweeping.chunkNo 65 = (sweeping.testSt 65).next ∧
    (sweeping.testSt 9).disabled = false ∧ (sweeping.testSt 9).next + 1 < chunksOf 9 ∧ (sweeping.testSt 9).retry = false ∧
    (sweeping.testSt 65).retry = true ∧ (sweeping.advance 20000000).testing = true ∧
    ((sweeping.advance 20000000).testSt 9).subject = true ∧ ((sweeping.advance 20000000).testSt 9).withdrawn = false ∧
    ((sweeping.advance 20000000).testSt 9).lastEnd + 20000000 ≤ (sweeping.advance 20000000).now := by decide +kernel

/-- Vector core 20 runs with vl 16 at SEW 32 under the command of engine 5, x5 holding a segment length, a flag's address in x6. -/
def vecCore (l : Dword) : VCore := { pc := 0x1000, vtype := 0x10, vl := 16, x := [(5, l), (6, 0x4000000000)] }
def vecDev (l : Dword) : Dev :=
  { running { copyTwo with engines := [5], outs := [⟨0x4000000000, 64⟩] } with vcs := [(20, vecCore l)], regs := [(aVcStatus 20, 0x10)] }

theorem wit_vectorInstructionsRetire : (vecDev 4).coreRuns 20 = true ∧ ((vecDev 4).core 20).vecOk = true ∧
    (((vecDev 4).core 20).xr 5).toNat = 4 ∧ ((vecDev 4).core 20).segOk 8 9 4 = true ∧ ((vecDev 4).core 20).bflyOk 8 9 4 = true ∧
    (((vecDev 0x100).core 20).xr 5).toNat % 256 = 0 ∧ (((vecDev 0x100).core 20).xr 5).toNat < 0x10000 ∧
    ({ vecCore 4 with vstart := 1 } : VCore).vecOk = false := by decide +kernel

theorem wit_vectorResults : (vecCore 4).lmul8 = 8 ∧ (vecCore 4).vl ≤ 16 ∧ isPow2 4 = true ∧ (vecCore 4).vl % 4 = 0 ∧ 3 < (vecCore 4).vl / 4 ∧
    (vecCore 4).vl % (2 * 8) = 0 ∧ isPow2 8 = true := by decide +kernel

/-- The same core waits for its flag. -/
def vecWaits : Dev := { vecDev 4 with vcs := [(20, { vecCore 4 with wait := some (7, 0x4000000000, 0) })], regs := [(aVcStatus 20, 0x20)] }

theorem wit_coresWaitTrapAndReset : (vecDev 4).flagOk 20 0x4000000000 = true ∧ (((vecDev 4).core 20).xr 6).toNat = 0x4000000000 ∧
    msOk ((vecDev 4).rd32 0x4000000000) 0 = true ∧ msOk ((vecDev 4).rd32 0x4000000000) 1 = false ∧
    (vecWaits.core 20).wait = some (7, 0x4000000000, 0) ∧ msOk (vecWaits.rd32 0x4000000000) 0 = true ∧
    ({ vecDev 4 with queues := [] } : Dev).getF (aVcStatus 20) 7 4 = 1 ∧ ({ vecDev 4 with queues := [] } : Dev).cmdOnEngine 5 = none ∧
    ((vecDev 4).cmdOnCore 20).isSome = true ∧ base.vcBusy 20 = false := by decide +kernel

theorem wit_kvPoolsAreKept : base.poolValid 1 3 = false ∧ ({ base with regs := [(aKvPoolCount 1 3, 6)] } : Dev).poolCount 1 3 = 6 := by
  decide +kernel

/-- Pair 3 in a state; a record that agrees, and one in which the trailing copy has changed bits 0 and 2 of doubleword 1. -/
def pairIn (st : Word) : Dev := { base with regs := [(aTwinPstatus 3, st)] }
def agree : TwinRecord := ⟨0, [], [], .corrected, true, true, true, false⟩
def differ : TwinRecord := ⟨0, [], [(1, 5)], .good, true, true, true, false⟩

/-- A class 0x01 command has run on pair 3 and closed two records; a kill has ended one. -/
def twinCmd : Cmd := { cmdOf 0x0101 with engines := [6, 7], stage := .finished }
def twinRuns : Dev := { running twinCmd with regs := [(aTwinPstatus 3, 2)], pairs := [(3, { stream := [[5, 9], [7]], records := [(0, 1)] })] }
def twinEnded : Dev := { pairIn 3 with pairs := [(3, { stream := [[5, 9]], ended := some (0, twinCmd, 1) })] }

set_option maxRecDepth 100000 in
theorem wit_pairsAreJudged : twinRuns.pairRun 3 = some (.cmd 0 twinCmd) ∧ (twinRuns.pairSt 3).passed 0 = 1 ∧
    twinRuns.recordOf 3 1 agree (.cmd 0 twinCmd) = some ([7], true) ∧ twinRuns.recordOf 3 0 differ (.cmd 0 twinCmd) = some ([5, 9], false) ∧
    recVerdict agree [7] [7] = .pass ∧ (recVerdict differ [5, 9] (deviate differ.trail [5, 9])).finding = some findMismatch ∧
    twinEnded.pairState 3 = 3 ∧ twinEnded.pairRun 3 = some (.ended 0 twinCmd 1) ∧
    twinEnded.recordOf 3 0 differ (.ended 0 twinCmd 1) = some ([5, 9], true) ∧ (pairIn 2).pairRun 3 = none ∧
    twinRuns.cmdsOn 3 ≠ [] ∧ bitOf (pairIn 1).checkMask 3 = false ∧ (pairIn 1).suspendedPair 3 = false ∧
    (pairIn 1).pairState 3 = 1 ∧ selfOk ⟨true, true, true⟩ = true ∧ selfOk ⟨true, false, true⟩ = false ∧ (pairIn 3).pairState 3 = 3 ∧
    recVerdict agree (deviate [] ((pairIn 3).finalDwords 6)) (deviate [] ((pairIn 3).finalDwords 7)) = .pass ∧
    recVerdict differ (deviate [] ((pairIn 3).finalDwords 6)) (deviate [(1, 5)] ((pairIn 3).finalDwords 7)) ≠ .pass ∧
    (pairIn 2).cmdsOn 3 = [] ∧ (pairIn 4).pairState 3 = 4 ∧
    (({ pairIn 4 with pairs := [(3, { sweepOk := true })] } : Dev).pairSt 3).sweepOk = true ∧
    (({ pairIn 4 with pairs := [(3, { sweepOk := true })] } : Dev).pairSt 3).stuck = false ∧
    ({ pairIn 4 with pers := .service } : Dev).pairState 3 = 4 := by decide +kernel

theorem wit_findingsQuarantine : findMismatch ∈ [findMismatch, findDisagree, findDbUe, findSelftest, findLag] ∧ base.cpbLost = none ∧
    ({ base with regs := [(aTwinHstatus 11, 2)] } : Dev).getF (aTwinHstatus 11) 2 0 = 2 ∧ sigB [5, 9] ≠ sigB [9, 5] ∧
    (⟨0, [], [], .good, true, false, true, false⟩ : TwinRecord).cmpAOk = true ∧ (⟨0, [], [], .good, true, false, true, false⟩ : TwinRecord).cmpBOk = false ∧ (∀ w ∈ List.replicate 65 (List.replicate 10 (1 : Dword)), w.length = 10) ∧
    (closeRecords (List.replicate 65 (List.replicate 10 1)) [7]).length = 2 := by decide +kernel

theorem wit_watchdogsAndReports : base.kickA + (base.advance 1000000000).wdtNs ≤ (base.advance 1000000000).now ∧
    base.dbgHalt.look 24 = none ∧ base.cpaLost = none ∧ base.cpbLost = none ∧ cpbCode 17 = true ∧ repClass 17 = .pulse ∧
    cpbCode 12 = true ∧ repClass 12 = .heldC ∧ (0x10C : Word).bit 8 = true ∧ (0x10C : Word).fld 7 0 = 12 ∧
    ({ base with warnEnd := some 5 } : Dev).warnEnd = some 5 ∧ 5 ≤ (base.advance 6).now := by decide +kernel

/-! ### Links, bandwidth, DMA, graphics, display, cameras -/

/-- Links 5 and 7 and the interfaces of stacks 0 and 1 train, 7 and 1 after two failures; link 3 and stack 3 have failed 8 repeats; link 6
is DOWN. -/
def links1 : Dev :=
  { base with
    links := [(3, { replays := 8, lastErr := 100 }), (5, { training := true }), (6, { down := true }),
      (7, { training := true, fails := [90, 80] })]
    stackIfs := [(0, { training := true }), (1, { training := true, fails := [90, 80] }), (3, { replays := 8, lastErr := 100 })] }

theorem wit_linksAndLines : (links1.link 4).down = false ∧ (links1.link 4).training = false ∧
    (links1.link 4).replay 110 40 = some { replays := 1, lastErr := 110 } ∧ (links1.link 3).replay 110 40 = none ∧
    (links1.stackIf 2).training = false ∧ links1.stackUp 2 = true ∧
    (links1.stackIf 2).replay 110 60 = some { replays := 1, lastErr := 110 } ∧ (links1.stackIf 3).replay 110 60 = none ∧
    (links1.link 5).training = true ∧ ((links1.link 5).failed 110).length < 3 ∧
    3 ≤ ((links1.link 7).failed 110).length ∧ (links1.link 6).down = true ∧ links1.pers ≠ .service ∧
    ({ links1 with pers := .service } : Dev).pers = .service ∧ 1 ∉ links1.dieOff ∧
    (links1.stackIf 0).training = true ∧ links1.stackUp 0 = true ∧ ((links1.stackIf 0).failed 110).length < 3 ∧
    (links1.stackIf 1).training = true ∧ links1.stackUp 1 = true ∧ 3 ≤ ((links1.stackIf 1).failed 110).length ∧
    links1.pers ≠ .sleep := by decide +kernel

theorem wit_theCut : 60 + 20 ≤ 90 ∧ cutOf 60 20 20 0 10 90 = { lease := 0, best := 65536, cock := 32768, excess := 0 } ∧
    60 + 20 + 5 + 2 + 3 ≤ 90 ∧ (cutOf 60 20 5 2 3 90).lease = 65536 := by decide +kernel

/-- Master 3 is budgeted, the thermal figure is lower than the one in force, and granule 1 holds a valid entry. -/
def regulated : Dev :=
  { base with regs := [(aBwrMcfg 3, 0x80000000), (aPwrTherm, 2000)], own := [(512, mkOwn true false 1 true 1)] }

theorem wit_bandwidthIsRegulated : 3 ∈ masters ∧ regulated.budgeted 3 = true ∧ regulated.fig ≠ min (regulated.getF aPwrTherm 12 0) regulated.linkFig ∧
    regulated.granuleOwned 1 = true ∧ regulated.granuleOwned 33 = false ∧ (33 : Nat) ≠ 0 ∧ 1 < 36 := by decide +kernel

/-- Channel 3 is enabled; it may hold a descriptor that copies 128 bytes. -/
def dmaDesc : DmaCh := { words := [0x40000000, 128 * 256, 0x40001000, 0x40000000 + 0xFF00, 0, 0, 0, 0x80000000] }
def dmaChain : DmaCh := { dmaDesc with words := dmaDesc.words.set 3 0xC000FF00 }
def dmaLine : DmaCh := { dmaDesc with words := dmaDesc.words.set 3 (0x40000000 + 0x0700) }
def dmaDev (state : Word) (c : Option DmaCh) : Dev :=
  { base.setOwn 0x40000000 (mkOwn true false 1 true 1) with
    regs := [(aDmaCtrl 3, 1), (aDmaCfg 3, 0x00010101), (aDmaStatus 3, state)], dmaCh := (c.map fun c => (3, c)).toList }

theorem wit_dmaMoves : (dmaDev 0 none).dmaEn 3 = true ∧ (dmaDev 0 none).dmaState 3 = 0 ∧ (dmaDev 0 none).dmaUser 7 = none ∧
    (dmaDev 0 none).getF (aDmaReq 7) 7 0 < 255 ∧ ({ dmaDev 0 none with regs := [(aDmaReq 7, 255)] } : Dev).getF (aDmaReq 7) 7 0 = 255 ∧
    (dmaDev 0x30 (some dmaDesc)).dmaPick 0 = some 3 ∧ (dmaDev 0x30 (some dmaDesc)).dmaCh.look 3 = some dmaDesc ∧
    (dmaDev 0x40 (some dmaDesc)).dmaState 3 = 4 ∧ dmaDesc.chain = false ∧ dmaDesc.irq = true ∧
    (dmaDev 0x40 (some dmaDesc)).mustWaitFrom (dmaSrc 3) ((dmaDev 0x40 (some dmaDesc)).dmaCur 3) 32 true = false ∧ dmaChain.chain = true ∧
    (dmaDev 0x40 (some dmaChain)).dmaCh.look 3 = some dmaChain ∧ (dmaDev 0x30 (some dmaLine)).dmaUser 7 = some 3 ∧
    (dmaDev 0x40 (some dmaDesc)).getB (aDmaCfg 3) 0 = true := by decide +kernel

theorem wit_burstsCopy : (dmaDev 0x30 (some dmaDesc)).loggers = [] ∧ dmaDesc.req = 0xFF ∧ dmaDesc.fromLine = false ∧ dmaDesc.toLine = false ∧
    dmaDesc.burst = 64 ∧ (dmaDev 0x30 (some dmaDesc)).dmaBad 3 dmaDesc.srcAt 64 = none ∧
    (dmaDev 0x30 (some dmaDesc)).dmaBad 3 dmaDesc.dstAt 64 = none ∧ (dmaDev 0x30 (some dmaDesc)).poisoned dmaDesc.srcAt 64 = false ∧
    (dmaDev 0x30 (some dmaDesc)).quietAt dmaDesc.srcAt 64 = false ∧ (dmaDev 0x30 (some dmaDesc)).quietAt dmaDesc.dstAt 64 = false ∧
    (dmaDev 0x30 (some dmaDesc)).pathLost (dmaSrc 3) dmaDesc.srcAt 64 = false ∧
    (dmaDev 0x30 (some dmaDesc)).pathLost (dmaSrc 3) dmaDesc.dstAt 64 = false ∧
    ((dmaDev 0x30 (some dmaDesc)).phys (dmaDesc.dstAt + 63)).isSome = true := by decide +kernel

/-- A compositor job runs for pipe 2: its partition is of kind DISPLAY, and the pipe's frame is 1,000 × 1,000 at 100 MHz. -/
def jobCmd : Cmd :=
  { cmdOf 1 [0, 0, 0, 0, 0, 0, 5] with desc := 0x20000001 :: List.replicate 15 0, takenT := 100 }
def gfxDev (status : Word) : Dev :=
  { running jobCmd with
    parts := [(1, { worldO := false, kind := .display, ranges := [(0x40000000, 0x4FFFFFFF)] })],
    regs := [(aGfxStatus, status), (aDispHtim 2, 0x03E80000), (aDispVtim 2, 0x03E80000), (aClkStatus 12, 100000), (aDispCtrl 2, 0x0401)],
    pipes := [(2, { lastLatch := some 50 })] }

theorem wit_graphicsUnitEvents : (gfxDev 4).gfxRunning = some (0, jobCmd) ∧ (gfxDev 4).getF aGfxStatus 2 0 = 4 ∧
    (0, jobCmd) ∈ (gfxDev 4).allCmds ∧ (gfxDev 4).isComp 0 jobCmd = true ∧ jobCmd.render.pipe = 2 ∧
    (((gfxDev 4).pipes.lookD 2 {}).lastLatch).getD 0 ≤ jobCmd.takenT ∧ (gfxDev 4).deadline jobCmd = 10000050 ∧
    (gfxDev 4).deadline jobCmd ≤ ((gfxDev 4).advance 9800000).now + (gfxDev 4).getF (aDispCtrl 2) 23 8 * 100000 := by decide +kernel

/-- Pipe 1 scans out; a layer is pending. Port 4 has a stream of 8-bit samples, two rows of four. -/
def showing : Dev :=
  { base.setOwn 0x40000000 (mkOwn true false 1 true 1) with
    regs := [(aDispCtrl 1, 1)], pipes := [(1, { pend := [(0, some ⟨1, 0x40000000, 16, 16, 0x10, 0, 0⟩)] })],
    boot := { camPorts := [4], cams := [(18, ⟨0x2A, 4, 2⟩)] } }

/-- The same with a compositor job that has not pressed. -/
def showMissed : Dev := { gfxDev 1 with regs := [(aDispCtrl 2, 1)] }

theorem wit_pipesLatchAndCamerasStore : showing.getB (aDispCtrl 1) 0 = true ∧ showing.missed 1 = false ∧
    ((showing.pipes.lookD 1 {}).next.all fun l => showing.layerOk l.2) = true ∧ (showing.pipes.lookD 1 {}).next ≠ [] ∧
    showMissed.getB (aDispCtrl 2) 0 = true ∧ showMissed.missed 2 = true ∧ (showMissed.pipes.lookD 2 {}).cur = [] ∧
    4 ∈ showing.boot.camPorts ∧ Tab.look showing.boot.cams (4 * 4 + 2) = some ⟨0x2A, 4, 2⟩ ∧ camType 0x2A = some (1, 8) ∧
    showing.dmaUser 18 = none ∧ (showing.cams.lookD 18 {}).error = false ∧ showing.portBuf 4 + (alignUp (2 * (4 * 1)) 64 + 64) ≤ 65536 := by decide +kernel

/-! ### The gateway -/

/-- The switch forwards, and ports 3 and 15 and CAN controllers 2 and 4 run. -/
def gwRegs : Tab Word := [(aSwCtrl, 1), (aSwPortCtrl 3, 1), (aSwPortCtrl 15, 1), (aSwPortCtrl 20, 1), (aCanCtrl 2, 1), (aCanStatus 2, 7), (aCanCtrl 4, 1), (aCanStatus 4, 250)]

def canF : CanFrame := { id := 5, ext := false, fd := false, xl := false, data := [1, 2] }
def ethF : EthFrame := { bytes := List.replicate 60 0xAA, vid := 1, prio := 2 }

/-- A CONTAINER entry for container 9 with a PDU since time 0, and an authenticated CAN_TO_CAN entry from channel 6. -/
def tableBox : RouteTable := { entries := [[0x50000000, 9, 0, 1, 0, 0, 10, 0], [0x28000026, 0, 0, 2, 0, 0, 0, 0]] }

def gwDev : Dev :=
  { base with
    regs := gwRegs, keys := [(56, List.replicate 16 0)],
    gw := { table := tableBox, boxes := [(9, { pdus := [⟨1, [2], false, 1, 0⟩] })], canTx := [(9, [canF]), (18, [canF])],
            egress := [(3 * 8 + 2, [ethF]), (15 * 8 + 2, [ethF]), (20 * 8 + 2, [ethF])] },
    insts := base.insts.put 1 { base.inst 1 with bindKind := 0, bindIdx := 1 } }

theorem wit_framesPassTheGateway : gwDev.fiArmed = false ∧ gwDev.fi.held = [] ∧ gwDev.swRuns 3 = true ∧ 64 ≤ ethF.bytes.length + 4 ∧
    gwDev.getB (aCanCtrl 2) 0 = true ∧ gwDev.portOn (gwDev.canCfg 2).parkOn = true ∧ gwDev.getF (aCanStatus 2) 17 16 ≠ 3 ∧
    gwDev.gw.canRx.lookD 2 [] = [] ∧ gwDev.canNext 2 = some (1, canF) ∧ gwDev.getF (aCanStatus 2) 7 0 < 120 ∧
    gwDev.canNext 4 = some (2, canF) ∧ 247 < gwDev.getF (aCanStatus 4) 7 0 ∧ gwDev.getF (aCanStatus 4) 17 16 ≠ 3 ∧
    gwDev.egressPick 3 = some (2, ethF) ∧ (gwDev.gw.macsec.lookD 3 {}).valid = [] ∧ (gwDev.ethCfg 3).unprotected = true ∧
    (({ gwDev with boot := { eth := [(3, { unprotected := false })] } } : Dev).ethCfg 3).unprotected = false ∧
    gwDev.ethRoute 3 (beNat (ethF.bytes.take 6)) (gwDev.ethCfg 3).vid = none ∧
    gwDev.swRuns 20 = true ∧ gwDev.egressPick 20 = some (2, ethF) ∧ gwDev.swRuns 15 = true ∧
    gwDev.egressPick 15 = some (2, ethF) ∧ isTs 15 = true ∧ gwDev.gw.tries.lookD 15 0 < 15 ∧
    15 ≤ ({ gwDev with gw := { gwDev.gw with tries := [(15, 15)] } } : Dev).gw.tries.lookD 15 0 := by decide +kernel

theorem wit_framesPassTheGateway2 : (gwDev.gw.table.entries[0]?).map rtKind = some 5 ∧ gwDev.cpaLost = none ∧
    (gwDev.gw.boxes.lookD 9 {}).pdus ≠ [] ∧ (gwDev.gw.boxes.lookD 9 {}).since + 10 * 1000 ≤ (gwDev.advance 10000).now ∧
    gwDev.gw.noTrip = false ∧ (gwDev.keys.look 56).isSome = true ∧ gwDev.authChannels = [6] ∧ (gwDev.page 1).state ≠ .free ∧
    (gwDev.inst 1).bindKind = 0 ∧ ({ gwDev with cpaLost := some 0 } : Dev).cpaLost ≠ none := by decide +kernel

/-- Port 15 follows PLCA beacons, port 16 has lost them and has dropped more than its limit; port 3 follows a grandmaster;
channel 2 is in bus-off with AUTO_REC; lists wait; a history exists; a bridge error is recorded or not. -/
def evDev (pb : Word) : Dev :=
  { base with
    regs := [(aSwPortStatus 15, 0x200), (aSwPortStatus 16, 0x300), (aCanCtrl 2, 5), (aCanStatus 2, 0x300FF), (aSwPbErr, pb)],
    boot := { eth := [(3, { gptp := 2 })] },
    gw := { drops := [(16, 5)], gates := [(3, { pending := some ⟨1, 0, 10, 0, []⟩, at_ := 4 })],
            sgates := [(200, { pending := some ⟨1, 0, 10, 0, []⟩, at_ := 4 })], cb := [(100, { takeAny := false, seen := [0, 1] })] } }

theorem wit_gatewayEventsAreKept : isTs 15 = true ∧ (evDev 0).getF (aSwPortStatus 15) 9 8 = 2 ∧ (evDev 0).getF (aSwPortStatus 16) 9 8 = 3 ∧
    ((evDev 0).ethCfg 16).dropLimit < (evDev 0).gw.drops.lookD 16 0 ∧ (evDev 0).gw.drops.lookD 15 0 ≤ ((evDev 0).ethCfg 15).dropLimit ∧
    (evDev 0).cpaLost = none ∧ (evDev 0).follower 3 = true ∧ (evDev 0).getF (aCanStatus 2) 17 16 = 3 ∧
    (evDev 0).getB (aCanCtrl 2) 2 = true ∧ ((evDev 0).gw.gates.look 3).map (·.pending) = some (some ⟨1, 0, 10, 0, []⟩) ∧
    (4 : Int) ≤ ((evDev 0).advance 5).gptpNow ∧ ((evDev 0).gw.sgates.look 200).map (·.at_) = some 4 ∧
    ((evDev 0).gw.cb.look 100).isSome = true ∧ isSwReg aSwPbErr = true ∧ (evDev 0).getB aSwPbErr 0 = false ∧
    (evDev 1).getB aSwPbErr 0 = true := by decide +kernel

/-! ### Hosts, power, clocks, resets, debug -/

/-- Port 0 answers and is the manager's; its virtual functions 3 and 4 have instances 1 and 2, and 2 has an FLR in progress. -/
def pcieDev : Dev :=
  { base with
    regs := [(aPcieCtrl 0, 3), (aPcieVfcfg 0, 8), (aPcieVfmap 0 3, 0x41), (aPcieVfmap 0 4, 0x42)],
    pages := base.pages.put 2 { state := .squashing },
    insts := base.insts.put 2 { pt := 1, bindKind := 1, bindIdx := 4, flr := true } }

theorem wit_hostPorts : pcieDev.pcieOn 0 = true ∧ pcieDev.waiting = [] ∧ pcieDev.getB (aPcieCtrl 0) 1 = true ∧
    3 ≤ pcieDev.getF (aPcieVfcfg 0) 6 0 ∧ pcieDev.vfInst 0 3 = some 1 ∧ (pcieDev.inst 1).flr = false ∧ 0xFFF0 + 16 ≤ 65536 ∧
    0x40000000 ≤ pcieDev.bar2Size 0 ∧ pcieDev.vfInst 0 4 = some 2 ∧ (pcieDev.inst 2).flr = true ∧ (pcieDev.page 1).state = .active ∧
    (pcieDev.page 2).state = .squashing ∧ pcieDev.getB (aPcieCtrl 0) 0 = true ∧ pcieDev.getF (aRstDomStatus 17) 2 0 ≠ 2 ∧
    ({ pcieDev with regs := [(aRstDomStatus 17, 2)] } : Dev).getF (aRstDomStatus 17) 2 0 = 2 := by decide +kernel

/-- Instance 1 drains, is to end its grace, has been squashed, is to be destroyed. -/
def inst1 (st : InstState) (f : Inst → Inst) : Dev :=
  { inState st with insts := base.insts.put 1 (f (base.inst 1)), done := [{ page := 1, tag := 7, opcode := 0x0104, arg := 1, ready := false }] }

set_option maxRecDepth 100000 in
theorem wit_resetsComplete :
    ((inst1 .draining fun i => { i with drainT := some 100 }).page 1).state = .draining ∧ 100 + 2000000 ≤ (base.advance 2000100).now ∧
    (base.advance 2000099).now < 100 + 2000000 ∧ ((inst1 .active fun i => { i with graceEnd := some 9 }).inst 1).graceEnd = some 9 ∧
    (inst1 .active fun i => { i with graceEnd := some 9 }).trans = none ∧ (inst1 .squashing id).quietInst 1 = true ∧
    ((inst1 .squashing id).inst 1).destroy = false ∧ (inst1 .resetDone fun i => { i with destroy := true }).quietInst 1 = true ∧
    ((inst1 .resetDone fun i => { i with destroy := true }).page 1).state = .resetDone ∧ 0x0104 ∈ resetOps := by decide +kernel

/-- Two of an engine's sites throttled, the limiter in action, a LEASE group of engines 4 and 5 at full duty. -/
def hot : Dev := { base with regs := [(aPwrStatus, 4), (aGxDuty 2, 0xF0D)], therm := [(2, 2)] }
def leased : Dev :=
  { base with parts := [(3, { worldO := true, kind := .lease, ranges := [(0x40000000, 0x4FFFFFFF)] })],
              egs := [(6, { pt := 3, twin := false, engines := 0x30, spares := 0 })] }

theorem wit_powerAndHeatAreHeld : hot.therm.lookD 2 0 = 2 ∧ (2 : Nat) < 15 ∧ base.therm.lookD 2 0 = 0 ∧
    1050 < siteReading (some 990) (some 1051) ∧ sensorsDiffer (some 990) (some 1051) = true ∧ siteReading (some 1019) none < 1020 ∧
    1020 ≤ siteReading none none ∧
    (base.getF aPwrTherm 12 0 + 16 ≤ base.thermalFig [900, 900, 900, 900] ∨ base.thermalFig [900, 900, 900, 900] + 16 ≤ base.getF aPwrTherm 12 0) ∧
    base.getF aPwrTherm 12 0 < base.thermalFig [400, 400, 400, 400] + 16 ∧ base.thermalFig [400, 400, 400, 400] < base.getF aPwrTherm 12 0 + 16 ∧
    hot.getB aPwrStatus 2 = true ∧ base.cpaLost = none ∧ 90 * base.getF aPwrCtrl 8 0 ≤ 100 * (base.getF aPwrCtrl 8 0 * 95 / 100) ∧
    100 * (base.getF aPwrCtrl 8 0 * 95 / 100) ≤ 98 * base.getF aPwrCtrl 8 0 ∧ (leased.kindEngines .lease).any leased.canLower = true ∧
    98 * leased.getF aPwrCtrl 8 0 < 100 * 500 ∧ base.auxOff = false ∧ ({ base with auxOff := true } : Dev).auxOff = true := by decide +kernel

/-- The running and gated clocks of a booted device. -/
def clocked : Dev :=
  { base with regs := [(aClkStatus 0, 0x01000000), (aClkStatus 4, 0x01000000), (aClkStatus 5, 0x01000000), (aClkStatus 9, 0x01000000),
                       (aClkCtrl 5, 0x02000000), (aClkCtrl 6, 0x02000000), (aRstDomStatus 12, 1)], pers := .service }

theorem wit_clocksAndDomainsFollow : (clkStep 0).isSome = true ∧ (0xF4240 : Word).fld 23 0 ≠ clocked.getF (aClkCtrl 0) 23 0 ∧
    clocked.getB (aClkStatus 0) 24 = true ∧ (0xF4240 : Word).bit 24 = false ∧ clocked.getB (aClkCtrl 0) 24 = false ∧ noStop 0 = false ∧
    (0x01000000 : Word).bit 24 = true ∧ clocked.getB (aClkStatus 4) 24 = true ∧ 4 ∈ [4, 8, 20, 21] ∧
    clocked.getB (aClkStatus 5) 24 = true ∧ 5 ∈ [5, 6, 7, 9, 10, 11, 12, 13, 14, 15] ∧ clocked.gatedNow 6 = true ∧ autoGated 5 = true ∧
    clocked.getB (aClkCtrl 5) 25 = true ∧ clocked.idleDomain 5 = true ∧ clocked.getF (aRstDomStatus 3) 2 0 = 0 ∧
    clocked.rstAllowed 3 = true ∧ clocked.rstAllowed 15 = true ∧ base.rstAllowed 3 = false ∧ clocked.getF (aRstDomStatus 12) 2 0 = 1 ∧
    clocked.inFlight 12 = false ∧ ({ base with regs := [(aRstDomStatus 8, 2)] } : Dev).getF (aRstDomStatus 8) 2 0 = 2 := by decide +kernel

/-- Wake pin 1 is a source; the hand-over to DRIVE is past its step 6. -/
def wakeable (p : Pers) : Dev := { base with regs := [(aPwrWakeCfg, 0x2000)], pers := p }
def handOver : Transition := { src := .park, dst := .drive, t0 := 0, steps := [(6, 5)] }

theorem wit_wakesLeadToDrive : (wakeable .park).wakes (.pin 1) = true ∧ (wakeable .park).cpaLost = none ∧ (wakeable .park).trans = none ∧
    (wakeable .service).wakes (.pin 1) = true ∧ ({ base with pers := .park, trans := some handOver } : Dev).trans = some handOver ∧
    handOver.did 6 = true ∧ bitOf base.fuseOpen 0 = false ∧ base.safetyGroups = [] := by decide +kernel

/-- CPA lost at time 0 with a RESET_DELAY of 1 ms; asleep with wake pin 2 enabled. -/
def lostCpa : Dev := { base with cpaLost := some 0, regs := [(aSafeCfg, 0x00010005)] }
def asleep : Dev := { base with power := .sleep, pers := .sleep, regs := [(aPwrWakeCfg, 0x00800000)] }

theorem wit_deviceResetsAndPower : (1 : Word).bit 0 = true ∧ ({ base with pers := .service } : Dev).pers = .service ∧ base.pers ≠ .service ∧
    (lostCpa.advance 1000000).delayOver = true ∧ base.railRuns 3 = true ∧ railDie 3 = some 1 ∧ base.railRuns 1 = true ∧ railDie 1 = none ∧ base.power = .on ∧ parked.pers = .park ∧
    asleep.power = .sleep ∧ asleep.fired false 4 = [2] := by decide +kernel

/-- Enable 0 is open; core 3 of a world-V cluster is halted or not; a key and an association are held. -/
def dbgDev : Dev :=
  { base with regs := [(aDbgStatus, 0x11)], dbgHalt := [(9, 5)], keys := [(4, [1])],
              gw := { macsec := [(1, { valid := [0] })] } }

theorem wit_debugAndKeysAreGuarded : (List.replicate 288 (0 : Byte)).length = 288 ∧ dbgDev.auxOff = false ∧ dbgDev.viCore 3 = true ∧
    dbgDev.dbgEn 0 = true ∧ base.dbgEn 0 = false ∧ base.dbgEn 1 = false ∧ base.dbgEn 2 = false ∧ (0xF : Word).bit 0 = true ∧ (1 : Word).bit 0 = true := by
  decide +kernel

/-- Cluster 0 executes for instance 1, which owns the granule at 0x40000000. -/
def coreDev : Dev :=
  { base.setOwn 0x40000000 (mkOwn true false 1 true 1) with
    regs := [(aClkStatus 5, 0x01000000)], insts := [(1, { base.inst 1 with bindKind := 0, bindIdx := 0 })] }

/-- The cores 2 and 3 run twinned; core 2 has written, and read. -/
def twinCore : Dev :=
  let q : HostQueue := { writes := [(0x40000000, 4, [7, 7, 7, 7])], loads := [(0x40000040, 4, .read [1, 2, 3, 4])] }
  { coreDev with regs := [(aClkStatus 5, 0x01000000), (aTwinHstatus 1, 0x102)], hostQs := [(1, q)] }

theorem wit_registerWritesAndCoreAccesses : coreDev.twinnedCore 3 = false ∧ twinCore.coreExecutes 2 = true ∧ twinCore.twinnedCore 2 = true ∧
    (twinCore.hostQs.lookD 1 {}).writes.length < 64 ∧ twinCore.coreExecutes 3 = true ∧ twinCore.twinnedCore 3 = true ∧
    (twinCore.hostQs.lookD 1 {}).writes = (0x40000000, 4, [7, 7, 7, 7].take 4) :: [] ∧
    (twinCore.hostQs.lookD 1 {}).loads = (0x40000040, 4, .read [1, 2, 3, 4]) :: [] ∧ (0x40000080 : Nat) ≠ 0x40000040 ∧ base.fwRuns .cpa = true ∧ 0x7F00040000 ≤ aSafeCfg ∧ aSafeCfg < 0x7F00050000 ∧
    base.coreExecutes 3 = false ∧ coreDev.coreExecutes 3 = true ∧ AccKind.store ≠ .fetch ∧ isPage 0x7E00010000 = true ∧
    coreDev.corePage 3 (pageAt 0x7E00010000) = true ∧ isPage 0x40000000 = false ∧ coreDev.coreInst 3 = some 1 ∧
    coreDev.quietAt 0x50000000 4 = false ∧ coreDev.accBad (coreDev.inst 1).pt 1 0x50000000 4 = some 0x50000000 ∧
    coreDev.quietAt 0x40000000 4 = false ∧ coreDev.accBad (coreDev.inst 1).pt 1 0x40000000 4 = none ∧
    coreDev.mustWait 0x40000000 4 true = false ∧ coreDev.behindCore 3 0x40000000 4 = false ∧
    coreDev.pathLost none 0x40000000 4 = false ∧ coreDev.stalled (68 + 3 / 8) = false ∧ coreDev.loggers = [] := by decide +kernel

set_option maxRecDepth 100000 in
theorem wit_storesStayInOwnedMemory : (coreDev.coreMem 3 true 0x40000000 4 [7, 7, 7, 7]).rd8 0x40000003 ≠ coreDev.rd8 0x40000003 := by
  decide +kernel

/-! ### The spec's worked examples -/

/-- The value of an FP32 pattern. -/
def f32 (n : Nat) : Ext := fp32.decode n

/-- The table of 06: BF16, FP8-E4M3 to nearest, toward zero and saturated, FP8-E5M2, FP4. -/
theorem test_formats : bf16.encode (f32 0x40490FDB) 0 0 = (0x4049, false) ∧ e4m3.encode (f32 0x3E99999A) 0 0 = (0x2A, false) ∧
    e4m3.encode (f32 0x3E99999A) 2 0 = (0x29, false) ∧ e4m3.encode (f32 0x43FA0000) 0 0 = (0x7E, true) ∧
    e5m2.encode (f32 0x47C35000) 0 0 = (0x7C, false) ∧ e5m2.encode (f32 0x47C35000) 2 0 = (0x7B, false) ∧
    fp16.encode (f32 0xC0200000) 0 0 = (0xC100, false) ∧ e2m1.encode (f32 0xC0A00000) 0 0 = (0xE, false) := by decide +kernel

/-- The example of 05: 1,001.7496337890625 as BF16, to nearest and by the draw 0x9A3C. -/
theorem test_bf16_stochastic : bf16.encode (f32 0x447A6FFA) 0 0 = (0x447A, false) ∧ bf16.encode (f32 0x447A6FFA) 1 0x9A3C = (0x447B, false) := by
  decide +kernel

/-- The example of 14: granule 12 interleaved, and granule 0 not. -/
theorem test_interleaving :
    ({ base with regs := [(aBwrIlvLo, 0x1000)] } : Dev).phys 0x5C00013ABC = some (3 * gib36 + 0x300004ABC) ∧ base.phys 0x5000013ABC = none := by
  decide +kernel

/-- The example of 14: the cut to 1,200 GB/s. -/
theorem test_cut : cutOf 900 50 400 600 0 1200 = { lease := 65536, best := 0, cock := 40960, excess := 0 } ∧ 12500 * 40960 / 65536 = 7812 := by
  decide +kernel

/-- The example of 23: the thermal figure. -/
theorem test_thermal_figure : base.thermalFig [880, 915, 944, 960] = 1878 := by decide +kernel

/-- The example of 10: B is kept beside A, and C is not. Scores fall with the index. -/
theorem test_nms : (nmsKeep (f32 0x3F000000)
    [(f32 0, f32 0, f32 0x41200000, f32 0x41200000), (f32 0x40A00000, f32 0, f32 0x41700000, f32 0x41200000),
     (f32 0x3F800000, f32 0, f32 0x41300000, f32 0x41200000)] [] true 3
    [(f32 0x3F666666, 0), (f32 0x3F4CCCCD, 1), (f32 0x3F333333, 2)]).map (·.2) = [0, 1] := by decide +kernel

/-- R246: the example of SIG_B, and the order of its words. -/
theorem test_signature : sigB [5, 9] = 23 ∧ sigB [9, 5] = 19 := by decide +kernel

/-- R117, R148, R152: the examples of the time lines. -/
theorem test_time_lines : lastEntry 16 64 1 0 none 1 1 = 109 ∧ lastEntry 16 64 32 24 none 1 1 = 2117 ∧
    lastEntry 16 64 64 24 (some (1024, 8, 1)) 1 1 = 15429 ∧
    lastEntry 16 16 1 0 none 1 1 = 61 ∧ lastEntry 16 16 2 0 none 1 1 = 93 := by decide +kernel

/-- The example of 09: the entry of a sequence, and the bytes of a page. -/
theorem test_kv_sizes : seqBytes 128 = 576 ∧ 0x1230000000 + 5 * seqBytes 128 = 0x1230000B40 ∧ pageBytes 0 2 128 = 8192 := by decide +kernel

/-- The example of 17: the length of the frame, and the first bytes of the MAC's input. -/
theorem test_mac_input : authLen false 8 = 20 ∧
    (macInput { id := 0x1A3, ext := false, fd := true, xl := false, data := [] } (0x25 * 2 ^ 32 + 0x4D2) 8 (List.replicate 8 0)).take 18 =
      [0xA3, 1, 0, 0x80, 0, 0, 0, 0, 0xD2, 4, 0, 0, 0x25, 0, 0, 0, 8, 0] := by decide +kernel

/-- The example of 15: the fields of descriptor D0. -/
theorem test_dma_fields :
    let c : DmaCh := { words := [0x40000000, 0x00180009, 0x50000000, 0x8080FF09, 0x20000020, 9, 0, 0x80000000] }
    c.src = 0x940000000 ∧ c.len = 6144 ∧ c.dst = 0x950000000 ∧ c.chain = true ∧ c.irq = false ∧ c.burst = 1024 ∧ c.next = 0x920000020 := by
  decide +kernel

/-- The example of 08: the butterfly at distance 1 of (1.5, −0.5, 2.0, 0.25). -/
theorem test_butterfly :
    let c : VCore := { vtype := 0x10, vl := 4, v := [(9, 0x3E80000040000000BF0000003FC00000)] }
    (List.range 4).map ((c.vhbfly 8 9 1 0).el 8 32) = [0x3F800000, 0x40000000, 0x40100000, 0x3FE00000] := by decide +kernel

/-- The example of 21: the certificate's enables 0x3 in PARK, after VI has closed. -/
theorem test_vi_closes : (({ base with regs := [(aDbgStatus, 0x33)] } : Dev).closeDbg 1).getF aDbgStatus 7 0 = 0x22 := by decide +kernel

/-- The example of 18: bit 6 of byte 149,130 for a write at window offset 0x1_2345_6000. -/
theorem test_dirty_bit :
    let d : Dev := { base with
      pages := [(1, { state := .active, dl := { base0 := 0x48000000, base1 := 0x49000000, len := 2331, en := true } })],
      insts := [(1, { pt := 1, window := [(2330, ⟨0x40000000, false⟩)] })] }
    (d.wrN (0x40000000 + 0x56000) [1]).rd8 (0x48000000 + 149130) = 0x40 := by decide +kernel

end Sys2Proof.Tests
end

/-! SUPPORT. What no command undoes but one that resets the device or takes its power: the relation between the device before and
after, and that every effect and every step keeps it. -/

namespace Sys2Proof.Machine

/-- What is latched or locked in `d` is so in `e`: identity and power, FAULT-class reports, the loss of CPA and CPB, the least SVN,
and the registers that a lock holds. -/
structure Dev.Latched (d e : Dev) : Prop where
  fuse   : e.fuse = d.fuse
  power  : e.power = d.power
  fault  : d.faultLatched = true → e.faultLatched = true
  cpa    : ∀ t, d.cpaLost = some t → e.cpaLost = some t
  cpb    : ∀ t, d.cpbLost = some t → e.cpbLost = some t
  svn    : d.minSvn ≤ e.minSvn
  locked : ∀ a ∈ d.lockedRegs, e.reg a = d.reg a

theorem Dev.Latched.refl (d : Dev) : Dev.Latched d d :=
  ⟨rfl, rfl, id, fun _ => id, fun _ => id, Nat.le_refl _, fun _ _ => rfl⟩

/-- The wrapper of a command's effect keeps what is latched, whatever the effect. -/
theorem Dev.latched_keep (d e : Dev) : Dev.Latched d (Dev.keep d e) where
  fuse := rfl
  power := rfl
  fault h := by simp [Dev.keep, h]
  cpa t h := by simp [Dev.keep, h]
  cpb t h := by simp [Dev.keep, h]
  svn := Nat.le_max_left _ _
  locked a h := by rw [Dev.reg_keep, if_pos h]

/-- Nothing latched or locked depends on device time: a device of another time stands for the one before it. -/
theorem Dev.Latched.of_time {d e : Dev} {n : Nat} (h : Dev.Latched { d with tb := n } e) : Dev.Latched d e :=
  ⟨h.fuse, h.power, h.fault, h.cpa, h.cpb, h.svn, h.locked⟩

theorem Dev.latched_act (d : Dev) (t : Nat) (f : Dev → Dev) : Dev.Latched d (d.act t f) := by
  by_cases hp : d.power = .on
  · rw [Dev.act_on hp]
    exact (Dev.latched_keep (d.advance t) _).of_time
  · rw [Dev.act_off hp]
    exact .refl d

theorem Dev.tb_le_act (d : Dev) (t : Nat) (f : Dev → Dev) : d.tb ≤ (d.act t f).tb := by
  by_cases hp : d.power = .on
  · rw [Dev.act_on hp]
    exact Nat.le_max_left _ _
  · exact Nat.le_of_eq (congrArg Dev.tb (Dev.act_off hp t f)).symm

theorem Dev.rindAct_asleep {d : Dev} (h : d.power = .sleep) (t : Nat) (f : Dev → Dev) : d.rindAct t f = Dev.keep d (f d) := if_pos h

theorem Dev.rindAct_awake {d : Dev} (h : d.power ≠ .sleep) (t : Nat) (f : Dev → Dev) : d.rindAct t f = d.act t f := if_neg h

theorem Dev.latched_rindAct (d : Dev) (t : Nat) (f : Dev → Dev) : Dev.Latched d (d.rindAct t f) := by
  by_cases hp : d.power = .sleep
  · rw [Dev.rindAct_asleep hp]
    exact d.latched_keep _
  · rw [Dev.rindAct_awake hp]
    exact d.latched_act t f

theorem Dev.tb_le_rindAct (d : Dev) (t : Nat) (f : Dev → Dev) : d.tb ≤ (d.rindAct t f).tb := by
  by_cases hp : d.power = .sleep
  · rw [Dev.rindAct_asleep hp]
    exact Nat.le_refl _
  · rw [Dev.rindAct_awake hp]
    exact d.tb_le_act t f

theorem Dev.latched_idle (d : Dev) : Dev.Latched d d.idle := by
  unfold Dev.idle
  split
  · exact (Dev.latched_keep d.tick _).of_time
  · exact .refl d

/-- What a command does to the state: the queue and the fuses stay, and where it is no restart, so does what is latched, and device
time does not go back. -/
theorem exec_latched (c : Instr) (s : State) : ∃ e, exec c s = .next { s with dev := e } ∧ e.fuse = s.dev.fuse ∧
    (restarts c = false → Dev.Latched s.dev e ∧ s.dev.tb ≤ e.tb) := by
  obtain ⟨-, t, f, h⟩ | ⟨hr, f, h⟩ | ⟨-, t, f, h⟩ := exec_shape c s
  · have hl := s.dev.latched_act t f
    exact ⟨_, h, hl.fuse, fun _ => ⟨hl, s.dev.tb_le_act t f⟩⟩
  · exact ⟨_, h, rfl, fun hn => absurd (hr.symm.trans hn) (by decide)⟩
  · have hl := s.dev.latched_rindAct t f
    exact ⟨_, h, hl.fuse, fun _ => ⟨hl, s.dev.tb_le_rindAct t f⟩⟩

theorem Dev.mem_lockedRegs (d : Dev) (a : Nat) : a ∈ d.lockedRegs ↔
    (d.getB aSafeCfg 31 = true ∧ a = aSafeCfg) ∨
    (d.getB aWorldLock 0 = true ∧ a ∈ [aWorldLock, aWorldEth, aWorldCan, aWorldAphy, aWorldHost]) := by
  unfold Dev.lockedRegs
  rw [List.mem_append]
  refine or_congr ?_ ?_
  · split <;> simp [*]
  · split <;> simp only [*, true_and, false_and, List.not_mem_nil, Bool.false_eq_true]

/-- SAFE_CFG under its LOCK (R277). -/
theorem Dev.Latched.safeCfg {d e : Dev} (h : Dev.Latched d e) (hl : d.getB aSafeCfg 31 = true) : e.reg aSafeCfg = d.reg aSafeCfg :=
  h.locked _ ((d.mem_lockedRegs _).mpr (.inl ⟨hl, rfl⟩))

/-- The SEC_WORLD registers under SEC_WORLD_LOCK (R432). -/
theorem Dev.Latched.worlds {d e : Dev} (h : Dev.Latched d e) (hl : d.getB aWorldLock 0 = true) :
    ∀ a ∈ [aWorldLock, aWorldEth, aWorldCan, aWorldAphy, aWorldHost], e.reg a = d.reg a :=
  fun a ha => h.locked a ((d.mem_lockedRegs a).mpr (.inr ⟨hl, ha⟩))

theorem Dev.getB_of_reg {d e : Dev} {a : Nat} (h : e.reg a = d.reg a) (i : Nat) : e.getB a i = d.getB a i := by
  simp [Dev.getB, h]

/-- CPA stays lost from the same time on (R273). -/
theorem Dev.Latched.cpaLost {d e : Dev} (h : Dev.Latched d e) (hl : d.cpaLost.isSome = true) : e.cpaLost = d.cpaLost := by
  obtain ⟨t, ht⟩ := Option.isSome_iff_exists.mp hl
  rw [ht]
  exact h.cpa t ht

/-- What a step does to the state: the front command leaves the queue, the fuses stay, and unless that command is a restart, so does
what is latched. -/
theorem step_latched {s t : State} (h : step s = .next t) : t.dev.fuse = s.dev.fuse ∧ t.pending = s.pending.tail ∧
    ((∀ c ∈ s.pending.head?, restarts c = false) → Dev.Latched s.dev t.dev) := by
  obtain ⟨d, l⟩ := s
  cases l with
  | nil =>
    obtain rfl : { dev := d.idle, pending := [] } = t := by simpa [step] using h
    exact ⟨d.latched_idle.fuse, rfl, fun _ => d.latched_idle⟩
  | cons c rest =>
    obtain ⟨e, he, hf, hl⟩ := exec_latched c { dev := d, pending := rest }
    obtain rfl : { dev := e, pending := rest } = t := Host.Outcome.next.inj (he.symm.trans h)
    exact ⟨hf, rfl, fun hc => (hl (hc c rfl)).1⟩

/-- Settles O4: every command has one of three shapes, and the wrapper of the two that are no restart keeps what is latched. -/
theorem commandsKeepWhatIsLatched : Obligations.CommandsKeepWhatIsLatched := by
  unfold Obligations.CommandsKeepWhatIsLatched
  intro c s
  obtain ⟨e, he, hf, hl⟩ := exec_latched c s
  refine ⟨e, he, hf, fun hr => ?_⟩
  obtain ⟨h, ht⟩ := hl hr
  exact ⟨h.power, ht, h.fault, h.cpa, h.cpb, h.svn, h.safeCfg, h.worlds⟩

/-- Settles O5: a step is the front command or an idle cycle, and each keeps what is latched. -/
theorem stepsKeepIdentity : Obligations.StepsKeepIdentity := by
  unfold Obligations.StepsKeepIdentity
  intro s t hs
  obtain ⟨hf, hq, hl⟩ := step_latched hs
  refine ⟨hf, hq, fun hr => ?_⟩
  have h := hl hr
  refine ⟨h.power, fun hw => ?_, fun hc => ⟨?_, h.safeCfg hc⟩, h.fault, h.cpaLost⟩
  · have hreg := h.worlds hw
    refine ⟨?_, hreg _ (by simp), hreg _ (by simp), hreg _ (by simp), hreg _ (by simp)⟩
    rw [Dev.getB_of_reg (hreg aWorldLock (by simp)), hw]
  · rw [Dev.getB_of_reg (h.safeCfg hc), hc]

end Sys2Proof.Machine

/-! SUPPORT. Register writes of firmware and accesses of application cores: which way each goes, and what it leaves. -/

namespace Sys2Proof.Machine

/-! ### The two rows -/

/-- A row that is an effect at its device time ends on a powered device in what the effect leaves. -/
theorem ends_act {c : Instr} {s : State} {t : Nat} {f : Dev → Dev} (hx : exec c s = s.act t f) (hp : s.dev.power = .on) :
    Ends c s (Dev.keep (s.dev.advance t) (f (s.dev.advance t))) := by
  unfold Ends
  rw [hx, State.act, Dev.act_on hp]

theorem ends_registerWrite {s : State} (hp : s.dev.power = .on) (m : Master) (a : Nat) (v : Word) (t : Nat) :
    Ends (.registerWrite m a v t) s (Dev.keep (s.dev.advance t) ((s.dev.advance t).masterWrite m a v)) :=
  ends_act (exec_registerWrite s m a v t) hp

theorem ends_coreAccess {s : State} (hp : s.dev.power = .on) (core : Fin 24) (kind : AccKind) (a n : Nat) (data : List Byte) (t : Nat) :
    Ends (.applicationCoreAccess core kind a n data t) s
      (Dev.keep (s.dev.advance t) ((s.dev.advance t).coreAccess core kind a n data)) :=
  ends_act (exec_applicationCoreAccess s core kind a n data t) hp

/-! ### Frames of the fields that accesses use -/

/-- Draws of free values and the accesses' own fields. -/
theorem Dev.frame_accesses (d : Dev) (f : Nat) (q : Tab HostQueue) (w : List WaitAcc) (l : AccResult) :
    Dev.Frame d { d with freeCtr := f, hostQs := q, waiting := w, lastAcc := l } [.accesses] fun _ => False := by
  refine ⟨?_, fun _ _ => rfl, rfl, rfl, Nat.le_refl _⟩
  intro q hq
  cases q <;> simp [Dev.Same] at hq ⊢
  intro a; rfl

theorem Dev.frame_setHostQ (d : Dev) (h : Nat) (q : HostQueue) (hl : aBwrIlvLo ≠ aTwinHstatus h) (hh : aBwrIlvHi ≠ aTwinHstatus h) :
    Dev.Frame d (d.setHostQ h q) [.accesses] fun b => b = aTwinHstatus h :=
  ((d.frame_accesses d.freeCtr _ d.waiting d.lastAcc).mono (by simp) (by simp)).trans
    ((Dev.frame_setF _ _ _ _ _ hl hh).mono (by simp) fun _ h => h)

/-! ### Registers by address -/

theorem aTwinHstatus_ac {h : Nat} (hh : h < 12) : aTwinHstatus h = 0x7F00030004 + h * 0x40 := by
  simp only [aTwinHstatus, aTwinH, hh, if_true]; omega

theorem ilvLo_ne_hstatus {h : Nat} (hh : h < 12) : aBwrIlvLo ≠ aTwinHstatus h := by
  rw [aTwinHstatus_ac hh]; simp only [aBwrIlvLo, aBwr]; omega

theorem ilvHi_ne_hstatus {h : Nat} (hh : h < 12) : aBwrIlvHi ≠ aTwinHstatus h := by
  rw [aTwinHstatus_ac hh]; simp only [aBwrIlvHi, aBwr]; omega

/-- The registers of the regulator's per-master blocks lie in the regulator's range (R302). -/
theorem aBwrMbud_eq (m prof : Nat) : aBwrMbud m prof = 0x7F00051008 + m * 0x40 + prof * 4 := by
  simp only [aBwrMbud, aBwrMcfg, aBwr]; omega

/-! ### Who writes (R277) -/

theorem hubBlock_safe {a : Nat} (h1 : 0x7F00040000 ≤ a) (h2 : a < 0x7F00050000) : isHub a = true ∧ hubBlock a = 4 := by
  refine ⟨?_, ?_⟩
  · simp only [isHub, Bool.and_eq_true, decide_eq_true_eq]; omega
  · unfold hubBlock; omega

theorem hubBlock_mbud {m prof : Nat} (hm : m < 192) (hp : prof < 8) :
    isHub (aBwrMbud m prof) = true ∧ hubBlock (aBwrMbud m prof) = 5 := by
  rw [aBwrMbud_eq]
  refine ⟨?_, ?_⟩
  · simp only [isHub, Bool.and_eq_true, decide_eq_true_eq]; omega
  · unfold hubBlock; omega

theorem isDieReg_of_isHub {a : Nat} (h : isHub a = true) : isDieReg a = false := by
  simp only [isHub, Bool.and_eq_true, decide_eq_true_eq] at h
  have : ¬ 0x7F10000000 ≤ a := by omega
  simp [isDieReg, this]

theorem Dev.masterWrite_cpa (d : Dev) {a : Nat} (v : Word) (hf : d.fwRuns .cpa = true) (ha : isHub a = true) :
    d.masterWrite .cpa a v = d.regWrite .cpa a v := by
  simp [Dev.masterWrite, hf, Dev.fwWrite, ha]

/-- A SAFE_ register takes no write but CPB's. -/
theorem Dev.regWrite_safe (d : Dev) {m : Master} {a : Nat} (v : Word) (hm : m ≠ .cpb) (ha : isHub a = true) (hb : hubBlock a = 4) :
    d.regWrite m a v = d.noEffect (d.masterNo m) a v := by
  simp [Dev.regWrite, mayWrite, ha, hb, hm]

theorem storedAs_mbud {m prof : Nat} (hm : m < 192) (hp : prof < 8) (v : Word) : storedAs (aBwrMbud m prof) v = v := by
  have h1 : aBwrMbud m prof ≠ aCntTbRate := by rw [aBwrMbud_eq]; simp only [aCntTbRate]; omega
  have h2 : aBwrMbud m prof ≠ aPwrCtrl := by rw [aBwrMbud_eq]; simp only [aPwrCtrl, aPwr]; omega
  have h3 : (aBwrMbud m prof - aBwrMcfg 0) % 0x40 ≠ 4 := by rw [aBwrMbud_eq]; simp only [aBwrMcfg, aBwr]; omega
  simp [storedAs, h1, h2, h3]

/-- A budget register has no guard and no effect of its own: the write is its fields' (R9, R302). -/
theorem Dev.regWrite_mbud (d : Dev) {m prof : Nat} (hm : m < 192) (hp : prof < 8) (v : Word) :
    d.regWrite .cpa (aBwrMbud m prof) v =
      d.setReg (aBwrMbud m prof) (RegField.write ((regFields (aBwrMbud m prof)).getD []) (d.reg (aBwrMbud m prof)) v) := by
  obtain ⟨ha, hb⟩ := hubBlock_mbud hm hp
  have hd := isDieReg_of_isHub ha
  have hs := storedAs_mbud hm hp v
  have h1 : aBwrMbud m prof ≠ aSafeCfg := by rw [aBwrMbud_eq]; simp only [aSafeCfg]; omega
  have h2 : aBwrMbud m prof ≠ aBwrCtrl := by rw [aBwrMbud_eq]; simp only [aBwrCtrl, aBwr]; omega
  have h3 : aBwrMbud m prof ≠ aBwrIlvLo := by rw [aBwrMbud_eq]; simp only [aBwrIlvLo, aBwr]; omega
  have h4 : aBwrMbud m prof ≠ aBwrIlvHi := by rw [aBwrMbud_eq]; simp only [aBwrIlvHi, aBwr]; omega
  have hw : mayWrite .cpa (aBwrMbud m prof) = true := by simp [mayWrite, ha, hb]
  have hg : d.hubGuard (aBwrMbud m prof) (d.reg (aBwrMbud m prof)) v = some v := by simp [Dev.hubGuard, hb]
  have he : ∀ e : Dev, e.hubEffect .cpa (aBwrMbud m prof) (d.reg (aBwrMbud m prof)) v = e := by
    intro e; simp [Dev.hubEffect, hb, h2, h3, h4]
  simp [Dev.regWrite, hw, hd, hb, hg, Dev.regDo, h1, he, Dev.regPut, hs]

theorem Dev.frame_mbud (d : Dev) (m prof : Nat) (w : Word) :
    Dev.Frame d (d.setReg (aBwrMbud m prof) w) [] fun a => a = aBwrMbud m prof := by
  refine d.frame_setReg _ w ?_ ?_
  · rw [aBwrMbud_eq]; simp only [aBwrIlvLo, aBwr]; omega
  · rw [aBwrMbud_eq]; simp only [aBwrIlvHi, aBwr]; omega

/-! ### Which way a core's access goes -/

section
variable (d : Dev) {core : Fin 24} (kind : AccKind) (a n : Nat) (data : List Byte)

theorem Dev.coreAccess_halted (h : d.coreExecutes core.val = false) : d.coreAccess core kind a n data = d := by
  simp [Dev.coreAccess, h]

theorem Dev.coreAccess_alone (h : d.coreExecutes core.val = true) (ht : d.twinnedCore core.val = false) :
    d.coreAccess core kind a n data = d.coreIssue core kind a n data := by
  simp [Dev.coreAccess, h, ht]

theorem Dev.coreAccess_lead (h : d.coreExecutes core.val = true) (ht : d.twinnedCore core.val = true) (he : core.val % 2 = 0) :
    d.coreAccess core kind a n data = d.leadAccess core kind a n data := by
  simp [Dev.coreAccess, h, ht, he]

theorem Dev.coreAccess_trail (h : d.coreExecutes core.val = true) (ht : d.twinnedCore core.val = true) (ho : core.val % 2 = 1) :
    ∃ lead : Fin 24, lead.val = core.val - 1 ∧ d.coreAccess core kind a n data = d.trailAccess core lead kind a n data :=
  ⟨⟨core.val - 1, by omega⟩, rfl, by simp [Dev.coreAccess, h, ht, ho]⟩

theorem Dev.coreIssue_page (ht : d.twinnedCore core.val = false) (hk : kind ≠ .fetch) (ha : isPage a = true)
    (hc : d.corePage core.val (pageAt a) = true) (hn : a % 65536 + n ≤ 65536) : d.coreIssue core kind a n data =
      d.pageAcc (pageAt a) (a % 65536) (if kind = .store then some (data.take n) else none) n (.core core) := by
  simp [Dev.coreIssue, ha, hc, ht, hk, hn]

theorem Dev.coreIssue_memory (ht : d.twinnedCore core.val = false) (ha : isPage a = false) : d.coreIssue core kind a n data =
    if (d.coreTry core.val (decide (kind = .store)) a n data).lastAcc = .written
      then (d.coreTry core.val (decide (kind = .store)) a n data).settle else d.coreTry core.val (decide (kind = .store)) a n data := by
  simp [Dev.coreIssue, ha, Dev.coreMem, ht]

end

/-! ### Refused accesses (R282) -/

/-- The registers of the regulator's record. -/
def refuseRegs (a : Nat) : Prop := a = aBwrFaultLo ∨ a = aBwrFaultHi ∨ a = aBwrFaultSrc ∨ a = aBwrStatus ∨ a = aCntOvfStat

/-- The record before the refused access is counted. -/
theorem Dev.refuse_eq (d : Dev) (m x : Nat) (w : Bool) : ∃ e : Dev, d.refuse m x w = e.count 0x06 (32 + 4 * m) 1 ∧
    Dev.Frame d e [] refuseRegs ∧ e.reg aBwrFaultLo = BitVec.ofNat 32 x ∧ e.getB aBwrStatus 9 = true := by
  refine ⟨_, rfl, ?_, ?_, Dev.getB_setB_self _ _ _ _ (by decide)⟩
  · have h1 := d.frame_setReg aBwrFaultLo (BitVec.ofNat 32 x) (by decide) (by decide)
    have h2 := fun e : Dev => e.frame_setReg aBwrFaultHi (BitVec.ofNat 32 (x / 2 ^ 32 % 256)) (by decide) (by decide)
    have h3 := fun e : Dev => e.frame_setReg aBwrFaultSrc (BitVec.ofNat 32 (b2n w * 256 + m % 256)) (by decide) (by decide)
    have h4 := fun e : Dev => e.frame_setB aBwrStatus 9 true (by decide) (by decide)
    refine (((h1.comp (h2 _)).comp (h3 _)).comp (h4 _)).mono (by simp) ?_
    rintro b (((h | h) | h) | h) <;> simp [refuseRegs, h]
  · rw [Dev.reg_setB_ne _ _ _ (by decide), Dev.reg_setReg_ne _ _ (by decide), Dev.reg_setReg_ne _ _ (by decide), Dev.reg_setReg_self]

theorem Dev.frame_refuse (d : Dev) (m x : Nat) (w : Bool) :
    Dev.Frame d (d.refuse m x w) [.pages, .counters, .interrupts, .log] refuseRegs := by
  obtain ⟨e, he, hf, -, -⟩ := d.refuse_eq m x w
  rw [he]
  exact (hf.mono (by simp) fun _ h => h).trans ((e.frame_count _ _ _).mono (by simp) fun _ h => .inr (.inr (.inr (.inr h))))

theorem Dev.refuse_record (d : Dev) (m x : Nat) (w : Bool) :
    (d.refuse m x w).reg aBwrFaultLo = BitVec.ofNat 32 x ∧ (d.refuse m x w).getB aBwrStatus 9 = true := by
  obtain ⟨e, he, -, hlo, hst⟩ := d.refuse_eq m x w
  have hc := (e.frame_count 0x06 (32 + 4 * m) 1).regs
  rw [he, hc aBwrFaultLo (by unfold cntRegs; decide), Dev.getB_of_reg (hc aBwrStatus (by unfold cntRegs; decide))]
  exact ⟨hlo, hst⟩

theorem Dev.coreTry_refused (d : Dev) {core i x a n : Nat} (store : Bool) (data : List Byte) (hi : d.coreInst core = some i)
    (hq : d.quietAt a n = false) (hb : d.accBad (d.inst i).pt i a n = some x) :
    d.coreTry core store a n data = { d.refuse (68 + core / 8) x store with lastAcc := .coreFault x } := by
  simp [Dev.coreTry, hi, hq, hb]

/-! ### Stores that nothing holds (R288) -/

theorem Dev.coreTry_stores (d : Dev) {core i a n : Nat} (data : List Byte) (hi : d.coreInst core = some i)
    (hq : d.quietAt a n = false) (hb : d.accBad (d.inst i).pt i a n = none) (hw : d.mustWait a n true = false)
    (hc : d.behindCore core a n = false) (hl : d.pathLost none a n = false) (hs : d.stalled (68 + core / 8) = false) :
    d.coreTry core true a n data = (({ d.wrN a (data.take n) with lastAcc := .written } : Dev)).traffic (68 + core / 8) a n := by
  simp [Dev.coreTry, hi, hq, hb, hw, hc, hl, hs, Dev.coreGo]

theorem Dev.traffic_lastAcc (d : Dev) (m a n : Nat) : (d.traffic m a n).lastAcc = d.lastAcc := by
  unfold Dev.traffic; split <;> rfl

/-- Counting an access changes no byte: the registers of the count and of the latency monitor alone. -/
theorem Dev.rd8_traffic (d : Dev) (m a n x : Nat) : (d.traffic m a n).rd8 x = d.rd8 x := by
  have hu : ∀ b, b = aBwrIlvLo ∨ b = aBwrIlvHi → b ≠ aBwrMused m := by
    rintro b (rfl | rfl) <;> simp only [aBwrIlvLo, aBwrIlvHi, aBwrMused, aBwrMcfg, aBwr] <;> omega
  have hl : ∀ b c, b = aBwrIlvLo ∨ b = aBwrIlvHi → b ≠ aBwrLat m c := by
    rintro b c (rfl | rfl) <;> simp only [aBwrIlvLo, aBwrIlvHi, aBwrLat, aBwr] <;> omega
  have hr : ∀ b, b = aBwrIlvLo ∨ b = aBwrIlvHi → (d.traffic m a n).reg b = d.reg b := by
    intro b hb
    unfold Dev.traffic Dev.latency
    split
    · rfl
    · rw [Dev.reg_setF_ne _ _ _ _ (hl b _ hb)]
      exact Dev.reg_setReg_ne d _ (hu b hb)
  refine Dev.rd8_congr (hr _ (.inl rfl)) (hr _ (.inr rfl)) ?_ ?_ ?_ ?_ x <;> unfold Dev.traffic <;> split <;> rfl

/-- Reachability does not change inside a page of 4 KiB (R283). -/
theorem Dev.phys_isSome_page (d : Dev) {x y : Nat} (h : x / 4096 = y / 4096) : (d.phys x).isSome = (d.phys y).isSome := by
  have h1 : x < 4 * gib36 ↔ y < 4 * gib36 := by simp only [gib36]; omega
  have h2 : x % gib36 / 2 ^ 30 = y % gib36 / 2 ^ 30 := by simp only [gib36]; omega
  have h3 : (0x4000000000 ≤ x ∧ x < 0x4010000000) ↔ (0x4000000000 ≤ y ∧ y < 0x4010000000) := by omega
  have h4 : (0x5000000000 ≤ x ∧ x < 0x5000000000 + 4 * gib36) ↔ (0x5000000000 ≤ y ∧ y < 0x5000000000 + 4 * gib36) := by
    simp only [gib36]; omega
  have h5 : (x - 0x5000000000) / 2 ^ 32 = (y - 0x5000000000) / 2 ^ 32 := by omega
  unfold Dev.phys
  simp only [h1, h2, h3, h4, h5]
  split
  · split <;> rfl
  · split
    · rfl
    · split
      · split <;> simp only [Option.isSome_some, Option.isSome_none]
      · rfl

/-- The first address of the page of a byte of a range. -/
theorem pageStart_mem {a n i : Nat} (h : i < n) : max a ((a + i) / 4096 * 4096) ∈ pageStarts a n := by
  unfold pageStarts
  rw [if_neg (by omega), List.mem_map]
  refine ⟨(a + i) / 4096 - a / 4096, ?_, ?_⟩
  · rw [List.mem_range]; omega
  · congr 2; omega

/-- Where the checks pass a range, every byte of it is reachable. -/
theorem Dev.phys_of_accBad (d : Dev) {pt inst a n i : Nat} (h : d.accBad pt inst a n = none) (hi : i < n) :
    (d.phys (a + i)).isSome = true := by
  have hok : d.accOk pt inst (max a ((a + i) / 4096 * 4096)) = true := by
    have := List.find?_eq_none.mp h _ (pageStart_mem hi)
    simpa using this
  have hp : (d.phys (max a ((a + i) / 4096 * 4096))).isSome = true := by
    unfold Dev.accOk at hok
    split at hok
    · rename_i hk; rw [hk]; rfl
    · simp at hok
  rw [← hp]
  exact d.phys_isSome_page (by omega)

/-! ### The queues of a twinned pair (R252) -/

theorem Dev.twinned_status {d : Dev} {core : Fin 24} (h : d.twinnedCore core.val = true) :
    d.getF (aTwinHstatus (core.val / 2)) 2 0 = 2 := by
  unfold Dev.twinnedCore at h
  rw [Bool.and_eq_true, decide_eq_true_eq, decide_eq_true_eq] at h
  exact h.2

@[simp] theorem Dev.hostQs_setHostQ_self (d : Dev) (h : Nat) (q : HostQueue) : (d.setHostQ h q).hostQs.lookD h {} = q :=
  Tab.lookD_put_self _ _ _ _

/-- CQ_USED shows the number of writes that wait. -/
theorem Dev.cqUsed_setHostQ (d : Dev) (h : Nat) (q : HostQueue) :
    (d.setHostQ h q).getF (aTwinHstatus h) 14 8 = q.writes.length % 2 ^ 7 := Dev.getF_setF_self _ _ _ _ _ (by decide)

section
variable (d : Dev) (core lead : Fin 24) (a n : Nat) (data : List Byte)

theorem Dev.leadAccess_store (h : (d.hostQs.lookD (core.val / 2) {}).writes.length < 64) :
    d.leadAccess core .store a n data =
      { d.setHostQ (core.val / 2) { d.hostQs.lookD (core.val / 2) {} with
          writes := (d.hostQs.lookD (core.val / 2) {}).writes ++ [(a, n, data.take n)] } with lastAcc := .waits } := by
  simp [Dev.leadAccess, Nat.not_le.mpr h]

/-- A write that the leading core has made too is released. -/
theorem Dev.trailAccess_store_same {ws : List (Nat × Nat × List Byte)}
    (h : (d.hostQs.lookD (core.val / 2) {}).writes = (a, n, data.take n) :: ws) :
    d.trailAccess core lead .store a n data =
      (d.setHostQ (core.val / 2) { d.hostQs.lookD (core.val / 2) {} with writes := ws }).coreIssue lead .store a n (data.take n) := by
  simp [Dev.trailAccess, h, judge]

theorem Dev.trailAccess_load_same {r : AccResult} {ls : List (Nat × Nat × AccResult)}
    (h : (d.hostQs.lookD (core.val / 2) {}).loads = (a, n, r) :: ls) :
    d.trailAccess core lead .load a n data =
      { d.setHostQ (core.val / 2) { d.hostQs.lookD (core.val / 2) {} with loads := ls } with lastAcc := r } := by
  simp [Dev.trailAccess, h]

theorem Dev.trailAccess_load_other {b : Nat} {r : AccResult} {ls : List (Nat × Nat × AccResult)}
    (h : (d.hostQs.lookD (core.val / 2) {}).loads = (b, n, r) :: ls) (hb : a ≠ b) :
    d.trailAccess core lead .load a n data = d.queueFinding (core.val / 2) .mismatch := by
  simp [Dev.trailAccess, h, Ne.symm hb]

end

/-! ### A finding of an application core pair (R253) -/

/-- The registers that a finding of an application core pair reaches, those of its status apart. -/
def findRegs (h a : Nat) : Prop :=
  a = aTwinHerr h ∨ a = aTwinHretLo h ∨ a = aTwinHretHi h ∨ cntRegs a ∨ repRegs a

/-- The kinds of state that a finding of an application core pair reaches. -/
def findKinds : List Kind := [.pages, .counters, .interrupts, .log, .safety, .accesses]

theorem findRegs_ne {h a : Nat} (hh : h < 12) (ha : findRegs h a) : a ≠ aTwinHstatus h ∧ a ≠ aBwrIlvLo ∧ a ≠ aBwrIlvHi := by
  rw [aTwinHstatus_ac hh]
  have hx : ∀ x, x = aTwinHerr h ∨ x = aTwinHretLo h ∨ x = aTwinHretHi h →
      x = 0x7F00030008 + h * 0x40 ∨ x = 0x7F00030010 + h * 0x40 ∨ x = 0x7F00030014 + h * 0x40 := by
    intro x hx
    simp only [aTwinHerr, aTwinHretLo, aTwinHretHi, aTwinH, hh, if_true] at hx
    omega
  simp only [findRegs, cntRegs, repRegs, aCntOvfStat, aSafeSeen, aSafeCond, aSafeOut] at ha
  simp only [aBwrIlvLo, aBwrIlvHi, aBwr]
  have := hx a
  omega

/-- The pair is QUARANTINED with the cause, and its queues are empty. -/
def Dev.pairHalted (d : Dev) (h cause : Nat) (w : List WaitAcc) : Dev :=
  { (((d.setF (aTwinHstatus h) 2 0 4).setF (aTwinHstatus h) 6 4 cause).setF (aTwinHstatus h) 14 8 0) with
    hostQs := d.hostQs.del h, waiting := w }

/-- The error registers of the pair, its counters, and the reports. -/
def Dev.pairReported (d : Dev) (h herr : Nat) (checker lag : Bool) (retired : Nat) : Dev :=
  let d := d.setF (aTwinHerr h) 3 0 (Nat.lor (d.getF (aTwinHerr h) 3 0) herr)
  let d := d.setPair (aTwinHretLo h) (aTwinHretHi h) retired
  let d := (d.count 0x04 (hpCnt h + (if checker then 1 else 0)) 1).count 0x04 (hpCnt h + 2) 1
  let d := if lag then d.count 0x04 (hpCnt h + 6) 1 else d
  let d := (d.raise (.cluster h)).report (if checker then 2 else 1) (32 + h)
  if d.getB aWorldHost (h / 4) then d else d.report 13 h

/-- A finding of an application core pair halts the pair and reports it. -/
theorem Dev.hostFinding_eq (d : Dev) {h : Nat} (hh : h < 12) (ht : d.getF (aTwinHstatus h) 2 0 = 2) (cause herr : Nat)
    (checker lag : Bool) (retired : Nat) :
    ∃ w, d.hostFinding h cause herr checker lag retired = (d.pairHalted h cause w).pairReported h herr checker lag retired := by
  have h12 : h ≠ 12 := by omega
  have h13 : h ≠ 13 := by omega
  unfold Dev.hostFinding
  rw [if_neg (by simp [ht])]
  simp only [h12, h13, if_false]
  exact ⟨_, rfl⟩

/-- An effect that is made only where a condition fails. -/
theorem Dev.Frame.orElse {d e f : Dev} {ks : List Kind} {rs : Nat → Prop} {b : Prop} [Decidable b] (h : Dev.Frame d e ks rs)
    (g : Dev.Frame e f ks rs) : Dev.Frame d (if b then e else f) ks rs := by
  split
  · exact h
  · exact h.trans g

/-- An effect that is made only where a condition holds. -/
theorem Dev.Frame.orStay {d e f : Dev} {ks : List Kind} {rs : Nat → Prop} {b : Prop} [Decidable b] (h : Dev.Frame d e ks rs)
    (g : Dev.Frame e f ks rs) : Dev.Frame d (if b then f else e) ks rs := by
  split
  · exact h.trans g
  · exact h

theorem Dev.frame_pairReported (d : Dev) {h : Nat} (hh : h < 12) (herr : Nat) (checker lag : Bool) (retired : Nat) :
    Dev.Frame d (d.pairReported h herr checker lag retired) findKinds (findRegs h) := by
  have hset : ∀ (e : Dev) r w, findRegs h r → Dev.Frame e (e.setReg r w) findKinds (findRegs h) := fun e r w hr =>
    (e.frame_setReg r w (findRegs_ne hh hr).2.1.symm (findRegs_ne hh hr).2.2.symm).mono (by simp) fun _ hb => hb ▸ hr
  have hcnt : ∀ (e : Dev) i, Dev.Frame e (e.count 0x04 i 1) findKinds (findRegs h) := fun e i =>
    (e.frame_count 0x04 i 1).mono (by decide) fun _ hr => .inr (.inr (.inr (.inl hr)))
  have hirq : ∀ (e : Dev) i, Dev.Frame e (e.raise i) findKinds (findRegs h) := fun e i =>
    (e.frame_raise i).mono (by decide) fun _ hr => hr.elim
  have hrep : ∀ (e : Dev) c x, Dev.Frame e (e.report c x) findKinds (findRegs h) := fun e c x =>
    (e.frame_report c x 0).mono (by decide) fun _ hr => .inr (.inr (.inr (.inr hr)))
  unfold Dev.pairReported
  refine .orElse (.trans (.trans (.orStay (.trans (.trans ?_ (hcnt _ _)) (hcnt _ _)) (hcnt _ _)) (hirq _ _)) (hrep _ _ _)) (hrep _ _ _)
  exact ((hset d _ _ (.inl rfl)).trans (hset _ _ _ (.inr (.inl rfl)))).trans (hset _ _ _ (.inr (.inr (.inl rfl))))

theorem Dev.frame_pairHalted (d : Dev) {h : Nat} (hh : h < 12) (cause : Nat) (w : List WaitAcc) :
    Dev.Frame d (d.pairHalted h cause w) [.accesses] fun a => a = aTwinHstatus h := by
  have hst : ∀ (e : Dev) hi lo v, Dev.Frame e (e.setF (aTwinHstatus h) hi lo v) [.accesses] fun a => a = aTwinHstatus h := fun e hi lo v =>
    (e.frame_setF _ hi lo v (ilvLo_ne_hstatus hh) (ilvHi_ne_hstatus hh)).mono (by simp) fun _ h => h
  exact (((hst d _ _ _).trans (hst _ _ _ _)).trans (hst _ _ _ _)).trans
    ((Dev.frame_accesses _ _ _ _ _).mono (by simp) (by simp))

theorem Dev.status_pairHalted (d : Dev) (h cause : Nat) (w : List WaitAcc) : (d.pairHalted h cause w).getF (aTwinHstatus h) 2 0 = 4 := by
  show (((d.setF (aTwinHstatus h) 2 0 4).setF (aTwinHstatus h) 6 4 cause).setF (aTwinHstatus h) 14 8 0).getF (aTwinHstatus h) 2 0 = 4
  rw [Dev.getF_setF_ne _ _ _ _ _ _ _ (by omega), Dev.getF_setF_ne _ _ _ _ _ _ _ (by omega)]
  exact d.getF_setF_self _ _ _ 4 (by omega)

theorem Dev.getF_of_reg {d e : Dev} {a : Nat} (h : e.reg a = d.reg a) (hi lo : Nat) : e.getF a hi lo = d.getF a hi lo := by
  simp [Dev.getF, h]

/-- After a finding an application core pair that ran twinned is QUARANTINED, and no byte of memory has changed. -/
theorem Dev.hostFinding_quarantines (d : Dev) {h : Nat} (hh : h < 12) (ht : d.getF (aTwinHstatus h) 2 0 = 2) (cause herr : Nat)
    (checker lag : Bool) (retired : Nat) :
    (d.hostFinding h cause herr checker lag retired).getF (aTwinHstatus h) 2 0 = 4 ∧
      Dev.Same d (d.hostFinding h cause herr checker lag retired) .memory := by
  obtain ⟨w, e⟩ := d.hostFinding_eq hh ht cause herr checker lag retired
  have hr := Dev.frame_pairReported (d.pairHalted h cause w) hh herr checker lag retired
  rw [e]
  refine ⟨?_, ((d.frame_pairHalted hh cause w).same .memory (by decide)).trans (hr.same .memory (by decide))⟩
  rw [Dev.getF_of_reg (hr.regs _ fun hf => (findRegs_ne hh hf).1 rfl), Dev.status_pairHalted]

/-- What the load-value queue's comparison finds (R252): the pair is QUARANTINED. -/
theorem Dev.queueFinding_mismatch (d : Dev) {h : Nat} (hh : h < 12) (ht : d.getF (aTwinHstatus h) 2 0 = 2) :
    (d.queueFinding h .mismatch).getF (aTwinHstatus h) 2 0 = 4 ∧ Dev.Same d (d.queueFinding h .mismatch) .memory := by
  obtain ⟨hst, hm⟩ := Dev.hostFinding_quarantines d.fresh.2 hh ht 1 0b0001 false false d.fresh.1
  exact ⟨hst, ((d.frame_accesses _ d.hostQs d.waiting d.lastAcc).same .memory (by decide)).trans hm⟩

/-! ### The outcome of each access -/

section
variable (d : Dev) {core : Fin 24} {a n : Nat} (data : List Byte)

/-- A refused access writes nothing, is recorded, and gives the core an access fault (R282). -/
theorem Dev.coreIssue_refused (kind : AccKind) {i x : Nat} (ht : d.twinnedCore core.val = false) (ha : isPage a = false)
    (hi : d.coreInst core.val = some i) (hq : d.quietAt a n = false) (hb : d.accBad (d.inst i).pt i a n = some x) :
    (d.coreIssue core kind a n data).lastAcc = .coreFault x ∧ (d.coreIssue core kind a n data).reg aBwrFaultLo = BitVec.ofNat 32 x ∧
      (d.coreIssue core kind a n data).getB aBwrStatus 9 = true ∧ Dev.Same d (d.coreIssue core kind a n data) .memory := by
  rw [d.coreIssue_memory kind a n data ht ha, d.coreTry_refused _ data hi hq hb, if_neg (by simp)]
  obtain ⟨hlo, hst⟩ := d.refuse_record (68 + core.val / 8) x (decide (kind = .store))
  exact ⟨rfl, hlo, hst, (d.frame_refuse _ _ _).same .memory (by decide)⟩

/-- The device after a store's bytes, before the accesses that waited are served. -/
def Dev.coreStored (d : Dev) (core a n : Nat) (data : List Byte) : Dev :=
  ({ d.wrN a (data.take n) with lastAcc := .written } : Dev).traffic (68 + core / 8) a n

theorem Dev.coreIssue_stored {i : Nat} (ht : d.twinnedCore core.val = false) (ha : isPage a = false)
    (hi : d.coreInst core.val = some i) (hq : d.quietAt a n = false) (hb : d.accBad (d.inst i).pt i a n = none)
    (hw : d.mustWait a n true = false) (hc : d.behindCore core.val a n = false) (hl : d.pathLost none a n = false)
    (hs : d.stalled (68 + core.val / 8) = false) :
    d.coreIssue core .store a n data = (d.coreStored core.val a n data).settle := by
  rw [d.coreIssue_memory .store a n data ht ha]
  simp only [decide_true]
  rw [d.coreTry_stores data hi hq hb hw hc hl hs, if_pos (Dev.traffic_lastAcc _ _ _ _)]
  rfl

/-- A store writes its bytes and, where no dirty log runs, no other. -/
theorem Dev.rd8_coreStored_out (core : Nat) (hlog : d.loggers = []) (hn : n ≤ data.length) {x : Nat} (hx : x < a ∨ a + n ≤ x) :
    (d.coreStored core a n data).rd8 x = d.rd8 x := by
  have hlen : (data.take n).length = n := by simp [hn]
  exact (Dev.rd8_traffic _ _ _ _ _).trans (d.rd8_wrN_out a _ x hlog (by rw [hlen]; exact hx))

theorem Dev.rd8_coreStored_in (core : Nat) (hlog : d.loggers = []) {k : Nat} (hk : k < (data.take n).length)
    (hp : (d.phys (a + k)).isSome = true) : (d.coreStored core a n data).rd8 (a + k) = (data.take n)[k] :=
  (Dev.rd8_traffic _ _ _ _ _).trans (d.rd8_wrN_in a _ k hlog hk hp)

/-- A write of the leading core waits in the compare queue (R252). -/
theorem Dev.leadAccess_queues (hn : (d.hostQs.lookD (core.val / 2) {}).writes.length < 64) :
    ((d.leadAccess core .store a n data).hostQs.lookD (core.val / 2) {}).writes =
        (d.hostQs.lookD (core.val / 2) {}).writes ++ [(a, n, data.take n)] ∧
      Dev.Same d (d.leadAccess core .store a n data) .memory ∧
      (d.leadAccess core .store a n data).getF (aTwinHstatus (core.val / 2)) 14 8 =
        (d.hostQs.lookD (core.val / 2) {}).writes.length + 1 := by
  have hc : core.val / 2 < 12 := by omega
  rw [d.leadAccess_store core a n data hn]
  refine ⟨congrArg HostQueue.writes (d.hostQs_setHostQ_self _ _),
    (d.frame_setHostQ _ _ (ilvLo_ne_hstatus hc) (ilvHi_ne_hstatus hc)).same .memory (by decide), ?_⟩
  refine (d.cqUsed_setHostQ _ _).trans ?_
  rw [List.length_append, List.length_singleton]
  exact Nat.mod_eq_of_lt (by omega)

/-- A load of the trailing core is answered from the load-value queue (R252). -/
theorem Dev.trailAccess_answers (lead : Fin 24) {r : AccResult} {ls : List (Nat × Nat × AccResult)}
    (h : (d.hostQs.lookD (core.val / 2) {}).loads = (a, n, r) :: ls) :
    (d.trailAccess core lead .load a n data).lastAcc = r ∧
      ((d.trailAccess core lead .load a n data).hostQs.lookD (core.val / 2) {}).loads = ls ∧
      Dev.Same d (d.trailAccess core lead .load a n data) .memory := by
  have hc : core.val / 2 < 12 := by omega
  rw [d.trailAccess_load_same core lead a n data h]
  exact ⟨rfl, congrArg HostQueue.loads (d.hostQs_setHostQ_self _ _),
    (d.frame_setHostQ _ _ (ilvLo_ne_hstatus hc) (ilvHi_ne_hstatus hc)).same .memory (by decide)⟩

end

/-- Settles O59, clause by clause: which way a write or an access goes, and the outcome of that way. -/
theorem registerWritesAndCoreAccesses : Obligations.RegisterWritesAndCoreAccesses := by
  unfold Obligations.RegisterWritesAndCoreAccesses
  intro s t hp d
  refine ⟨fun v hf => ⟨fun m prof hm hprof => ?budget, fun a h1 h2 => ?safe⟩, fun core kind a n data hx => ?halted,
    fun core kind a n data hx ht hk ha hc hn => ?page, fun core kind a n data i hx ht ha hi hq x hb => ?refused,
    fun core a n data hx ht => ⟨fun he hn => ?queued, fun ws ho hq => ?released, fun r ls ho hq => ?answered, fun r ls b ho hq hb => ?found⟩,
    fun core a n data i hx ht ha hi hq hb hw hc hl hs hn hlog => ?stored⟩
  case budget =>
    have hr := ends_registerWrite hp .cpa (aBwrMbud m prof) v t
    rw [Dev.masterWrite_cpa d v hf (hubBlock_mbud hm hprof).1, Dev.regWrite_mbud _ hm hprof] at hr
    exact ⟨_, hr, Dev.reg_setReg_self _ _ _, Dev.frame_mbud _ _ _ _⟩
  case safe =>
    obtain ⟨ha, hb⟩ := hubBlock_safe h1 h2
    have hr := ends_registerWrite hp .cpa a v t
    rw [Dev.masterWrite_cpa d v hf ha, Dev.regWrite_safe _ v (by decide) ha hb] at hr
    exact ⟨_, hr, Dev.frame_logE _ _ _ _ _ _⟩
  case halted =>
    have hr := ends_coreAccess hp core kind a n data t
    rwa [Dev.coreAccess_halted _ kind a n data hx] at hr
  case page =>
    have hr := ends_coreAccess hp core kind a n data t
    rwa [Dev.coreAccess_alone _ kind a n data hx ht, Dev.coreIssue_page _ kind a n data ht hk ha hc hn] at hr
  case refused =>
    have hr := ends_coreAccess hp core kind a n data t
    rw [Dev.coreAccess_alone _ kind a n data hx ht] at hr
    exact ⟨_, hr, Dev.coreIssue_refused _ data kind ht ha hi hq hb⟩
  case queued =>
    have hr := ends_coreAccess hp core .store a n data t
    rw [Dev.coreAccess_lead _ .store a n data hx ht he] at hr
    exact ⟨_, hr, Dev.leadAccess_queues _ data hn⟩
  case released =>
    obtain ⟨lead, hlead, heq⟩ := Dev.coreAccess_trail _ .store a n data hx ht ho
    have hr := ends_coreAccess hp core .store a n data t
    rw [heq, Dev.trailAccess_store_same _ _ _ _ _ _ hq] at hr
    exact ⟨lead, hlead, hr⟩
  case answered =>
    obtain ⟨lead, -, heq⟩ := Dev.coreAccess_trail _ .load a n data hx ht ho
    have hr := ends_coreAccess hp core .load a n data t
    rw [heq] at hr
    exact ⟨_, hr, Dev.trailAccess_answers _ data lead hq⟩
  case found =>
    obtain ⟨lead, -, heq⟩ := Dev.coreAccess_trail _ .load a n data hx ht ho
    have hr := ends_coreAccess hp core .load a n data t
    rw [heq, Dev.trailAccess_load_other _ _ _ _ _ _ hq hb] at hr
    exact ⟨_, hr, Dev.queueFinding_mismatch _ (by omega) (Dev.twinned_status ht)⟩
  case stored =>
    have hr := ends_coreAccess hp core .store a n data t
    rw [Dev.coreAccess_alone _ .store a n data hx ht, Dev.coreIssue_stored _ data ht ha hi hq hb hw hc hl hs] at hr
    refine ⟨_, hr, fun x hx => Dev.rd8_coreStored_out _ data _ hlog hn hx, fun k hk => Dev.rd8_coreStored_in _ data _ hlog hk ?_⟩
    exact Dev.phys_of_accBad _ hb (by rw [List.length_take] at hk; omega)

end Sys2Proof.Machine

/-! SUPPORT. Links, stacks and the patrol scrub: what an effect of the scheduler leaves of the links, and what a count leaves of the log. -/

namespace Sys2Proof.Machine

/-! ### The links, which no kill, teardown or report writes (R17, R18) -/

theorem Dev.Frame.links {d e : Dev} {ks : List Kind} {rs : Nat → Prop} (h : Dev.Frame d e ks rs) (hk : Kind.links ∉ ks) :
    e.links = d.links := (h.same .links hk).1

theorem Dev.WroteFrom.links {d e : Dev} (h : Dev.WroteFrom d e) : e.links = d.links := by
  obtain ⟨_, _, _, _, _, _, rfl⟩ := h
  rfl

/-- Steps that leave the links, repeated over a list. -/
@[simp] theorem Dev.forEach_links {α : Type} (l : List α) (f : α → Dev → Dev) (d : Dev) (hf : ∀ x e, (f x e).links = e.links) :
    (forEach l f d).links = d.links := forEach_same Dev.links f hf l d

@[simp] theorem Dev.forUpTo_links (n : Nat) (f : Nat → Dev → Dev) (d : Dev) (hf : ∀ i e, (f i e).links = e.links) :
    (forUpTo n f d).links = d.links := forUpTo_same Dev.links f hf n d

/-- An effect made under a condition leaves the links where each branch does. -/
@[simp] theorem Dev.ite_links (b : Prop) [Decidable b] (d e : Dev) : (if b then d else e).links = if b then d.links else e.links :=
  apply_ite Dev.links b d e

@[simp] theorem Dev.setF_links (d : Dev) (a hi lo v : Nat) : (d.setF a hi lo v).links = d.links := by simp [Dev.setF]
@[simp] theorem Dev.setB_links (d : Dev) (a i : Nat) (b : Bool) : (d.setB a i b).links = d.links := rfl
@[simp] theorem Dev.setQueue_links (d : Dev) (q : Nat) (x : Queue) : (d.setQueue q x).links = d.links := rfl
@[simp] theorem Dev.setCtx_links (d : Dev) (c : Nat) (x : Ctx) : (d.setCtx c x).links = d.links := rfl
@[simp] theorem Dev.setGraph_links (d : Dev) (g : Nat) (x : Graph) : (d.setGraph g x).links = d.links := rfl
@[simp] theorem Dev.updCmd_links (d : Dev) (q n : Nat) (f : Cmd → Cmd) : (d.updCmd q n f).links = d.links := rfl
@[simp] theorem Dev.dropCmd_links (d : Dev) (q n : Nat) : (d.dropCmd q n).links = d.links := rfl
@[simp] theorem Dev.logE_links (d : Dev) (k c s a x : Nat) : (d.logE k c s a x).links = d.links := rfl
@[simp] theorem Dev.post_links (d : Dev) (k c a x : Nat) : (d.post k c a x).links = d.links := (d.frame_post k c a x).links (by decide)
@[simp] theorem Dev.count_links (d : Dev) (g i k : Nat) : (d.count g i k).links = d.links := (d.frame_count g i k).links (by decide)
@[simp] theorem Dev.countInst_links (d : Dev) (n i k : Nat) : (d.countInst n i k).links = d.links := d.count_links _ _ _
@[simp] theorem Dev.countAcct_links (d : Dev) (n i k : Nat) : (d.countAcct n i k).links = d.links := d.count_links _ _ _
@[simp] theorem Dev.reportAs_links (d : Dev) (cls : RepClass) (c s x : Nat) : (d.reportAs cls c s x).links = d.links :=
  (d.frame_reportAs cls c s x).links (by decide)
@[simp] theorem Dev.report_links (d : Dev) (c s x : Nat) : (d.report c s x).links = d.links := d.reportAs_links _ _ _ _
@[simp] theorem Dev.endCond_links (d : Dev) (c s : Nat) : (d.endCond c s).links = d.links := (d.frame_endCond c s).links (by decide)
@[simp] theorem Dev.wrRaw_links (d : Dev) (a : Nat) (bs : List Byte) : (d.wrRaw a bs).links = d.links := (Dev.wrRaw_wrote bs d a).links
@[simp] theorem Dev.uncache_links (d : Dev) (a n : Nat) : (d.uncache a n).links = d.links := (d.uncache_wrote a n).links
@[simp] theorem Dev.logDirty_links (d : Dev) (a n : Nat) : (d.logDirty a n).links = d.links := (d.logDirty_wrote a n).links
@[simp] theorem Dev.wrWords_links (d : Dev) (a : Nat) (ws : List Word) : (d.wrWords a ws).links = d.links := (d.wrN_wrote a _).links

/-! ### Kills and teardown -/

@[simp] theorem Dev.acctKilled_links (d : Dev) (n : Nat) (c : Cmd) : (d.acctKilled n c).links = d.links := by
  simp [Dev.acctKilled]

@[simp] theorem Dev.noteEnded_links (d : Dev) (q : Nat) (c : Cmd) (k : KillCause) : (d.noteEnded q c k).links = d.links := by
  simp [Dev.noteEnded]

@[simp] theorem Dev.whey_links (d : Dev) (rs : List Region) : (d.whey rs).links = d.links := by
  simp [Dev.whey, Dev.freshBytes]

@[simp] theorem Dev.freeEngines_links (d : Dev) (es : List Nat) : (d.freeEngines es).links = d.links := by
  unfold Dev.freeEngines
  exact Dev.forEach_links _ _ _ fun e x => by simp

@[simp] theorem Dev.freeSort_links (d : Dev) (o : Option Nat) : (d.freeSort o).links = d.links := by
  cases o <;> rfl

@[simp] theorem Dev.setPageState_links (d : Dev) (die q pg st : Nat) : (d.setPageState die q pg st).links = d.links := rfl

@[simp] theorem Dev.pushPage_links (d : Dev) (die q pg : Nat) : (d.pushPage die q pg).links = d.links := by
  simp [Dev.pushPage, Dev.setStack, Dev.kvRefresh]

@[simp] theorem Dev.returnPages_links (d : Dev) (ps : List (Nat × Nat × Nat)) : (d.returnPages ps).links = d.links := by
  simp [Dev.returnPages]

@[simp] theorem Dev.wheyCore_links (d : Dev) (v : Nat) : (d.wheyCore v).links = d.links := by simp [Dev.wheyCore]

/-- The wheys of the vector cores of engines. -/
@[simp] theorem Dev.wheyCores_links (d : Dev) (es : List Nat) :
    (forEach es (fun e d => forUpTo 4 (fun k d => d.wheyCore (4 * e + k)) d) d).links = d.links := by
  exact Dev.forEach_links _ _ _ fun e x => by simp

@[simp] theorem Dev.releaseRun_links (d : Dev) (q : Nat) (c : Cmd) : (d.releaseRun q c).links = d.links := by
  simp [Dev.releaseRun]

@[simp] theorem Dev.killRerun_links (d : Dev) (q n : Nat) (k : KillCause) : (d.killRerun q n k).links = d.links := by
  unfold Dev.killRerun
  split <;> simp

@[simp] theorem Dev.squash_links (d : Dev) (q n : Nat) : (d.squash q n).links = d.links := by
  unfold Dev.squash
  split <;> simp

@[simp] theorem Dev.squashQueue_links (d : Dev) (q : Nat) : (d.squashQueue q).links = d.links := by
  unfold Dev.squashQueue
  split <;> simp

@[simp] theorem Dev.respond_links (d : Dev) (q : Nat) (r : Word) (t p e : Nat) : (d.respond q r t p e).links = d.links := by
  unfold Dev.respond
  split <;> simp

@[simp] theorem Dev.payOwed_links (d : Dev) (n : Nat) : (d.payOwed n).links = d.links := by
  unfold Dev.payOwed
  split <;> simp

@[simp] theorem Dev.serveFault_links (d : Dev) (n : Nat) : (d.serveFault n).links = d.links := by
  unfold Dev.serveFault
  split <;> simp

@[simp] theorem Dev.teardown_links (d : Dev) (c code : Nat) : (d.teardown c code).links = d.links := by
  unfold Dev.teardown
  split
  · rfl
  · simp only [Dev.ite_links, Dev.reportAs_links, ite_self]
    split
    · rfl
    · split <;> simp

@[simp] theorem Dev.killFault_links (d : Dev) (q n : Nat) (k : KillCause) : (d.killFault q n k).links = d.links := by
  simp only [Dev.killFault]
  split <;> simp

/-! ### A new figure (R299) -/

@[simp] theorem Dev.submitCmds_links (d : Dev) (q : Nat) (cs : List Cmd) (f : Bool) : (d.submitCmds q cs f).links = d.links := by
  unfold Dev.submitCmds
  split <;> simp

@[simp] theorem Dev.submitRun_links (d : Dev) (gh ex k : Nat) (f : Bool) : (d.submitRun gh ex k f).links = d.links := by
  unfold Dev.submitRun
  split <;> simp

@[simp] theorem Dev.dropRun_links (d : Dev) (q ex k : Nat) : (d.dropRun q ex k).links = d.links := by
  simp [Dev.dropRun]

@[simp] theorem Dev.moveRuns_links (d : Dev) (gh old ex k : Nat) : (d.moveRuns gh old ex k).links = d.links := by
  unfold Dev.moveRuns
  split <;> simp

@[simp] theorem Dev.switchFallback_links (d : Dev) (gh : Nat) (g : Graph) (fb k out : Nat) :
    (d.switchFallback gh g fb k out).links = d.links := by
  simp [Dev.switchFallback]

@[simp] theorem Dev.checkpoint_links (d : Dev) (ex k : Nat) (start : Bool) : (d.checkpoint ex k start).links = d.links := by
  simp only [Dev.checkpoint]
  split
  · rfl
  · split
    · split
      · split <;> simp
      · rfl
    · simp

@[simp] theorem Dev.derateEvent_links (d : Dev) (a x : Nat) : (d.derateEvent a x).links = d.links := by
  simp [Dev.derateEvent]

@[simp] theorem Dev.reCut_links (d old : Dev) : (d.reCut old).links = d.links := by
  simp [Dev.reCut]

@[simp] theorem Dev.reFig_links (d : Dev) : d.reFig.links = d.links := by
  simp [Dev.reFig]

@[simp] theorem Dev.offline_links (d : Dev) (die : Nat) : (d.offline die).links = d.links := by
  simp [Dev.offline, Dev.tearAll, Dev.loseStack]

@[simp] theorem Dev.failWaits_links (d : Dev) (l : Nat) : (d.failWaits l).links = d.links := by
  simp [Dev.failWaits]

/-! ### Links that go down and come up (R18) -/

/-- The link that a table of links has written last. -/
theorem Dev.link_of_put {d : Dev} {t : Tab LinkState} {l : Nat} {x : LinkState} (h : d.links = t.put l x) : d.link l = x := by
  rw [Dev.link, h, Tab.lookD_put_self]

/-- The loss of a link that is up settles a device in which the link is DOWN. -/
theorem Dev.downLink_eq (d : Dev) {l : Nat} (h : (d.link l).down = false) :
    ∃ e : Dev, d.downLink l = e.settle ∧ e.linkUp l = false := by
  have hu : (!d.linkUp l) = false := by simp [Dev.linkUp, h]
  refine ⟨_, by unfold Dev.downLink; rw [hu]; rfl, ?_⟩
  unfold Dev.linkUp
  rw [Dev.link_of_put (t := d.links) (x := { (d.failWaits l).link l with down := true, training := false, replays := 0, fails := [] })]
  · rfl
  · simp

/-- A retrain in SERVICE that ends well brings a link that is DOWN up, and what waited goes on. -/
theorem Dev.linkTrained_up (d : Dev) {l : Nat} (hd : (d.link l).down = true) (hs : d.pers = .service) :
    ∃ e : Dev, d.linkTrained l true = e.settle ∧ e.linkUp l = true := by
  refine ⟨_, by unfold Dev.linkTrained; rw [if_pos hd, if_pos (by simp [hs])], ?_⟩
  unfold Dev.linkUp
  rw [Dev.link_of_put (t := d.links) (x := { d.link l with down := false })]
  · rfl
  · simp

/-- A link that is DOWN stays so outside SERVICE, and where the retrain fails. -/
theorem Dev.linkTrained_stays (d : Dev) {l : Nat} {ok : Bool} (hd : (d.link l).down = true) (h : d.pers ≠ .service ∨ ok = false) :
    d.linkTrained l ok = d := by
  unfold Dev.linkTrained
  rw [if_pos hd, if_neg]
  obtain h | h := h <;> simp [h]

section
variable (d : Dev) {l : Nat} (hd : (d.link l).down = false) (ht : (d.link l).training = true)
include hd ht

theorem Dev.linkTrained_ok : d.linkTrained l true =
    ({ d with links := d.links.put l { d.link l with training := false, fails := [] } } : Dev).settle := by
  simp [Dev.linkTrained, hd, ht]

theorem Dev.linkTrained_again (hf : ((d.link l).failed d.now).length < 3) :
    d.linkTrained l false = { d with links := d.links.put l { d.link l with fails := (d.link l).failed d.now } } := by
  simp [Dev.linkTrained, hd, ht, Nat.not_le.mpr hf]

theorem Dev.linkTrained_third (hf : 3 ≤ ((d.link l).failed d.now).length) : d.linkTrained l false = d.downLink l := by
  simp [Dev.linkTrained, hd, ht, hf]

end

section
variable (d : Dev) {n : Nat} (ht : (d.stackIf n).training = true) (hu : d.stackUp n = true)
include ht hu

theorem Dev.stackTrained_ok : d.stackTrained n true =
    ({ d with stackIfs := d.stackIfs.put n { d.stackIf n with training := false, fails := [] } } : Dev).settle := by
  simp [Dev.stackTrained, ht, hu]

theorem Dev.stackTrained_again (hf : ((d.stackIf n).failed d.now).length < 3) : d.stackTrained n false =
    ({ d with stackIfs := d.stackIfs.put n { d.stackIf n with fails := (d.stackIf n).failed d.now } } : Dev).count 0x06 (8 * n + 4) 1 := by
  simp [Dev.stackTrained, ht, hu, Nat.not_le.mpr hf]

theorem Dev.stackTrained_third (hf : 3 ≤ ((d.stackIf n).failed d.now).length) : d.stackTrained n false = d.stackLost n := by
  simp [Dev.stackTrained, ht, hu, hf]

end

/-! ### Counts whose group has no accounting event, and what they leave of the log (R471, R483, R507) -/

/-- An entry stands in the log with at most `n` entries after it. -/
def Dev.Logged (d : Dev) (x : LogEntry) (n : Nat) : Prop := ∃ pre post, d.log = pre ++ x :: post ∧ post.length ≤ n

theorem Dev.Logged.mem {d : Dev} {x : LogEntry} {n : Nat} (h : d.Logged x n) : x ∈ d.log := by
  obtain ⟨pre, post, h, -⟩ := h
  simp [h]

/-- What changes between two devices is counters, interrupts, CNT_OVF_STAT and at most `m` new entries of the log. -/
structure Dev.Noted (d e : Dev) (m : Nat) : Prop where
  frame : Dev.Frame d e [.counters, .log, .interrupts] cntRegs
  time  : e.tb = d.tb
  log   : ∀ x n, n + m < 65536 → d.Logged x n → e.Logged x (n + m)

theorem Dev.Noted.trans {d e f : Dev} {m n : Nat} (h : Dev.Noted d e m) (g : Dev.Noted e f n) : Dev.Noted d f (m + n) where
  frame := h.frame.trans g.frame
  time := g.time.trans h.time
  log x k hk hx := by
    rw [← Nat.add_assoc]
    exact g.log x (k + m) (by omega) (h.log x k (by omega) hx)

/-- Where nothing changes, no more is noted. -/
theorem Dev.Noted.idle (d : Dev) (m : Nat) : Dev.Noted d d m :=
  ⟨.refl d _ _, rfl, fun _ n _ ⟨pre, post, hl, hp⟩ => ⟨pre, post, hl, Nat.le_trans hp (Nat.le_add_right n m)⟩⟩

/-- An effect that is made only where a condition holds. -/
theorem Dev.Noted.orStay {d e : Dev} {b : Prop} [Decidable b] {m : Nat} (h : Dev.Noted d e m) : Dev.Noted d (if b then e else d) m := by
  split
  · exact h
  · exact .idle d m

/-- A device with the same log and time. -/
theorem Dev.Noted.quiet {d e : Dev} (hf : Dev.Frame d e [.counters, .log, .interrupts] cntRegs) (ht : e.tb = d.tb) (hl : e.log = d.log) :
    Dev.Noted d e 0 := ⟨hf, ht, fun _ _ _ ⟨pre, post, h, hn⟩ => ⟨pre, post, hl.trans h, hn⟩⟩

/-- The newest entry is the one just appended. -/
theorem Dev.logged_logPush (d : Dev) (x : LogEntry) : (d.logPush x).Logged { x with inj := d.injUnit } 0 :=
  ⟨_, [], rfl, Nat.le_refl _⟩

/-- An entry appended to the ring drops none of the 65,535 newest. -/
theorem Dev.noted_logE (d : Dev) (kind c s a x : Nat) : Dev.Noted d (d.logE kind c s a x) 1 := by
  refine ⟨(d.frame_logE kind c s a x).mono (by simp) (by simp), rfl, fun y n hn ⟨pre, post, hl, hp⟩ => ?_⟩
  unfold Dev.logE
  rw [Dev.Logged, Dev.logPush_log]
  split
  · exact ⟨pre, post ++ [_], by rw [hl, List.append_assoc, List.cons_append], by simpa using hp⟩
  · next hlen =>
    cases pre with
    | nil => rw [hl, List.nil_append, List.length_cons] at hlen; omega
    | cons z pre =>
      have hrest : d.log.drop 1 = pre ++ y :: post := by rw [hl, List.cons_append, List.drop_one, List.tail_cons]
      exact ⟨pre, post ++ [_], by rw [hrest, List.append_assoc, List.cons_append], by simpa using hp⟩

theorem Dev.noted_cnts (d : Dev) (t : Tab Counter) : Dev.Noted d { d with cnts := t } 0 :=
  .quiet ((d.frame_cnts t).mono (by simp) (by simp)) rfl rfl

theorem Dev.noted_ovf (d : Dev) (i : Nat) (b : Bool) : Dev.Noted d (d.setB aCntOvfStat i b) 0 :=
  .quiet ((d.frame_setB aCntOvfStat i b (by decide) (by decide)).mono (by simp) fun _ h => h) rfl rfl

theorem Dev.noted_raise (d : Dev) (i : Irq) : Dev.Noted d (d.raise i) 0 :=
  .quiet ((d.frame_raise i).mono (by simp) (by simp)) rfl rfl

/-- The counters of groups 0x40 to 0x7F alone have an accounting event (R479). -/
theorem Dev.noted_cntUpd (d : Dev) {g : Nat} (hg : g < 0x40) (i : Nat) (f : Counter → Counter) : Dev.Noted d (d.cntUpd g i f) 1 := by
  have hn : ¬ 0x40 ≤ g := by omega
  simp only [Dev.cntUpd, hn, decide_false, Bool.false_and, Bool.false_eq_true, if_false]
  have h0 := d.noted_cnts (d.cnts.put (cntKey g i) (f (d.cnt g i)))
  have h1 := h0.trans (Dev.noted_ovf _ (ovfGroup g) true)
  split
  · split
    · exact (h1.trans (Dev.noted_raise _ .counter)).trans (Dev.noted_logE _ 15 0 g 0 i)
    · exact h1.trans (.idle _ 1)
  · exact h0.trans (.idle _ 1)

theorem Dev.noted_count (d : Dev) {g : Nat} (hg : g < 0x40) (i k : Nat) : Dev.Noted d (d.count g i k) 2 :=
  (d.noted_cntUpd hg i _).trans (.orStay (Dev.noted_cntUpd _ hg _ _))

/-! ### CRC errors (R17, R291) -/

/-- Whether a flit's error is an injected one takes no device time. -/
theorem Dev.now_fiFlit (d : Dev) (l : Nat) : (d.fiFlit l).2.now = d.now := by
  have hc : ∀ (e : Dev) i, (e.countDev i).now = e.now := fun e i =>
    congrArg (· / 2 ^ 32) (e.noted_count (g := 0x0A) (by decide) i 1).time
  simp only [Dev.fiFlit]
  split
  · rfl
  · split
    · rfl
    · exact hc _ _

section
variable (d : Dev) {l : Nat} (hd : (d.link l).down = false) (ht : (d.link l).training = false)
include hd ht

theorem Dev.linkCrc_replays {y : LinkState} (hr : (d.link l).replay d.now 40 = some y) : d.linkCrc l =
    { (d.fiFlit l).2 with links := (d.fiFlit l).2.links.put l { y with
      crc := (d.link l).crc.add 1, crcInj := if (d.fiFlit l).1 then (d.link l).crcInj.add 1 else (d.link l).crcInj } } := by
  simp [Dev.linkCrc, hd, ht, Dev.now_fiFlit, hr]

theorem Dev.linkCrc_retrains (hr : (d.link l).replay d.now 40 = none) : d.linkCrc l =
    { (d.fiFlit l).2 with links := (d.fiFlit l).2.links.put l { d.link l with training := true, replays := 0 } } := by
  simp [Dev.linkCrc, hd, ht, Dev.now_fiFlit, hr]

end

section
variable (d : Dev) {n : Nat} (ht : (d.stackIf n).training = false) (hu : d.stackUp n = true)
include ht hu

theorem Dev.stackCrc_replays {y : LinkState} (hr : (d.stackIf n).replay d.now 60 = some y) :
    d.stackCrc n = ({ d with stackIfs := d.stackIfs.put n y } : Dev).count 0x06 (8 * n + 2) 1 := by
  simp [Dev.stackCrc, ht, hu, hr]

theorem Dev.stackCrc_retrains (hr : (d.stackIf n).replay d.now 60 = none) : d.stackCrc n =
    ({ d with stackIfs := d.stackIfs.put n { d.stackIf n with training := true, replays := 0 } } : Dev).count 0x06 (8 * n + 4) 1 := by
  simp [Dev.stackCrc, ht, hu, hr]

end

/-! ### A die that goes offline (R20) -/

/-- A report of a FAULT-class code of hardware: the condition is held under its code, and FAULT_N is latched (R275, R276). -/
theorem Dev.report_fault (d : Dev) {code : Nat} (subject detail : Nat) (hc : repClass code = .fault) (hw : hwSourced code = true) :
    (code + 32, subject) ∈ (d.report code subject detail).held ∧ (d.report code subject detail).faultLatched = true := by
  have hn : (d.cpbLost.isSome && !hwSourced code) = false := by simp [hw]
  simp only [Dev.report, Dev.reportAs, hn, hc]
  exact ⟨mem_insertNew _ _, rfl⟩

/-- A die that is not offline yet joins those that are; event 16 and report 11 tell it, and a new figure is formed. -/
theorem Dev.offline_tells (d : Dev) {die : Nat} (h : die ∉ d.dieOff) :
    ∃ x : Dev, d.offline die = ((x.post 64 16 die 0).report 11 die).reFig ∧ die ∈ x.dieOff := by
  refine ⟨_, by unfold Dev.offline; rw [if_neg h], ?_⟩
  simp [Dev.loseStack]

/-- The telling leaves the dies offline. -/
theorem Dev.dieOff_told (d : Dev) (k c a x code subject : Nat) : ((d.post k c a x).report code subject).dieOff = d.dieOff := by
  have hp := ((d.frame_post k c a x).same .links (by decide)).2.2
  have hr := (((d.post k c a x).frame_report code subject 0).same .links (by decide)).2.2
  exact hr.trans hp

/-! ### The patrol scrub (R290, R292) -/

/-- Counts and entries of the log leave every cell its fabric address. -/
theorem Dev.Noted.devOf {d e : Dev} {m : Nat} (h : Dev.Noted d e m) (k : Nat) : e.devOf k = d.devOf k := by
  have hr : ∀ a, a = aBwrIlvLo ∨ a = aBwrIlvHi → e.reg a = d.reg a := by
    rintro a (rfl | rfl) <;> exact h.frame.regs _ (by unfold cntRegs; decide)
  simp [Dev.devOf, Dev.ilvBit, Dev.getB, hr]

theorem Dev.poison_count (d : Dev) (g i k : Nat) : (d.count g i k).poison = d.poison :=
  ((d.frame_count g i k).same .memory (by decide)).2

/-- A line that is poisoned joins those that are (R292). -/
theorem Dev.poison_poisonLine (d : Dev) (k : Nat) : (d.poisonLine k).poison = k :: d.poison := by
  rw [Dev.poisonLine, Dev.poison_count, Dev.logE, Dev.logPush_poison]
  rfl

/-- The cell of a line of a stack. -/
def lineCell (n line : Nat) : Nat := n * gib36 + line % (gib36 / 64) * 64

section
variable (d : Dev) {n : Nat} (line : Nat) (hs : d.pers ≠ .sleep) (hu : d.stackUp n = true)
include hs hu

theorem Dev.scrub_clean : d.scrub n line .clean = d.count 0x06 (8 * n + 3) 1 := by
  simp [Dev.scrub, hs, hu]

theorem Dev.scrub_corrected : d.scrub n line .corrected =
    ((d.count 0x06 (8 * n + 3) 1).logE 4 0 n ((d.count 0x06 (8 * n + 3) 1).devOf (lineCell n line)) 0).count 0x06 (8 * n) 1 := by
  simp [Dev.scrub, hs, hu, lineCell]

theorem Dev.scrub_uncorrectable : d.scrub n line .uncorrectable =
    if lineCell n line ∈ (d.count 0x06 (8 * n + 3) 1).poison then d.count 0x06 (8 * n + 3) 1
    else (d.count 0x06 (8 * n + 3) 1).poisonLine (lineCell n line) := by
  simp [Dev.scrub, hs, hu, lineCell]
  rfl

/-- A line that cannot be corrected is poisoned, and what was stays so. -/
theorem Dev.scrub_poisons : lineCell n line ∈ (d.scrub n line .uncorrectable).poison ∧
    ∀ j ∈ d.poison, j ∈ (d.scrub n line .uncorrectable).poison := by
  rw [d.scrub_uncorrectable line hs hu]
  split
  case isTrue h => exact ⟨h, fun j hj => by rwa [Dev.poison_count]⟩
  case isFalse =>
    rw [Dev.poison_poisonLine, Dev.poison_count]
    exact ⟨List.mem_cons_self, fun j hj => List.mem_cons_of_mem _ hj⟩

/-- A line that is corrected is logged, and nothing else changes but counts. -/
theorem Dev.scrub_logs : Dev.Frame d (d.scrub n line .corrected) [.counters, .log, .interrupts] cntRegs ∧
    ∃ x ∈ (d.scrub n line .corrected).log, x.kind = 4 ∧ x.subject = n ∧ x.addr = d.devOf (lineCell n line) ∧ x.detail = 0 ∧
      x.time = d.now := by
  have hc : Dev.Noted d (d.count 0x06 (8 * n + 3) 1) 2 := d.noted_count (by decide) _ _
  rw [d.scrub_corrected line hs hu, hc.devOf]
  have hl := Dev.noted_logE (d.count 0x06 (8 * n + 3) 1) 4 0 n (d.devOf (lineCell n line)) 0
  have ht := Dev.noted_count ((d.count 0x06 (8 * n + 3) 1).logE 4 0 n (d.devOf (lineCell n line)) 0) (g := 0x06) (by decide) (8 * n) 1
  refine ⟨((hc.trans hl).trans ht).frame, _, (ht.log _ 0 (by omega) (Dev.logged_logPush _ _)).mem, rfl, rfl, rfl, rfl, ?_⟩
  exact congrArg (· / 2 ^ 32) hc.time

end

/-! ### The rows -/

/-- A row that is an effect at its device time ends in any device that the effect is known to leave. -/
theorem ends_of_effect {c : Instr} {s : State} {t : Nat} {f : Dev → Dev} {e : Dev} (hx : exec c s = s.act t f)
    (hp : s.dev.power = .on) (he : f (s.dev.advance t) = e) : Ends c s (Dev.keep (s.dev.advance t) e) := by
  subst he
  exact ends_act hx hp

theorem ends_stackRetrain {s : State} (hp : s.dev.power = .on) (t : Nat) {n : Fin 8} (hn : n.val < 4) (ok : Bool) {e : Dev}
    (he : (s.dev.advance t).stackTrained n.val ok = e) :
    Ends (.linkRetrainComplete true n ok t) s (Dev.keep (s.dev.advance t) e) :=
  ends_of_effect (exec_linkRetrainComplete s true n ok t) hp ((if_pos hn).trans he)

/-- Settles O43: each row is the effect of its link, stack, die or line, and each of these has one lemma per clause. -/
theorem linksAndLines : Obligations.LinksAndLines := by
  unfold Obligations.LinksAndLines
  refine ⟨fun s t hp => ?_, fun s n line t hp hs hu => ?_⟩
  · let d := s.dev.advance t
    refine ⟨fun l hd ht => ⟨fun y hr => ?_, fun hr => ?_⟩, fun n ht hu => ⟨fun y hr => ?_, fun hr => ?_⟩, fun l hd => ?_,
      fun l hd ht => ⟨?_, fun hf => ?_, fun hf => ?_⟩, fun n hn ht hu => ⟨?_, fun hf => ?_, fun hf => ?_⟩,
      fun l hd => ⟨fun ok h => ?_, fun hs => ?_⟩, fun n hn => ?_⟩
    · exact ends_of_effect (exec_linkCrcError s l t) hp (d.linkCrc_replays hd ht hr)
    · exact ends_of_effect (exec_linkCrcError s l t) hp (d.linkCrc_retrains hd ht hr)
    · exact ends_of_effect (exec_stackCrcError s n t) hp (d.stackCrc_replays ht hu hr)
    · exact ends_of_effect (exec_stackCrcError s n t) hp (d.stackCrc_retrains ht hu hr)
    · obtain ⟨e, he, hdown⟩ := d.downLink_eq hd
      exact ⟨e, ends_of_effect (exec_linkDown s l t) hp he, hdown⟩
    · exact ends_of_effect (exec_linkRetrainComplete s false l true t) hp (d.linkTrained_ok hd ht)
    · exact ends_of_effect (exec_linkRetrainComplete s false l false t) hp (d.linkTrained_again hd ht hf)
    · exact ends_of_effect (exec_linkRetrainComplete s false l false t) hp (d.linkTrained_third hd ht hf)
    · exact ends_stackRetrain hp t hn true (d.stackTrained_ok ht hu)
    · exact ends_stackRetrain hp t hn false (d.stackTrained_again ht hu hf)
    · exact ends_stackRetrain hp t hn false (d.stackTrained_third ht hu hf)
    · exact ends_of_effect (exec_linkRetrainComplete s false l ok t) hp (d.linkTrained_stays hd h)
    · obtain ⟨e, he, hup⟩ := d.linkTrained_up hd hs
      exact ⟨e, ends_of_effect (exec_linkRetrainComplete s false l true t) hp he, hup⟩
    · obtain ⟨x, he, hoff⟩ := d.offline_tells hn
      obtain ⟨hheld, hfault⟩ := (x.post 64 16 n.val 0).report_fault n.val 0 (code := 11) (by decide) (by decide)
      exact ⟨x, ends_of_effect (exec_dieOffline s n t) hp (congrArg Dev.settle he),
        (x.dieOff_told _ _ _ _ _ _).symm ▸ hoff, List.mem_map.mpr ⟨_, hheld, by simp⟩, hfault⟩
  · let d := s.dev.advance t
    refine ⟨?_, ⟨d.scrub n.val line .corrected, ?_, ?_⟩, ⟨d.scrub n.val line .uncorrectable, ?_, ?_⟩⟩
    · exact ends_of_effect (exec_patrolScrub s n line .clean t) hp (d.scrub_clean line hs hu)
    · exact ends_of_effect (exec_patrolScrub s n line .corrected t) hp rfl
    · exact (d.scrub_logs line hs hu).symm
    · exact ends_of_effect (exec_patrolScrub s n line .uncorrectable t) hp rfl
    · exact d.scrub_poisons line hs hu

end Sys2Proof.Machine

/-! SUPPORT. What reset leaves; the counters of group 0x00, the doorbell and the unparking of a context (R73 to R75, R98, R471). -/

namespace Sys2Proof.Machine

/-! ### What reset leaves -/

/-- Settles O3: every table of the reset device is empty and every register is unwritten, so each clause reads a default. -/
theorem resetLeaves : Obligations.ResetLeaves := by
  unfold Obligations.ResetLeaves
  exact ⟨fun _ => rfl, fun _ => rfl, fun _ => rfl, fun _ => rfl, fun _ => rfl, fun _ => rfl, fun _ => rfl, fun _ _ => rfl, rfl, rfl,
    by decide +kernel, rfl, rfl⟩

/-! ### Counters of group 0x00, kept under 0x80 to 0xBF (R471, R477) -/

/-- The table of counters after a counter's change, outside the accounting groups (R479). -/
theorem Dev.cnts_cntUpd (d : Dev) {g : Nat} (hg : g < 0x40 ∨ 0x80 ≤ g) (i : Nat) (f : Counter → Counter) :
    (d.cntUpd g i f).cnts = d.cnts.put (cntKey g i) (f (d.cnt g i)) := by
  have hn : (decide (0x40 ≤ g) && decide (g < 0x80)) = false := by simp; omega
  simp only [Dev.cntUpd, hn, Bool.false_and, Bool.false_eq_true, if_false]
  split
  · split <;> rfl
  · rfl

/-- Outside the accounting groups a counter's change posts no event. -/
theorem Dev.frame_cntUpd_quiet (d : Dev) {g : Nat} (hg : g < 0x40 ∨ 0x80 ≤ g) (i : Nat) (f : Counter → Counter) :
    Dev.Frame d (d.cntUpd g i f) [.counters, .interrupts, .log] cntRegs := by
  have hn : (decide (0x40 ≤ g) && decide (g < 0x80)) = false := by simp; omega
  have hset : Dev.Frame d { d with cnts := d.cnts.put (cntKey g i) (f (d.cnt g i)) } [.counters, .interrupts, .log] cntRegs :=
    (d.frame_cnts _).mono (by simp) (by simp)
  have hovf : ∀ e : Dev, Dev.Frame e (e.setB aCntOvfStat (ovfGroup g) true) [.counters, .interrupts, .log] cntRegs := fun e =>
    (e.noted_ovf _ _).frame.mono (by simp) fun _ h => h
  have htell : ∀ e : Dev, Dev.Frame e ((e.raise .counter).logE 15 0 g 0 i) [.counters, .interrupts, .log] cntRegs := fun e =>
    ((e.noted_raise .counter).trans (Dev.noted_logE _ 15 0 g 0 i)).frame.mono (by simp) fun _ h => h
  simp only [Dev.cntUpd, hn, Bool.false_and, Bool.false_eq_true, if_false]
  split
  · split
    · exact (hset.trans (hovf _)).trans (htell _)
    · exact hset.trans (hovf _)
  · exact hset

/-- A counter of group 0x00 has no injected twin (R477). -/
theorem Dev.countInst_eq (d : Dev) {n : Nat} (hn : n < 64) (i k : Nat) : d.countInst n i k = d.cntUpd (0x80 + n) i (·.add k) := by
  have ht : twinGroup (0x80 + n) = false := by simp [twinGroup]; omega
  simp [Dev.countInst, Dev.count, ht]

theorem Dev.frame_countInst (d : Dev) {n : Nat} (hn : n < 64) (i k : Nat) :
    Dev.Frame d (d.countInst n i k) [.counters, .interrupts, .log] cntRegs := by
  rw [d.countInst_eq hn]
  exact d.frame_cntUpd_quiet (.inr (by omega)) _ _

theorem Dev.cnt_countInst (d : Dev) {n : Nat} (hn : n < 64) (i k : Nat) :
    (d.countInst n i k).cnt (0x80 + n) i = (d.cnt (0x80 + n) i).add k := by
  rw [d.countInst_eq hn, Dev.cnt, d.cnts_cntUpd (.inr (by omega)), Tab.lookD_put_self]

/-! ### The doorbell (R73 to R75) -/

section
variable (d : Dev) {n b q : Nat} {x : Queue} {v : Word} (hb : (d.inst n).doorbells.look b = some q) (hq : d.queue? q = some x)
  (ha : (d.page n).state = .active)
include hb hq ha

/-- A value that moves TAIL forward and leaves no more than the ring holds. -/
theorem Dev.doorbell_forward {c : Ctx} (hold : (x.tail + 2 ^ 32 - x.head) % 2 ^ 32 ≤ (v.toNat + 2 ^ 32 - x.head) % 2 ^ 32)
    (hnew : (v.toNat + 2 ^ 32 - x.head) % 2 ^ 32 ≤ 2 ^ x.log2n) (hv : v.toNat ≠ x.tail) (hc : d.ctx? x.ctx = some c) :
    d.doorbell n b v =
      (((d.setQueue q { x with tail := v.toNat }).setCtx x.ctx { c with lastUse := d.now }).unpark x.ctx).settle := by
  have hc' : (d.setQueue q { x with tail := v.toNat }).ctx? x.ctx = some c := hc
  simp only [Dev.doorbell, hb, hq, ha, hc', if_neg hv, if_pos (And.intro hold hnew)]
  rfl

/-- The value of TAIL itself. -/
theorem Dev.doorbell_same (hv : v.toNat = x.tail) (hnew : (v.toNat + 2 ^ 32 - x.head) % 2 ^ 32 ≤ 2 ^ x.log2n) :
    d.doorbell n b v = d := by
  have hold : (x.tail + 2 ^ 32 - x.head) % 2 ^ 32 ≤ (v.toNat + 2 ^ 32 - x.head) % 2 ^ 32 := hv ▸ Nat.le_refl _
  simp only [Dev.doorbell, hb, hq, ha, if_pos hv, if_pos (And.intro hold hnew)]
  rfl

/-- A value that moves TAIL back, or that leaves more than the ring holds. -/
theorem Dev.doorbell_halts (h : 2 ^ x.log2n < (v.toNat + 2 ^ 32 - x.head) % 2 ^ 32 ∨
      (v.toNat + 2 ^ 32 - x.head) % 2 ^ 32 < (x.tail + 2 ^ 32 - x.head) % 2 ^ 32) :
    d.doorbell n b v = (d.setQueue q { x with halted := true }).post x.inst 6 3 (d.handleOf x.ctx) := by
  have hn : ¬ ((x.tail + 2 ^ 32 - x.head) % 2 ^ 32 ≤ (v.toNat + 2 ^ 32 - x.head) % 2 ^ 32 ∧
      (v.toNat + 2 ^ 32 - x.head) % 2 ^ 32 ≤ 2 ^ x.log2n) := by omega
  simp only [Dev.doorbell, Dev.halt, hb, hq, ha, if_neg hn]
  rfl

end

/-- A write to a DBIDX that names no queue, or on a page that is not ACTIVE, is counted as stray and does nothing else. -/
theorem Dev.doorbell_stray (d : Dev) {n b : Nat} (v : Word) (h : (d.inst n).doorbells.look b = none ∨ (d.page n).state ≠ .active)
    (hf : (d.page n).state ≠ .free) : d.doorbell n b v = d.countInst n 10 := by
  have hl : d.pageLive n = true := decide_eq_true hf
  unfold Dev.doorbell
  simp only [hl, if_true]
  cases hb : (d.inst n).doorbells.look b with
  | none => rfl
  | some q =>
    have ha : (d.page n).state ≠ .active := h.resolve_left (by simp [hb])
    simp only [if_pos ha]
    cases d.queue? q <;> rfl

theorem ends_doorbellWrite {s : State} (hp : s.dev.power = .on) (inst : Fin 64) (b : Fin 4096) (wide : Bool) (v : Dword) (t : Nat)
    {e : Dev} (he : (s.dev.advance t).doorbell inst.val b.val (v.setWidth 32) = e) :
    Ends (.doorbellWrite inst b wide false v t) s (Dev.keep (s.dev.advance t) e) :=
  ends_of_effect (exec_doorbellWrite s inst b wide false v t) hp he

/-! ### Unparking (R98) -/

/-- A parked context takes the free slot. -/
theorem Dev.unpark_free (d : Dev) {k slot : Nat} {c : Ctx} (hc : d.ctx? k = some c) (hpk : c.parked = true) (hw : c.waitSince = none)
    (hs : d.freeSlot = some slot) :
    d.unpark k = (d.setCtx k { c with parked := false, slot, waitSince := none }).countInst c.inst 12 := by
  simp [Dev.unpark, Dev.makeSlot, hc, hpk, hw, hs]

/-- Settles O16: each clause is one of the outcomes of the doorbell, or the unparking of a context. -/
theorem doorbellsMoveTheTail : Obligations.DoorbellsMoveTheTail := by
  unfold Obligations.DoorbellsMoveTheTail
  intro s inst b v t q x hp d n w
  refine ⟨fun hb hq ha => ⟨fun c wide hold hnew hv hc => ?_, fun wide hv hnew => ?_, fun wide h => ?_⟩, fun h hf wide => ?_, ?_,
    fun k c slot hc hpk hw hs hr => ?_⟩
  · exact ends_doorbellWrite hp inst b wide v t (d.doorbell_forward hb hq ha hold hnew hv hc)
  · exact ends_doorbellWrite hp inst b wide v t (d.doorbell_same hb hq ha hv hnew)
  · exact ends_doorbellWrite hp inst b wide v t (d.doorbell_halts hb hq ha h)
  · exact ⟨_, ends_doorbellWrite hp inst b wide v t (d.doorbell_stray w h hf), rfl, d.cnt_countInst inst.isLt 10 1,
      d.frame_countInst inst.isLt 10 1⟩
  · exact ends_of_effect (exec_doorbellWrite s inst b false true v t) hp rfl
  · refine ends_of_effect (exec_contextUnpark s k t) hp ?_
    rw [← d.unpark_free hc hpk hw hs]
    exact if_pos hr

end Sys2Proof.Machine

/-! SUPPORT. The rows of the class commands: a dispatched command's run to its end (R85, R87 step 1). -/

namespace Sys2Proof.Machine

/-- Each row of a class command runs the command that it names, where that has the row's operation. -/
theorem exec_classRows (q : QId) (seq : Word) (t : Nat) (s : State) : ∀ p ∈ classRows,
    exec (p.2 q seq t) s = s.act t fun d => d.runRow q.val seq.toNat fun c => decide (c.op = p.1) := by
  simp only [classRows, List.forall_mem_cons]
  exact ⟨rfl, rfl, rfl, rfl, rfl, rfl, rfl, rfl, rfl, rfl, rfl, rfl, rfl, rfl, rfl, rfl, rfl, rfl, rfl, rfl, rfl, List.forall_mem_nil _⟩

/-! ### A dispatched command -/

/-- A command that its row runs now: it is dispatched and not suspended, and a command of a sort unit holds one. -/
structure Cmd.Ready (c : Cmd) : Prop where
  stage : c.stage = .dispatched
  going : c.suspended = none
  sort  : c.isSort = true → c.sortDie.isSome = true

/-- The row of a command that is ready and that no retraining link holds runs it. -/
theorem Dev.runRow_ready (d : Dev) {q seq : Nat} {c : Cmd} (hc : d.cmd? q seq = some c) (hr : c.Ready) (hl : d.linksHeld c = false) :
    d.runRow q seq (fun x => decide (x.op = c.op)) = (d.runCmd q c).settle := by
  obtain ⟨hst, hsu, hso⟩ := hr
  have hunit : (c.isSort && c.sortDie.isNone) = false :=
    Bool.and_eq_false_imp.mpr fun h => Option.isNone_eq_false_iff.mpr (hso h)
  simp [Dev.runRow, hc, hst, hsu, hl, hunit]

/-- The run's data lies in memory that does not answer (R405), or a path of its transfers is lost (R18). -/
def Dev.runQuiet (d : Dev) (q : Nat) (c : Cmd) : Bool :=
  d.linksLost c || (d.touched q c false ++ d.touched q c true).any fun r => d.quietAt r.base r.len

theorem Dev.runCmd_quiet (d : Dev) {q : Nat} {c : Cmd} (h : d.runQuiet q c = true) : d.runCmd q c = d.killFault q c.seq .link :=
  if_pos h

theorem Dev.runCmd_refused (d : Dev) {q a : Nat} {c : Cmd} (h : d.runQuiet q c = false) (ha : d.refusedBy q c = some a) :
    d.runCmd q c = d.tearAccess q c a false := by
  unfold Dev.runQuiet at h
  simp only [Dev.runCmd, h, ha, Bool.false_eq_true, if_false]

theorem Dev.runCmd_poisoned (d : Dev) {q : Nat} {c : Cmd} (h : d.runQuiet q c = false) (ha : d.refusedBy q c = none)
    (hp : ((d.touched q c false).any fun r => d.poisoned r.base r.len) = true) : d.runCmd q c = d.tearPoison q := by
  unfold Dev.runQuiet at h
  simp only [Dev.runCmd, h, ha, hp, Bool.false_eq_true, if_false, if_true]

/-- A run that nothing stops: the operation's effect, the records of a twinned run, step 1 of the press. -/
theorem Dev.runCmd_ends (d : Dev) {q : Nat} {c : Cmd} (h : d.Runs q c) :
    d.runCmd q c = (Dev.closeStreams d (d.compute q c) q c).finish q c := by
  obtain ⟨-, hreach, hmay, hclean, hbook, hconv, hdraw⟩ := h
  have hbook' : (!c.isJob && (decide (c.cls = 1) || decide (c.op = 0x0301) || decide (c.cls = 4)) && d.bookBeyond c) = false :=
    Bool.and_eq_false_imp.mpr fun h => by
      simp only [Bool.and_eq_true, Bool.not_eq_true', Bool.or_eq_true, decide_eq_true_eq, or_assoc] at h
      exact hbook h.1 h.2
  have hconv' : (decide (c.op = 0x0201) && d.convBookBeyond c) = false :=
    Bool.and_eq_false_imp.mpr fun h => hconv (of_decide_eq_true h)
  have hdraw' : (decide (c.op = 0x10001) && d.drawBad c) = false :=
    Bool.and_eq_false_imp.mpr fun h => hdraw (of_decide_eq_true h)
  simp only [Dev.runCmd, hreach, hmay, hclean, hbook', hconv', hdraw', Bool.false_eq_true, if_false]

/-! ### The rows -/

section
variable {s : State} {q : QId} {seq : Word} {t : Nat} {c : Cmd} (hp : s.dev.power = .on)
  (hc : s.dev.cmd? q.val seq.toNat = some c) (hr : c.Ready)
include hp hc hr

/-- The row of a ready command that no retraining link holds ends in what the run leaves, settled. -/
theorem ends_classRow {row : QId → Word → Nat → Instr} (hrow : (c.op, row) ∈ classRows) (hl : (s.dev.advance t).linksHeld c = false)
    {e : Dev} (he : (s.dev.advance t).runCmd q.val c = e) : Ends (row q seq t) s (Dev.keep (s.dev.advance t) e.settle) :=
  ends_of_effect (exec_classRows q seq t s _ hrow) hp (((s.dev.advance t).runRow_ready hc hr hl).trans (congrArg Dev.settle he))

/-- A RENDER job draws its two free counts before it runs (R330). -/
theorem ends_render (hop : c.op = 0x10001) (hruns : (s.dev.advance t).partialRenders.Runs q.val c) :
    let e := (s.dev.advance t).partialRenders
    Ends (.render q seq t) s (Dev.keep (s.dev.advance t) ((Dev.closeStreams e (e.compute q.val c) q.val c).finish q.val c).settle) := by
  intro e
  have hcd : (s.dev.advance t).cmd? q.val seq.toNat = some c := hc
  have hce : e.cmd? q.val seq.toNat = some c := hc
  have hrun : e.runRow q.val seq.toNat (fun x => decide (x.op = 0x10001)) = (e.runCmd q.val c).settle :=
    hop ▸ e.runRow_ready hce hr hruns.free
  refine ends_of_effect (exec_render s q seq t) hp ?_
  rw [← e.runCmd_ends hruns, ← hrun]
  simp [hcd, hop, hr.stage, hr.going, e]

end

/-- Settles O30: a row runs its command, and the run has one of four outcomes. -/
theorem classCommandsRun : Obligations.ClassCommandsRun := by
  unfold Obligations.ClassCommandsRun
  refine ⟨?_, ?_⟩
  · intro s q seq t c hp hc hst hsu hso d
    have hr : c.Ready := ⟨hst, hsu, hso⟩
    exact ⟨fun row hrow hruns => ends_classRow hp hc hr hrow hruns.free (d.runCmd_ends hruns),
      fun hop hruns => ends_render hp hc hr hop hruns⟩
  · intro s q seq t c row hp hc hrow hst hsu hso d quiet hl
    have hr : c.Ready := ⟨hst, hsu, hso⟩
    exact ⟨fun hq => ends_classRow hp hc hr hrow hl (d.runCmd_quiet hq),
      fun a hq ha => ends_classRow hp hc hr hrow hl (d.runCmd_refused hq ha),
      fun hq ha hpo => ends_classRow hp hc hr hrow hl (d.runCmd_poisoned hq ha hpo)⟩

end Sys2Proof.Machine

/-! SUPPORT. The press behind a fence that waits: the state in which a press that meets all conditions leaves no record (R80, R87). -/

namespace Sys2Proof.Machine

open Sys2Proof.Tests

/-- COPY with SIGNAL, the first command of its queue, pressed up to step 5; its fence word is at 0x40030000. -/
def fencedCmd : Cmd :=
  { finished 0x0501 with desc := 0x10040501 :: List.replicate 11 0 ++ [0x40030000, 0, 1, 0] }

/-- The command after it has finished too. -/
def nextCmd : Cmd := { finished 0x0501 with seq := 1 }

/-- A command of another queue that holds a lock on the line of the fence word. -/
def lockingCmd : Cmd := { cmdOf 0x0501 [] [⟨0x40030000, 64⟩] with locked := true }

/-- Q0 with the command after the fenced one in its window, and the queue of the locking command. -/
def fencedQueue : Queue :=
  { ctx := 0, inst := 1, dbidx := 0, ring := 0x40010000, log2n := 4, compl := 0x40020000, head := 2, tail := 2, window := [nextCmd] }
def lockingQueue : Queue :=
  { ctx := 0, inst := 1, dbidx := 1, ring := 0x40011000, log2n := 4, compl := 0x40021000, head := 1, tail := 1, window := [lockingCmd] }

/-- Steps 6 to 8 of the first command's press wait for the lock. -/
def behindFence : Dev :=
  { running nextCmd with queues := [(0, fencedQueue), (1, lockingQueue)], tb := 10000 * 2 ^ 32, waiting := [.fence 0 fencedCmd 9000] }

/-- The fence has reason to wait: it may be written, and its line is locked. -/
theorem fenceWaits_behindFence :
    fencedCmd.signal = true ∧ behindFence.fenceBad 0 fencedCmd = none ∧ behindFence.mustWait fencedCmd.signalAddr 8 true = true := by
  decide +kernel

theorem behindFence_pressable :
    behindFence.isFirst 0 1 = true ∧ nextCmd.step3 = none ∧ (behindFence.advance 0).loggers = [] ∧
    (behindFence.advance 0).linesUp (fencedQueue.compl + nextCmd.seq % 2 ^ fencedQueue.log2n * 32) 32 = true ∧
    (∀ i, i < 32 → ((behindFence.advance 0).phys (fencedQueue.compl + nextCmd.seq % 2 ^ fencedQueue.log2n * 32 + i)).isSome = true) := by
  decide +kernel

/-- The second press finds its queue's fence waiting and waits behind it: no byte of its record is written. -/
theorem publish_behindFence :
    let e := (behindFence.advance 0).publish 0 fencedQueue nextCmd
    e.waiting = [.fence 0 fencedCmd 9000, .fence 0 nextCmd 10000] ∧
    e.rdWords (fencedQueue.compl + nextCmd.seq % 2 ^ fencedQueue.log2n * 32) 8 = List.replicate 8 0 := by
  decide +kernel

/-- Refutes O34: its clause on the completion record does not ask that no fence of the queue waits. The command at the front of
`fencedQueue` meets every condition of the clause; an earlier press of the queue waits for the line of its fence (R84), so this press
waits behind it, and the word of the record that holds OK reads 0. -/
theorem not_commandsPressAndWait : ¬ Obligations.CommandsPressAndWait := by
  unfold Obligations.CommandsPressAndWait
  rintro ⟨hpress, -⟩
  obtain ⟨hfirst, hfit, hlog, hup, hphys⟩ := behindFence_pressable
  obtain ⟨-, -, hrecord⟩ := hpress (at_ behindFence) 0 1 0 fencedQueue nextCmd rfl rfl rfl hfirst rfl hfit
  have hread := hrecord rfl rfl rfl rfl (by decide) (by decide) rfl hlog hup hphys
  have hblank := publish_behindFence.2.symm.trans hread
  exact absurd (List.cons.inj (List.cons.inj hblank).2).1 (by decide)

end Sys2Proof.Machine

/-! SUPPORT. Engines and sort units: kills and invalidation by register, the chunks of the periodic test, and errors of their RAMs
(R119 to R123, R216, R262 to R267). -/

namespace Sys2Proof.Machine

/-! ### Registers of the compute dies: all lie above the hub's, so none sets the memory layout (R281) -/

theorem hub_lt_aGx (e k : Nat) : 0x7F10000000 ≤ aGx e + k := by simp only [aGx, dieBase]; omega
theorem hub_lt_aSort (die k : Nat) : 0x7F10000000 ≤ aSort die + k := by simp only [aSort, dieBase]; omega
theorem hub_lt_aVc (v k : Nat) : 0x7F10000000 ≤ aVc v + k := by simp only [aVc, dieBase]; omega

theorem aGx_inj {e f i j : Nat} (hi : i < 0x1000) (hj : j < 0x1000) (h : aGx e + i = aGx f + j) : e = f ∧ i = j := by
  simp only [aGx, dieBase] at h
  omega

theorem aGx_ne_aVc {e v i j : Nat} (hi : i < 0x1000) (hj : j < 0x400) : aGx e + i ≠ aVc v + j := by
  simp only [aGx, aVc, dieBase]
  omega

theorem aGx_ne_aSort {e die i j : Nat} (hi : i < 0x1000) (hj : j < 0x1000) : aGx e + i ≠ aSort die + j := by
  simp only [aGx, aSort, dieBase]
  omega

theorem Dev.frame_setF_die (d : Dev) {a : Nat} (ha : 0x7F10000000 ≤ a) (hi lo v : Nat) :
    Dev.Frame d (d.setF a hi lo v) [] fun b => b = a :=
  d.frame_setF a hi lo v (by simp only [aBwrIlvLo, aBwr]; omega) (by simp only [aBwrIlvHi, aBwr]; omega)

theorem Dev.frame_setB_die (d : Dev) {a : Nat} (ha : 0x7F10000000 ≤ a) (i : Nat) (v : Bool) :
    Dev.Frame d (d.setB a i v) [] fun b => b = a := d.frame_setF_die ha i i (b2n v)

theorem cntRegs_lt {a : Nat} (ha : 0x7F10000000 ≤ a) : ¬ cntRegs a := by simp only [cntRegs, aCntOvfStat]; omega

theorem Dev.Frame.getB {d e : Dev} {ks : List Kind} {rs : Nat → Prop} (h : Dev.Frame d e ks rs) {a : Nat} (ha : ¬ rs a) (i : Nat) :
    e.getB a i = d.getB a i := Dev.getB_of_reg (h.regs a ha) i

/-- A repeated effect on the indices below a bound. -/
theorem Dev.Frame.forUpTo {ks : List Kind} {rs : Nat → Prop} (n : Nat) (f : Nat → Dev → Dev)
    (h : ∀ i < n, ∀ d, Dev.Frame d (f i d) ks rs) (d : Dev) : Dev.Frame d (forUpTo n f d) ks rs :=
  Dev.Frame.forEach (List.range n) f (fun i hi => h i (List.mem_range.mp hi)) d

/-- What each step brings about for its own element and keeps for the others holds of every element at the end. -/
theorem forEach_each {σ α : Type} (P : α → σ → Prop) (f : α → σ → σ) (hown : ∀ x s, P x (f x s))
    (hother : ∀ x y s, x ≠ y → P x s → P x (f y s)) (l : List α) (s : σ) : ∀ x ∈ l, P x (forEach l f s) := by
  have hkeep : ∀ x y s, P x s → P x (f y s) := fun x y s h => by
    by_cases hxy : x = y
    · exact hxy ▸ hown x s
    · exact hother x y s hxy h
  induction l generalizing s with
  | nil => exact fun x hx => absurd hx List.not_mem_nil
  | cons y l ih =>
    intro x hx
    obtain rfl | hx := List.mem_cons.mp hx
    · exact forEach_keeps (P x) f (fun z s => hkeep x z s) l _ (hown x s)
    · exact ih _ x hx

/-! ### Counters of group 0x03 (R477) -/

theorem Dev.frame_countEngine (d : Dev) (i k : Nat) : Dev.Frame d (d.count 0x03 i k) [.counters, .interrupts, .log] cntRegs :=
  (d.noted_count (by decide) i k).frame.mono (by simp) fun _ h => h

/-- A counter of engines and sort units has no injected twin. -/
theorem Dev.cnt_countEngine (d : Dev) (i k : Nat) : (d.count 0x03 i k).cnt 0x03 i = (d.cnt 0x03 i).add k := by
  have ht : twinGroup 0x03 = false := by decide
  have he : d.count 0x03 i k = d.cntUpd 0x03 i (·.add k) := by simp [Dev.count, ht]
  rw [he, Dev.cnt, d.cnts_cntUpd (.inl (by decide)), Tab.lookD_put_self]

/-! ### Kills and invalidation by register (R119 to R123, R216) -/

theorem Dev.gxKill_runs (d : Dev) {e : Nat} {p : Nat × Cmd} (h : d.cmdOnEngine e = some p) (hst : p.2.stage ≠ .taken) :
    d.gxKill e = (d.killRerun p.1 p.2.seq .preempt).settle := by simp [Dev.gxKill, h, hst]

theorem Dev.sortKill_runs (d : Dev) {die : Nat} {p : Nat × Cmd} (h : (d.allCmds.find? fun p => decide (p.2.sortDie = some die)) = some p)
    (hst : p.2.stage = .dispatched) : d.sortKill die = (d.killRerun p.1 p.2.seq .preempt).settle := by
  simp only [Dev.sortKill, h, hst, if_true]

theorem Dev.frame_resid (d : Dev) (r : List (Nat × Nat × Nat)) : Dev.Frame d { d with resid := r } [.residency] fun _ => False := by
  refine ⟨?_, fun _ _ => rfl, rfl, rfl, Nat.le_refl _⟩
  intro q hq
  cases q <;> simp [Dev.Same] at hq ⊢
  intro a; rfl

/-- A codebook RAM with its VALID bit cleared, and a list of copies in its place. -/
theorem Dev.frame_cbCleared (d : Dev) (e : Nat) (r : List (Nat × Nat × Nat)) :
    Dev.Frame d { d.setB (aGxCbCtrl e) 1 false with resid := r } [.residency] fun a => a = aGxCbCtrl e :=
  ((d.frame_setB_die (hub_lt_aGx e 0x10) 1 false).mono (by simp) fun _ h => h).trans
    ((Dev.frame_resid _ r).mono (by simp) fun _ h => h.elim)

/-- INVAL of an engine at rest. -/
theorem Dev.gxCbInval_rests (d : Dev) {e : Nat} (h : d.gxBusy e = false) :
    (d.gxCbInval e).getB (aGxCbCtrl e) 1 = false ∧ (∀ r ∈ (d.gxCbInval e).resid, r.1 ≠ 64 + e) ∧
      Dev.Frame d (d.gxCbInval e) [.residency] fun a => a = aGxCbCtrl e := by
  have he : d.gxCbInval e = { d.setB (aGxCbCtrl e) 1 false with resid := d.resid.filter fun r => r.1 ≠ 64 + e } := by
    simp [Dev.gxCbInval, h]
  rw [he]
  exact ⟨d.getB_setB_self _ 1 false (by decide), fun r hr => of_decide_eq_true (List.mem_filter.mp hr).2, d.frame_cbCleared e _⟩

/-! ### The units of a chunk (R263) -/

theorem Dev.mem_chunkUnits_engine (d : Dev) {u v : Nat} (hu : u < 64) (h : v ∈ d.chunkUnits u) : v < 64 := by
  unfold Dev.chunkUnits at h
  split at h
  · simp only [List.mem_cons, List.not_mem_nil, or_false] at h
    omega
  · exact List.mem_singleton.mp h ▸ hu

theorem Dev.chunkUnits_sort (d : Dev) {u : Nat} (hu : 64 ≤ u) : d.chunkUnits u = [u] := if_neg fun h => by omega

theorem Dev.mem_chunkUnits_die (d : Dev) {u v : Nat} (h : v ∈ d.chunkUnits u) : v - 64 = u - 64 := by
  by_cases hu : u < 64
  · have := d.mem_chunkUnits_engine hu h
    omega
  · rw [d.chunkUnits_sort (by omega), List.mem_singleton] at h
    rw [h]

/-! ### The start of a chunk (R122, R177, R263) -/

/-- STATE of an engine's four cores (R177). -/
def coreStates (v a : Nat) : Prop := ∃ i < 4, a = aVcStatus (4 * v + i)

theorem not_coreStates_aGx {v w i : Nat} (hi : i < 0x1000) : ¬ coreStates w (aGx v + i) := fun ⟨_, _, h⟩ =>
  aGx_ne_aVc hi (by decide) h

theorem Dev.frame_coreStates (d : Dev) (v st : Nat) :
    Dev.Frame d (forUpTo 4 (fun i d => d.setF (aVcStatus (4 * v + i)) 7 4 st) d) [] (coreStates v) :=
  Dev.Frame.forUpTo 4 _ (fun i hi d => (d.frame_setF_die (hub_lt_aVc _ 4) 7 4 st).mono (by simp) fun _ h => ⟨i, hi, h⟩) d

/-- The registers that the start of a chunk writes. -/
def startRegs (v a : Nat) : Prop := a = aGxStatus v ∨ a = aGxKat v ∨ coreStates v a

theorem not_startRegs_status {v w : Nat} (h : v ≠ w) : ¬ startRegs w (aGxStatus v) := by
  rintro (he | he | he)
  · exact h (aGx_inj (by decide) (by decide) he).1
  · exact absurd (aGx_inj (by decide) (by decide) he).2 (by decide)
  · exact not_coreStates_aGx (by decide) he

theorem not_startRegs_kat {v w : Nat} (h : v ≠ w) : ¬ startRegs w (aGxKat v) := by
  rintro (he | he | he)
  · exact absurd (aGx_inj (by decide) (by decide) he).2 (by decide)
  · exact h (aGx_inj (by decide) (by decide) he).1
  · exact not_coreStates_aGx (by decide) he

/-- The registers of an engine on which chunk `k` starts. -/
def Dev.katSet (d : Dev) (k v : Nat) : Dev :=
  (((d.setF (aGxStatus v) 7 4 7).setF (aGxKat v) 23 16 k).setF (aGxKat v) 2 1 0).setB (aGxKat v) 0 true

/-- An engine on which chunk `k` starts, with its cores' STATE where the chunk tests them. -/
def Dev.katBegin (d : Dev) (k v : Nat) : Dev :=
  if k = 23 then forUpTo 4 (fun i d => d.setF (aVcStatus (4 * v + i)) 7 4 5) (d.katSet k v) else d.katSet k v

theorem Dev.katStart_begins (d : Dev) {e : Nat} (h : ∀ v ∈ d.chunkUnits e, d.gxBusy v = false ∧ d.getB (aGxCtrl v) 1 = true) :
    d.katStart e = forEach (d.chunkUnits e) (fun v x => x.katBegin (d.getF (aGxKat e) 23 16) v) d := by
  have hrest : (d.chunkUnits e).any d.gxBusy = false := List.any_eq_false.mpr fun v hv => by simp [(h v hv).1]
  have htest : ((d.chunkUnits e).all fun v => d.getB (aGxCtrl v) 1) = true := List.all_eq_true.mpr fun v hv => (h v hv).2
  simp only [Dev.katStart, hrest, htest, Bool.not_true, Bool.false_eq_true, if_false]
  rfl

/-- Bits [2:0] of GX_KAT at a start: START is set, DONE and FAIL are clear. -/
theorem fld_started (w : Word) : ((w.put 2 1 0).put 0 0 (b2n true)).fld 2 0 = 1 := by
  apply Nat.eq_of_testBit_eq
  intro i
  rw [Word.testBit_fld, Word.getLsbD_put, Word.getLsbD_put]
  match i with
  | 0 => rfl
  | 1 => rfl
  | 2 => rfl
  | i + 3 =>
    have hout : decide (i + 3 < 2 + 1 - 0) = false := decide_eq_false (by omega)
    rw [hout, Bool.false_and]
    exact (Nat.testBit_lt_two_pow (Nat.one_lt_two_pow (Nat.succ_ne_zero (i + 2)))).symm

/-- Chunk `k` runs on an engine: STATE is TEST, GX_KAT selects it and shows it neither done nor failed. -/
structure Dev.KatRuns (d : Dev) (k v : Nat) : Prop where
  state : d.getF (aGxStatus v) 7 4 = 7
  kat   : d.getF (aGxKat v) 2 0 = 1
  chunk : d.getF (aGxKat v) 23 16 = k

theorem Dev.KatRuns.of_regs {d e : Dev} {k v : Nat} (h : d.KatRuns k v) (hs : e.reg (aGxStatus v) = d.reg (aGxStatus v))
    (hk : e.reg (aGxKat v) = d.reg (aGxKat v)) : e.KatRuns k v :=
  ⟨(Dev.getF_of_reg hs _ _).trans h.state, (Dev.getF_of_reg hk _ _).trans h.kat, (Dev.getF_of_reg hk _ _).trans h.chunk⟩

theorem Dev.katRuns_katSet (d : Dev) {k : Nat} (hk : k < 256) (v : Nat) : (d.katSet k v).KatRuns k v := by
  have hne : aGxStatus v ≠ aGxKat v := fun h => absurd (aGx_inj (by decide) (by decide) h).2 (by decide)
  have hs : (d.katSet k v).reg (aGxStatus v) = (d.setF (aGxStatus v) 7 4 7).reg (aGxStatus v) := by
    unfold Dev.katSet
    rw [Dev.reg_setB_ne _ _ _ hne, Dev.reg_setF_ne _ _ _ _ hne, Dev.reg_setF_ne _ _ _ _ hne]
  refine ⟨?_, ?_, ?_⟩
  · exact (Dev.getF_of_reg hs _ _).trans (d.getF_setF_self _ _ _ 7 (by decide))
  · simp only [Dev.katSet, Dev.getF, Dev.setB, Dev.setF, Dev.reg_setReg_self]
    exact fld_started _
  · unfold Dev.katSet Dev.setB
    rw [Dev.getF_setF_ne _ _ _ _ _ _ _ (by decide), Dev.getF_setF_ne _ _ _ _ _ _ _ (by decide), Dev.getF_setF_self _ _ _ _ _ (by decide)]
    exact Nat.mod_eq_of_lt hk

theorem Dev.frame_katSet (d : Dev) (k v : Nat) : Dev.Frame d (d.katSet k v) [] (startRegs v) := by
  have hs : ∀ (x : Dev) hi lo w, Dev.Frame x (x.setF (aGxStatus v) hi lo w) [] (startRegs v) := fun x hi lo w =>
    (x.frame_setF_die (hub_lt_aGx v 4) hi lo w).mono (by simp) fun _ h => .inl h
  have hk : ∀ (x : Dev) hi lo w, Dev.Frame x (x.setF (aGxKat v) hi lo w) [] (startRegs v) := fun x hi lo w =>
    (x.frame_setF_die (hub_lt_aGx v 0x30) hi lo w).mono (by simp) fun _ h => .inr (.inl h)
  exact (((hs d _ _ _).trans (hk _ _ _ _)).trans (hk _ _ _ _)).trans (hk _ _ _ _)

theorem Dev.frame_katBegin (d : Dev) (k v : Nat) : Dev.Frame d (d.katBegin k v) [] (startRegs v) := by
  unfold Dev.katBegin
  split
  · exact (d.frame_katSet k v).trans ((Dev.frame_coreStates _ v 5).mono (by simp) fun _ h => .inr (.inr h))
  · exact d.frame_katSet k v

theorem Dev.katRuns_katBegin (d : Dev) {k : Nat} (hk : k < 256) (v : Nat) : (d.katBegin k v).KatRuns k v := by
  have h := d.katRuns_katSet hk v
  unfold Dev.katBegin
  split
  · have hf := (d.katSet k v).frame_coreStates v 5
    exact h.of_regs (hf.regs _ (not_coreStates_aGx (by decide))) (hf.regs _ (not_coreStates_aGx (by decide)))
  · exact h

theorem Dev.getF_kat_lt (d : Dev) (e : Nat) : d.getF (aGxKat e) 23 16 < 256 := Nat.mod_lt _ (by decide)

/-- START runs the selected chunk on each engine of the chunk, and writes no other register. -/
theorem Dev.katStart_runs (d : Dev) {e : Nat} (h : ∀ v ∈ d.chunkUnits e, d.gxBusy v = false ∧ d.getB (aGxCtrl v) 1 = true) :
    (∀ v ∈ d.chunkUnits e, (d.katStart e).KatRuns (d.getF (aGxKat e) 23 16) v) ∧
      Dev.Frame d (d.katStart e) [] fun a => ∃ v ∈ d.chunkUnits e, startRegs v a := by
  rw [d.katStart_begins h]
  refine ⟨forEach_each (fun v x => Dev.KatRuns x _ v) _ (fun v x => x.katRuns_katBegin (d.getF_kat_lt e) v) (fun v w x hvw hx => ?_) _ d,
    Dev.Frame.forEach _ _ (fun v hv x => (x.frame_katBegin _ v).mono (by simp) fun a ha => ⟨v, hv, ha⟩) d⟩
  have hf := x.frame_katBegin (d.getF (aGxKat e) 23 16) w
  exact hx.of_regs (hf.regs _ (not_startRegs_status hvw)) (hf.regs _ (not_startRegs_kat hvw))

theorem Dev.chunkNo_engine (d : Dev) {u : Nat} (hu : u < 64) : d.chunkNo u = d.getF (aGxKat u) 23 16 := if_pos hu

/-! ### The end of a chunk (R177, R263, R265 to R267) -/

/-- The registers that the end of a chunk writes on a unit. -/
def ranRegs (v a : Nat) : Prop :=
  (a = aGxKat v ∨ a = aGxStatus v ∨ a = aGxCbCtrl v ∨ coreStates v a) ∨ a = aSortStatus (v - 64) ∨ cntRegs a

/-- The kinds of state that the end of a chunk changes. -/
def ranKinds : List Kind := [.counters, .residency, .cores, .interrupts, .log]

theorem Dev.frame_vcs (d : Dev) (c : Tab VCore) : Dev.Frame d { d with vcs := c } [.cores] fun _ => False := by
  refine ⟨?_, fun _ _ => rfl, rfl, rfl, Nat.le_refl _⟩
  intro q hq
  cases q <;> simp [Dev.Same] at hq ⊢
  intro a; rfl

theorem Dev.frame_chunkRan (d : Dev) (v : Nat) (pass : Bool) : Dev.Frame d (d.chunkRan v pass) ranKinds (ranRegs v) := by
  have hkat : ∀ (x : Dev) i b, Dev.Frame x (x.setB (aGxKat v) i b) ranKinds (ranRegs v) := fun x i b =>
    (x.frame_setB_die (hub_lt_aGx v 0x30) i b).mono (by simp) fun _ h => .inl (.inl h)
  have hstatus : ∀ (x : Dev) hi lo w, Dev.Frame x (x.setF (aGxStatus v) hi lo w) ranKinds (ranRegs v) := fun x hi lo w =>
    (x.frame_setF_die (hub_lt_aGx v 4) hi lo w).mono (by simp) fun _ h => .inl (.inr (.inl h))
  have hsort : ∀ (x : Dev) hi lo w, Dev.Frame x (x.setF (aSortStatus (v - 64)) hi lo w) ranKinds (ranRegs v) := fun x hi lo w =>
    (x.frame_setF_die (hub_lt_aSort (v - 64) 4) hi lo w).mono (by simp) fun _ h => .inr (.inl h)
  have hcount : ∀ (x : Dev) i k, Dev.Frame x (x.count 0x03 i k) ranKinds (ranRegs v) := fun x i k =>
    (x.frame_countEngine i k).mono (by decide) fun _ h => .inr (.inr h)
  have hbook : ∀ x : Dev, Dev.Frame x (x.invalidate v) ranKinds (ranRegs v) := fun x =>
    (x.frame_cbCleared v _).mono (by decide) fun _ h => .inl (.inr (.inr (.inl h)))
  have hstates : ∀ x : Dev, Dev.Frame x (forUpTo 4 (fun i d => d.setF (aVcStatus (4 * v + i)) 7 4 0) x) ranKinds (ranRegs v) := fun x =>
    (x.frame_coreStates v 0).mono (by simp) fun _ h => .inl (.inr (.inr (.inr h)))
  have hcores : ∀ (x : Dev) (f : Nat → Dev → VCore),
      Dev.Frame x (forUpTo 4 (fun i d => d.setCore (4 * v + i) (f i d)) x) ranKinds (ranRegs v) := fun x f =>
    Dev.Frame.forUpTo 4 _ (fun i _ y => (y.frame_vcs _).mono (by decide) fun _ h => h.elim) x
  unfold Dev.chunkRan
  split
  · have hran := ((((hkat d 0 false).trans (hkat _ 1 true)).trans (hkat _ 2 (!pass))).trans (hstatus _ 7 4 0)).trans (hcount _ (16 * v + 2) 1)
    have hcleared := Dev.Frame.orStay (b := (16 ≤ d.getF (aGxKat v) 23 16 && d.getF (aGxKat v) 23 16 ≤ 20) || d.getF (aGxKat v) 23 16 = 23)
      (hran.orElse (b := pass = true) (hcount _ (16 * v + 3) 1)) (hbook _)
    exact .orStay hcleared ((hstates _).trans (hcores _ _))
  · exact .orElse ((hsort d 7 4 0).trans (hcount _ _ 1)) (hcount _ _ 1)

/-- The device when a chunk has run on its units: it fails on the unit alone. -/
def Dev.chunkEnded (d : Dev) (u : Nat) (pass : Bool) : Dev :=
  forEach (d.chunkUnits u) (fun v x => x.chunkRan v (pass || decide (v ≠ u))) d

theorem Dev.frame_chunkEnded (d : Dev) (u : Nat) (pass : Bool) : Dev.Frame d (d.chunkEnded u pass) ranKinds fun a =>
    (∃ v ∈ d.chunkUnits u, a = aGxKat v ∨ a = aGxStatus v ∨ a = aGxCbCtrl v ∨ coreStates v a) ∨ a = aSortStatus (u - 64) ∨ cntRegs a :=
  Dev.Frame.forEach _ _ (fun v hv x => (x.frame_chunkRan v _).mono (fun _ h => h) fun _ ha =>
    ha.imp (fun h => ⟨v, hv, h⟩) fun h => h.imp_left fun hs => d.mem_chunkUnits_die hv ▸ hs) d

theorem Dev.Frame.testSt {d e : Dev} {ks : List Kind} {rs : Nat → Prop} (h : Dev.Frame d e ks rs) (hk : Kind.tests ∉ ks) (u : Nat) :
    e.testSt u = d.testSt u := by
  have ht : e.tests = d.tests := h.same .tests hk
  rw [Dev.testSt, Dev.testSt, ht]

theorem Dev.testSt_chunkEnded (d : Dev) (u : Nat) (pass : Bool) (v : Nat) : (d.chunkEnded u pass).testSt v = d.testSt v :=
  (d.frame_chunkEnded u pass).testSt (by decide) v

@[simp] theorem Dev.testSt_setTest_self (d : Dev) (u : Nat) (x : TestState) : (d.setTest u x).testSt u = x :=
  Tab.lookD_put_self _ _ _ _

theorem Dev.testSt_setTest_ne (d : Dev) {u v : Nat} (x : TestState) (h : v ≠ u) : (d.setTest u x).testSt v = d.testSt v :=
  Tab.lookD_put_ne _ _ _ h

@[simp] theorem Dev.untested_setTest (d : Dev) (u : Nat) (x : TestState) (v : Nat) : (d.setTest u x).untested v = d.untested v := rfl

@[simp] theorem Dev.untested_setUntested (d : Dev) (u : Nat) (b : Bool) : (d.setUntested u b).untested u = b := by
  unfold Dev.untested Dev.setUntested
  split <;> exact d.getB_setB_self _ 0 b (by decide)

/-- STATE of a sort unit is no part of any unit's UNTESTED mark. -/
theorem Dev.untested_sortState (d : Dev) (die w v : Nat) : (d.setF (aSortStatus die) 7 4 w).untested v = d.untested v := by
  have hf := d.frame_setF_die (hub_lt_aSort die 4) 7 4 w
  unfold Dev.untested
  split
  · exact hf.getB (aGx_ne_aSort (by decide) (by decide)) 0
  · by_cases hd : aSortStatus (v - 64) = aSortStatus die
    · rw [hd]
      simp [Dev.getB, Dev.setF, Word.bit_put_ne]
    · exact hf.getB hd 0

/-- The sweep of a unit stands at chunk `n`, with no failure to repeat. -/
def Dev.sweepAt (d : Dev) (n v : Nat) : Dev := d.setTest v { d.testSt v with next := n, retry := false }

/-- A sort unit that is on its known-answer commands goes on with them (R267). -/
def Dev.sortGoesOn (d : Dev) (busy : Bool) (u : Nat) : Dev := if busy then d.setF (aSortStatus (u - 64)) 7 4 6 else d

@[simp] theorem Dev.testSt_sortGoesOn (d : Dev) (busy : Bool) (u v : Nat) : (d.sortGoesOn busy u).testSt v = d.testSt v := by
  cases busy <;> rfl

@[simp] theorem Dev.untested_sortGoesOn (d : Dev) (busy : Bool) (u v : Nat) : (d.sortGoesOn busy u).untested v = d.untested v := by
  cases busy
  · rfl
  · exact d.untested_sortState _ _ _

/-- A sort unit runs its sweep's known-answer commands. -/
def Dev.sortTests (d : Dev) (u : Nat) : Bool := decide (64 ≤ u) && decide (d.getF (aSortStatus (u - 64)) 7 4 = 6)

section
variable (d : Dev) {u : Nat} (hruns : d.chunkRuns u = true) (hno : d.chunkNo u = (d.testSt u).next)
  (hdis : (d.testSt u).disabled = false)
include hruns hno hdis

/-- The sweep's next chunk ends. -/
theorem Dev.chunkDone_sweeps (pass : Bool) : d.chunkDone u pass =
    if pass then
      if (d.testSt u).next + 1 < chunksOf u then
        (forEach (d.chunkUnits u) (fun v x => x.sweepAt ((d.testSt u).next + 1) v) (d.chunkEnded u pass)).sortGoesOn (d.sortTests u) u
      else forEach (d.chunkUnits u) (fun v x => x.sweepPassed v) (d.chunkEnded u pass)
    else if (d.testSt u).retry then (d.chunkEnded u pass).disableUnit u
    else (((d.chunkEnded u pass).setUntested u true).setTest u { d.testSt u with retry := true }).sortGoesOn (d.sortTests u) u := by
  have ht : (forEach (d.chunkUnits u) (fun v x => x.chunkRan v (pass || decide (v ≠ u))) d).testSt u = d.testSt u :=
    d.testSt_chunkEnded u pass u
  simp only [Dev.chunkDone, hruns, hno, ht, hdis, ne_eq, not_true_eq_false, Bool.not_true, Bool.false_eq_true, if_false]
  rfl

/-- The chunk passes, and more are to come. -/
theorem Dev.chunkDone_moves (hmore : (d.testSt u).next + 1 < chunksOf u) : d.chunkDone u true =
    (forEach (d.chunkUnits u) (fun v x => x.sweepAt ((d.testSt u).next + 1) v) (d.chunkEnded u true)).sortGoesOn (d.sortTests u) u :=
  (d.chunkDone_sweeps hruns hno hdis true).trans (if_pos hmore)

/-- The chunk fails for the first time. -/
theorem Dev.chunkDone_repeats (hretry : (d.testSt u).retry = false) : d.chunkDone u false =
    (((d.chunkEnded u false).setUntested u true).setTest u { d.testSt u with retry := true }).sortGoesOn (d.sortTests u) u :=
  (d.chunkDone_sweeps hruns hno hdis false).trans (if_neg (Bool.eq_false_iff.mp hretry))

/-- The chunk fails for the second time. -/
theorem Dev.chunkDone_disables (hretry : (d.testSt u).retry = true) : d.chunkDone u false = (d.chunkEnded u false).disableUnit u :=
  (d.chunkDone_sweeps hruns hno hdis false).trans (if_pos hretry)

end

theorem Dev.testSt_sweepAt (d : Dev) (us : List Nat) (n : Nat) : ∀ v ∈ us,
    ((forEach us (fun v x => x.sweepAt n v) d).testSt v).next = n ∧ ((forEach us (fun v x => x.sweepAt n v) d).testSt v).retry = false :=
  forEach_each (fun v (x : Dev) => (x.testSt v).next = n ∧ (x.testSt v).retry = false) _ (fun v x => by simp [Dev.sweepAt])
    (fun v w x hvw hx => by rwa [Dev.sweepAt, x.testSt_setTest_ne _ hvw]) us d

theorem Dev.sweepDeadline_withdraws (d : Dev) {u : Nat} (ht : d.testing = true) (hs : (d.testSt u).subject = true)
    (hw : (d.testSt u).withdrawn = false) (hl : (d.testSt u).lastEnd + 20000000 ≤ d.now) :
    d.sweepDeadline u = ((d.setUntested u true).withdraw u).settle := by
  simp [Dev.sweepDeadline, ht, hs, hw, hl]

/-! ### RAM errors (R121, R216, R217) -/

theorem ramErr_bit_lt (ram : GxRam) (corr : Bool) : (ramErr ram corr).2 < 32 := by
  cases ram <;> cases corr <;> decide

/-- A RAM's error in the engine's GX_ERR and in its counter. -/
def Dev.ramErrNoted (d : Dev) (e : Nat) (ram : GxRam) (corr : Bool) : Dev :=
  (d.setB (aGxErr e) (ramErr ram corr).2 true).count 0x03 (16 * e + (ramErr ram corr).1) 1

/-- An error that ECC does not correct has its place in GX_ERR_ADDR too. -/
def Dev.ramErrPlaced (d : Dev) (e : Nat) (ram : GxRam) (corr : Bool) (line : Nat) : Dev :=
  if corr = true ∧ ram ≠ .codebook then d.ramErrNoted e ram corr
  else (d.ramErrNoted e ram corr).setReg (aGxErrAddr e) (BitVec.ofNat 32 (b2n (decide (ram ≠ .operand)) * 2 ^ 31 + line % 32768))

theorem Dev.engineRamError_eq (d : Dev) (e : Nat) {ram : GxRam} (corr : Bool) (line : Nat) (h : ram ≠ .record) :
    d.engineRamError e ram corr line = if ram = .operand ∨ (corr = true ∧ ram ≠ .codebook) then d.ramErrPlaced e ram corr line
      else (d.ramErrPlaced e ram corr line).engineUe e := by
  unfold Dev.engineRamError Dev.ramErrPlaced
  rw [if_neg h]
  by_cases hc : corr = true ∧ ram ≠ .codebook
  · have hb : (corr && decide (ram ≠ .codebook)) = true := by simpa using hc
    simp only [hb, if_true, if_pos hc, if_pos (Or.inr hc)]
    rfl
  · have hb : (corr && decide (ram ≠ .codebook)) = false := by simpa using hc
    simp only [hb, Bool.false_eq_true, if_false, if_neg hc, or_iff_left hc]
    rfl

section
variable (d : Dev) (e : Nat) (ram : GxRam) (corr : Bool) (line : Nat)

/-- The registers that a RAM error writes. -/
def ramErrRegs (e : Nat) (ram : GxRam) (corr : Bool) (a : Nat) : Prop :=
  a = aGxErr e ∨ cntRegs a ∨ (a = aGxErrAddr e ∧ (corr = false ∨ ram = .codebook))

theorem Dev.frame_ramErrNoted : Dev.Frame d (d.ramErrNoted e ram corr) [.counters, .interrupts, .log] (ramErrRegs e ram corr) :=
  ((d.frame_setB_die (hub_lt_aGx e 0x20) _ true).mono (by simp) fun _ h => .inl h).trans
    ((Dev.frame_countEngine _ _ _).mono (fun _ h => h) fun _ h => .inr (.inl h))

theorem Dev.frame_ramErrPlaced : Dev.Frame d (d.ramErrPlaced e ram corr line) [.counters, .interrupts, .log] (ramErrRegs e ram corr) := by
  unfold Dev.ramErrPlaced
  split
  · exact d.frame_ramErrNoted e ram corr
  · next h =>
    have hraw : corr = false ∨ ram = .codebook := by
      cases corr
      · exact .inl rfl
      · exact .inr (by simpa using h)
    refine (d.frame_ramErrNoted e ram corr).trans ((Dev.frame_setReg _ _ _ ?_ ?_).mono (by simp) fun _ h => .inr (.inr ⟨h, hraw⟩))
    · have := hub_lt_aGx e 0x24
      simp only [aBwrIlvLo, aBwr, aGxErrAddr]; omega
    · have := hub_lt_aGx e 0x24
      simp only [aBwrIlvHi, aBwr, aGxErrAddr]; omega

theorem Dev.getB_ramErrNoted : (d.ramErrNoted e ram corr).getB (aGxErr e) (ramErr ram corr).2 = true := by
  have hf := Dev.frame_countEngine (d.setB (aGxErr e) (ramErr ram corr).2 true) (16 * e + (ramErr ram corr).1) 1
  exact (hf.getB (cntRegs_lt (hub_lt_aGx e 0x20)) _).trans (d.getB_setB_self _ _ true (ramErr_bit_lt ram corr))

theorem Dev.getB_ramErrPlaced : (d.ramErrPlaced e ram corr line).getB (aGxErr e) (ramErr ram corr).2 = true := by
  have hne : aGxErr e ≠ aGxErrAddr e := fun h => absurd (aGx_inj (by decide) (by decide) h).2 (by decide)
  unfold Dev.ramErrPlaced
  split
  · exact d.getB_ramErrNoted e ram corr
  · exact (Dev.getB_of_reg (Dev.reg_setReg_ne _ _ hne) _).trans (d.getB_ramErrNoted e ram corr)

theorem Dev.cnt_ramErrPlaced : (d.ramErrPlaced e ram corr line).cnt 0x03 (16 * e + (ramErr ram corr).1) =
    (d.cnt 0x03 (16 * e + (ramErr ram corr).1)).add 1 := by
  have hn : (d.ramErrNoted e ram corr).cnt 0x03 (16 * e + (ramErr ram corr).1) = (d.cnt 0x03 (16 * e + (ramErr ram corr).1)).add 1 :=
    Dev.cnt_countEngine _ _ _
  unfold Dev.ramErrPlaced
  split <;> exact hn

end

/-- An error of the record RAM is the sort unit's of the engine's die. -/
theorem Dev.engineRamError_record (d : Dev) (e : Nat) (corr : Bool) (line : Nat) :
    d.engineRamError e .record corr line = d.sortRamError (e / 16) corr line := if_pos rfl

/-- A corrected error of a sort unit's record RAM. -/
theorem Dev.sortRamError_corrected (d : Dev) (die line : Nat) :
    (d.sortRamError die true line).getB (aSortErr die) 0 = true ∧
      (d.sortRamError die true line).cnt 0x03 (1024 + 8 * die + 3) = (d.cnt 0x03 (1024 + 8 * die + 3)).add 1 ∧
      Dev.Frame d (d.sortRamError die true line) [.counters, .interrupts, .log] fun a => a = aSortErr die ∨ cntRegs a := by
  have he : d.sortRamError die true line = (d.setB (aSortErr die) 0 true).count 0x03 (1024 + 8 * die + 3) 1 := rfl
  have hf := Dev.frame_countEngine (d.setB (aSortErr die) 0 true) (1024 + 8 * die + 3) 1
  rw [he]
  refine ⟨?_, Dev.cnt_countEngine _ _ _, ?_⟩
  · exact (hf.getB (cntRegs_lt (hub_lt_aSort die 0x10)) 0).trans (d.getB_setB_self _ 0 true (by decide))
  · exact ((d.frame_setB_die (hub_lt_aSort die 0x10) 0 true).mono (by simp) fun _ h => .inl h).trans
      (hf.mono (fun _ h => h) fun _ h => .inr h)

/-- Settles O36, clause by clause: each names a row and its condition, and a lemma above says what the row's effect then is. -/
theorem enginesAreTested : Obligations.EnginesAreTested := by
  unfold Obligations.EnginesAreTested
  intro s t hp d
  refine ⟨fun e p hc hst => ?gxKill, fun die p hc hst => ?sortKill, fun e hrest => ?inval, fun e hunits hmay => ?start,
    fun u hruns hno hdis => ⟨fun hmore => ?moves, fun hretry => ?repeats, fun hretry => ?disables⟩,
    fun u htest hsub hwd hlate => ?deadline, fun e ram corr line hram => ?ram, fun e line => ?corrected, fun e line => ?record⟩
  case gxKill => exact ends_of_effect (exec_gxKill s e t) hp (d.gxKill_runs hc hst)
  case sortKill => exact ends_of_effect (exec_sortKill s die t) hp (d.sortKill_runs hc hst)
  case inval => exact ⟨_, ends_of_effect (exec_gxCbInval s e) hp rfl, (s.dev.advance 0).gxCbInval_rests hrest⟩
  case start =>
    obtain ⟨hrun, hframe⟩ := (s.dev.advance 0).katStart_runs hunits
    refine ⟨_, ends_of_effect (exec_gxKatStart s e) hp (if_neg ?_), fun v hv => ?_, hframe⟩
    · intro hno
      simp only [Bool.and_eq_true, Bool.not_eq_true'] at hno
      obtain ⟨⟨ht, hs⟩, hm⟩ := hno
      exact absurd (hmay ht hs) (by simp [hm])
    · have hv64 := Dev.mem_chunkUnits_engine s.dev e.isLt hv
      obtain ⟨hstate, hkat, hchunk⟩ := hrun v hv
      exact ⟨hstate, hkat, by rw [Dev.chunkNo_engine _ hv64, Dev.chunkNo_engine _ e.isLt, hchunk]; rfl⟩
  case moves =>
    refine ⟨_, ends_of_effect (exec_katChunkDone s u true t) hp (d.chunkDone_moves hruns hno hdis hmore), fun v hv => ?_⟩
    rw [Dev.testSt_sortGoesOn]
    exact Dev.testSt_sweepAt _ _ _ v hv
  case repeats =>
    refine ⟨_, ends_of_effect (exec_katChunkDone s u false t) hp (d.chunkDone_repeats hruns hno hdis hretry), ?_, ?_, ?_⟩
    · rw [Dev.untested_sortGoesOn, Dev.untested_setTest, Dev.untested_setUntested]
    · rw [Dev.testSt_sortGoesOn, Dev.testSt_setTest_self]
    · rw [Dev.testSt_sortGoesOn, Dev.testSt_setTest_self]; rfl
  case disables =>
    exact ⟨_, ends_of_effect (exec_katChunkDone s u false t) hp (d.chunkDone_disables hruns hno hdis hretry), d.frame_chunkEnded _ _⟩
  case deadline => exact ends_of_effect (exec_sweepDeadline s u t) hp (d.sweepDeadline_withdraws htest hsub hwd hlate)
  case ram =>
    exact ⟨_, ends_of_effect (exec_engineRamError s e ram corr line t) hp (d.engineRamError_eq e.val corr line hram),
      d.getB_ramErrPlaced _ _ _ _, d.cnt_ramErrPlaced _ _ _ _, d.frame_ramErrPlaced _ _ _ _⟩
  case corrected =>
    exact ⟨_, ends_of_effect (exec_engineRamError s e .record true line t) hp (d.engineRamError_record e.val true line),
      d.sortRamError_corrected _ line⟩
  case record => exact ends_of_effect (exec_engineRamError s e .record false line t) hp (d.engineRamError_record e.val false line)

end Sys2Proof.Machine

/-! SUPPORT. The floating-point formats: what the conversion of R134 does to a value that a code decodes to (R124 to R126, R134). The
exact quotients of `Ext` are compared by cross-multiplication. -/

namespace Sys2Proof.Machine

/-! ### Quotients against powers of two with an integer exponent, and the binary logarithm -/

/-- num ÷ den < 2^l, for den > 0. -/
def BelowPow (num den : Nat) (l : Int) : Prop := num * 2 ^ (-l).toNat < den * 2 ^ l.toNat

/-- num ÷ den = j × 2^q, for den > 0. -/
def IsMultiple (num den j : Nat) (q : Int) : Prop := num * 2 ^ (-q).toNat = j * 2 ^ q.toNat * den

/-- An exponent may be written as any difference of naturals. -/
theorem belowPow_sub_iff {num den : Nat} (a b : Nat) : BelowPow num den ((a : Int) - b) ↔ num * 2 ^ b < den * 2 ^ a := by
  obtain ⟨k, ha, hb⟩ : ∃ k, a = ((a : Int) - b).toNat + k ∧ b = (-((a : Int) - b)).toNat + k := ⟨min a b, by omega, by omega⟩
  have hscale : num * 2 ^ b < den * 2 ^ a ↔
      num * 2 ^ (-((a : Int) - b)).toNat * 2 ^ k < den * 2 ^ ((a : Int) - b).toNat * 2 ^ k := by
    rw [Nat.mul_assoc, Nat.mul_assoc, ← Nat.pow_add, ← Nat.pow_add, ← ha, ← hb]
  rw [hscale, Nat.mul_lt_mul_right (Nat.two_pow_pos k), BelowPow]

theorem exists_eq_sub (i : Int) : ∃ a b : Nat, i = (a : Int) - b := ⟨i.toNat, (-i).toNat, by omega⟩

theorem BelowPow.mono {num den : Nat} {i l : Int} (h : BelowPow num den i) (hil : i ≤ l) : BelowPow num den l := by
  obtain ⟨a, b, rfl⟩ := exists_eq_sub i
  obtain ⟨k, rfl⟩ : ∃ k : Nat, l = ((a + k : Nat) : Int) - b := ⟨(l - (a - b)).toNat, by omega⟩
  rw [belowPow_sub_iff] at h ⊢
  exact Nat.lt_of_lt_of_le h (Nat.mul_le_mul_left den (Nat.pow_le_pow_right Nat.two_pos (Nat.le_add_right a k)))

/-- The two forms of the test by which `ilog2` corrects its first guess are one. -/
theorem ilog2_eq (num den : Nat) : ilog2 num den =
    if num * 2 ^ (-((num.log2 : Int) - den.log2)).toNat < den * 2 ^ ((num.log2 : Int) - den.log2).toNat
    then (num.log2 : Int) - den.log2 - 1 else (num.log2 : Int) - den.log2 := by
  unfold ilog2
  generalize (num.log2 : Int) - den.log2 = l
  by_cases h : 0 ≤ l
  · have hneg : (-l).toNat = 0 := by omega
    simp only [h, if_true, decide_eq_true_eq, hneg, Nat.pow_zero, Nat.mul_one]
  · have hpos : l.toNat = 0 := by omega
    simp only [h, if_false, decide_eq_true_eq, hpos, Nat.pow_zero, Nat.mul_one]

/-- A quotient lies between the power of two at its logarithm and the next one. -/
theorem ilog2_bounds {num den : Nat} (hn : 0 < num) (hd : 0 < den) :
    ¬ BelowPow num den (ilog2 num den) ∧ BelowPow num den (ilog2 num den + 1) := by
  have hnl : 2 ^ num.log2 ≤ num := Nat.log2_self_le (Nat.ne_of_gt hn)
  have hdl : 2 ^ den.log2 ≤ den := Nat.log2_self_le (Nat.ne_of_gt hd)
  have hnu : num < 2 ^ (num.log2 + 1) := Nat.lt_log2_self
  have hdu : den < 2 ^ (den.log2 + 1) := Nat.lt_log2_self
  have lower : ¬ BelowPow num den ((num.log2 : Int) - (den.log2 + 1 : Nat)) := by
    rw [belowPow_sub_iff, Nat.not_lt, Nat.mul_comm num]
    exact Nat.mul_le_mul (Nat.le_of_lt hdu) hnl
  have upper : BelowPow num den ((num.log2 + 1 : Nat) - (den.log2 : Int)) := by
    rw [belowPow_sub_iff, Nat.mul_comm den]
    exact Nat.lt_of_lt_of_le (Nat.mul_lt_mul_of_pos_right hnu (Nat.two_pow_pos _)) (Nat.mul_le_mul_left _ hdl)
  rw [ilog2_eq]
  split
  next h => exact ⟨fun hb => lower (hb.mono (by omega)), BelowPow.mono h (by omega)⟩
  next h => exact ⟨h, upper.mono (by omega)⟩

theorem ilog2_lt_iff {num den : Nat} (hn : 0 < num) (hd : 0 < den) (i : Int) : ilog2 num den < i ↔ BelowPow num den i := by
  obtain ⟨lower, upper⟩ := ilog2_bounds hn hd
  constructor
  · exact fun h => upper.mono (by omega)
  · exact fun h => Int.not_le.mp fun hle => lower (h.mono hle)

/-- A multiple of 2^q by fewer than 2^k lies below 2^(q + k). -/
theorem IsMultiple.belowPow_iff {num den j : Nat} {q : Int} (h : IsMultiple num den j q) (hd : 0 < den) (k : Nat) :
    BelowPow num den (q + k) ↔ j < 2 ^ k := by
  have hexp : q + k = ((q.toNat + k : Nat) : Int) - (-q).toNat := by omega
  have hunit : 0 < 2 ^ q.toNat * den := Nat.mul_pos (Nat.two_pow_pos _) hd
  have hpow : den * 2 ^ (q.toNat + k) = 2 ^ k * (2 ^ q.toNat * den) := by
    rw [Nat.pow_add, Nat.mul_comm den, Nat.mul_comm (2 ^ q.toNat), Nat.mul_assoc]
  rw [hexp, belowPow_sub_iff, h, hpow, Nat.mul_assoc, Nat.mul_lt_mul_right hunit]

/-! ### A magnitude code as a number of units of its last place (R125) -/

/-- The exponent of the unit of the last place of a magnitude code. -/
def FpFmt.ulpExp (f : FpFmt) (c : Nat) : Int := (if c / 2 ^ f.mb = 0 then (1 : Int) else (c / 2 ^ f.mb : Nat)) - f.bias - f.mb

/-- How many of those units the magnitude of a code is: the fraction, with the hidden one of a normal number. -/
def FpFmt.units (f : FpFmt) (c : Nat) : Nat := if c / 2 ^ f.mb = 0 then c % 2 ^ f.mb else 2 ^ f.mb + c % 2 ^ f.mb

/-- A subnormal code counts units of the least exponent; a normal one holds the exponent field, and its hidden one. -/
theorem FpFmt.subnormal_or_normal (f : FpFmt) (c : Nat) :
    (f.ulpExp c + f.mb = 1 - f.bias ∧ f.units c = c ∧ c < 2 ^ f.mb) ∨
    (∃ e : Nat, f.ulpExp c + f.mb = 1 - f.bias + e ∧ e * 2 ^ f.mb + f.units c = c ∧ 2 ^ f.mb ≤ f.units c ∧ f.units c < 2 ^ (f.mb + 1)) := by
  have hsplit : 2 ^ f.mb * (c / 2 ^ f.mb) + c % 2 ^ f.mb = c := Nat.div_add_mod ..
  have hfrac : c % 2 ^ f.mb < 2 ^ f.mb := Nat.mod_lt _ (Nat.two_pow_pos _)
  unfold FpFmt.ulpExp FpFmt.units
  cases he : c / 2 ^ f.mb with
  | zero =>
    rw [he, Nat.mul_zero, Nat.zero_add] at hsplit
    simp only [if_true]
    exact .inl ⟨by omega, hsplit, hsplit ▸ hfrac⟩
  | succ e =>
    rw [he, Nat.mul_succ, Nat.mul_comm] at hsplit
    simp only [Nat.add_one_ne_zero, if_false, Nat.pow_succ]
    exact .inr ⟨e, by omega, by omega, by omega, by omega⟩

theorem Ext.mk_eq_fin (neg : Bool) {num den : Nat} (hd : 0 < den) :
    ∃ n d, Ext.mk neg num den = .fin neg n d ∧ 0 < d ∧ n * den = num * d := by
  have hg : 0 < num.gcd den := Nat.gcd_pos_of_pos_right _ hd
  refine ⟨num / num.gcd den, den / num.gcd den, ?_, Nat.div_pos (Nat.gcd_le_right _ hd) hg, ?_⟩
  · simp only [Ext.mk, Nat.ne_of_gt hg, if_false]
  · rw [Nat.div_mul_right_comm (Nat.gcd_dvd_left ..), Nat.mul_div_assoc _ (Nat.gcd_dvd_right ..)]

theorem FpFmt.mag_eq_fin (f : FpFmt) (c : Nat) : ∃ n d, f.mag c = .fin false n d ∧ 0 < d ∧ IsMultiple n d (f.units c) (f.ulpExp c) := by
  have hmag : f.mag c = if 0 ≤ f.ulpExp c then .mk false (f.units c * 2 ^ (f.ulpExp c).toNat) 1
      else .mk false (f.units c) (2 ^ (-f.ulpExp c).toNat) := rfl
  split at hmag
  next h =>
    obtain ⟨n, d, hmk, hd, hval⟩ := Ext.mk_eq_fin false (num := f.units c * 2 ^ (f.ulpExp c).toNat) Nat.one_pos
    have hneg : (-f.ulpExp c).toNat = 0 := by omega
    exact ⟨n, d, hmag.trans hmk, hd, by rw [IsMultiple, hneg, Nat.pow_zero, hval]⟩
  next h =>
    obtain ⟨n, d, hmk, hd, hval⟩ := Ext.mk_eq_fin false (num := f.units c) (Nat.two_pow_pos (-f.ulpExp c).toNat)
    have hpos : (f.ulpExp c).toNat = 0 := by omega
    exact ⟨n, d, hmag.trans hmk, hd, by rw [IsMultiple, hpos, Nat.pow_zero, Nat.mul_one, hval]⟩

/-! ### Rounding what needs none (R109, R134) -/

/-- A multiple of the unit stays as it is in every mode: nothing is left over for the stochastic draw to carry. -/
theorem roundUnits_of_eq_mul {num den j mode r : Nat} (hd : 0 < den) (h : num = j * den) (hr : r < 65536) : roundUnits num den mode r = j := by
  have hdiv : num / den = j := by rw [h, Nat.mul_div_cancel _ hd]
  have hmod : num % den = 0 := by rw [h, Nat.mul_mod_left]
  simp only [roundUnits, hdiv, hmod, Nat.mul_zero, Nat.zero_mul, Nat.zero_div, Nat.zero_add, Nat.not_lt_zero, Nat.ne_of_lt hd,
    Nat.not_le.mpr hr, if_false, ite_self]

theorem IsMultiple.roundUnits_eq {num den j mode r : Nat} {q : Int} (h : IsMultiple num den j q) (hd : 0 < den) (hr : r < 65536) :
    (if 0 ≤ q then roundUnits num (den * 2 ^ q.toNat) mode r else roundUnits (num * 2 ^ (-q).toNat) den mode r) = j := by
  unfold IsMultiple at h
  split
  next hq =>
    have hneg : (-q).toNat = 0 := by omega
    rw [hneg, Nat.pow_zero, Nat.mul_one, Nat.mul_assoc, Nat.mul_comm (2 ^ q.toNat)] at h
    exact roundUnits_of_eq_mul (Nat.mul_pos hd (Nat.two_pow_pos _)) h hr
  next hq =>
    have hpos : q.toNat = 0 := by omega
    rw [hpos, Nat.pow_zero, Nat.mul_one] at h
    exact roundUnits_of_eq_mul hd h hr

/-- The spacing that `roundMag` chooses for the value of a code is the code's own. -/
theorem FpFmt.spacing_eq (f : FpFmt) {c num den : Nat} (hn : 0 < num) (hd : 0 < den) (h : IsMultiple num den (f.units c) (f.ulpExp c)) :
    (if ilog2 num den < 1 - f.bias then 1 - (f.bias : Int) else ilog2 num den) = f.ulpExp c + f.mb := by
  have hlog (k : Nat) : ilog2 num den < f.ulpExp c + k ↔ f.units c < 2 ^ k := (ilog2_lt_iff hn hd _).trans (h.belowPow_iff hd k)
  have hat := hlog f.mb
  have hnext := hlog (f.mb + 1)
  rcases f.subnormal_or_normal c with ⟨hexp, hunits, hc⟩ | ⟨e, hexp, -, hlow, hhigh⟩
  · rw [if_pos (hexp ▸ hat.mpr (hunits.symm ▸ hc)), hexp]
  · have hge := mt hat.mp (Nat.not_lt.mpr hlow)
    have hlt := hnext.mpr hhigh
    rw [if_neg (by omega)]
    omega

theorem FpFmt.roundMag_of_isMultiple (f : FpFmt) {c num den mode r : Nat} (hd : 0 < den)
    (h : IsMultiple num den (f.units c) (f.ulpExp c)) (hr : r < 65536) : f.roundMag num den mode r = c := by
  unfold FpFmt.roundMag
  rcases Nat.eq_zero_or_pos num with rfl | hn
  · have hunits : f.units c = 0 := by
      have hpos : 0 < 2 ^ (f.ulpExp c).toNat * den := Nat.mul_pos (Nat.two_pow_pos _) hd
      rw [IsMultiple, Nat.zero_mul, Nat.mul_assoc] at h
      exact (Nat.mul_eq_zero.mp h.symm).resolve_right (Nat.ne_of_gt hpos)
    rcases f.subnormal_or_normal c with ⟨-, hc, -⟩ | ⟨-, -, -, hlow, -⟩
    · rw [if_pos rfl, ← hunits, hc]
    · exact absurd (hunits ▸ hlow) (Nat.not_le.mpr (Nat.two_pow_pos _))
  · simp only [Nat.ne_of_gt hn, if_false, f.spacing_eq hn hd h, Int.add_sub_cancel, h.roundUnits_eq hd hr]
    rcases f.subnormal_or_normal c with ⟨hexp, hc, -⟩ | ⟨e, hexp, hc, -, -⟩
    · rw [hexp, Int.sub_self, Int.toNat_zero, Nat.zero_mul, Nat.zero_add, hc]
    · rw [hexp, Int.add_comm, Int.add_sub_cancel, Int.toNat_natCast, hc]

theorem FpFmt.roundMag_mag (f : FpFmt) {c n d mode r : Nat} (hm : f.mag c = .fin false n d) (hr : r < 65536) : f.roundMag n d mode r = c := by
  obtain ⟨n', d', hm', hd, hval⟩ := f.mag_eq_fin c
  obtain ⟨-, rfl, rfl⟩ := Ext.fin.inj (hm.symm.trans hm')
  exact f.roundMag_of_isMultiple hd hval hr

/-! ### Decoding (R125, R126) and conversion (R134) -/

theorem Ext.lt_fin_self (s : Bool) (n d : Nat) : (Ext.fin s n d).lt (.fin s n d) = false := by
  simp only [Ext.lt, Int.lt_irrefl, decide_false]

/-- A code is its sign bit above its magnitude code. -/
theorem code_eq_sign_add_magnitude {code k : Nat} (h : code < 2 ^ (k + 1)) : b2n (bitOf code k) * 2 ^ k + code % 2 ^ k = code := by
  have hbit : code / 2 ^ k < 2 := Nat.div_lt_of_lt_mul (by rwa [← Nat.pow_succ])
  have hsign : b2n (bitOf code k) = code / 2 ^ k := by
    rcases Nat.le_one_iff_eq_zero_or_eq_one.mp (Nat.le_of_lt_succ hbit) with hb | hb <;> rw [bitOf, hb] <;> rfl
  rw [hsign, Nat.mul_comm, Nat.div_add_mod]

theorem FpFmt.infCode_pos {f : FpFmt} (hf : 0 < f.eb) : 0 < f.infCode :=
  Nat.mul_pos (Nat.sub_pos_of_lt (Nat.one_lt_two_pow (Nat.ne_of_gt hf))) (Nat.two_pow_pos _)

/-- The finite case of `decode` keeps the quotient of `mag` and sets its sign. -/
theorem FpFmt.signed_mag_eq_fin (f : FpFmt) (s : Bool) (c : Nat) :
    ∃ n d, f.mag c = .fin false n d ∧ (if s then (f.mag c).neg else f.mag c) = .fin s n d := by
  obtain ⟨n, d, hm, -, -⟩ := f.mag_eq_fin c
  exact ⟨n, d, hm, by cases s <;> rw [hm] <;> rfl⟩

/-- What a code decodes to: a NaN, the infinity of its sign, or the magnitude of a finite code with its sign. -/
theorem FpFmt.decode_cases (f : FpFmt) (code : Nat) :
    f.decode code = .nan ∨
    (f.kind = .ieee ∧ code % 2 ^ f.sbit = f.infCode ∧ f.decode code = .inf (bitOf code f.sbit)) ∨
    (code % 2 ^ f.sbit ≤ f.maxCode ∧ ∃ n d, f.mag (code % 2 ^ f.sbit) = .fin false n d ∧ f.decode code = .fin (bitOf code f.sbit) n d) := by
  obtain ⟨n, d, hm, hsigned⟩ := f.signed_mag_eq_fin (bitOf code f.sbit) (code % 2 ^ f.sbit)
  have hc : code % 2 ^ f.sbit < 2 ^ f.sbit := Nat.mod_lt _ (Nat.two_pow_pos _)
  rcases hk : f.kind with _ | _ | _
  case ieee =>
    rcases Nat.lt_trichotomy (code % 2 ^ f.sbit) f.infCode with h | h | h
    · refine .inr (.inr ⟨?_, n, d, hm, ?_⟩)
      · simp only [FpFmt.maxCode, hk]; omega
      · simp only [FpFmt.decode, hk, Nat.not_lt.mpr (Nat.le_of_lt h), Nat.ne_of_lt h, if_false, hsigned]
    · exact .inr (.inl ⟨rfl, h, by simp only [FpFmt.decode, hk, h, Nat.lt_irrefl, if_false, if_true]⟩)
    · exact .inl (by simp only [FpFmt.decode, hk, h, if_true])
  case e4m3 =>
    by_cases h : code % 2 ^ f.sbit = 2 ^ f.sbit - 1
    · exact .inl (by simp only [FpFmt.decode, hk, h, if_true])
    · refine .inr (.inr ⟨?_, n, d, hm, ?_⟩)
      · simp only [FpFmt.maxCode, hk]; omega
      · simp only [FpFmt.decode, hk, h, if_false, hsigned]
  case finite =>
    refine .inr (.inr ⟨?_, n, d, hm, ?_⟩)
    · simp only [FpFmt.maxCode, hk]; omega
    · simp only [FpFmt.decode, hk, hsigned]

theorem FpFmt.encode_nan (f : FpFmt) (mode r : Nat) : f.encode .nan mode r = (f.nanCode, false) := rfl

theorem FpFmt.encode_inf {f : FpFmt} (h : f.kind = .ieee) (s : Bool) (mode r : Nat) :
    f.encode (.inf s) mode r = (b2n s * 2 ^ f.sbit + f.infCode, false) := by
  simp only [FpFmt.encode, h, if_true]

/-- The magnitude of a finite code comes back as that code: it does not overflow, and only a value beyond the greatest is clipped. -/
theorem FpFmt.encode_fin_of_mag (f : FpFmt) (hf : 0 < f.eb) {c n d mode r : Nat} (s : Bool) (hm : f.mag c = .fin false n d)
    (hc : c ≤ f.maxCode) (hr : r < 65536) : f.encode (.fin s n d) mode r = (b2n s * 2 ^ f.sbit + c, false) := by
  have hclip : (decide (c = f.maxCode) && (f.mag f.maxCode).lt (.fin false n d)) = false := by
    by_cases h : c = f.maxCode
    · rw [← h, hm, Ext.lt_fin_self, Bool.and_false]
    · simp only [h, decide_false, Bool.false_and]
  rcases hk : f.kind with _ | _ | _
  case ieee =>
    have hfin : ¬ f.infCode ≤ c := by
      have hpos := FpFmt.infCode_pos hf
      simp only [FpFmt.maxCode, hk] at hc
      omega
    simp only [FpFmt.encode, hk, f.roundMag_mag hm hr, hfin, if_false]
  case e4m3 => simp only [FpFmt.encode, hk, f.roundMag_mag hm hr, Nat.min_eq_left hc, hclip]
  case finite => simp only [FpFmt.encode, hk, f.roundMag_mag hm hr, Nat.min_eq_left hc, hclip]

/-- Settles O33: the magnitude of a code is a whole number of units of the code's own spacing, so no mode has anything to round. -/
theorem formatsRoundTrip : Obligations.FormatsRoundTrip := by
  unfold Obligations.FormatsRoundTrip
  intro f hf code mode draw hcode _ hdraw
  have heb : 0 < f.eb := by
    have hall : ∀ f ∈ [fp32, bf16, fp16, e4m3, e5m2, e3m2, e2m3, e2m1], 0 < f.eb := by decide
    exact hall f hf
  refine ⟨fun hnan => ?_, fun hnan => by rw [hnan, f.encode_nan]⟩
  rcases f.decode_cases code with h | ⟨hkind, hinf, h⟩ | ⟨hmax, n, d, hmag, h⟩
  · exact absurd h hnan
  · rw [h, FpFmt.encode_inf hkind, ← hinf, code_eq_sign_add_magnitude hcode]
  · rw [h, f.encode_fin_of_mag heb _ hmag hmax hdraw, code_eq_sign_add_magnitude hcode]

end Sys2Proof.Machine

/-! SUPPORT. Vector cores (R157 to R168): what a write of one element or of a result group leaves, and the results of VSEGSUM and
VHBFLY. -/

namespace Sys2Proof.Machine

/-! ### Folds over the indices below a bound -/

theorem forUpTo_succ {σ : Type} (n : Nat) (f : Nat → σ → σ) (s : σ) : forUpTo (n + 1) f s = f n (forUpTo n f s) := by
  simp [forUpTo, List.range_succ]

theorem forUpTo_keeps_below {σ : Type} (P : σ → Prop) (f : Nat → σ → σ) (n : Nat) (hf : ∀ i < n, ∀ s, P s → P (f i s)) (s : σ)
    (h : P s) : P (forUpTo n f s) := by
  induction n with
  | zero => exact h
  | succ n ih => rw [forUpTo_succ]; exact hf n (Nat.lt_succ_self n) _ (ih fun i hi => hf i (Nat.lt_succ_of_lt hi))

/-- What each step brings about for its own index and keeps for the others holds of every index below the bound. -/
theorem forUpTo_each {σ : Type} (P : Nat → σ → Prop) (f : Nat → σ → σ) (n : Nat) (hown : ∀ i < n, ∀ s, P i (f i s))
    (hother : ∀ i < n, ∀ k < n, i ≠ k → ∀ s, P i s → P i (f k s)) (s : σ) : ∀ i < n, P i (forUpTo n f s) := by
  induction n with
  | zero => exact fun i hi => absurd hi (Nat.not_lt_zero i)
  | succ n ih =>
    intro i hi
    rw [forUpTo_succ]
    rcases Nat.lt_succ_iff_lt_or_eq.mp hi with hlt | rfl
    · have hprev := ih (fun i hi => hown i (Nat.lt_succ_of_lt hi))
        (fun i hi k hk => hother i (Nat.lt_succ_of_lt hi) k (Nat.lt_succ_of_lt hk)) i hlt
      exact hother i hi n (Nat.lt_succ_self n) (Nat.ne_of_lt hlt) _ hprev
    · exact hown i hi _

/-! ### One element of a vector register (R162) -/

/-- A field of `w` bits at bit `lo` of a number, replaced: the field reads the new value, every other bit reads as before. -/
theorem testBit_replaceField (old n lo w b : Nat) :
    (old - old / 2 ^ lo % 2 ^ w * 2 ^ lo + n % 2 ^ w * 2 ^ lo).testBit b =
      if lo ≤ b ∧ b < lo + w then n.testBit (b - lo) else old.testBit b := by
  have hlow : old % 2 ^ lo < 2 ^ lo := Nat.mod_lt _ (Nat.two_pow_pos lo)
  have hfield (m : Nat) : m % 2 ^ w < 2 ^ w := Nat.mod_lt _ (Nat.two_pow_pos w)
  have hsplit : old = 2 ^ lo * (2 ^ w * (old / 2 ^ lo / 2 ^ w) + old / 2 ^ lo % 2 ^ w) + old % 2 ^ lo := by
    rw [Nat.div_add_mod, Nat.div_add_mod]
  have hnew : old - old / 2 ^ lo % 2 ^ w * 2 ^ lo + n % 2 ^ w * 2 ^ lo =
      2 ^ lo * (2 ^ w * (old / 2 ^ lo / 2 ^ w) + n % 2 ^ w) + old % 2 ^ lo := by
    conv => enter [1, 1, 1]; rw [hsplit]
    rw [Nat.mul_add, Nat.mul_add, Nat.mul_comm (2 ^ lo) (old / 2 ^ lo % 2 ^ w), Nat.mul_comm (2 ^ lo) (n % 2 ^ w)]
    omega
  rw [hnew, Nat.testBit_two_pow_mul_add _ hlow, Nat.testBit_two_pow_mul_add _ (hfield n)]
  by_cases hb : b < lo
  · rw [if_pos hb, if_neg (by omega), Nat.testBit_mod_two_pow, decide_eq_true hb, Bool.true_and]
  · by_cases hw : b - lo < w
    · rw [if_neg hb, if_pos hw, if_pos (by omega), Nat.testBit_mod_two_pow, decide_eq_true hw, Bool.true_and]
    · rw [if_neg hb, if_neg hw, if_neg (by omega), Nat.testBit_div_two_pow, Nat.testBit_div_two_pow]
      congr 1
      omega

section
variable (c : VCore) (r w i n : Nat)

/-- An element lies in one register; the others read as before. -/
theorem VCore.vr_setEl_ne {k : Nat} (h : k % 32 ≠ (r + i / (512 / w)) % 32) : (c.setEl r w i n).vr k = c.vr k := by
  unfold VCore.vr VCore.setEl
  rw [Tab.lookD_put_ne _ _ _ h]

/-- The bits of the register that an element lies in, after a write of the element. -/
theorem VCore.testBit_vr_setEl {k b : Nat} (hk : k % 32 = (r + i / (512 / w)) % 32) (hb : b < 512) :
    ((c.setEl r w i n).vr k).testBit b =
      if w * (i % (512 / w)) ≤ b ∧ b < w * (i % (512 / w)) + w then n.testBit (b - w * (i % (512 / w))) else (c.vr k).testBit b := by
  have hold : c.vr ((r + i / (512 / w)) % 32) = c.vr k := by simp only [VCore.vr, hk, Nat.mod_mod]
  rw [← hold, ← testBit_replaceField]
  simp only [VCore.setEl, VCore.vr, hk, Tab.lookD_put_self, BitVec.toNat_ofNat, Nat.testBit_mod_two_pow, hb, decide_true, Bool.true_and]

end

/-- Words at different places of a register do not share a bit. -/
theorem mem_word_iff {i j b : Nat} (hb : b < 32) : (32 * i ≤ 32 * j + b ∧ 32 * j + b < 32 * i + 32) ↔ i = j := by omega

/-- The 32-bit elements of one register, after a write of one of them. -/
theorem VCore.el_setEl (c : VCore) (r n : Nat) {i j : Nat} (hi : i < 16) (hj : j < 16) :
    (c.setEl r 32 i n).el r 32 j = if i = j then n % 2 ^ 32 else c.el r 32 j := by
  have hreg : (r + j / (512 / 32)) % 32 = (r + i / (512 / 32)) % 32 := by omega
  have hi' : i % (512 / 32) = i := Nat.mod_eq_of_lt hi
  have hj' : j % (512 / 32) = j := Nat.mod_eq_of_lt hj
  refine Nat.eq_of_testBit_eq fun b => ?_
  unfold VCore.el
  rw [Nat.testBit_mod_two_pow, Nat.testBit_div_two_pow, hj']
  by_cases hb : b < 32
  · rw [VCore.testBit_vr_setEl c r 32 i n hreg (by omega), hi', Nat.add_comm b]
    simp only [mem_word_iff hb]
    split
    · next h => rw [h, Nat.add_sub_cancel_left, Nat.testBit_mod_two_pow]
    · rw [Nat.testBit_mod_two_pow, Nat.testBit_div_two_pow, Nat.add_comm b]
  · split <;> rw [Nat.testBit_mod_two_pow, decide_eq_false hb, Bool.false_and, Bool.false_and]

/-! ### A result group (R162) -/

/-- The write of element i of a result group. -/
def VCore.groupStep (c : VCore) (vd w body : Nat) (vals : Nat → Option Nat) (free i : Nat) (acc : VCore) : VCore :=
  match (if i < body then vals i else none) with
  | some x => acc.setEl vd w i x
  | none =>
    let agn := if i < body then c.vma else c.vta
    if agn && decide (Config.freeNat (free + i) % 2 = 1) then acc.setEl vd w i (2 ^ w - 1) else acc

theorem VCore.writeGroup_eq (c : VCore) (vd w body : Nat) (vals : Nat → Option Nat) (free : Nat) :
    c.writeGroup vd w body vals free = forUpTo (c.destLen w) (c.groupStep vd w body vals free) c := rfl

section
variable (c : VCore) (vd w body : Nat) (vals : Nat → Option Nat) (free : Nat)

/-- A step writes its element or leaves the core as it is. -/
theorem VCore.groupStep_cases (i : Nat) (acc : VCore) :
    (∃ n, c.groupStep vd w body vals free i acc = acc.setEl vd w i n) ∨ c.groupStep vd w body vals free i acc = acc := by
  unfold VCore.groupStep
  split
  · exact .inl ⟨_, rfl⟩
  · dsimp only
    split
    · split
      · exact .inl ⟨_, rfl⟩
      · exact .inr rfl
    · split
      · exact .inl ⟨_, rfl⟩
      · exact .inr rfl

theorem VCore.groupStep_body {i x : Nat} (hi : i < body) (hx : vals i = some x) (acc : VCore) :
    c.groupStep vd w body vals free i acc = acc.setEl vd w i x := by
  simp only [VCore.groupStep, hi, if_true, hx]

/-- What every write of an element keeps, the write of the group keeps. -/
theorem VCore.writeGroup_keeps (P : VCore → Prop) (hP : ∀ i < c.destLen w, ∀ n acc, P acc → P (acc.setEl vd w i n)) (h : P c) :
    P (c.writeGroup vd w body vals free) := by
  rw [VCore.writeGroup_eq]
  refine forUpTo_keeps_below P _ _ (fun i hi acc hacc => ?_) c h
  rcases c.groupStep_cases vd w body vals free i acc with ⟨n, hs⟩ | hs
  · rw [hs]; exact hP i hi n acc hacc
  · rwa [hs]

end

/-- With LMUL 1 a destination of EEW 32 is the sixteen words of one register. -/
theorem VCore.destLen_words {c : VCore} (h : c.lmul8 = 8) : c.destLen 32 = 16 := by simp [VCore.destLen, h]

section
variable {c : VCore} (hl : c.lmul8 = 8) (vd : Nat) (vals : Nat → Option Nat) (free : Nat)
include hl

/-- An element of the body holds the value that the instruction gives it. -/
theorem VCore.el_writeGroup {body : Nat} (hbody : body ≤ 16) (f : Nat → Nat) (hv : ∀ i < body, vals i = some (f i)) {j : Nat}
    (hj : j < body) :
    (c.writeGroup vd 32 body vals free).el vd 32 j = f j % 2 ^ 32 := by
  rw [VCore.writeGroup_eq, VCore.destLen_words hl]
  refine forUpTo_each (fun i (a : VCore) => i < body → a.el vd 32 i = f i % 2 ^ 32) _ 16 (fun i hi a hb => ?_)
    (fun i hi k hk hne a ha hb => ?_) c j (Nat.lt_of_lt_of_le hj hbody) hj
  · rw [c.groupStep_body vd 32 body vals free hb (hv i hb), VCore.el_setEl _ _ _ hi hi, if_pos rfl]
  · rcases c.groupStep_cases vd 32 body vals free k a with ⟨n, hs⟩ | hs
    · rw [hs, VCore.el_setEl _ _ _ hk hi, if_neg (Ne.symm hne), ha hb]
    · rw [hs, ha hb]

/-- The write of a group leaves the scalar registers, vtype, vl, and the vector registers but the destination. -/
theorem VCore.writeGroup_frame (hvd : vd < 32) (body : Nat) :
    (c.writeGroup vd 32 body vals free).x = c.x ∧ (c.writeGroup vd 32 body vals free).vtype = c.vtype ∧
      (c.writeGroup vd 32 body vals free).vl = c.vl ∧ ∀ r, r < 32 → r ≠ vd → (c.writeGroup vd 32 body vals free).vr r = c.vr r := by
  have hkeep (P : VCore → Prop) := c.writeGroup_keeps vd 32 body vals free P
  refine ⟨hkeep (·.x = c.x) (fun _ _ _ _ h => h) rfl, hkeep (·.vtype = c.vtype) (fun _ _ _ _ h => h) rfl,
    hkeep (·.vl = c.vl) (fun _ _ _ _ h => h) rfl, fun r hr hne => hkeep (·.vr r = c.vr r) (fun i hi n a ha => ?_) rfl⟩
  rw [VCore.destLen_words hl] at hi
  rw [VCore.vr_setEl_ne a vd 32 i n (by omega), ha]

end

/-! ### Segment sums and butterflies (R164, R165) -/

@[simp] theorem VCore.flags_el (c : VCore) (free r w i : Nat) : (c.flags free).el r w i = c.el r w i := rfl

/-- The sum of a segment's active elements as VSEGSUM forms it: the integers added up, or the FP32 additions one after the other. -/
def VCore.segmentSum (c : VCore) (vs2 l vm : Nat) (int : Bool) (j : Nat) : Nat :=
  let act : List Nat := ((List.range l).map (j * l + ·)).filter (c.active vm)
  if int then (act.foldl (fun n i => n + c.el vs2 32 i) 0) % 2 ^ 32
  else act.foldl (fun (n : Nat) i => fp32.rne ((fp32.decode n).add (c.fe vs2 i))) 0

theorem VCore.vsegsum_int (c : VCore) (vd vs2 l vm n : Nat) :
    c.vsegsum vd vs2 l vm true n = c.writeGroup vd 32 (c.vl / l) (fun j => some (c.segmentSum vs2 l vm true j)) n := rfl

theorem VCore.vsegsum_fp (c : VCore) (vd vs2 l vm n : Nat) :
    c.vsegsum vd vs2 l vm false n = (c.writeGroup vd 32 (c.vl / l) (fun j => some (c.segmentSum vs2 l vm false j)) n).flags n := rfl

theorem VCore.segmentSum_int (c : VCore) (vs2 l vm j : Nat) : c.segmentSum vs2 l vm true j =
    ((((List.range l).map (j * l + ·)).filter (c.active vm)).map fun i => c.el vs2 32 i).sum % 2 ^ 32 := by
  rw [List.sum_eq_foldl, List.foldl_map]
  rfl

/-- The sum or difference that VHBFLY gives element i. -/
def VCore.butterfly (c : VCore) (vs2 h i : Nat) : Nat :=
  if i % (2 * h) < h then fp32.rne ((c.fe vs2 i).add (c.fe vs2 (i + h))) else fp32.rne ((c.fe vs2 (i - h)).sub (c.fe vs2 i))

theorem VCore.vhbfly_eq (c : VCore) (vd vs2 h free : Nat) :
    c.vhbfly vd vs2 h free = (c.writeGroup vd 32 c.vl (fun i => some (c.butterfly vs2 h i)) free).flags free := rfl

/-- An FP32 code has 32 bits. -/
theorem fp32_rne_lt (v : Ext) : fp32.rne v < 2 ^ 32 := by
  have hsign (s : Bool) : b2n s * 2 ^ fp32.sbit ≤ 2 ^ 31 := by cases s <;> decide
  have hinf : fp32.infCode = 0x7F800000 := rfl
  cases v with
  | nan => decide
  | inf s => cases s <;> decide
  | fin s n d =>
    have := hsign s
    have hrne : fp32.rne (.fin s n d) = b2n s * 2 ^ fp32.sbit +
        if fp32.infCode ≤ fp32.roundMag n d 0 0 then fp32.infCode else fp32.roundMag n d 0 0 := rfl
    rw [hrne]
    split <;> omega

theorem VCore.butterfly_lt (c : VCore) (vs2 h i : Nat) : c.butterfly vs2 h i < 2 ^ 32 := by
  unfold VCore.butterfly
  split <;> exact fp32_rne_lt _

/-- VSEGSUM leaves what the write of its group leaves; the exception flags are none of it. -/
theorem VCore.vsegsum_frame {c : VCore} (hl : c.lmul8 = 8) {vd : Nat} (hvd : vd < 32) (vs2 l vm : Nat) (int : Bool) (n : Nat) :
    (c.vsegsum vd vs2 l vm int n).x = c.x ∧ (c.vsegsum vd vs2 l vm int n).vtype = c.vtype ∧
      (c.vsegsum vd vs2 l vm int n).vl = c.vl ∧ ∀ r, r < 32 → r ≠ vd → (c.vsegsum vd vs2 l vm int n).vr r = c.vr r := by
  have hgroup := VCore.writeGroup_frame hl vd (fun j => some (c.segmentSum vs2 l vm int j)) n hvd (c.vl / l)
  cases int with
  | true => exact hgroup
  | false => exact hgroup

/-- Settles O37: both instructions write one result group, each of whose elements holds the value given for it. -/
theorem vectorResults : Obligations.VectorResults := by
  unfold Obligations.VectorResults
  intro c vd vs2 l n hl hvl hvd _ _
  refine ⟨fun vm _ _ j hj => ?segsum, fun _ _ i hi => ?butterfly, fun vm int => VCore.vsegsum_frame hl hvd vs2 l vm int n,
    fun w => ⟨rfl, rfl⟩⟩
  case segsum =>
    have hbody : c.vl / l ≤ 16 := Nat.le_trans (Nat.div_le_self _ _) hvl
    rw [VCore.vsegsum_int, VCore.el_writeGroup hl vd _ n hbody (c.segmentSum vs2 l vm true) (fun _ _ => rfl) hj, VCore.segmentSum_int,
      Nat.mod_mod]
  case butterfly =>
    rw [VCore.vhbfly_eq, VCore.flags_el, VCore.el_writeGroup hl vd _ n hvl (c.butterfly vs2 l) (fun _ _ => rfl) hi,
      Nat.mod_eq_of_lt (c.butterfly_lt vs2 l i)]
    rfl

end Sys2Proof.Machine

/-! SUPPORT. Vector and shader cores as they run (R157 to R178, R322): what each row does on a core in a known state. -/

namespace Sys2Proof

/-- A read of a table without one key. -/
theorem Tab.look_del {α : Type} (t : Tab α) (k j : Nat) : Tab.look (Tab.del t k) j = if j = k then none else Tab.look t j := by
  unfold Tab.del
  rw [Tab.look_filter t (fun x => decide (x ≠ k)) j]
  by_cases h : j = k <;> simp [h]

end Sys2Proof

namespace Sys2Proof.Machine

/-! ### Tolgesko instructions (R163 to R168) -/

section
variable (d : Dev) {k : Nat} (hrun : d.coreRuns k = true)
include hrun

theorem Dev.vecStep_retires {ok : Bool} (hok : ok = true) (f : VCore → Nat → VCore) (draws : Nat) :
    d.vecStep k ok f draws = { d.setCore k { f (d.core k) d.freeCtr with pc := (f (d.core k) d.freeCtr).pc + 4 } with
      freeCtr := d.freeCtr + draws } := by
  simp [Dev.vecStep, hrun, hok]

theorem Dev.vecStep_traps {ok : Bool} (hok : ok = false) (f : VCore → Nat → VCore) (draws : Nat) :
    d.vecStep k ok f draws = d.trapFault k 2 (d.core k).pc.toNat 4 := by
  simp [Dev.vecStep, Dev.illegal, hrun, hok]

end

section
variable {s : State} (hp : s.dev.power = .on) {k : Fin 288} (hrun : s.dev.coreRuns k.val = true) (i : VIns) (t : Nat)
include hp hrun

/-- A core that may not run a vector instruction traps on each of the five (R162, R171). -/
theorem ends_vector_traps (hok : (s.dev.core k.val).vecOk = false) : ∀ row ∈ [Instr.vrstat, .vsegsum, .vhbfly, .vqscale, .vcbnear],
    Ends (row k i t) s (Dev.keep (s.dev.advance t) ((s.dev.advance t).trapFault k.val 2 (s.dev.core k.val).pc.toNat 4)) := by
  have hstep {ok : Bool} (hb : ok = false) := (s.dev.advance t).vecStep_traps hrun hb
  have hok' : ((s.dev.advance t).core k.val).vecOk = false := hok
  intro row hrow
  simp only [List.mem_cons, List.not_mem_nil, or_false] at hrow
  obtain rfl | rfl | rfl | rfl | rfl := hrow
  · exact ends_of_effect (exec_vrstat s k i t) hp (hstep (by simp [hok']) _ _)
  · exact ends_of_effect (exec_vsegsum s k i t) hp (hstep (by simp [hok']) _ _)
  · exact ends_of_effect (exec_vhbfly s k i t) hp (hstep (by simp [hok']) _ _)
  · exact ends_of_effect (exec_vqscale s k i t) hp (hstep (by simp [hok']) _ _)
  · exact ends_of_effect (exec_vcbnear s k i t) hp
      ((if_neg (by simp [hok'])).trans ((if_neg (by simp [hok'])).trans (hstep (by simp [hok']) _ _)))

end

/-! ### MSWAIT (R159, R169) -/

/-- MSWAIT at a flag that it may read: it retires with the flag, or the core waits. -/
def Dev.readFlag (d : Dev) (k : Nat) (i : VIns) : Dev :=
  let c := d.core k
  let a := (c.xr i.rs1.val).toNat
  let ref : Word := BitVec.ofNat 32 (c.xr i.vs2.val).toNat
  if msOk (d.rd32 a) ref then d.setCore k (c.msRetire i.vd.val (d.rd32 a))
  else (d.setCore k { c with wait := some (i.vd.val, a, ref) }).setF (aVcStatus k) 7 4 2

section
variable {s : State} (hp : s.dev.power = .on) {k : Fin 288} (t : Nat)
include hp

/-- MSWAIT in its form, on a vector core and at an address that it may read: the flag is read. -/
theorem ends_mswait (hk : k.val < 256) (hrun : s.dev.coreRuns k.val = true) (i : VIns) (hf : i.funct3.val = 7) (hm : i.vm = true)
    (hflag : s.dev.flagOk k.val ((s.dev.core k.val).xr i.rs1.val).toNat = true) {e : Dev}
    (he : (s.dev.advance t).readFlag k.val i = e) :
    Ends (.mswait k i t) s (Dev.keep (s.dev.advance t) e) := by
  have hrun' : (s.dev.advance t).coreRuns k.val = true := hrun
  have hflag' : (s.dev.advance t).flagOk k.val (((s.dev.advance t).core k.val).xr i.rs1.val).toNat = true := hflag
  refine ends_of_effect (exec_mswait s k i t) hp (.trans (if_neg ?runs) (.trans (if_neg ?form) (.trans (if_neg ?flag) he)))
  case runs => simp [hrun']
  case form => simp [hk, hf, hm]
  case flag => simp [hflag']

/-- A shader core does not implement MSWAIT. -/
theorem ends_mswait_shader (hk : 256 ≤ k.val) (hrun : s.dev.coreRuns k.val = true) (i : VIns) :
    Ends (.mswait k i t) s (Dev.keep (s.dev.advance t) ((s.dev.advance t).trapFault k.val 2 (s.dev.core k.val).pc.toNat 4)) := by
  have hrun' : (s.dev.advance t).coreRuns k.val = true := hrun
  refine ends_of_effect (exec_mswait s k i t) hp (.trans (if_neg ?runs) (if_pos ?form))
  case runs => simp [hrun']
  case form => simp [Nat.not_lt.mpr hk]

/-- A waiting core whose flag now satisfies the condition goes on. -/
theorem ends_mswaitSatisfied {rd a : Nat} {ref : Word} (hw : (s.dev.core k.val).wait = some (rd, a, ref))
    (hok : msOk (s.dev.rd32 a) ref = true) : Ends (.mswaitSatisfied k t) s (Dev.keep (s.dev.advance t)
      (((s.dev.advance t).setCore k.val ((s.dev.core k.val).msRetire rd (s.dev.rd32 a))).setF (aVcStatus k.val) 7 4 1)) := by
  have hw' : ((s.dev.advance t).core k.val).wait = some (rd, a, ref) := hw
  refine ends_of_effect (exec_mswaitSatisfied s k t) hp ?_
  simp only [hw']
  exact if_pos hok

end

/-! ### Traps (R171, R177, R322) -/

theorem aVc_ne {v i j : Nat} (h : i ≠ j) : aVc v + i ≠ aVc v + j := by omega

/-- The device when a core has trapped, before the command's context is torn down. -/
def Dev.trapped (d : Dev) (k cause pc : Nat) : Dev := ((d.trapRegs k cause pc).trapEnds k cause pc).coreTraps k cause pc

theorem Dev.trapFault_tears (d : Dev) {k : Nat} (cause pc code : Nat) {q : Nat × Cmd} (h : d.cmdOnCore k = some q) :
    d.trapFault k cause pc code = ((d.trapped k cause pc).teardown ((d.trapped k cause pc).ctxOfQ q.1) code).settle := by
  unfold Dev.trapFault
  rw [h]
  rfl

section
variable (d : Dev) {k : Nat} (hk : k < 256) (cause pc : Nat)
include hk

theorem Dev.getB_coreTraps : (d.coreTraps k cause pc).getB (aVcErr k) 3 = d.getB (aVcErr k) 3 := by
  unfold Dev.coreTraps
  rw [if_pos hk]
  exact Dev.getB_of_reg (Dev.reg_setF_ne _ 7 4 3 (aVc_ne (by decide))) 3

theorem Dev.core_coreTraps : ∃ free, (d.coreTraps k cause pc).core k = (d.core k).trap cause pc free := by
  unfold Dev.coreTraps
  rw [if_pos hk]
  exact ⟨d.freeCtr, Tab.lookD_put_self _ _ _ _⟩

theorem Dev.getB_trapEnds : (d.trapEnds k cause pc).getB (aVcErr k) 3 = true := by
  unfold Dev.trapEnds
  rw [if_pos hk]
  exact d.getB_setB_self _ 3 true (by decide)

/-- A trap is recorded in the core's error register, and in mepc and mcause. -/
theorem Dev.trapped_recorded : (d.trapped k cause pc).getB (aVcErr k) 3 = true ∧
    ((d.trapped k cause pc).core k).mepc = BitVec.ofNat 64 pc ∧ ((d.trapped k cause pc).core k).mcause = BitVec.ofNat 64 cause := by
  obtain ⟨free, hcore⟩ := ((d.trapRegs k cause pc).trapEnds k cause pc).core_coreTraps hk cause pc
  have hcore' : (d.trapped k cause pc).core k = _ := hcore
  rw [hcore']
  exact ⟨(Dev.getB_coreTraps _ hk cause pc).trans (Dev.getB_trapEnds _ hk cause pc), rfl, rfl⟩

end

/-! ### RAM and cache errors of a vector core (R171, R177) -/

/-- A corrected error of the local RAM sets its bit and is counted. -/
theorem Dev.lramCe_marks (d : Dev) (k : Nat) :
    ((d.setB (aVcErr k) 0 true).count 0x03 (16 * (k / 4) + 13) 1).getB (aVcErr k) 0 = true ∧
      Dev.Frame d ((d.setB (aVcErr k) 0 true).count 0x03 (16 * (k / 4) + 13) 1) [.counters, .interrupts, .log]
        fun a => a = aVcErr k ∨ cntRegs a := by
  have hcount := (d.setB (aVcErr k) 0 true).frame_countEngine (16 * (k / 4) + 13) 1
  constructor
  · exact (hcount.getB (cntRegs_lt (hub_lt_aVc k 0x10)) 0).trans (d.getB_setB_self _ 0 true (by decide))
  · exact ((d.frame_setB_die (hub_lt_aVc k 0x10) 0 true).mono (by simp) fun _ h => .inl h).trans
      (hcount.mono (fun _ h => h) fun _ h => .inr h)

/-- A parity error of the instruction cache sets its bit alone. -/
theorem Dev.icParity_marks (d : Dev) (k : Nat) : (d.setB (aVcErr k) 2 true).getB (aVcErr k) 2 = true ∧
    Dev.Frame d (d.setB (aVcErr k) 2 true) [] fun a => a = aVcErr k :=
  ⟨d.getB_setB_self _ 2 true (by decide), d.frame_setB_die (hub_lt_aVc k 0x10) 2 true⟩

/-! ### The end of a kernel, and the reset of a core (R171, R177, R178) -/

theorem Dev.kernelEnd_idle (d : Dev) {v : Nat} (hst : d.getF (aVcStatus v) 7 4 = 1) (hc : d.cmdOnEngine (v / 4) = none) :
    d.kernelEnd v = d.setF (aVcStatus v) 7 4 0 := by
  have hc' : (d.setF (aVcStatus v) 7 4 0).cmdOnEngine (v / 4) = none := hc
  simp [Dev.kernelEnd, hst, hc']

theorem Dev.core_resetCore (d : Dev) (k j : Nat) : (d.resetCore k).core j = if j = k then {} else d.core j := by
  have hlook : (d.resetCore k).core j = (Tab.look (Tab.del d.vcs k) j).getD {} := rfl
  rw [hlook, Tab.look_del]
  split <;> rfl

theorem Dev.resetCore_clears (d : Dev) (k : Nat) : (d.resetCore k).core k = {} ∧ (d.resetCore k).getF (aVcStatus k) 7 4 = 0 ∧
    (∀ j, j ≠ k → (d.resetCore k).core j = d.core j) ∧ Dev.Frame d (d.resetCore k) [.cores] fun a => a = aVcStatus k := by
  refine ⟨?_, d.getF_setF_self (aVcStatus k) 7 4 0 (by decide), fun j hj => ?_, ?_⟩
  · rw [Dev.core_resetCore, if_pos rfl]
  · rw [Dev.core_resetCore, if_neg hj]
  · exact ((d.frame_setF_die (hub_lt_aVc k 4) 7 4 0).mono (by simp) fun _ h => h).trans
      ((Dev.frame_vcs _ _).mono (fun _ h => h) fun _ h => h.elim)

/-- Settles O38, row by row: each clause names a row and the state of its core, and a lemma above says what the row's effect then is. -/
theorem coresRun : Obligations.CoresRun := by
  unfold Obligations.CoresRun
  refine ⟨fun s k i t hp hrun => ?_, fun s k t hp => ?_⟩
  · intro d c n retire l
    have hc : (s.dev.advance t).core k.val = c := rfl
    have hl : (c.xr i.rs1.val).toNat = l := rfl
    have hretire {ok : Bool} (hok : ok = true) (f : VCore → Nat → VCore) : d.vecStep k.val ok f vecDraws = retire (f c n) :=
      d.vecStep_retires hrun hok f vecDraws
    refine ⟨fun hv hf hr => ?vrstat, fun hv hf hseg => ?vsegsum, fun hv hf hm hfly => ?vhbfly, fun hv hf hr => ?vqscale,
      fun hv hf hal hlow => ?vcbnear, fun hv => ends_vector_traps hp hrun i t hv⟩
    case vrstat => exact ends_of_effect (exec_vrstat s k i t) hp (hretire (by simp [hc, hv, hf, hr]) _)
    case vsegsum => exact ends_of_effect (exec_vsegsum s k i t) hp (hretire (by simp [hc, hl, hv, hf, hseg]) _)
    case vhbfly => exact ends_of_effect (exec_vhbfly s k i t) hp (hretire (by simp [hc, hl, hv, hf, hm, hfly]) _)
    case vqscale => exact ends_of_effect (exec_vqscale s k i t) hp (hretire (by simp [hc, hv, hf, hr]) _)
    case vcbnear =>
      exact ends_of_effect (exec_vcbnear s k i t) hp ((if_neg (by simp [hc, hl, hal])).trans ((if_neg (by simp [hc, hl, hlow])).trans
        (hretire (by simp [hc, hv, hf]) _)))
  · intro d c x
    refine ⟨fun i hrun hf hm hflag => ⟨fun hok => ?retires, fun hno => ?waits⟩, fun rd a ref hw hok => ?satisfied,
      fun hst hc => ?kernelEnd, fun y cause pc => ⟨fun hrun => ⟨?exc, ?poison⟩, ?lramUe⟩, fun y i hy hrun => ?shader,
      fun cause pc => ⟨?lramCe, ?icParity⟩, fun code cause pc q hq => ?tears, fun hbusy => ?reset⟩
    case retires => exact ends_mswait (k := x) hp t k.isLt hrun i hf hm hflag (if_pos hok)
    case waits => exact ends_mswait (k := x) hp t k.isLt hrun i hf hm hflag (if_neg (Bool.eq_false_iff.mp hno))
    case satisfied => exact ends_mswaitSatisfied (k := x) hp t hw hok
    case kernelEnd => exact ends_of_effect (exec_kernelEnd s k t) hp (d.kernelEnd_idle hst hc)
    case exc => exact ends_of_effect (exec_vcTrap s y .exc cause pc t) hp (if_pos hrun)
    case poison => exact ends_of_effect (exec_vcTrap s y .poison cause pc t) hp (if_pos hrun)
    case lramUe => exact ends_of_effect (exec_vcTrap s y .lramUe cause pc t) hp rfl
    case shader => exact ends_mswait_shader hp t hy hrun i
    case lramCe => exact ⟨_, ends_of_effect (exec_vcTrap s x .lramCe cause pc t) hp (if_pos k.isLt), d.lramCe_marks k.val⟩
    case icParity => exact ⟨_, ends_of_effect (exec_vcTrap s x .icParity cause pc t) hp (if_pos k.isLt), d.icParity_marks k.val⟩
    case tears => exact ⟨_, d.trapFault_tears cause pc code hq, d.trapped_recorded k.isLt cause pc⟩
    case reset =>
      exact ⟨_, ends_of_effect (exec_vcRst s k) hp (if_neg (Bool.eq_false_iff.mp hbusy)), (s.dev.advance 0).resetCore_clears k.val⟩

end Sys2Proof.Machine

/-! SUPPORT. The pools of the key-value allocator (R184, R197): what INIT, VALID and an error of the allocator's state leave of a pool's
validity and of its stack of free pages. -/

namespace Sys2Proof.Machine

/-! ### The registers of a die's pools (R197) -/

theorem aKvPoolCfg_ne (n : Nat) {i j : Nat} (h : i ≠ j) : aKvPoolCfg n i ≠ aKvPoolCfg n j := by
  simp only [aKvPoolCfg, aKvPool]
  omega

theorem aKvPoolCfg_ne_free (n i j : Nat) : aKvPoolCfg n i ≠ aKvPoolFree n j := by
  simp only [aKvPoolCfg, aKvPoolFree, aKvPool]
  omega

theorem aKvPoolCfg_ne_page (n i j : Nat) : aKvPoolCfg n i ≠ aKvPoolPage n j := by
  simp only [aKvPoolCfg, aKvPoolPage, aKvPool]
  omega

theorem aKvPoolCount_ne_cfg (n i j : Nat) : aKvPoolCount n i ≠ aKvPoolCfg n j := by
  simp only [aKvPoolCount, aKvPoolCfg, aKvPool]
  omega

/-- The registers of the pools lie above those of the allocator itself. -/
theorem aKvPoolCfg_ne_add (n i : Nat) {x : Nat} (hx : x < 0x100) : aKvPoolCfg n i ≠ aKv n + x := by
  simp only [aKvPoolCfg, aKvPool]
  omega

theorem aKvPoolCfg_ne_status (n i : Nat) : aKvPoolCfg n i ≠ aKvStatus n := aKvPoolCfg_ne_add n i (x := 4) (by decide)

theorem aKvErr_ne_cfg (n i : Nat) : aKvErr n ≠ aKvPoolCfg n i := Ne.symm (aKvPoolCfg_ne_add n i (x := 0x10) (by decide))

theorem aKvErrPage_ne_cfg (n i : Nat) : aKvErrPage n ≠ aKvPoolCfg n i := Ne.symm (aKvPoolCfg_ne_add n i (x := 0x14) (by decide))

theorem aKvErr_ne_errPage (n : Nat) : aKvErr n ≠ aKvErrPage n := by
  simp only [aKvErr, aKvErrPage]
  omega

/-! ### Validity and stacks -/

theorem Dev.poolValid_of_reg {d e : Dev} {n q : Nat} (h : e.reg (aKvPoolCfg n q) = d.reg (aKvPoolCfg n q)) :
    e.poolValid n q = d.poolValid n q := Dev.getB_of_reg h 31

/-- The count of free pages follows the stacks; a pool's validity does not depend on it. -/
@[simp] theorem Dev.poolValid_kvRefresh (d : Dev) (n q k : Nat) : (d.kvRefresh n k).poolValid n q = d.poolValid n q := by
  have hfree := aKvPoolCfg_ne_free n q k
  refine Dev.poolValid_of_reg ?_
  rw [Dev.kvRefresh, Dev.reg_setF_ne _ _ _ _ (aKvPoolCfg_ne_status n q), Dev.reg_setF_ne _ _ _ _ hfree, Dev.reg_setF_ne _ _ _ _ hfree]

@[simp] theorem Dev.kvStacks_kvRefresh (d : Dev) (n q : Nat) : (d.kvRefresh n q).kvStacks = d.kvStacks := rfl

theorem Dev.poolValid_setStack (d : Dev) (n q k : Nat) (l : List Nat) : (d.setStack n k l).poolValid n q = d.poolValid n q :=
  Dev.poolValid_kvRefresh _ n q k

@[simp] theorem Dev.stackOfPool_setStack_self (d : Dev) (n q : Nat) (l : List Nat) : (d.setStack n q l).stackOfPool n q = l :=
  Tab.lookD_put_self d.kvStacks (poolKey n q) l []

/-- A pool's index names its die. -/
theorem poolKey_div (n : Nat) {q : Nat} (hq : q < 32) : poolKey n q / 32 = n := by
  unfold poolKey
  omega

/-! ### INIT -/

/-- One pool's turn in an INIT: VALID is written 0, and the counts of free pages follow. -/
def Dev.poolOff (d : Dev) (n q : Nat) : Dev := (d.setB (aKvPoolCfg n q) 31 false).kvRefresh n q

theorem Dev.kvInit_eq (d : Dev) (n : Nat) : d.kvInit n = forUpTo 32 (fun q d => d.poolOff n q)
    { d with kvPages := d.kvPages.filter fun p => p.1 / 2 ^ 18 / 32 ≠ n, kvStacks := d.kvStacks.filter fun p => p.1 / 32 ≠ n } := rfl

@[simp] theorem Dev.kvStacks_poolOff (d : Dev) (n q : Nat) : (d.poolOff n q).kvStacks = d.kvStacks := rfl

@[simp] theorem Dev.poolValid_poolOff_self (d : Dev) (n q : Nat) : (d.poolOff n q).poolValid n q = false :=
  (Dev.poolValid_kvRefresh _ n q q).trans (d.getB_setB_self _ 31 false (by decide))

theorem Dev.poolValid_poolOff_ne (d : Dev) (n : Nat) {q k : Nat} (h : q ≠ k) : (d.poolOff n k).poolValid n q = d.poolValid n q :=
  (Dev.poolValid_kvRefresh _ n q k).trans (Dev.poolValid_of_reg (d.reg_setB_ne 31 false (aKvPoolCfg_ne n h)))

/-- Each pool's turn makes it invalid, and no other pool's turn makes it valid again. -/
theorem Dev.poolValid_kvInit (d : Dev) (n : Nat) {q : Nat} (hq : q < 32) : (d.kvInit n).poolValid n q = false := by
  rw [Dev.kvInit_eq]
  exact forUpTo_each (fun i (e : Dev) => e.poolValid n i = false) _ 32 (fun i _ e => e.poolValid_poolOff_self n i)
    (fun i _ k _ hik e he => (e.poolValid_poolOff_ne n hik).trans he) _ q hq

theorem Dev.kvStacks_kvInit (d : Dev) (n : Nat) : (d.kvInit n).kvStacks = d.kvStacks.filter fun p => decide (p.1 / 32 ≠ n) := by
  rw [Dev.kvInit_eq]
  exact forUpTo_same (fun e : Dev => e.kvStacks) _ (fun q e => e.kvStacks_poolOff n q) 32 _

/-- INIT empties the stacks of its die and no other. -/
theorem Dev.stackOfPool_kvInit (d : Dev) (n m : Nat) {q : Nat} (hq : q < 32) :
    (d.kvInit n).stackOfPool m q = if m = n then [] else d.stackOfPool m q := by
  rw [Dev.stackOfPool, Dev.kvStacks_kvInit, Tab.lookD, Tab.look_filter d.kvStacks (fun k => decide (k / 32 ≠ n)), poolKey_div m hq]
  by_cases hmn : m = n
  · simp [hmn]
  · simp [hmn, Dev.stackOfPool, Tab.lookD]

/-! ### VALID -/

theorem Dev.poolOn_invalid {d : Dev} {n q : Nat} (h : d.poolValid n q = false) :
    d.poolOn n q = (d.setB (aKvPoolCfg n q) 31 true).fillPool n q := if_neg (Bool.eq_false_iff.mp h)

theorem Dev.poolValid_fillPool (d : Dev) (n q : Nat) : (d.fillPool n q).poolValid n q = d.poolValid n q :=
  (Dev.poolValid_setStack _ n q q _).trans (Dev.poolValid_of_reg (d.reg_setF_ne 10 0 _ (aKvPoolCfg_ne_page n q q)))

theorem Dev.stackOfPool_fillPool (d : Dev) (n q : Nat) : (d.fillPool n q).stackOfPool n q = List.range (d.poolCount n q) :=
  Dev.stackOfPool_setStack_self _ n q _

/-- An invalid pool that becomes valid has all its pages on its stack, page 0 on top. -/
theorem Dev.poolOn_fills {d : Dev} {n q : Nat} (h : d.poolValid n q = false) :
    (d.poolOn n q).poolValid n q = true ∧ (d.poolOn n q).stackOfPool n q = List.range (d.poolCount n q) := by
  have hcount : (d.setB (aKvPoolCfg n q) 31 true).poolCount n q = d.poolCount n q :=
    Dev.getF_of_reg (d.reg_setB_ne 31 true (aKvPoolCount_ne_cfg n q q)) 18 0
  rw [Dev.poolOn_invalid h, Dev.poolValid_fillPool, Dev.stackOfPool_fillPool, hcount]
  exact ⟨d.getB_setB_self _ 31 true (by decide), rfl⟩

/-! ### An error of the allocator's state -/

/-- The pool's error as the die's registers record it, before the contexts are torn down. -/
def Dev.kvErrMarked (d : Dev) (n q page : Nat) (freeList : Bool) : Dev :=
  ((d.setB (aKvErr n) (if freeList then 2 else 1) true).setReg (aKvErrPage n) (BitVec.ofNat 32 (q * 2 ^ 18 + page % 2 ^ 18))).setB
    (aKvPoolCfg n q) 6 true

theorem Dev.kvStateError_eq (d : Dev) (n q page : Nat) (freeList : Bool) : d.kvStateError n q page freeList =
    (forEach ((d.kvErrMarked n q page freeList).poolCtxs n q) (fun c d => d.teardown c 5) (d.kvErrMarked n q page freeList)).settle := rfl

/-- The three marks stand in three registers. -/
theorem Dev.kvErrMarked_recorded (d : Dev) (n q page : Nat) (freeList : Bool) :
    let e := d.kvErrMarked n q page freeList
    e.getB (aKvErr n) (if freeList then 2 else 1) = true ∧ e.getB (aKvPoolCfg n q) 6 = true ∧
      e.reg (aKvErrPage n) = BitVec.ofNat 32 (q * 2 ^ 18 + page % 2 ^ 18) := by
  refine ⟨?_, Dev.getB_setB_self _ _ 6 true (by decide), ?_⟩
  · rw [Dev.kvErrMarked, Dev.getB_of_reg (Dev.reg_setB_ne _ 6 true (aKvErr_ne_cfg n q)),
      Dev.getB_of_reg (Dev.reg_setReg_ne _ _ (aKvErr_ne_errPage n))]
    exact d.getB_setB_self _ _ true (by split <;> decide)
  · rw [Dev.kvErrMarked, Dev.reg_setB_ne _ 6 true (aKvErrPage_ne_cfg n q), Dev.reg_setReg_self]

/-- Settles O39, row by row: the device that each row leaves is its effect's, and a lemma above says what that holds. -/
theorem kvPoolsAreKept : Obligations.KvPoolsAreKept := by
  unfold Obligations.KvPoolsAreKept
  intro s die pool t hp
  refine ⟨⟨_, ends_act (exec_kvInit s die) hp, ?invalid, ?empty, fun n q hn hq => ?others⟩, fun hinv => ?valid, fun page freeList => ?error⟩
  case invalid => exact Dev.poolValid_kvInit _ die.val pool.isLt
  case empty => rw [Dev.stackOfPool_kvInit _ _ _ pool.isLt, if_pos rfl]
  case others => exact (Dev.stackOfPool_kvInit _ die.val n hq).trans (if_neg hn)
  case valid => exact ⟨_, ends_act (exec_kvPoolValid s die pool) hp, Dev.poolOn_fills (d := s.dev.advance 0) hinv⟩
  case error =>
    exact ⟨_, ends_of_effect (exec_kvStateError s die pool page freeList t) hp (Dev.kvStateError_eq _ _ _ _ _),
      Dev.kvErrMarked_recorded (s.dev.advance t) die.val pool.val page freeList⟩

end Sys2Proof.Machine

/-! SUPPORT. Entries of a sparse table that are changed in place; the start of a graph's run (R235), and what the teardown of a
context does to the queues (R227). -/

namespace Sys2Proof

theorem Tab.adjust_cons {α : Type} (t : Tab α) (i k : Nat) (v : α) (f : α → α) :
    Tab.adjust ((i, v) :: t) k f = (i, if i = k then f v else v) :: Tab.adjust t k f := by
  simp only [Tab.adjust, List.map_cons]
  split <;> rfl

theorem Tab.look_adjust {α : Type} (t : Tab α) (k j : Nat) (f : α → α) :
    Tab.look (Tab.adjust t k f) j = if j = k then (Tab.look t j).map f else Tab.look t j := by
  induction t with
  | nil => simp [Tab.adjust]
  | cons p t ih =>
    obtain ⟨i, v⟩ := p
    rw [Tab.adjust_cons, Tab.look, Tab.look, ih]
    by_cases hj : i = j
    · subst hj
      by_cases hk : i = k <;> simp [hk]
    · simp [hj]

/-- The entries that a condition keeps have the same keys after a change that the condition does not see. -/
theorem Tab.keys_filter_adjust {α : Type} (t : Tab α) (k : Nat) (f : α → α) (p : α → Bool) (hf : ∀ x, p (f x) = p x) :
    ((Tab.adjust t k f).filter fun e => p e.2).map (·.1) = (t.filter fun e => p e.2).map (·.1) := by
  induction t with
  | nil => rfl
  | cons e t ih =>
    obtain ⟨i, v⟩ := e
    rw [Tab.adjust_cons, List.filter_cons, List.filter_cons]
    have hv : p (if i = k then f v else v) = p v := by split <;> simp [hf]
    rw [hv]
    split <;> simp [ih]

/-- Where no key is listed twice, a read finds each entry. -/
theorem Tab.look_eq_some_iff {α : Type} {t : Tab α} (hn : (t.map (·.1)).Nodup) {k : Nat} {x : α} :
    Tab.look t k = some x ↔ (k, x) ∈ t := by
  induction t with
  | nil => simp
  | cons p t ih =>
    obtain ⟨i, v⟩ := p
    obtain ⟨hnew, hrest⟩ := List.nodup_cons.mp hn
    rw [Tab.look, List.mem_cons, Prod.mk.injEq]
    split
    case isTrue hk =>
      subst hk
      have hother : (i, x) ∉ t := fun h => hnew (List.mem_map.mpr ⟨_, h, rfl⟩)
      simp [hother, eq_comm]
    case isFalse hk => simp [ih hrest, Ne.symm hk]

end Sys2Proof

namespace Sys2Proof.Machine

/-! ### A run starts (R235) -/

/-- The run starts of a graph that is no other's fall-back and whose trigger has reached the run's number, where its page is
active and its context is not torn. -/
theorem Dev.startRun_starts (d : Dev) {h : Nat} {g : Graph} (hg : d.graph? h = some g) (hown : g.primary = none)
    (htrig : g.started + 1 ≤ d.trigOf g) (hact : (d.page g.inst).state = .active) (htorn : d.isTorn g.ctx = false) :
    d.startRun h =
      ((d.setGraph h { g with started := g.started + 1, runs := g.runs.put (g.started + 1) ⟨d.now, d.runStampOf g⟩ }).submitRun h
        (if g.onFallback then g.fallback.getD h else h) (g.started + 1) false).settle := by
  have hstay : ¬ (g.primary.isSome = true ∨ d.trigOf g < g.started + 1 ∨ (d.page g.inst).state ≠ .active) := by
    simp [hown, hact, Nat.not_lt.mpr htrig]
  simp only [Dev.startRun, hg, if_neg hstay, htorn, Bool.false_eq_true, if_false]

/-- Settles O20: the row is the start of the run, which device time does not hold back. -/
theorem graphRunsStart : Obligations.GraphRunsStart := by
  unfold Obligations.GraphRunsStart
  intro s h t g hp hg hown htrig hact htorn
  exact ends_of_effect (exec_graphRunStart s h t) hp ((s.dev.advance t).startRun_starts hg hown htrig hact htorn)

/-! ### The queues, which no release of a run writes (R89) -/

theorem Dev.Frame.queues {d e : Dev} {ks : List Kind} {rs : Nat → Prop} (h : Dev.Frame d e ks rs) (hk : Kind.queues ∉ ks) :
    e.queues = d.queues := h.same .queues hk

theorem Dev.WroteFrom.queues {d e : Dev} (h : Dev.WroteFrom d e) : e.queues = d.queues := by
  obtain ⟨_, _, _, _, _, _, rfl⟩ := h
  rfl

/-- Steps that leave the queues, repeated over a list. -/
@[simp] theorem Dev.forEach_queues {α : Type} (l : List α) (f : α → Dev → Dev) (d : Dev) (hf : ∀ x e, (f x e).queues = e.queues) :
    (forEach l f d).queues = d.queues := forEach_same Dev.queues f hf l d

@[simp] theorem Dev.forUpTo_queues (n : Nat) (f : Nat → Dev → Dev) (d : Dev) (hf : ∀ i e, (f i e).queues = e.queues) :
    (forUpTo n f d).queues = d.queues := forUpTo_same Dev.queues f hf n d

/-- An effect made under a condition leaves the queues where each branch does. -/
@[simp] theorem Dev.ite_queues (b : Prop) [Decidable b] (d e : Dev) : (if b then d else e).queues = if b then d.queues else e.queues :=
  apply_ite Dev.queues b d e

@[simp] theorem Dev.setF_queues (d : Dev) (a hi lo v : Nat) : (d.setF a hi lo v).queues = d.queues := by simp [Dev.setF]
@[simp] theorem Dev.count_queues (d : Dev) (g i k : Nat) : (d.count g i k).queues = d.queues := (d.frame_count g i k).queues (by decide)

@[simp] theorem Dev.acctKilled_queues (d : Dev) (n : Nat) (c : Cmd) : (d.acctKilled n c).queues = d.queues := by
  simp [Dev.acctKilled, Dev.countAcct]

@[simp] theorem Dev.noteEnded_queues (d : Dev) (q : Nat) (c : Cmd) (k : KillCause) : (d.noteEnded q c k).queues = d.queues := by
  simp [Dev.noteEnded]

@[simp] theorem Dev.whey_queues (d : Dev) (rs : List Region) : (d.whey rs).queues = d.queues := by
  unfold Dev.whey
  refine Dev.forEach_queues _ _ _ fun r e => ?_
  rw [(Dev.logDirty_wrote _ _ _).queues, (Dev.uncache_wrote _ _ _).queues, (Dev.wrRaw_wrote _ _ _).queues]
  rfl

@[simp] theorem Dev.freeEngines_queues (d : Dev) (es : List Nat) : (d.freeEngines es).queues = d.queues := by
  unfold Dev.freeEngines
  exact Dev.forEach_queues _ _ _ fun e x => by simp

@[simp] theorem Dev.freeSort_queues (d : Dev) (o : Option Nat) : (d.freeSort o).queues = d.queues := by
  cases o <;> rfl

@[simp] theorem Dev.returnPages_queues (d : Dev) (ps : List (Nat × Nat × Nat)) : (d.returnPages ps).queues = d.queues := by
  simp [Dev.returnPages, Dev.setPageState, Dev.pushPage, Dev.setStack, Dev.kvRefresh]

/-- The wheys of the vector cores of engines. -/
@[simp] theorem Dev.wheyCores_queues (d : Dev) (es : List Nat) :
    (forEach es (fun e d => forUpTo 4 (fun k d => d.wheyCore (4 * e + k)) d) d).queues = d.queues :=
  Dev.forEach_queues _ _ _ fun e x => by simp [Dev.wheyCore]

@[simp] theorem Dev.releaseRun_queues (d : Dev) (q : Nat) (c : Cmd) : (d.releaseRun q c).queues = d.queues := by
  simp [Dev.releaseRun]

/-! ### Squashes and halts, queue by queue (R90, R227) -/

/-- A queue without the commands of the listed numbers. -/
def Queue.without (l : List Nat) (x : Queue) : Queue := { x with window := x.window.filter fun c => decide (c.seq ∉ l) }

/-- A queue with nothing in its window. -/
def Queue.emptied (x : Queue) : Queue := { x with window := [] }

/-- A queue that is halted, and to which nothing is fed. -/
def Queue.stopped (x : Queue) : Queue := { x with halted := true, feed := [] }

theorem Queue.drop_eq (x : Queue) (n : Nat) : x.drop n = x.without [n] := by simp [Queue.drop, Queue.without]

theorem Queue.without_without (l m : List Nat) (x : Queue) : (x.without l).without m = x.without (l ++ m) := by
  have hp : ∀ c : Cmd, (decide (c.seq ∉ m) && decide (c.seq ∉ l)) = decide (c.seq ∉ l ++ m) := fun c => by simp [Bool.and_comm]
  simp only [Queue.without, List.filter_filter, hp]

theorem Queue.without_nil (x : Queue) : x.without [] = x := by
  have hall : x.window.filter (fun c => decide (c.seq ∉ [])) = x.window :=
    List.filter_eq_self.mpr fun c _ => decide_eq_true List.not_mem_nil
  rw [Queue.without, hall]

/-- A queue without all of its commands. -/
theorem Queue.without_window (x : Queue) : x.without (x.window.map (·.seq)) = x.emptied := by
  have h : x.window.filter (fun c => decide (c.seq ∉ x.window.map (·.seq))) = [] :=
    List.filter_eq_nil_iff.mpr fun c hc => by simpa using ⟨c, hc, rfl⟩
  rw [Queue.without, h, Queue.emptied]

/-- Without a number that no command of it has, a queue is as it was. -/
theorem Queue.without_of_cmd?_none {x : Queue} {n : Nat} (h : x.cmd? n = none) : x.without [n] = x := by
  have hall : x.window.filter (fun c => decide (c.seq ∉ [n])) = x.window :=
    List.filter_eq_self.mpr fun c hc => by simpa using List.find?_eq_none.mp h c hc
  rw [Queue.without, hall]

/-- What an effect that changes one queue leaves of the queues: the device `e` has the queue `q` of `d` changed by `f`. -/
def Dev.QueueBecomes (d e : Dev) (q : Nat) (f : Queue → Queue) : Prop :=
  ∀ k, e.queue? k = if k = q then (d.queue? k).map f else d.queue? k

theorem Dev.QueueBecomes.of_adjust {d e : Dev} {q : Nat} {f : Queue → Queue} (h : e.queues = d.queues.adjust q f) :
    Dev.QueueBecomes d e q f := fun k => by
  rw [Dev.queue?, h, Tab.look_adjust]
  rfl

/-- An effect that leaves the queues, where the change would leave the queue too. -/
theorem Dev.QueueBecomes.idle {d : Dev} {q : Nat} {f : Queue → Queue} (h : ∀ x, d.queue? q = some x → f x = x) :
    Dev.QueueBecomes d d q f := fun k => by
  split
  case isFalse => rfl
  case isTrue hk =>
    subst hk
    cases hx : d.queue? k with
    | none => rfl
    | some x => rw [Option.map_some, h x hx]

theorem Dev.QueueBecomes.trans {d e e' : Dev} {q : Nat} {f g : Queue → Queue} (h : Dev.QueueBecomes d e q f)
    (h' : Dev.QueueBecomes e e' q g) : Dev.QueueBecomes d e' q (g ∘ f) := fun k => by
  rw [h' k, h k]
  split <;> simp

/-- A change made to each listed queue, once or more often. -/
theorem Dev.queue?_forEach {f : Nat → Dev → Dev} {g : Queue → Queue} (hf : ∀ q e, Dev.QueueBecomes e (f q e) q g)
    (hg : ∀ x, g (g x) = g x) (l : List Nat) (d : Dev) (k : Nat) :
    (forEach l f d).queue? k = if k ∈ l then (d.queue? k).map g else d.queue? k := by
  induction l generalizing d with
  | nil => rfl
  | cons q l ih =>
    have hg' : g ∘ g = g := funext hg
    have hstep : (forEach (q :: l) f d).queue? k = (forEach l f (f q d)).queue? k := rfl
    rw [hstep, ih, hf q d k]
    by_cases hl : k ∈ l <;> by_cases hk : k = q <;> simp [hl, hk, hg']

theorem Dev.squash_of_cmd?_none (d : Dev) {q n : Nat} (h : d.cmd? q n = none) : d.squash q n = d := by
  simp [Dev.squash, h]

theorem Dev.queues_squash_of_cmd?_some (d : Dev) {q n : Nat} {c : Cmd} (h : d.cmd? q n = some c) :
    (d.squash q n).queues = d.queues.adjust q (·.without [n]) := by
  simp [Dev.squash, h, Dev.countInst, Dev.dropCmd, Queue.drop_eq]

/-- A squash takes the command from its queue. -/
theorem Dev.squash_queue (d : Dev) (q n : Nat) : Dev.QueueBecomes d (d.squash q n) q (·.without [n]) := by
  cases hc : d.cmd? q n with
  | none =>
    rw [d.squash_of_cmd?_none hc]
    refine .idle fun x hx => Queue.without_of_cmd?_none ?_
    simpa [Dev.cmd?, hx] using hc
  | some c => exact .of_adjust (d.queues_squash_of_cmd?_some hc)

/-- A squash leaves each queue its context. -/
theorem Dev.queuesOf_squash (d : Dev) (q n c : Nat) : (d.squash q n).queuesOf c = d.queuesOf c := by
  cases hc : d.cmd? q n with
  | none => rw [d.squash_of_cmd?_none hc]
  | some x =>
    rw [Dev.queuesOf, d.queues_squash_of_cmd?_some hc]
    exact Tab.keys_filter_adjust _ _ _ (fun y : Queue => decide (y.ctx = c)) fun _ => rfl

theorem Dev.queuesOf_squashQueue (d : Dev) (q c : Nat) : (d.squashQueue q).queuesOf c = d.queuesOf c := by
  unfold Dev.squashQueue
  split
  case h_1 => rfl
  case h_2 x _ => exact forEach_same (Dev.queuesOf · c) _ (fun y e => e.queuesOf_squash q y.seq c) x.window d

theorem Dev.squashes_queue (q : Nat) (l : List Cmd) (d : Dev) :
    Dev.QueueBecomes d (forEach l (fun c d => d.squash q c.seq) d) q (·.without (l.map (·.seq))) := by
  induction l generalizing d with
  | nil => exact .idle fun x _ => x.without_nil
  | cons c l ih =>
    have hall : Queue.without ((c :: l).map (·.seq)) = Queue.without (l.map (·.seq)) ∘ Queue.without [c.seq] :=
      funext fun x => (x.without_without [c.seq] _).symm
    rw [hall]
    exact (d.squash_queue q c.seq).trans (ih (d.squash q c.seq))

/-- The squash of a queue's commands leaves its window empty. -/
theorem Dev.squashQueue_queue (d : Dev) (q : Nat) : Dev.QueueBecomes d (d.squashQueue q) q Queue.emptied := by
  unfold Dev.squashQueue
  split
  case h_1 hx => exact .idle fun x hx' => absurd (hx.symm.trans hx') (by simp)
  case h_2 x hx =>
    intro k
    rw [Dev.squashes_queue q x.window d k]
    split
    case isFalse => rfl
    case isTrue hk => rw [hk, hx, Option.map_some, Option.map_some, x.without_window]

/-! ### What follows the halt of a context's queues (R227) -/

/-- A queue apart from its HEAD. -/
def Queue.headless (x : Queue) : Queue := { x with head := 0 }

/-- The contexts are the same, and of the queues no more than HEADs have moved. -/
structure Dev.HeadsMove (d e : Dev) : Prop where
  ctxs : e.ctxs = d.ctxs
  rest : ∀ q, (e.queue? q).map Queue.headless = (d.queue? q).map Queue.headless

theorem Dev.HeadsMove.of_eq {d e : Dev} (hc : e.ctxs = d.ctxs) (hq : e.queues = d.queues) : Dev.HeadsMove d e :=
  ⟨hc, fun q => by rw [Dev.queue?, hq]; rfl⟩

theorem Dev.HeadsMove.refl (d : Dev) : Dev.HeadsMove d d := .of_eq rfl rfl

theorem Dev.HeadsMove.trans {d e f : Dev} (h : Dev.HeadsMove d e) (g : Dev.HeadsMove e f) : Dev.HeadsMove d f :=
  ⟨g.ctxs.trans h.ctxs, fun q => (g.rest q).trans (h.rest q)⟩

theorem Dev.Frame.headsMove {d e : Dev} {ks : List Kind} {rs : Nat → Prop} (h : Dev.Frame d e ks rs) (hc : Kind.contexts ∉ ks)
    (hq : Kind.queues ∉ ks) : Dev.HeadsMove d e := .of_eq (h.same .contexts hc).1 (h.queues hq)

/-- A queue that differs from what it is by its HEAD is written. -/
theorem Dev.headsMove_setQueue (d : Dev) {q : Nat} {x y : Queue} (hx : d.queue? q = some x) (hy : y.headless = x.headless) :
    Dev.HeadsMove d (d.setQueue q y) := by
  refine ⟨rfl, fun k => ?_⟩
  rw [Dev.queue?, Dev.setQueue, Tab.look_put]
  split
  case isFalse => rfl
  case isTrue hk => rw [hk, hx, Option.map_some, Option.map_some, hy]

theorem Dev.headsMove_wrWords (d : Dev) (a : Nat) (ws : List Word) : Dev.HeadsMove d (d.wrWords a ws) := by
  obtain ⟨_, _, _, _, _, _, h⟩ := d.wrN_wrote a (ws.flatMap fun w => leBytes 4 w.toNat)
  rw [Dev.wrWords, h]
  exact .of_eq rfl rfl

/-- A response record moves the HEAD of the response ring. -/
theorem Dev.headsMove_respond (d : Dev) (q : Nat) (r : Word) (tok pos fin : Nat) : Dev.HeadsMove d (d.respond q r tok pos fin) := by
  unfold Dev.respond
  split
  case h_1 => exact .refl d
  case h_2 x hx =>
    split
    case isTrue => exact .refl d
    case isFalse =>
      split
      case isTrue => exact .refl d
      case isFalse =>
        refine (d.headsMove_wrWords (x.entry x.head) _).trans (Dev.headsMove_setQueue (x := x) _ ?_ rfl)
        rw [Dev.queue?, Dev.wrWords, (Dev.wrN_wrote _ _ _).queues]
        exact hx

theorem Dev.headsMove_payOwed (d : Dev) (n : Nat) : Dev.HeadsMove d (d.payOwed n) := by
  unfold Dev.payOwed
  split
  case h_1 => exact .refl d
  case h_2 sv _ =>
    split
    case isTrue => exact .refl d
    case isFalse =>
      have hpay (l : List Seq) := forEach_keeps (Dev.HeadsMove d)
        (fun s e => e.respond sv.rspQ s.reqId 0 (s.prompt.length + s.out.length) 5)
        (fun s e he => he.trans (e.headsMove_respond _ _ _ _ _)) l d (.refl d)
      exact ⟨(hpay _).ctxs, (hpay _).rest⟩

theorem Dev.headsMove_serveFault (d : Dev) (n : Nat) : Dev.HeadsMove d (d.serveFault n) := by
  unfold Dev.serveFault
  split
  case h_1 => exact .refl d
  case h_2 => exact ⟨(Dev.headsMove_payOwed _ n).ctxs, (Dev.headsMove_payOwed _ n).rest⟩

/-! ### A teardown (R227) -/

/-- The queues of a context are those whose keys list it. -/
theorem Dev.mem_queuesOf (d : Dev) (hn : (d.queues.map (·.1)).Nodup) {q : Nat} {x : Queue} (hx : d.queue? q = some x) (c : Nat) :
    q ∈ d.queuesOf c ↔ x.ctx = c := by
  have hx' : Tab.look d.queues q = some x := hx
  have hlook (z : Queue) : (q, z) ∈ d.queues ↔ z = x := by
    rw [← Tab.look_eq_some_iff hn, hx', Option.some_inj, eq_comm]
  simp [Dev.queuesOf, hlook]

/-- The device in which the queues of a context are squashed. -/
def Dev.squashCtx (d : Dev) (c : Nat) : Dev := forEach (d.queuesOf c) (fun q d => d.squashQueue q) d

/-- The device in which the queues of a context are halted, and nothing waits to be fed to them. -/
def Dev.haltCtx (d : Dev) (c : Nat) : Dev :=
  forEach (d.queuesOf c) (fun q d => { d with queues := d.queues.adjust q fun y => { y with halted := true, feed := [] } }) d

/-- The device in which a context is torn, its queues are squashed and halted, and nothing is told yet. -/
def Dev.ctxTorn (d : Dev) (c : Nat) (x : Ctx) : Dev :=
  ((d.squashCtx c).haltCtx c).setCtx c { x with torn := true, waitSince := none }

theorem Dev.queuesOf_squashCtx (d : Dev) (c : Nat) : (d.squashCtx c).queuesOf c = d.queuesOf c :=
  forEach_same (Dev.queuesOf · c) _ (fun q e => e.queuesOf_squashQueue q c) _ d

theorem Dev.queue?_squashCtx (d : Dev) (c q : Nat) :
    (d.squashCtx c).queue? q = if q ∈ d.queuesOf c then (d.queue? q).map Queue.emptied else d.queue? q :=
  Dev.queue?_forEach (fun q e => e.squashQueue_queue q) (fun _ => rfl) _ d q

theorem Dev.queue?_haltCtx (d : Dev) (c q : Nat) :
    (d.haltCtx c).queue? q = if q ∈ d.queuesOf c then (d.queue? q).map Queue.stopped else d.queue? q :=
  Dev.queue?_forEach (g := Queue.stopped) (fun _ _ => .of_adjust rfl) (fun _ => rfl) _ d q

@[simp] theorem Dev.queue?_setCtx (d : Dev) (c : Nat) (x : Ctx) (q : Nat) : (d.setCtx c x).queue? q = d.queue? q := rfl

theorem Dev.ctx?_ctxTorn (d : Dev) (c : Nat) (x : Ctx) : (d.ctxTorn c x).ctx? c = some { x with torn := true, waitSince := none } := by
  simp [Dev.ctxTorn, Dev.setCtx, Dev.ctx?]

/-- The queues of the context are empty and stopped, and the others are as they were. -/
theorem Dev.queue?_ctxTorn (d : Dev) (c : Nat) (x : Ctx) (q : Nat) :
    (d.ctxTorn c x).queue? q = if q ∈ d.queuesOf c then (d.queue? q).map fun y => y.emptied.stopped else d.queue? q := by
  rw [Dev.ctxTorn, Dev.queue?_setCtx, Dev.queue?_haltCtx, Dev.queuesOf_squashCtx, Dev.queue?_squashCtx]
  split
  case isTrue => exact Option.map_map _ _ _
  case isFalse => rfl

/-- An effect made under a condition. -/
theorem Dev.HeadsMove.orStay {d e f : Dev} {b : Prop} [Decidable b] (h : Dev.HeadsMove d e) (g : Dev.HeadsMove e f) :
    Dev.HeadsMove d (if b then f else e) := by
  split
  · exact h.trans g
  · exact h

theorem Dev.headsMove_post (d : Dev) (k i a x : Nat) : Dev.HeadsMove d (d.post k i a x) :=
  (d.frame_post k i a x).headsMove (by decide) (by decide)

theorem Dev.headsMove_countInst (d : Dev) (n i : Nat) : Dev.HeadsMove d (d.countInst n i) :=
  (d.frame_count _ i 1).headsMove (by decide) (by decide)

theorem Dev.headsMove_reportAs (d : Dev) (cls : RepClass) (code subject : Nat) : Dev.HeadsMove d (d.reportAs cls code subject) :=
  (d.frame_reportAs cls code subject 0).headsMove (by decide) (by decide)

/-- The runs of the graph of a torn context have ended, and a service that serves it ends with a fault. -/
def Dev.runsTorn (d : Dev) (x : Ctx) : Dev :=
  match x.graph with
  | some g =>
    let d := { d with graphs := d.graphs.adjust g fun y => { y with runs := [], pressed := [], partials := [] } }
    if (d.serving.look x.inst).any (·.graph = g) then d.serveFault x.inst else d
  | none => d

/-- A torn SAFETY context is reported. -/
def Dev.tornReported (d : Dev) (c : Nat) (x : Ctx) : Dev :=
  if d.ctxKind c = some .safety then
    let bound := match x.graph with
      | some g => ((d.graphs.look g).bind (·.fallback)).isSome
      | none => false
    d.reportAs (if bound then .heldC else .fault) 9 (d.handleOf c)
  else d

/-- A teardown tears the context, tells the owner, ends the graph's runs and reports. -/
theorem Dev.teardown_eq (d : Dev) {c : Nat} {x : Ctx} (hx : d.ctx? c = some x) (ht : x.torn = false) (code : Nat) :
    d.teardown c code = ((((d.ctxTorn c x).post x.inst 6 code ((d.ctxTorn c x).handleOf c)).countInst x.inst 9).runsTorn x).tornReported
      c x := by
  simp only [Dev.teardown, hx, ht, Bool.false_eq_true, if_false]
  rfl

theorem Dev.headsMove_runsTorn (d : Dev) (x : Ctx) : Dev.HeadsMove d (d.runsTorn x) := by
  unfold Dev.runsTorn
  split
  case h_1 => exact .orStay (.of_eq rfl rfl) (Dev.headsMove_serveFault _ x.inst)
  case h_2 => exact .refl d

theorem Dev.headsMove_tornReported (d : Dev) (c : Nat) (x : Ctx) : Dev.HeadsMove d (d.tornReported c x) :=
  .orStay (.refl d) (d.headsMove_reportAs _ 9 _)

/-- All that a teardown does after it moves no more than HEADs of queues: events, counts, the records of a service, and reports. -/
theorem Dev.headsMove_teardown (d : Dev) {c : Nat} {x : Ctx} (hx : d.ctx? c = some x) (ht : x.torn = false) (code : Nat) :
    Dev.HeadsMove (d.ctxTorn c x) (d.teardown c code) := by
  rw [d.teardown_eq hx ht]
  exact (((Dev.headsMove_post _ _ _ _ _).trans (Dev.headsMove_countInst _ _ _)).trans (Dev.headsMove_runsTorn _ x)).trans
    (Dev.headsMove_tornReported _ c x)

/-- A queue after the teardown of a context: that of the context is empty and stopped, another keeps all but its HEAD. -/
theorem Dev.queue?_teardown (d : Dev) {c : Nat} {x : Ctx} (hx : d.ctx? c = some x) (ht : x.torn = false)
    (hn : (d.queues.map (·.1)).Nodup) (code : Nat) {q : Nat} {y : Queue} (hy : (d.teardown c code).queue? q = some y) :
    ∃ z, d.queue? q = some z ∧ y.headless = (if y.ctx = c then z.emptied.stopped else z).headless := by
  have hrest := (d.headsMove_teardown hx ht code).rest q
  rw [hy, d.queue?_ctxTorn] at hrest
  cases hz : d.queue? q with
  | none => simp [hz] at hrest
  | some z =>
    refine ⟨z, rfl, ?_⟩
    simp only [hz, d.mem_queuesOf hn hz c] at hrest
    split at hrest
    case isTrue h =>
      have hyz := Option.some.inj hrest
      have hc : y.ctx = c := (congrArg Queue.ctx hyz).trans h
      rwa [if_pos hc]
    case isFalse h =>
      have hyz := Option.some.inj hrest
      have hc : y.ctx ≠ c := fun hc => h ((congrArg Queue.ctx hyz).symm.trans hc)
      rwa [if_neg hc]

/-- Settles O31: the context is written torn, and each of its queues is emptied and stopped, before anything is told of it. -/
theorem teardownHaltsTheContext : Obligations.TeardownHaltsTheContext := by
  unfold Obligations.TeardownHaltsTheContext
  intro d c code x hx ht hn
  refine ⟨⟨{ x with torn := true, waitSince := none }, ?torn, rfl⟩, fun q y hy hc => ?own, fun q y hy hc => ?other⟩
  case torn =>
    rw [Dev.ctx?, (d.headsMove_teardown hx ht code).ctxs]
    exact d.ctx?_ctxTorn c x
  case own =>
    obtain ⟨z, -, h⟩ := d.queue?_teardown hx ht hn code hy
    rw [if_pos hc] at h
    exact ⟨congrArg Queue.halted h, congrArg Queue.window h, congrArg Queue.feed h⟩
  case other =>
    obtain ⟨z, hz, h⟩ := d.queue?_teardown hx ht hn code hy
    rw [if_neg hc] at h
    exact ⟨z, hz, (congrArg Queue.window h).symm, (congrArg Queue.halted h).symm⟩

end Sys2Proof.Machine

/-! SUPPORT. Twin pairs: the records of a stream, the table of verdicts, and what a finding does to the pair (R245 to R251, R258). -/

namespace Sys2Proof.Machine

/-! ### SIG_B (R246) -/

/-- What a doubleword with its index adds to SIG_B. -/
def sigTerm (x : Dword × Nat) : Dword := BitVec.ofNat 64 (x.2 + 1) * x.1

theorem sigB_eq (l : List Dword) : sigB l = l.zipIdx.foldl (fun s x => s + sigTerm x) 0 := rfl

/-- A sum of terms starts from its first summand. -/
theorem foldl_sigTerm (l : List (Dword × Nat)) (s : Dword) :
    l.foldl (fun s x => s + sigTerm x) s = s + l.foldl (fun s x => s + sigTerm x) 0 := by
  induction l generalizing s with
  | nil => simp
  | cons x l ih => rw [List.foldl_cons, List.foldl_cons, ih, ih (0 + sigTerm x), zero_add, add_assoc]

/-- The first doubleword enters SIG_B with the weight 1. -/
theorem sigB_cons (x : Dword) (l : List Dword) : sigB (x :: l) = x + (l.zipIdx 1).foldl (fun s x => s + sigTerm x) 0 := by
  have hx : (0 : Dword) + sigTerm (x, 0) = x := by simp [sigTerm]
  rw [sigB_eq, List.zipIdx_cons, List.foldl_cons, foldl_sigTerm, hx]

theorem sigB_head_inj (l : List Dword) {x y : Dword} (h : sigB (x :: l) = sigB (y :: l)) : x = y := by
  rw [sigB_cons, sigB_cons] at h
  exact add_right_cancel h

theorem sigB_concat (l : List Dword) (x : Dword) : sigB (l ++ [x]) = sigB l + BitVec.ofNat 64 (l.length + 1) * x := by
  rw [sigB_eq, List.zipIdx_append, List.foldl_append, sigB_eq]
  simp [sigTerm]

/-! ### Records (R245) -/

/-- The first `m` records' writes are the first 64 × `m` writes. -/
theorem flatten_blocks {α : Type} (ws : List (List α)) (m : Nat) :
    ((List.range m).map fun i => ((ws.drop (64 * i)).take 64).flatten).flatten = (ws.take (64 * m)).flatten := by
  induction m with
  | zero => simp
  | succ m ih =>
    rw [List.range_succ, List.map_append, List.flatten_append, ih, Nat.mul_add, Nat.mul_one, List.take_add, List.flatten_append]
    simp

/-- The records that close after 64 writes, and the one that closes at the end. -/
theorem closeRecords_eq (ws : List (List Dword)) (tail : List Dword) : closeRecords ws tail =
    ((List.range (ws.length / 64)).map fun i => ((ws.drop (64 * i)).take 64).flatten) ++
      [(ws.drop (64 * (ws.length / 64))).flatten ++ (tail ++ [BitVec.ofNat 64 (ws.length / 64 + 1)])] := by
  have hfull : ∀ i ∈ List.range (ws.length / 64), (((ws.drop (64 * i)).take 64).flatten ++
      if i + 1 = ws.length / 64 + 1 then tail ++ [BitVec.ofNat 64 (ws.length / 64 + 1)] else []) =
      ((ws.drop (64 * i)).take 64).flatten := fun i hi => by
    have hne : i + 1 ≠ ws.length / 64 + 1 := by have := List.mem_range.mp hi; omega
    rw [if_neg hne, List.append_nil]
  have hlast : (ws.drop (64 * (ws.length / 64))).take 64 = ws.drop (64 * (ws.length / 64)) :=
    List.take_of_length_le (by rw [List.length_drop]; omega)
  rw [closeRecords, List.range_succ, List.map_append, List.map_congr_left hfull, List.map_singleton, if_pos rfl, hlast]

theorem length_closeRecords (ws : List (List Dword)) (tail : List Dword) : (closeRecords ws tail).length = ws.length / 64 + 1 := by
  rw [closeRecords, List.length_map, List.length_range]

/-- A full record holds the doublewords of 64 writes. -/
theorem closeRecords_full {ws : List (List Dword)} (tail : List Dword) (hw : ∀ w ∈ ws, w.length = 10) {i : Nat}
    (hi : i < ws.length / 64) : ((closeRecords ws tail)[i]?).map List.length = some 640 := by
  have hblock : ∀ w ∈ (ws.drop (64 * i)).take 64, w.length = 10 := fun w h => hw w (List.mem_of_mem_drop (List.mem_of_mem_take h))
  have hlen : (((ws.drop (64 * i)).take 64).flatten).length = 640 := by
    rw [List.length_flatten, List.map_congr_left hblock, List.map_const', List.sum_replicate, List.length_take, List.length_drop,
      smul_eq_mul, Nat.min_eq_left (by omega)]
  rw [closeRecords_eq, List.getElem?_append_left (by simpa using hi), List.getElem?_map, List.getElem?_range hi, Option.map_some,
    Option.map_some, hlen]

/-- The records hold the stream's writes, what the unit adds, and their own number. -/
theorem flatten_closeRecords (ws : List (List Dword)) (tail : List Dword) :
    (closeRecords ws tail).flatten = ws.flatten ++ tail ++ [BitVec.ofNat 64 (closeRecords ws tail).length] := by
  rw [length_closeRecords, closeRecords_eq, List.flatten_append, flatten_blocks, List.flatten_singleton, ← List.append_assoc,
    ← List.flatten_append, List.take_append_drop, List.append_assoc]

/-! ### The table of verdicts (R247, R248) -/

/-- A comparator's answer: equal where the signatures are, and the opposite where it is faulty. -/
theorem recEqA_iff (r : TwinRecord) (l t : List Dword) : recEqA r l t = true ↔ (sigA l = sigA t ↔ r.cmpAOk = true) := by
  have hl : l = t → sigA l = sigA t := congrArg sigA
  cases hc : r.cmpAOk <;> simp [recEqA, hc] <;> tauto

theorem recEqB_iff (r : TwinRecord) (l t : List Dword) : recEqB r l t = true ↔ (sigB l = sigB t ↔ r.cmpBOk = true) := by
  have hl : l = t → sigB l = sigB t := congrArg sigB
  cases hc : r.cmpBOk <;> simp [recEqB, hc] <;> tauto

theorem recVerdict_bad (r : TwinRecord) (l t : List Dword) (h : r.entry = .bad) : recVerdict r l t = .dbUe := by
  simp [recVerdict, judge, h]

/-- The verdict on a record whose entry is read: by the two answers, and by the numbers of records. -/
theorem recVerdict_read (r : TwinRecord) (l t : List Dword) (h : r.entry ≠ .bad) : recVerdict r l t =
    if recEqA r l t = recEqB r l t then (if recEqA r l t = true ∧ r.differ = false then .pass else .mismatch) else .disagree := by
  cases ha : recEqA r l t <;> cases hb : recEqB r l t <;> cases hd : r.differ <;> simp [recVerdict, judge, h, ha, hb, hd]

/-- The table of R248, read from the verdict to the answers. -/
theorem recVerdict_iff (r : TwinRecord) (l t : List Dword) :
    (recVerdict r l t = .pass ↔ r.entry ≠ .bad ∧ recEqA r l t = true ∧ recEqB r l t = true ∧ r.differ = false) ∧
    (recVerdict r l t = .mismatch ↔ r.entry ≠ .bad ∧
      ((recEqA r l t = false ∧ recEqB r l t = false) ∨ (recEqA r l t = true ∧ recEqB r l t = true ∧ r.differ = true))) ∧
    (recVerdict r l t = .disagree ↔ r.entry ≠ .bad ∧ recEqA r l t ≠ recEqB r l t) ∧ (recVerdict r l t = .dbUe ↔ r.entry = .bad) := by
  by_cases h : r.entry = .bad
  · simp [recVerdict_bad r l t h, h]
  · rw [recVerdict_read r l t h]
    cases recEqA r l t <;> cases recEqB r l t <;> cases r.differ <;> simp [h]

/-! ### A finding (R249, R258) -/

theorem hub_lt_pstatus (p : Nat) : 0x7F10000000 ≤ aTwinPstatus p := by simp only [aTwinPstatus, aTwinP, dieBase]; omega

theorem hub_lt_perr (p : Nat) : 0x7F10000000 ≤ aTwinPerr p := by simp only [aTwinPerr, aTwinP, dieBase]; omega

theorem repRegs_lt {a : Nat} (ha : 0x7F10000000 ≤ a) : ¬ repRegs a := by
  simp only [repRegs, aSafeSeen, aSafeCond, aSafeOut]; omega

theorem pstatus_ne_perr (p : Nat) : aTwinPstatus p ≠ aTwinPerr p := by simp only [aTwinPstatus, aTwinPerr]; omega

theorem Dev.Frame.getF {d e : Dev} {ks : List Kind} {rs : Nat → Prop} (h : Dev.Frame d e ks rs) {a : Nat} (ha : ¬ rs a) (hi lo : Nat) :
    e.getF a hi lo = d.getF a hi lo := Dev.getF_of_reg (h.regs a ha) hi lo

theorem Dev.pairSt_congr {d e : Dev} (h : e.pairs = d.pairs) (p : Nat) : e.pairSt p = d.pairSt p := by simp [Dev.pairSt, h]

theorem Dev.testSt_congr {d e : Dev} (h : e.tests = d.tests) (u : Nat) : e.testSt u = d.testSt u := by simp [Dev.testSt, h]

theorem Dev.frame_pairs (d : Dev) (t : Tab PairState) : Dev.Frame d { d with pairs := t } [.twins] fun _ => False := by
  refine ⟨?_, fun _ _ => rfl, rfl, rfl, Nat.le_refl _⟩
  intro q hq
  cases q <;> simp [Dev.Same] at hq ⊢
  intro a; rfl

theorem Dev.frame_setTest (d : Dev) (u : Nat) (x : TestState) : Dev.Frame d (d.setTest u x) [.tests] fun _ => False := by
  refine ⟨?_, fun _ _ => rfl, rfl, rfl, Nat.le_refl _⟩
  intro q hq
  cases q <;> simp [Dev.Same, Dev.setTest] at hq ⊢
  intro a; rfl

theorem Dev.frame_pairDone (d : Dev) (p : Nat) (st : Status) : Dev.Frame d (d.pairDone p st) [.commands] fun _ => False := by
  refine ⟨?_, fun _ _ => rfl, rfl, rfl, Nat.le_refl _⟩
  intro q hq
  cases q <;> simp [Dev.Same, Dev.pairDone] at hq ⊢
  intro a; rfl

theorem Dev.frame_putPair (d : Dev) (p : Nat) (x : PairState) : Dev.Frame d (d.putPair p x) [.twins] fun a => a = aTwinPstatus p :=
  ((d.frame_pairs _).mono (by simp) (by simp)).trans ((Dev.frame_setF_die _ (hub_lt_pstatus p) 14 8 _).mono (by simp) fun _ h => h)

/-- DB_USED apart, a pair's record leaves TWIN_PSTATUS. -/
theorem Dev.getF_putPair (d : Dev) (p : Nat) (x : PairState) {hi lo : Nat} (h : hi < 8) :
    (d.putPair p x).getF (aTwinPstatus p) hi lo = d.getF (aTwinPstatus p) hi lo :=
  Dev.getF_setF_ne { d with pairs := d.pairs.put p x } (aTwinPstatus p) 14 8 _ hi lo (.inl h)

@[simp] theorem Dev.pairSt_putPair (d : Dev) (p : Nat) (x : PairState) : (d.putPair p x).pairSt p = x := Tab.lookD_put_self _ _ _ _

/-- STATE, CAUSE and the bits of TWIN_PERR of a finding. -/
def Dev.findingShown (d : Dev) (p : Nat) (f : Finding) : Dev :=
  let d := (d.setPairState p 4).setF (aTwinPstatus p) 6 4 f.cause
  d.setF (aTwinPerr p) 4 0 (Nat.lor (d.getF (aTwinPerr p) 4 0) f.perr)

/-- The counters of a finding. -/
def Dev.findingCounted (d : Dev) (p : Nat) (f : Finding) : Dev :=
  let d := (d.count 0x04 (8 * p + (if f.checker then 1 else 0)) 1).count 0x04 (8 * p + 2) 1
  if f.cause = 6 then d.count 0x04 (8 * p + 6) 1 else d

/-- What is remembered of a pair after a quarantine at a time. -/
def PairState.quarantined (x : PairState) (now : Nat) (f : Finding) : PairState :=
  { x.begin with
    quarT := now :: x.quarT, stuck := x.stuck || f.checker || x.quarT.any fun t => decide (now < t + hourNs), sweepOk := false }

/-- A quarantine shows and counts the finding, is remembered, begins the sweep anew, and is reported. -/
theorem Dev.quarantine_eq (d : Dev) (p : Nat) (f : Finding) : ∃ e : Dev, e = (d.findingShown p f).findingCounted p f ∧
    d.quarantine p f = (((e.pairDone p .eState).putPair p ((e.pairSt p).quarantined e.now f)).newSweep p).report
      (if f.checker then 2 else 1) p := ⟨_, rfl, rfl⟩

theorem Dev.frame_findingShown (d : Dev) (p : Nat) (f : Finding) :
    Dev.Frame d (d.findingShown p f) [] fun a => a = aTwinPstatus p ∨ a = aTwinPerr p := by
  have hst : ∀ (e : Dev) hi lo v, Dev.Frame e (e.setF (aTwinPstatus p) hi lo v) [] fun a => a = aTwinPstatus p ∨ a = aTwinPerr p :=
    fun e hi lo v => (e.frame_setF_die (hub_lt_pstatus p) hi lo v).mono (by simp) fun _ h => .inl h
  exact ((hst d 2 0 4).trans (hst _ 6 4 _)).trans ((Dev.frame_setF_die _ (hub_lt_perr p) 4 0 _).mono (by simp) fun _ h => .inr h)

theorem Dev.noted_findingCounted (d : Dev) (p : Nat) (f : Finding) : Dev.Noted d (d.findingCounted p f) 6 :=
  ((d.noted_count (by decide) _ 1).trans (Dev.noted_count _ (by decide) _ 1)).trans (.orStay (Dev.noted_count _ (by decide) _ 1))

theorem Dev.frame_newSweep (d : Dev) (p : Nat) : Dev.Frame d (d.newSweep p) [.tests] fun _ => False :=
  (d.frame_setTest (2 * p) _).trans (Dev.frame_setTest _ (2 * p + 1) _)

/-- A sweep that begins anew on both engines of a pair. -/
theorem Dev.testSt_newSweep (d : Dev) {p u : Nat} (h : u / 2 = p) :
    ((d.newSweep p).testSt u).next = 0 ∧ ((d.newSweep p).testSt u).swept = false := by
  obtain rfl | rfl : u = 2 * p ∨ u = 2 * p + 1 := by omega
  · have hne : 2 * p ≠ 2 * p + 1 := by omega
    simp [Dev.newSweep, Dev.setTest, Dev.testSt, Tab.lookD_put_ne _ _ _ hne]
  · simp [Dev.newSweep, Dev.setTest, Dev.testSt]

/-- A report that is not held back shows in SAFE_SEEN (R275, R277). -/
theorem Dev.report_seen (d : Dev) {code : Nat} (subject : Nat) (hc : code < 32) (hw : hwSourced code = true) :
    (d.report code subject).getB aSafeSeen code = true := by
  have hn : (d.cpbLost.isSome && !hwSourced code) = false := by simp [hw]
  have hseen : ∀ e : Dev, e.reg aSafeSeen = (d.setB aSafeSeen code true).reg aSafeSeen → e.getB aSafeSeen code = true := fun e h =>
    (Dev.getB_of_reg h code).trans (d.getB_setB_self aSafeSeen code true hc)
  have hwarn : ∀ e : Dev, e.refreshWarn.reg aSafeSeen = e.reg aSafeSeen := fun e => e.reg_setB_ne 1 _ (by decide)
  have hcond : ∀ e : Dev, (e.refreshCond code).reg aSafeSeen = e.reg aSafeSeen := fun e => e.reg_setB_ne code _ (by decide)
  have hfault : ∀ e : Dev, e.driveFault.reg aSafeSeen = e.reg aSafeSeen := fun e =>
    ({ e with faultLatched := true } : Dev).reg_setB_ne 0 _ (by decide)
  unfold Dev.report Dev.reportAs
  simp only [hn, Bool.false_eq_true, if_false]
  refine hseen _ ?_
  split
  · exact hwarn _
  · split
    · exact (hfault _).trans ((hwarn _).trans (hcond _))
    · exact (hwarn _).trans (hcond _)

section
variable (d : Dev) (p : Nat) (f : Finding)

/-- The kinds of state that a quarantine changes. -/
def quarKinds : List Kind := [.twins, .tests, .commands, .counters, .safety, .log, .interrupts]

/-- The registers that a quarantine changes. -/
def quarRegs (p a : Nat) : Prop := a = aTwinPstatus p ∨ a = aTwinPerr p ∨ cntRegs a ∨ repRegs a

theorem Dev.frame_quarantine : Dev.Frame d (d.quarantine p f) quarKinds (quarRegs p) := by
  obtain ⟨e, he, hq⟩ := d.quarantine_eq p f
  have hshow : Dev.Frame d (d.findingShown p f) quarKinds (quarRegs p) :=
    (d.frame_findingShown p f).mono (by simp) fun _ h => h.elim .inl fun h => .inr (.inl h)
  have hcount : Dev.Frame (d.findingShown p f) e quarKinds (quarRegs p) :=
    he ▸ (Dev.noted_findingCounted _ p f).frame.mono (by decide) fun _ h => .inr (.inr (.inl h))
  have hdone := (e.frame_pairDone p .eState).mono (ks' := quarKinds) (rs' := quarRegs p) (by decide) fun _ h => h.elim
  have hput := ((e.pairDone p .eState).frame_putPair p ((e.pairSt p).quarantined e.now f)).mono (ks' := quarKinds) (rs' := quarRegs p)
    (by decide) fun _ h => .inl h
  have hsweep := (((e.pairDone p .eState).putPair p ((e.pairSt p).quarantined e.now f)).frame_newSweep p).mono (ks' := quarKinds)
    (rs' := quarRegs p) (by decide) fun _ h => h.elim
  rw [hq]
  exact ((((hshow.trans hcount).trans hdone).trans hput).trans hsweep).trans
    ((Dev.frame_report _ _ p 0).mono (by decide) fun _ h => .inr (.inr (.inr h)))

/-- What a quarantine leaves of the pair's state: only the report and the new sweep come after it. -/
theorem Dev.pairSt_quarantine : (d.quarantine p f).pairSt p = (d.pairSt p).quarantined d.now f := by
  obtain ⟨e, he, hq⟩ := d.quarantine_eq p f
  have hnote := (d.findingShown p f).noted_findingCounted p f
  have hsame : (d.quarantine p f).pairs = ((e.pairDone p .eState).putPair p ((e.pairSt p).quarantined e.now f)).pairs := by
    rw [hq, ((Dev.frame_report _ _ p 0).same .twins (by decide)).1]
    rfl
  have hx : e.pairSt p = d.pairSt p := Dev.pairSt_congr (he ▸ (hnote.frame.same .twins (by decide)).1) p
  have ht : e.now = d.now := congrArg (· / 2 ^ 32) (he ▸ hnote.time)
  calc (d.quarantine p f).pairSt p = ((e.pairDone p .eState).putPair p ((e.pairSt p).quarantined e.now f)).pairSt p :=
        Dev.pairSt_congr hsame p
    _ = (e.pairSt p).quarantined e.now f := Dev.pairSt_putPair _ p _
    _ = (d.pairSt p).quarantined d.now f := by rw [hx, ht]

theorem Dev.testSt_quarantine {u : Nat} (hu : u / 2 = p) :
    ((d.quarantine p f).testSt u).next = 0 ∧ ((d.quarantine p f).testSt u).swept = false := by
  obtain ⟨e, -, hq⟩ := d.quarantine_eq p f
  have h := ((e.pairDone p .eState).putPair p ((e.pairSt p).quarantined e.now f)).testSt_newSweep hu
  have hsame : (d.quarantine p f).testSt u = _ :=
    Dev.testSt_congr (hq ▸ (Dev.frame_report _ (if f.checker then 2 else 1) p 0).same .tests (by decide)) u
  rw [hsame]
  exact h

/-- The registers of the pair but for DB_USED are those that show the finding. -/
theorem Dev.getF_status_quarantine {hi lo : Nat} (h : hi < 8) :
    (d.quarantine p f).getF (aTwinPstatus p) hi lo = (d.findingShown p f).getF (aTwinPstatus p) hi lo := by
  obtain ⟨e, he, hq⟩ := d.quarantine_eq p f
  rw [hq, (Dev.frame_report _ _ p 0).getF (repRegs_lt (hub_lt_pstatus p)), (Dev.frame_newSweep _ p).getF id, Dev.getF_putPair _ _ _ h,
    (e.frame_pairDone p .eState).getF id, he, (Dev.noted_findingCounted _ p f).frame.getF (cntRegs_lt (hub_lt_pstatus p))]

theorem Dev.getF_perr_quarantine (hi lo : Nat) :
    (d.quarantine p f).getF (aTwinPerr p) hi lo = (d.findingShown p f).getF (aTwinPerr p) hi lo := by
  obtain ⟨e, he, hq⟩ := d.quarantine_eq p f
  rw [hq, (Dev.frame_report _ _ p 0).getF (repRegs_lt (hub_lt_perr p)), (Dev.frame_newSweep _ p).getF id,
    (Dev.frame_putPair _ p _).getF (pstatus_ne_perr p).symm,
    (e.frame_pairDone p .eState).getF id, he, (Dev.noted_findingCounted _ p f).frame.getF (cntRegs_lt (hub_lt_perr p))]

/-- A quarantined pair is in state 4. -/
theorem Dev.pairState_quarantine : (d.quarantine p f).pairState p = 4 := by
  have hst : ((d.setPairState p 4).setF (aTwinPstatus p) 6 4 f.cause).getF (aTwinPstatus p) 2 0 = 4 :=
    (Dev.getF_setF_ne _ _ 6 4 f.cause 2 0 (.inl (by decide))).trans (d.getF_setF_self (aTwinPstatus p) 2 0 4 (by decide))
  rw [Dev.pairState, d.getF_status_quarantine p f (by decide)]
  exact (Dev.getF_of_reg (Dev.reg_setF_ne _ 4 0 _ (pstatus_ne_perr p)) 2 0).trans hst

theorem Dev.cause_quarantine (hf : f.cause < 8) : (d.quarantine p f).getF (aTwinPstatus p) 6 4 = f.cause := by
  rw [d.getF_status_quarantine p f (by decide)]
  refine (Dev.getF_of_reg (Dev.reg_setF_ne _ 4 0 _ (pstatus_ne_perr p)) 6 4).trans ?_
  exact (Dev.getF_setF_self _ (aTwinPstatus p) 6 4 f.cause (by decide)).trans (Nat.mod_eq_of_lt hf)

/-- TWIN_PERR gains the bits of the finding. -/
theorem Dev.perr_quarantine (hf : f.perr < 32) :
    (d.quarantine p f).getF (aTwinPerr p) 4 0 = Nat.lor (d.getF (aTwinPerr p) 4 0) f.perr := by
  have hold : ((d.setPairState p 4).setF (aTwinPstatus p) 6 4 f.cause).getF (aTwinPerr p) 4 0 = d.getF (aTwinPerr p) 4 0 :=
    Dev.getF_of_reg ((Dev.reg_setF_ne _ 6 4 _ (pstatus_ne_perr p).symm).trans (d.reg_setF_ne 2 0 4 (pstatus_ne_perr p).symm)) 4 0
  rw [d.getF_perr_quarantine p f, Dev.findingShown, Dev.getF_setF_self _ _ _ _ _ (by decide), hold]
  exact Nat.mod_eq_of_lt (Nat.or_lt_two_pow (n := 5) (Nat.mod_lt _ (by decide)) hf)

theorem Dev.seen_quarantine : (d.quarantine p f).getB aSafeSeen (if f.checker then 2 else 1) = true := by
  obtain ⟨e, -, hq⟩ := d.quarantine_eq p f
  rw [hq]
  cases f.checker
  · exact Dev.report_seen _ p (code := 1) (by decide) (by decide)
  · exact Dev.report_seen _ p (code := 2) (by decide) (by decide)

end

/-- A finding's cause and bits fit their fields. -/
theorem finding_fits : ∀ f ∈ [findMismatch, findDisagree, findDbUe, findSelftest, findLag], f.cause < 8 ∧ f.perr < 32 := by decide

/-- A pair stays QUARANTINED once it did, after a checker fault, and after a second quarantine within one hour. -/
theorem PairState.stuck_quarantined (x : PairState) (now : Nat) (f : Finding) : (x.quarantined now f).stuck = true ↔
    x.stuck = true ∨ f.checker = true ∨ ∃ t ∈ x.quarT, now < t + 3600000000000 := by
  have hhour : hourNs = 3600000000000 := rfl
  simp only [PairState.quarantined, Bool.or_eq_true, List.any_eq_true, decide_eq_true_eq, or_assoc, hhour]

/-- Settles O40: the verdicts by their table, the records by where they close, and a quarantine by what it writes in turn. -/
theorem findingsQuarantine : Obligations.FindingsQuarantine := by
  unfold Obligations.FindingsQuarantine
  refine ⟨⟨fun r l t => ?verdict, fun l x y => sigB_head_inj l, sigB_concat, fun ws tail hw => ?records⟩, fun d p f _ hf _ => ?quarantine⟩
  case verdict =>
    intro a b v
    obtain ⟨hpass, hmismatch, hdisagree, hue⟩ := recVerdict_iff r l t
    refine ⟨hpass, hmismatch, hdisagree, hue, fun h => ?_, fun h => ?_, fun h => ?_, fun h => ?_⟩
    · exact (recEqA_iff r l t).trans (by simp [h])
    · exact (recEqB_iff r l t).trans (by simp [h])
    · exact (recEqA_iff r l t).trans (by simp [h])
    · exact (recEqB_iff r l t).trans (by simp [h])
  case records =>
    exact ⟨length_closeRecords ws tail, fun i hi => closeRecords_full tail hw hi, flatten_closeRecords ws tail⟩
  case quarantine =>
    obtain ⟨hcause, hperr⟩ := finding_fits f hf
    have hst := d.pairSt_quarantine p f
    refine ⟨d.pairState_quarantine p f, d.cause_quarantine p f hcause, d.perr_quarantine p f hperr, ?_, d.seen_quarantine p f, ?_,
      fun u hu => d.testSt_quarantine p f hu, d.frame_quarantine p f⟩
    · rw [hst]
      exact PairState.stuck_quarantined _ _ f
    · rw [hst]
      rfl

end Sys2Proof.Machine

/-! SUPPORT. The personality and the status of PAIR0 through what follows an effect, and a split that fails unseen (R249, R257). -/

namespace Sys2Proof.Machine

/-! ### The personality and TWIN_PSTATUS of PAIR0, which no kill, teardown or report writes -/

/-- TWIN_PSTATUS of PAIR0 as it stands among the registers. -/
@[simp] abbrev Dev.twinWord (d : Dev) : Option Word := Tab.look d.regs (aTwinPstatus 0)

theorem Dev.reg_of_twinWord {d e : Dev} (h : e.twinWord = d.twinWord) : e.reg (aTwinPstatus 0) = d.reg (aTwinPstatus 0) := by
  simp only [Dev.reg, h]

theorem twinP_ne_gx (e : Nat) {k : Nat} (hk : k < 0x1000) : aTwinPstatus 0 ≠ aGx e + k := by
  simp only [aTwinPstatus, aTwinP, aGx, dieBase]; omega

theorem twinP_ne_vc (v : Nat) {k : Nat} (hk : k < 0x400) : aTwinPstatus 0 ≠ aVc v + k := by
  simp only [aTwinPstatus, aTwinP, aVc, dieBase]; omega

theorem twinP_ne_sort (die : Nat) {k : Nat} (hk : k < 0x1000) : aTwinPstatus 0 ≠ aSort die + k := by
  simp only [aTwinPstatus, aTwinP, aSort, dieBase]; omega

theorem twinP_ne_dma (ch : Nat) {k : Nat} (hk : k < 0x40) : aTwinPstatus 0 ≠ aDma ch + k := by
  simp only [aTwinPstatus, aTwinP, aDma, dieBase]; split <;> omega

theorem twinP_ne_pcie (port : Nat) {k : Nat} (hk : k < 0x1000) (h4 : k ≠ 4) : aTwinPstatus 0 ≠ aPcie port + k := by
  simp only [aTwinPstatus, aTwinP, aPcie, dieBase]; omega

@[simp] theorem twinP_ne_gxStatus (e : Nat) : aTwinPstatus 0 ≠ aGxStatus e := twinP_ne_gx e (by decide)
@[simp] theorem twinP_ne_vcStatus (v : Nat) : aTwinPstatus 0 ≠ aVcStatus v := twinP_ne_vc v (by decide)
@[simp] theorem twinP_ne_sortStatus (die : Nat) : aTwinPstatus 0 ≠ aSortStatus die := twinP_ne_sort die (by decide)
@[simp] theorem twinP_ne_gfxStatus : aTwinPstatus 0 ≠ aGfxStatus := by decide
@[simp] theorem twinP_ne_poolFree (die q : Nat) : aTwinPstatus 0 ≠ aKvPoolFree die q := by
  simp only [aTwinPstatus, aTwinP, aKvPoolFree, aKvPool, aKv, dieBase]; omega
@[simp] theorem twinP_ne_kvStatus (die : Nat) : aTwinPstatus 0 ≠ aKvStatus die := by
  simp only [aTwinPstatus, aTwinP, aKvStatus, aKv, dieBase]; omega

@[simp] theorem Dev.setReg_twinWord (d : Dev) {a : Nat} (w : Word) (h : aTwinPstatus 0 ≠ a) : (d.setReg a w).twinWord = d.twinWord :=
  Tab.look_put_ne _ _ h

@[simp] theorem Dev.setF_pers (d : Dev) (a hi lo v : Nat) : (d.setF a hi lo v).pers = d.pers := by simp [Dev.setF]
@[simp] theorem Dev.setB_pers (d : Dev) (a i : Nat) (b : Bool) : (d.setB a i b).pers = d.pers := by simp [Dev.setB]

@[simp] theorem Dev.setF_twinWord (d : Dev) {a : Nat} (hi lo v : Nat) (h : aTwinPstatus 0 ≠ a) :
    (d.setF a hi lo v).twinWord = d.twinWord := d.setReg_twinWord _ h

@[simp] theorem Dev.setB_twinWord (d : Dev) {a : Nat} (i : Nat) (b : Bool) (h : aTwinPstatus 0 ≠ a) :
    (d.setB a i b).twinWord = d.twinWord := d.setReg_twinWord _ h

/-- Steps that leave them, repeated over a list. -/
@[simp] theorem Dev.forEach_pers {α : Type} (l : List α) (f : α → Dev → Dev) (d : Dev) (hf : ∀ x e, (f x e).pers = e.pers) :
    (forEach l f d).pers = d.pers := forEach_same Dev.pers f hf l d
@[simp] theorem Dev.forEach_twinWord {α : Type} (l : List α) (f : α → Dev → Dev) (d : Dev)
    (hf : ∀ x e, (f x e).twinWord = e.twinWord) : (forEach l f d).twinWord = d.twinWord := forEach_same Dev.twinWord f hf l d
@[simp] theorem Dev.forUpTo_pers (n : Nat) (f : Nat → Dev → Dev) (d : Dev) (hf : ∀ i e, (f i e).pers = e.pers) :
    (forUpTo n f d).pers = d.pers := forUpTo_same Dev.pers f hf n d
@[simp] theorem Dev.forUpTo_twinWord (n : Nat) (f : Nat → Dev → Dev) (d : Dev) (hf : ∀ i e, (f i e).twinWord = e.twinWord) :
    (forUpTo n f d).twinWord = d.twinWord := forUpTo_same Dev.twinWord f hf n d

/-- An effect made under a condition leaves them where each branch does. -/
@[simp] theorem Dev.ite_pers (b : Prop) [Decidable b] (d e : Dev) : (if b then d else e).pers = if b then d.pers else e.pers :=
  apply_ite Dev.pers b d e
@[simp] theorem Dev.ite_twinWord (b : Prop) [Decidable b] (d e : Dev) :
    (if b then d else e).twinWord = if b then d.twinWord else e.twinWord := apply_ite Dev.twinWord b d e

/-! ### Counts, events, reports, memory -/

@[simp] theorem Dev.post_still (d : Dev) (k c a x : Nat) :
    (d.post k c a x).pers = d.pers ∧ (d.post k c a x).twinWord = d.twinWord := by
  obtain ⟨pg, cn, iq, h⟩ := d.post_eq k c a x
  simp [h]

@[simp] theorem Dev.cntUpd_still (d : Dev) (g i : Nat) (f : Counter → Counter) :
    (d.cntUpd g i f).pers = d.pers ∧ (d.cntUpd g i f).twinWord = d.twinWord := by
  have hovf : aTwinPstatus 0 ≠ aCntOvfStat := by decide
  unfold Dev.cntUpd
  simp only
  split <;> split <;> simp [hovf, Dev.logE]

@[simp] theorem Dev.count_still (d : Dev) (g i k : Nat) :
    (d.count g i k).pers = d.pers ∧ (d.count g i k).twinWord = d.twinWord := by
  simp [Dev.count]

@[simp] theorem Dev.refreshCond_still (d : Dev) (c : Nat) :
    (d.refreshCond c).pers = d.pers ∧ (d.refreshCond c).twinWord = d.twinWord :=
  ⟨rfl, d.setB_twinWord c _ (by decide)⟩

@[simp] theorem Dev.refreshWarn_still (d : Dev) : d.refreshWarn.pers = d.pers ∧ d.refreshWarn.twinWord = d.twinWord :=
  ⟨rfl, d.setB_twinWord 1 _ (by decide)⟩

@[simp] theorem Dev.driveFault_still (d : Dev) : d.driveFault.pers = d.pers ∧ d.driveFault.twinWord = d.twinWord :=
  ⟨rfl, ({ d with faultLatched := true } : Dev).setB_twinWord 0 _ (by decide)⟩

@[simp] theorem Dev.reportAs_still (d : Dev) (cls : RepClass) (c s x : Nat) :
    (d.reportAs cls c s x).pers = d.pers ∧ (d.reportAs cls c s x).twinWord = d.twinWord := by
  have h : aTwinPstatus 0 ≠ aSafeSeen := by decide
  unfold Dev.reportAs
  simp only
  split
  · simp
  · split <;> simp [h, Dev.logE]

@[simp] theorem Dev.refuse_still (d : Dev) (m x : Nat) (w : Bool) :
    (d.refuse m x w).pers = d.pers ∧ (d.refuse m x w).twinWord = d.twinWord := by
  have hlo : aTwinPstatus 0 ≠ aBwrFaultLo := by decide
  have hhi : aTwinPstatus 0 ≠ aBwrFaultHi := by decide
  have hsrc : aTwinPstatus 0 ≠ aBwrFaultSrc := by decide
  have hst : aTwinPstatus 0 ≠ aBwrStatus := by decide
  simp [Dev.refuse, hlo, hhi, hsrc, hst, Tab.look_put_ne]

@[simp] theorem Dev.wrRaw_still (d : Dev) (a : Nat) (bs : List Byte) :
    (d.wrRaw a bs).pers = d.pers ∧ (d.wrRaw a bs).twinWord = d.twinWord := by
  induction bs generalizing d a with
  | nil => exact ⟨rfl, rfl⟩
  | cons b t ih =>
    have h8 : (d.wr8 a b).pers = d.pers ∧ (d.wr8 a b).twinWord = d.twinWord := by
      unfold Dev.wr8
      split <;> simp
    exact ⟨(ih _ _).1.trans h8.1, (ih _ _).2.trans h8.2⟩

@[simp] theorem Dev.uncache_still (d : Dev) (a n : Nat) :
    (d.uncache a n).pers = d.pers ∧ (d.uncache a n).twinWord = d.twinWord := by
  have h : ∀ e, aTwinPstatus 0 ≠ aGxCbCtrl e := fun e => twinP_ne_gx e (k := 0x10) (by decide)
  obtain ⟨r, l, he⟩ := d.uncache_eq a n
  refine ⟨by rw [he], ?_⟩
  unfold Dev.uncache
  simp only
  split
  · exact Dev.forEach_twinWord _ _ d fun r e => e.setB_twinWord 1 false (h _)
  · rfl

@[simp] theorem Dev.markDirty_still (d : Dev) (n a : Nat) :
    (d.markDirty n a).pers = d.pers ∧ (d.markDirty n a).twinWord = d.twinWord := by
  have h8 : ∀ x b, (d.wr8 x b).pers = d.pers ∧ (d.wr8 x b).twinWord = d.twinWord := fun x b => d.wrRaw_still x [b]
  unfold Dev.markDirty
  simp only
  split
  · simp
  · split
    · simp
    · split <;> simp [h8]

@[simp] theorem Dev.logDirty_still (d : Dev) (a n : Nat) :
    (d.logDirty a n).pers = d.pers ∧ (d.logDirty a n).twinWord = d.twinWord := by
  simp [Dev.logDirty]

@[simp] theorem Dev.wrN_still (d : Dev) (a : Nat) (bs : List Byte) :
    (d.wrN a bs).pers = d.pers ∧ (d.wrN a bs).twinWord = d.twinWord := by
  unfold Dev.wrN
  obtain ⟨p, h⟩ := (d.wrRaw a bs).unpoison_eq a bs.length
  simp [h]

/-! ### Kills and teardown -/

@[simp] theorem Dev.acctKilled_still (d : Dev) (n : Nat) (c : Cmd) :
    (d.acctKilled n c).pers = d.pers ∧ (d.acctKilled n c).twinWord = d.twinWord := by
  simp [Dev.acctKilled, Dev.countAcct]

@[simp] theorem Dev.noteEnded_still (d : Dev) (q : Nat) (c : Cmd) (k : KillCause) :
    (d.noteEnded q c k).pers = d.pers ∧ (d.noteEnded q c k).twinWord = d.twinWord := by
  simp [Dev.noteEnded]

@[simp] theorem Dev.whey_still (d : Dev) (rs : List Region) :
    (d.whey rs).pers = d.pers ∧ (d.whey rs).twinWord = d.twinWord := by
  simp [Dev.whey, Dev.freshBytes]

@[simp] theorem Dev.freeEngines_still (d : Dev) (es : List Nat) :
    (d.freeEngines es).pers = d.pers ∧ (d.freeEngines es).twinWord = d.twinWord := by
  unfold Dev.freeEngines
  exact ⟨Dev.forEach_pers _ _ d fun e x => by simp, Dev.forEach_twinWord _ _ d fun e x => by simp⟩

@[simp] theorem Dev.freeSort_still (d : Dev) (o : Option Nat) :
    (d.freeSort o).pers = d.pers ∧ (d.freeSort o).twinWord = d.twinWord := by
  cases o <;> simp [Dev.freeSort]

@[simp] theorem Dev.kvRefresh_still (d : Dev) (die q : Nat) :
    (d.kvRefresh die q).pers = d.pers ∧ (d.kvRefresh die q).twinWord = d.twinWord := by
  simp [Dev.kvRefresh]

@[simp] theorem Dev.pushPage_still (d : Dev) (die q pg : Nat) :
    (d.pushPage die q pg).pers = d.pers ∧ (d.pushPage die q pg).twinWord = d.twinWord := by
  simp [Dev.pushPage, Dev.setStack, Dev.setPageState]

@[simp] theorem Dev.returnPages_still (d : Dev) (ps : List (Nat × Nat × Nat)) :
    (d.returnPages ps).pers = d.pers ∧ (d.returnPages ps).twinWord = d.twinWord := by
  simp [Dev.returnPages, Dev.setPageState]

@[simp] theorem Dev.releaseRun_still (d : Dev) (q : Nat) (c : Cmd) :
    (d.releaseRun q c).pers = d.pers ∧ (d.releaseRun q c).twinWord = d.twinWord := by
  simp [Dev.releaseRun, Dev.wheyCore]

@[simp] theorem Dev.killRerun_still (d : Dev) (q n : Nat) (k : KillCause) :
    (d.killRerun q n k).pers = d.pers ∧ (d.killRerun q n k).twinWord = d.twinWord := by
  unfold Dev.killRerun
  split <;> simp [Dev.countInst, Dev.updCmd]

@[simp] theorem Dev.squash_still (d : Dev) (q n : Nat) :
    (d.squash q n).pers = d.pers ∧ (d.squash q n).twinWord = d.twinWord := by
  unfold Dev.squash
  split <;> simp [Dev.countInst, Dev.dropCmd]

@[simp] theorem Dev.squashQueue_still (d : Dev) (q : Nat) :
    (d.squashQueue q).pers = d.pers ∧ (d.squashQueue q).twinWord = d.twinWord := by
  unfold Dev.squashQueue
  split <;> simp

@[simp] theorem Dev.wrWords_still (d : Dev) (a : Nat) (ws : List Word) :
    (d.wrWords a ws).pers = d.pers ∧ (d.wrWords a ws).twinWord = d.twinWord := d.wrN_still a _

@[simp] theorem Dev.respond_still (d : Dev) (q : Nat) (r : Word) (t p e : Nat) :
    (d.respond q r t p e).pers = d.pers ∧ (d.respond q r t p e).twinWord = d.twinWord := by
  unfold Dev.respond
  split <;> simp [Dev.setQueue]

@[simp] theorem Dev.payOwed_still (d : Dev) (n : Nat) :
    (d.payOwed n).pers = d.pers ∧ (d.payOwed n).twinWord = d.twinWord := by
  unfold Dev.payOwed
  split <;> simp

@[simp] theorem Dev.serveFault_still (d : Dev) (n : Nat) :
    (d.serveFault n).pers = d.pers ∧ (d.serveFault n).twinWord = d.twinWord := by
  unfold Dev.serveFault
  split <;> simp

@[simp] theorem Dev.teardown_still (d : Dev) (c code : Nat) :
    (d.teardown c code).pers = d.pers ∧ (d.teardown c code).twinWord = d.twinWord := by
  unfold Dev.teardown
  split
  · exact ⟨rfl, rfl⟩
  · simp only [Dev.ite_pers, Dev.ite_twinWord, Dev.reportAs_still, ite_self]
    split
    · exact ⟨rfl, rfl⟩
    · split <;> simp [Dev.countInst, Dev.setCtx]

/-! ### Waiting accesses, one after another -/

@[simp] theorem twinP_ne_dmaNextLo (ch : Nat) : aTwinPstatus 0 ≠ aDmaNextLo ch := twinP_ne_dma ch (by decide)
@[simp] theorem twinP_ne_dmaNextHi (ch : Nat) : aTwinPstatus 0 ≠ aDmaNextHi ch := twinP_ne_dma ch (by decide)
@[simp] theorem twinP_ne_dmaCurLo (ch : Nat) : aTwinPstatus 0 ≠ aDmaCurLo ch := twinP_ne_dma ch (by decide)
@[simp] theorem twinP_ne_dmaCurHi (ch : Nat) : aTwinPstatus 0 ≠ aDmaCurHi ch := twinP_ne_dma ch (by decide)
@[simp] theorem twinP_ne_dmaStatus (ch : Nat) : aTwinPstatus 0 ≠ aDmaStatus ch := twinP_ne_dma ch (by decide)
@[simp] theorem twinP_ne_dmaErrLo (ch : Nat) : aTwinPstatus 0 ≠ aDmaErrLo ch := twinP_ne_dma ch (by decide)
@[simp] theorem twinP_ne_dmaErrHi (ch : Nat) : aTwinPstatus 0 ≠ aDmaErrHi ch := twinP_ne_dma ch (by decide)
@[simp] theorem twinP_ne_dmaRemain (ch : Nat) : aTwinPstatus 0 ≠ aDmaRemain ch := twinP_ne_dma ch (by decide)
@[simp] theorem twinP_ne_pcieErr (p : Nat) : aTwinPstatus 0 ≠ aPcieErr p := twinP_ne_pcie p (by decide) (by decide)
@[simp] theorem twinP_ne_pcieErrLo (p : Nat) : aTwinPstatus 0 ≠ aPcieErrLo p := twinP_ne_pcie p (by decide) (by decide)
@[simp] theorem twinP_ne_pcieErrHi (p : Nat) : aTwinPstatus 0 ≠ aPcieErrHi p := twinP_ne_pcie p (by decide) (by decide)
@[simp] theorem twinP_ne_pcieErrSrc (p : Nat) : aTwinPstatus 0 ≠ aPcieErrSrc p := twinP_ne_pcie p (by decide) (by decide)

/-- What each step of a fold keeps, the fold keeps. -/
theorem foldl_keeps {σ β : Type} (P : σ → Prop) (f : σ → β → σ) (hf : ∀ s b, P s → P (f s b)) (l : List β) (s : σ)
    (h : P s) : P (l.foldl f s) := forEach_keeps P (fun b s => f s b) (fun b s => hf s b) l s h

theorem Dev.fiChoose_still (d : Dev) (p : FiPath) (u : FiUnit) :
    (d.fiChoose p u).2.pers = d.pers ∧ (d.fiChoose p u).2.twinWord = d.twinWord := by
  have hent : ∀ e, aTwinPstatus 0 ≠ aFiEnt e 7 := fun e => by
    simp only [aTwinPstatus, aTwinP, dieBase, aFiEnt, aFi]; omega
  unfold Dev.fiChoose
  split
  · exact ⟨rfl, rfl⟩
  · refine foldl_keeps (fun x : Option Nat × Dev => x.2.pers = d.pers ∧ x.2.twinWord = d.twinWord) _ (fun acc e h => ?_) _ _
      ⟨rfl, rfl⟩
    obtain ⟨hp, hw⟩ := h
    simp only
    split
    · exact ⟨hp, hw⟩
    · split <;> simp_all [Dev.countDev, Tab.look_put_ne]

section
variable {out late : FiUnit → Bool → Dev → Dev} {dropped : Dev → Dev}
  (ho : ∀ u b e, (out u b e).pers = e.pers ∧ (out u b e).twinWord = e.twinWord)
  (hl : ∀ u b e, (late u b e).pers = e.pers ∧ (late u b e).twinWord = e.twinWord)
  (hd : ∀ e, (dropped e).pers = e.pers ∧ (dropped e).twinWord = e.twinWord)
include ho hd

theorem Dev.fiStep_still (d : Dev) (p : FiPath) (u : FiUnit) :
    (d.fiStep p u out dropped).pers = d.pers ∧ (d.fiStep p u out dropped).twinWord = d.twinWord := by
  have hc := d.fiChoose_still p u
  unfold Dev.fiStep
  simp only
  split
  · simp_all
  · split <;> simp_all

include hl

theorem Dev.fiPass_still (d : Dev) (p : FiPath) (u : FiUnit) :
    (d.fiPass p u out late dropped).pers = d.pers ∧ (d.fiPass p u out late dropped).twinWord = d.twinWord := by
  have h := fun e : Dev => Dev.fiStep_still ho hd e p u
  have hh := fun (e : Dev) (x : FiHeld) => Dev.fiStep_still hl hd e p x.item
  simp [Dev.fiPass, h, hh]

end

theorem cplOut_still (u : FiUnit) (b : Bool) (d : Dev) : (cplOut u b d).pers = d.pers ∧ (cplOut u b d).twinWord = d.twinWord := by
  unfold cplOut
  split <;> simp [Dev.countHost]

@[simp] theorem Dev.complete_still (d : Dev) (i g : Nat) (bs : List Byte) (bad : Bool) :
    (d.complete i g bs bad).pers = d.pers ∧ (d.complete i g bs bad).twinWord = d.twinWord := by
  have h := fun e : Dev => Dev.fiPass_still cplOut_still cplOut_still (dropped := cplDropped) (fun _ => ⟨rfl, rfl⟩) e
  simp [Dev.complete, h, Dev.fresh]

@[simp] theorem Dev.winGo_still (d : Dev) (i g off : Nat) (w : Option (List Byte)) (len : Nat) :
    (d.winGo i g off w len).pers = d.pers ∧ (d.winGo i g off w len).twinWord = d.twinWord := by
  unfold Dev.winGo
  split
  case h_1 bs =>
    have h := foldl_keeps (fun x : Dev × List Byte => x.1.pers = d.pers ∧ x.1.twinWord = d.twinWord)
      (fun acc (p : Option Nat × Nat) => (acc.1.wrN (p.1.getD 0) (acc.2.take p.2), acc.2.drop p.2))
      (fun acc p hx => by simpa using hx) ((d.inst i).winPieces off len) (d, bs) ⟨rfl, rfl⟩
    simpa [Dev.countAcct] using h
  case h_2 => simp [Dev.countAcct]

@[simp] theorem Dev.refuseWin_still (d : Dev) (m x : Nat) (w : Bool) :
    (d.refuseWin m x w).pers = d.pers ∧ (d.refuseWin m x w).twinWord = d.twinWord := by
  unfold Dev.refuseWin
  split <;> simp [Dev.fresh]

@[simp] theorem Dev.setPair_still (d : Dev) {a b : Nat} (n : Nat) (ha : aTwinPstatus 0 ≠ a) (hb : aTwinPstatus 0 ≠ b) :
    (d.setPair a b n).pers = d.pers ∧ (d.setPair a b n).twinWord = d.twinWord := by
  simp [Dev.setPair, Tab.look_put_ne, ha, hb]

@[simp] theorem Dev.pcieRefused_still (d : Dev) (port src off : Nat) (w : Bool) :
    (d.pcieRefused port src off w).pers = d.pers ∧ (d.pcieRefused port src off w).twinWord = d.twinWord := by
  simp [Dev.pcieRefused, Dev.setPair, Tab.look_put_ne]

@[simp] theorem Dev.record_still (d : Dev) (q : Queue) (c : Cmd) (st : Status) (r t : Nat) :
    (d.record q c st r t).pers = d.pers ∧ (d.record q c st r t).twinWord = d.twinWord := by
  simp [Dev.record]

@[simp] theorem Dev.step6_still (d : Dev) (q : Nat) (c : Cmd) :
    (d.step6 q c).pers = d.pers ∧ (d.step6 q c).twinWord = d.twinWord := by
  unfold Dev.step6
  split
  · exact ⟨rfl, rfl⟩
  · split <;> simp [Dev.tearAccess, Dev.wr64]

@[simp] theorem Dev.endPress_still (d : Dev) (q : Nat) (c : Cmd) (t : Nat) :
    (d.endPress q c t).pers = d.pers ∧ (d.endPress q c t).twinWord = d.twinWord := by
  unfold Dev.endPress
  split <;> simp

@[simp] theorem Dev.dmaStoreBack_still (d : Dev) (a x w : Nat) :
    (d.dmaStoreBack a x w).pers = d.pers ∧ (d.dmaStoreBack a x w).twinWord = d.twinWord := by
  unfold Dev.dmaStoreBack
  obtain ⟨hp, hw⟩ := d.wrWords_still (a + 24) [BitVec.ofNat 32 x, BitVec.ofNat 32 (2 ^ 31 + w)]
  obtain ⟨gp, gw⟩ := (d.wrWords (a + 24) [BitVec.ofNat 32 x, BitVec.ofNat 32 (2 ^ 31 + w)]).wrN_still (a + 28)
    (leBytes 4 (BitVec.ofNat 32 w).toNat)
  exact ⟨gp.trans hp, gw.trans hw⟩

@[simp] theorem Dev.dmaWriteBack_still (d : Dev) (ch x err : Nat) (done : Bool) :
    (d.dmaWriteBack ch x err done).pers = d.pers ∧ (d.dmaWriteBack ch x err done).twinWord = d.twinWord := by
  unfold Dev.dmaWriteBack
  simp only
  split
  · exact ⟨rfl, rfl⟩
  · split
    · exact ⟨rfl, rfl⟩
    · exact d.dmaStoreBack_still _ _ _

/-- The registers, the count and the log entry of a channel's error. -/
def Dev.errorNoted (d : Dev) (ch code a : Nat) : Dev :=
  ((((((d.setF (aDmaStatus ch) 23 16 code).setB (aDmaStatus ch) 2 true).dmaSetState ch 0).setReg (aDmaErrLo ch) (BitVec.ofNat 32 a)).setReg
    (aDmaErrHi ch) (BitVec.ofNat 32 (a / 2 ^ 32 % 256))).count 0x07 (16 * dmaEngine ch + 2 + code) 1).logE 6 0 ch a code

/-- The channel holds no descriptor any more, and interrupts where it is to. -/
def Dev.errorEnded (d : Dev) (ch : Nat) : Dev :=
  let d := { d with dmaCh := d.dmaCh.del ch }
  if d.getB (aDmaCfg ch) 1 then d.raise (.dma ch) else d

theorem Dev.dmaError_eq (d : Dev) (ch code a : Nat) : d.dmaError ch code a =
    ((d.dmaWriteBack ch (((d.dmaCh.look ch).map (·.done)).getD 0) code false).errorNoted ch code a).errorEnded ch := rfl

theorem Dev.errorNoted_still (d : Dev) (ch code a : Nat) :
    (d.errorNoted ch code a).pers = d.pers ∧ (d.errorNoted ch code a).twinWord = d.twinWord := by
  simp [Dev.errorNoted, Dev.logE, Dev.dmaSetState, -Dev.setReg_regs]

theorem Dev.errorEnded_still (d : Dev) (ch : Nat) : (d.errorEnded ch).pers = d.pers ∧ (d.errorEnded ch).twinWord = d.twinWord := by
  unfold Dev.errorEnded
  simp only
  split <;> exact ⟨rfl, rfl⟩

@[simp] theorem Dev.dmaError_still (d : Dev) (ch code a : Nat) :
    (d.dmaError ch code a).pers = d.pers ∧ (d.dmaError ch code a).twinWord = d.twinWord := by
  simp only [Dev.dmaError_eq, Dev.errorEnded_still, Dev.errorNoted_still, Dev.dmaWriteBack_still, and_self]

@[simp] theorem Dev.dmaReady_still (d : Dev) (ch : Nat) :
    (d.dmaReady ch).pers = d.pers ∧ (d.dmaReady ch).twinWord = d.twinWord := by
  unfold Dev.dmaReady
  split <;> simp [Dev.dmaSetState]

@[simp] theorem Dev.dmaFetch_still (d : Dev) (ch a : Nat) :
    (d.dmaFetch ch a).pers = d.pers ∧ (d.dmaFetch ch a).twinWord = d.twinWord := by
  unfold Dev.dmaFetch
  simp only
  split
  · simp [Dev.dmaSetState]
  · split
    · simp
    · split <;> simp [Dev.dmaSetState, Tab.look_put_ne]

@[simp] theorem Dev.park_still (d : Dev) (c : Nat) : (d.park c).pers = d.pers ∧ (d.park c).twinWord = d.twinWord := by
  unfold Dev.park
  split <;> simp [Dev.setCtx, Dev.countInst]

theorem Dev.makeSlot_still (d : Dev) {s : Nat} {e : Dev} (h : d.makeSlot = some (s, e)) :
    e.pers = d.pers ∧ e.twinWord = d.twinWord := by
  unfold Dev.makeSlot at h
  split at h
  · cases h; exact ⟨rfl, rfl⟩
  · split at h
    · split at h
      · cases h; exact d.park_still _
      · cases h
    · cases h

@[simp] theorem Dev.unpark_still (d : Dev) (c : Nat) : (d.unpark c).pers = d.pers ∧ (d.unpark c).twinWord = d.twinWord := by
  unfold Dev.unpark
  split
  · exact ⟨rfl, rfl⟩
  · split
    · exact ⟨rfl, rfl⟩
    · split
      case h_1 s e h =>
        obtain ⟨hp, hw⟩ := d.makeSlot_still h
        split <;> simp_all [Dev.countInst, Dev.setCtx, Dev.countMax]
      case h_2 => split <;> simp [Dev.countInst, Dev.setCtx]

@[simp] theorem Dev.serveUnparks_still (d : Dev) : d.serveUnparks.pers = d.pers ∧ d.serveUnparks.twinWord = d.twinWord := by
  simp [Dev.serveUnparks]

/-! ### Accesses that waited, where the latency monitor of a number that is no master's may reach a register of a pair (R301) -/

/-- The personality stays, and the low half of TWIN_PSTATUS of PAIR0 is not cleared. -/
structure Dev.Lingers (d e : Dev) : Prop where
  pers : e.pers = d.pers
  mark : 0 < d.getF (aTwinPstatus 0) 15 0 → 0 < e.getF (aTwinPstatus 0) 15 0

theorem Dev.Lingers.trans {d e f : Dev} (h : Dev.Lingers d e) (g : Dev.Lingers e f) : Dev.Lingers d f :=
  ⟨g.pers.trans h.pers, fun hd => g.mark (h.mark hd)⟩

theorem Dev.Lingers.of_still {d e : Dev} (h : e.pers = d.pers ∧ e.twinWord = d.twinWord) : Dev.Lingers d e :=
  ⟨h.1, fun hd => by rwa [Dev.getF_of_reg (Dev.reg_of_twinWord h.2)]⟩

/-- The monitor keeps the greater of what it holds and what it sees: whatever register holds it is not cleared. -/
theorem Dev.lingers_latency (d : Dev) (m c : Nat) : Dev.Lingers d (d.latency m c) := by
  by_cases ha : aTwinPstatus 0 = aBwrLat m c
  · refine ⟨rfl, fun h => ?_⟩
    have hlt : d.getF (aTwinPstatus 0) 15 0 < 65536 := Nat.mod_lt _ (by decide)
    have hf : d.fresh.1 % 65536 < 65536 := Nat.mod_lt _ (by decide)
    have hnew : (d.latency m c).getF (aTwinPstatus 0) 15 0 =
        max (d.getF (aTwinPstatus 0) 15 0) (d.fresh.1 % 65536) % 65536 := by
      simp only [Dev.latency, ← ha]
      exact Dev.getF_setF_self _ _ 15 0 _ (by decide)
    rw [hnew, Nat.mod_eq_of_lt (Nat.max_lt.mpr ⟨hlt, hf⟩)]
    exact Nat.lt_of_lt_of_le h (Nat.le_max_left _ _)
  · exact .of_still ⟨rfl, d.fresh.2.setF_twinWord 15 0 _ ha⟩

theorem Dev.lingers_traffic (d : Dev) (m a n : Nat) : Dev.Lingers d (d.traffic m a n) := by
  have hm : aTwinPstatus 0 ≠ aBwrMused m := by simp only [aTwinPstatus, aTwinP, dieBase, aBwrMused, aBwrMcfg, aBwr]; omega
  unfold Dev.traffic
  split
  · exact .of_still ⟨rfl, rfl⟩
  · exact Dev.Lingers.trans (e := d.setReg (aBwrMused m) _) (.of_still ⟨rfl, d.setReg_twinWord _ hm⟩) (Dev.lingers_latency _ _ _)

theorem Dev.lingers_coreTry (d : Dev) (core : Nat) (store : Bool) (a n : Nat) (data : List Byte) :
    Dev.Lingers d (d.coreTry core store a n data) := by
  unfold Dev.coreTry
  simp only
  split
  · exact .of_still ⟨rfl, rfl⟩
  · split
    · exact .of_still (by simp)
    · split
      · exact .of_still ⟨rfl, rfl⟩
      · split
        · exact .of_still ⟨rfl, rfl⟩
        · refine Dev.Lingers.trans (.of_still ?_) (Dev.lingers_traffic _ _ _ _)
          unfold Dev.coreGo
          split <;> simp

theorem Dev.lingers_coreMem (d : Dev) (core : Nat) (store : Bool) (a n : Nat) (data : List Byte) :
    Dev.Lingers d (d.coreMem core store a n data) := by
  have htry := d.lingers_coreTry core store a n data
  unfold Dev.coreMem
  simp only
  split
  case isFalse => exact htry
  case isTrue ht =>
    have hcore : core < 24 := by
      unfold Dev.twinnedCore at ht
      simp only [Bool.and_eq_true, decide_eq_true_eq] at ht
      exact ht.1
    have hq : aTwinPstatus 0 ≠ aTwinHstatus (core / 2) := by
      rw [aTwinHstatus_ac (by omega)]
      simp only [aTwinPstatus, aTwinP, dieBase]
      omega
    refine htry.trans (.of_still ?_)
    unfold Dev.keepLoad
    split
    · exact ⟨rfl, rfl⟩
    · simp [Dev.setHostQ, hq]

theorem Dev.lingers_winAcc (d : Dev) (i m off : Nat) (w : Option (List Byte)) (len : Nat) :
    Dev.Lingers d (d.winAcc i m off w len) := by
  unfold Dev.winAcc
  split
  · exact .of_still ⟨rfl, rfl⟩
  · split
    · exact .of_still ⟨rfl, rfl⟩
    · split
      · exact .of_still (by simp [Dev.countHost])
      · simp only
        split
        · exact .of_still ⟨rfl, rfl⟩
        · split
          · exact .of_still ⟨rfl, rfl⟩
          · split
            · exact Dev.Lingers.trans (.of_still (d.winGo_still _ _ _ _ _)) (Dev.lingers_traffic _ _ _ _)
            · exact .of_still (d.winGo_still _ _ _ _ _)

theorem Dev.lingers_serveWait (d : Dev) (w : WaitAcc) : Dev.Lingers d (d.serveWait w) := by
  cases w with
  | coreAcc core store a n data =>
    unfold Dev.serveWait
    simp only
    split
    · exact .of_still ⟨rfl, rfl⟩
    · exact d.lingers_coreMem core store a n data
  | pcieAcc i m off w len => exact d.lingers_winAcc i m off w len
  | pciePage => exact .of_still ⟨rfl, rfl⟩
  | fence q c t =>
    refine .of_still ?_
    simp [Dev.serveWait]
  | dmaFetch ch a =>
    refine .of_still ?_
    simp [Dev.serveWait]
  | dmaBack a x w =>
    refine .of_still ?_
    simp [Dev.serveWait]

theorem Dev.lingers_serveWaits (d : Dev) : Dev.Lingers d d.serveWaits := by
  have hnil : Dev.Lingers d { d with waiting := [] } := .of_still ⟨rfl, rfl⟩
  unfold Dev.serveWaits
  simp only
  split
  · exact .of_still ⟨rfl, rfl⟩
  · exact hnil.trans (forEach_keeps (Dev.Lingers _) _ (fun w e h => h.trans (e.lingers_serveWait w)) _ _ (.of_still ⟨rfl, rfl⟩))

/-! ### The pass, which writes no personality -/

theorem Dev.countMax_pers (d : Dev) (g i k : Nat) : (d.countMax g i k).pers = d.pers := (d.cntUpd_still g i _).1

theorem Dev.endCond_pers (d : Dev) (c s : Nat) : (d.endCond c s).pers = d.pers := by
  unfold Dev.endCond
  split <;> simp

@[simp] theorem Dev.halt_pers (d : Dev) (q c : Nat) : (d.halt q c).pers = d.pers := by
  unfold Dev.halt
  split <;> simp [Dev.setQueue]

@[simp] theorem Dev.refuseCmd_pers (d : Dev) (q : Nat) (c : Cmd) (st : Status) (r : Nat) : (d.refuseCmd q c st r).pers = d.pers := by
  unfold Dev.refuseCmd
  split <;> simp [Dev.dropCmd]

theorem Dev.popPages_pers {d e : Dev} {die q n : Nat} {ps : List Nat} (h : d.popPages die q n = some (ps, e)) : e.pers = d.pers := by
  unfold Dev.popPages at h
  simp only at h
  split at h
  · cases h
  · cases h
    simp [Dev.setStack, Dev.setPageState]

theorem Dev.kvReserve_pers {d e : Dev} {q pl : Nat} {c : Cmd} (h : d.kvReserve q pl c = some e) : e.pers = d.pers := by
  unfold Dev.kvReserve at h
  simp only at h
  split at h
  · cases h
  · split at h
    · cases h
    · next pgs f hpop =>
      cases h
      rw [← Dev.popPages_pers hpop]
      split <;> simp [Dev.updCmd, Dev.countMax_pers]

@[simp] theorem Dev.kvWaitFor_pers (d : Dev) (q pl : Nat) (c : Cmd) : (d.kvWaitFor q pl c).pers = d.pers := by
  unfold Dev.kvWaitFor
  simp only
  split <;> simp [Dev.updCmd]

@[simp] theorem Dev.truncMark_pers (d : Dev) (q pl : Nat) (c : Cmd) : (d.truncMark q pl c).pers = d.pers := by
  simp [Dev.truncMark, Dev.updCmd, Dev.setPageState]

@[simp] theorem Dev.kvAtDispatch_pers (d : Dev) (q : Nat) (c : Cmd) : (d.kvAtDispatch q c).1.pers = d.pers := by
  unfold Dev.kvAtDispatch
  split
  · rfl
  · split
    · simp
    · split
      · simp
      · split
        · simp
        · split
          · exact ((Dev.teardown_still _ _ _).1.trans (Dev.setReg_pers _ _ _)).trans (d.setB_pers (aKvErr c.kvDie) 3 true)
          · split
            · split
              · next h => exact Dev.kvReserve_pers h
              · simp [Dev.countInst]
            · split <;> simp

@[simp] theorem Dev.ageAtDispatch_pers (d : Dev) (g : Nat) (ins : List Region) : (d.ageAtDispatch g ins).pers = d.pers := by
  unfold Dev.ageAtDispatch
  refine Dev.forEach_pers _ _ d fun p e => ?_
  split
  · rfl
  · refine Dev.forEach_pers _ _ e fun l f => ?_
    split
    · split
      · simp [Dev.ageFail, Dev.logE, Dev.countInst, Dev.report]
      · rfl
    · rfl

@[simp] theorem Dev.clearFlags_pers (d : Dev) (c : Cmd) (b : Bool) : (d.clearFlags c b).pers = d.pers := by
  unfold Dev.clearFlags
  exact Dev.forEach_pers _ _ d fun x e => Dev.forEach_pers _ _ e fun b f => Dev.forEach_pers _ _ f fun r g => (g.wrN_still _ _).1

/-! ### Starts -/

theorem Dev.loadResid_pers (d : Dev) (k : Nat) (r : Region) : (d.loadResid k r).pers = d.pers := by
  unfold Dev.loadResid
  split <;> rfl

theorem Dev.loadBook_pers (d : Dev) (c : Cmd) (e : Nat) : (d.loadBook c e).pers = d.pers := by
  unfold Dev.loadBook
  split <;> simp [Dev.setPair]

theorem Dev.startKernels_pers (d : Dev) (q : Nat) (c : Cmd) (es : List Nat) : (d.startKernels q c es).pers = d.pers := by
  unfold Dev.startKernels
  split
  · rfl
  · exact Dev.forEach_pers _ _ d fun e f => Dev.forUpTo_pers _ _ f fun k g => rfl

@[simp] theorem Dev.startOn_pers (d : Dev) (q : Nat) (c : Cmd) (us : List (List Nat)) : (d.startOn q c us).pers = d.pers := by
  simp [Dev.startOn, Dev.updCmd, Dev.startKernels_pers, Dev.loadBook_pers, Dev.loadResid_pers, Dev.setEngine, Dev.beginPair, Dev.putPair]

@[simp] theorem Dev.startSort_pers (d : Dev) (die : Nat) : (d.startSort die).pers = d.pers := by
  unfold Dev.startSort
  simp only
  split
  · rfl
  · split
    · split <;> simp
    · simp [Dev.countMax_pers, Dev.updCmd]

@[simp] theorem Dev.sortRefresh_pers (d : Dev) (die : Nat) : (d.sortRefresh die).pers = d.pers := by
  simp [Dev.sortRefresh]

@[simp] theorem Dev.dispatchSort_pers (d : Dev) (q : Nat) (c : Cmd) : (d.dispatchSort q c).pers = d.pers := by
  unfold Dev.dispatchSort
  simp only [Dev.sortRefresh_pers]
  split <;> simp [Dev.updCmd]

/-! ### Runs of graphs -/

@[simp] theorem Dev.submitRun_pers (d : Dev) (gh ex k : Nat) (f : Bool) : (d.submitRun gh ex k f).pers = d.pers := by
  unfold Dev.submitRun Dev.submitCmds
  split
  · split <;> rfl
  · rfl

@[simp] theorem Dev.moveRuns_pers (d : Dev) (gh old ex k : Nat) : (d.moveRuns gh old ex k).pers = d.pers := by
  unfold Dev.moveRuns
  split <;> simp [Dev.dropRun]

@[simp] theorem Dev.checkpoint_pers (d : Dev) (ex k : Nat) (b : Bool) : (d.checkpoint ex k b).pers = d.pers := by
  unfold Dev.checkpoint
  simp only
  split
  · rfl
  · split
    · split
      · split
        · simp [Dev.switchFallback, Dev.setGraph, Dev.logE, Dev.countInst, Dev.report]
        · rfl
      · rfl
    · simp [Dev.endCond_pers, Dev.setGraph, Dev.logE, Dev.countInst]

/-! ### Dispatch and the pass -/

/-- What follows in `Dev.dispatch` once a command is to start: its graph's ages, its flags, its start and its run's checkpoint. -/
def Dev.dispatchStart (d : Dev) (q : Nat) (c : Cmd) (us : List (List Nat)) : Dev :=
  let aged := match c.node with
    | some n =>
      let d := d.ageAtDispatch n.1 c.ins
      d.updCmd q c.seq fun x => { x with ageStamp := d.ageOf c }
    | none => d
  let cleared := if c.op = 0x0201 then aged.clearFlags c (aged.twinnedQ q) else aged
  let started := if c.isSort then cleared.dispatchSort q c else cleared.startOn q c us
  match c.node with
  | some n => if n.2.2 = 0 ∧ c.part.all (fun p => p.idx = 0) then started.checkpoint n.1 n.2.1 true else started
  | none => started

theorem Dev.dispatchStart_pers (d : Dev) (q : Nat) (c : Cmd) (us : List (List Nat)) : (d.dispatchStart q c us).pers = d.pers := by
  unfold Dev.dispatchStart
  extract_lets aged cleared started
  have hage : aged.pers = d.pers := by
    simp only [aged]
    split <;> simp [Dev.updCmd]
  have hclear : cleared.pers = aged.pers := by simp [cleared]
  have hstart : started.pers = d.pers := by simp [started, hclear, hage]
  split
  · split
    · exact (started.checkpoint_pers _ _ _).trans hstart
    · exact hstart
  · exact hstart

/-- What the class of a command adds to its dispatch, and whether it goes on. -/
def Dev.dispatchClass (d : Dev) (q : Nat) (c : Cmd) : Dev × Bool := if c.cls = 3 then d.kvAtDispatch q c else (d, true)

theorem Dev.dispatchClass_pers (d : Dev) (q : Nat) (c : Cmd) : (d.dispatchClass q c).1.pers = d.pers := by
  unfold Dev.dispatchClass
  split
  · exact d.kvAtDispatch_pers q c
  · rfl

/-- What `Dev.dispatch` does with a command that holds its locks. -/
def Dev.dispatchHeld (d : Dev) (q : Nat) (c : Cmd) (us : List (List Nat)) : Dev :=
  if (c.cls = 1 ∨ c.op = 0x0301) ∧ d.tagBad c then d.refuseCmd q c .eParam 1
  else
    let r := d.dispatchClass q c
    if !r.2 then r.1 else r.1.dispatchStart q c us

theorem Dev.dispatchHeld_pers (d : Dev) (q : Nat) (c : Cmd) (us : List (List Nat)) : (d.dispatchHeld q c us).pers = d.pers := by
  unfold Dev.dispatchHeld
  simp only
  split
  · simp
  · split
    · exact d.dispatchClass_pers q c
    · exact (Dev.dispatchStart_pers _ q c us).trans (d.dispatchClass_pers q c)

@[simp] theorem Dev.dispatch_pers (d : Dev) (q : Nat) (c : Cmd) (us : List (List Nat)) : (d.dispatch q c us).pers = d.pers := by
  unfold Dev.dispatch
  simp only
  split
  · simp
  · rfl
  · split
    · exact Dev.forEach_pers _ _ d fun t e => rfl
    · exact Dev.dispatchHeld_pers (d.updCmd q c.seq fun x => { x with locked := true }) q { c with locked := true } us

@[simp] theorem Dev.abandonChunk_pers (d : Dev) (e : Nat) : (d.abandonChunk e).pers = d.pers := by
  simp [Dev.abandonChunk]

theorem Dev.preemptFor_pers (d : Dev) (eg : Nat) (c : Cmd) (g : EngineGroup) (len : Nat) (vs : List (Nat × Cmd)) :
    (d.preemptFor eg c g len vs).1.pers = d.pers := by
  induction vs generalizing d with
  | nil => rfl
  | cons v vs ih =>
    unfold Dev.preemptFor
    split
    · rfl
    · rw [ih, (d.killRerun_still _ _ _).1]

/-- The sets of engines found for a command, and the device after the victims that were killed for it. -/
def Dev.makeRoom (d : Dev) (eg : Nat) (g : EngineGroup) (prio len est : Nat) (c : Cmd) : Dev × Option (List (List Nat)) :=
  match d.place eg c g len with
  | some us => (d, some us)
  | none =>
    if d.slotEnd < d.now + est then (d, none) else
    match d.placeOverTests eg c g len with
    | some us => (d, some us)
    | none => d.preemptFor eg c g len (d.victims eg prio)

theorem Dev.makeRoom_pers (d : Dev) (eg : Nat) (g : EngineGroup) (prio len est : Nat) (c : Cmd) :
    (d.makeRoom eg g prio len est c).1.pers = d.pers := by
  unfold Dev.makeRoom
  split
  · rfl
  · split
    · rfl
    · split
      · rfl
      · exact d.preemptFor_pers eg c g len _

/-- What `Dev.tryCmd` does with the sets found. -/
def Dev.takeRoom (r : Dev × Option (List (List Nat))) (eg q len : Nat) (c : Cmd) : Dev :=
  match r.2 with
  | none => r.1
  | some us => if r.1.slotEnd < r.1.now + r.1.est eg us.flatten c us.length len then r.1
    else (forEach us.flatten (fun e d => d.abandonChunk e) r.1).dispatch q c us

theorem Dev.takeRoom_pers (r : Dev × Option (List (List Nat))) (eg q len : Nat) (c : Cmd) :
    (Dev.takeRoom r eg q len c).pers = r.1.pers := by
  unfold Dev.takeRoom
  split
  · rfl
  · split <;> simp

theorem Dev.tryCmd_pers (d : Dev) (eg : Nat) (g : EngineGroup) (q prio : Nat) (c : Cmd) : (d.tryCmd eg g q prio c).pers = d.pers := by
  unfold Dev.tryCmd
  simp only
  split
  · rfl
  · split
    · rfl
    · next x _ c _ =>
      split
      · rfl
      · split
        · split
          · simp
          · split <;> simp
        · split
          · rfl
          · split
            · simp
            · exact (Dev.takeRoom_pers (d.makeRoom eg g prio _ _ c) eg q _ c).trans (d.makeRoom_pers eg g prio _ _ c)

theorem Dev.passEg_pers (d : Dev) (eg : Nat) (g : EngineGroup) : (d.passEg eg g).pers = d.pers := by
  unfold Dev.passEg
  split
  · refine foldl_keeps (fun x : Dev × List Nat => x.1.pers = d.pers) _ (fun acc p h => ?_) _ _ rfl
    simp only
    split
    · exact h
    · exact (acc.1.tryCmd_pers _ _ _ _ _).trans h
  · rfl

theorem Dev.gfxStop_pers (d : Dev) : d.gfxStop.pers = d.pers := by
  unfold Dev.gfxStop
  split
  · rfl
  · split
    · rfl
    · split
      · rfl
      · split
        · simp [Dev.killJob]
        · simp

@[simp] theorem Dev.gfxStatus_pers (d : Dev) (q : Nat) (c : Cmd) : (d.gfxStatus q c).pers = d.pers := by
  simp [Dev.gfxStatus]

theorem Dev.startJob_pers (d : Dev) (q : Nat) (c : Cmd) : (d.startJob q c).pers = d.pers := by
  unfold Dev.startJob
  simp only
  split
  · simp [Dev.updCmd]
  · split
    · simp
    · split
      · split <;> simp
      · simp

theorem Dev.passGfx_pers (d : Dev) : d.passGfx.pers = d.pers := by
  unfold Dev.passGfx
  simp only
  split
  · rfl
  · refine (Dev.forEach_pers _ _ _ fun p e => ?_).trans d.gfxStop_pers
    split
    · rfl
    · split
      · exact e.startJob_pers _ _
      · rfl

@[simp] theorem Dev.pass_pers (d : Dev) : d.pass.pers = d.pers := by
  unfold Dev.pass
  simp only
  split
  · rfl
  · have hsort : ∀ e : Dev, e.passSort.pers = e.pers := fun e => by simp [Dev.passSort]
    rw [Dev.passGfx_pers, hsort]
    exact Dev.forEach_pers _ _ d.stampEligible fun p e => e.passEg_pers _ _

/-! ### What follows an effect on a device that sleeps -/

theorem Dev.settle_pers (d : Dev) : d.settle.pers = d.pers := by
  rw [Dev.settle, Dev.pass_pers, d.serveWaits.serveUnparks_still.1, d.lingers_serveWaits.pers]

/-- A device that sleeps dispatches nothing. -/
theorem Dev.pass_asleep {d : Dev} (h : d.pers = .sleep) : d.pass = d := by
  simp [Dev.pass, Dev.noDispatch, h]

/-- On a device that sleeps, no effect ends by clearing the mark of PAIR0. -/
theorem Dev.mark_settle_asleep {d : Dev} (h : d.settle.pers = .sleep) (hm : 0 < d.getF (aTwinPstatus 0) 15 0) :
    0 < d.settle.getF (aTwinPstatus 0) 15 0 := by
  have hd : d.pers = .sleep := d.settle_pers ▸ h
  have hl : Dev.Lingers d d.serveWaits.serveUnparks := d.lingers_serveWaits.trans (.of_still d.serveWaits.serveUnparks_still)
  rw [Dev.settle, Dev.pass_asleep (hl.pers.trans hd)]
  exact hl.mark hm

/-! ### A pair that fails its split, and the wheel that its spare's place rewrites (R249, R257) -/

theorem Dev.frame_keepRecord (d : Dev) (p st n : Nat) (l t : List Dword) :
    Dev.Frame d (d.keepRecord p st n l t) [] fun a => a = aTwinPrec p ∨ ∃ i < 8, a = aTwinPsig p i := by
  have hrec : aBwrIlvLo ≠ aTwinPrec p ∧ aBwrIlvHi ≠ aTwinPrec p := by
    simp only [aBwrIlvLo, aBwrIlvHi, aBwr, aTwinPrec, aTwinP, dieBase]; omega
  have hsig : ∀ i, aBwrIlvLo ≠ aTwinPsig p i ∧ aBwrIlvHi ≠ aTwinPsig p i := fun i => by
    simp only [aBwrIlvLo, aBwrIlvHi, aBwr, aTwinPsig, aTwinP, dieBase]; omega
  have hprec := (d.frame_setReg (aTwinPrec p) (BitVec.ofNat 32 (st * 2 ^ 16 + n % 65536)) hrec.1 hrec.2).mono (ks' := [])
    (rs' := fun a => a = aTwinPrec p ∨ ∃ i < 8, a = aTwinPsig p i) (by simp) fun _ h => .inl h
  refine forUpTo_keeps_below (Dev.Frame d · [] fun a => a = aTwinPrec p ∨ ∃ i < 8, a = aTwinPsig p i) _ 8
    (fun i hi e h => h.trans ?_) _ hprec
  exact (e.frame_setReg (aTwinPsig p i) _ (hsig i).1 (hsig i).2).mono (by simp) fun _ h => .inr ⟨i, hi, h⟩

/-- The health of a pair is read from its status, its engines' status and tests, and what is remembered of it. -/
theorem Dev.pairHealthy_congr {d e : Dev} {s : Nat} (hs : s < 32) (hr : ∀ a, a = aTwinPstatus s ∨ a = aGxStatus (2 * s) ∨
    a = aGxStatus (2 * s + 1) → e.reg a = d.reg a) (ht : ∀ u, u / 2 = s → e.testSt u = d.testSt u) (hp : e.pairSt s = d.pairSt s) :
    e.pairHealthy s = d.pairHealthy s := by
  have hst : e.pairState s = d.pairState s := Dev.getF_of_reg (hr _ (.inl rfl)) 2 0
  have hunit : ∀ u, u / 2 = s → e.reg (aGxStatus u) = d.reg (aGxStatus u) → e.unitGood u = d.unitGood u := fun u hu hreg => by
    have hlt : u < 64 := by omega
    rw [Dev.unitGood, Dev.unitGood, ht u hu, Dev.untested, Dev.untested, if_pos hlt, if_pos hlt, Dev.getB_of_reg hreg]
  rw [Dev.pairHealthy, Dev.pairHealthy, hst, hunit _ (by omega) (hr _ (.inr (.inl rfl))), hunit _ (by omega) (hr _ (.inr (.inr rfl))), hp]

/-- A sweep that begins anew leaves the tests of the other pairs. -/
theorem Dev.testSt_newSweep_other (d : Dev) {p u : Nat} (h : u / 2 ≠ p) : (d.newSweep p).testSt u = d.testSt u := by
  have h0 : u ≠ 2 * p := by omega
  have h1 : u ≠ 2 * p + 1 := by omega
  exact (Dev.testSt_setTest_ne _ _ h1).trans (d.testSt_setTest_ne _ h0)

theorem Dev.pairSt_putPair_ne (d : Dev) {p s : Nat} (x : PairState) (h : s ≠ p) : (d.putPair p x).pairSt s = d.pairSt s :=
  Tab.lookD_put_ne _ _ _ h

/-- A quarantine leaves the tests of the other pairs, and what is remembered of them. -/
theorem Dev.others_quarantine (d : Dev) (p : Nat) (f : Finding) {s : Nat} (hs : s ≠ p) :
    (∀ u, u / 2 = s → (d.quarantine p f).testSt u = d.testSt u) ∧ (d.quarantine p f).pairSt s = d.pairSt s := by
  obtain ⟨e, he, hq⟩ := d.quarantine_eq p f
  have hshow := (d.frame_findingShown p f).mono (ks' := [.counters, .log, .interrupts]) (rs' := fun _ => True) (by simp) fun _ _ => trivial
  have hcount := ((Dev.noted_findingCounted (d.findingShown p f) p f).frame.mono (ks' := [.counters, .log, .interrupts])
    (rs' := fun _ => True) (by decide) fun _ _ => trivial)
  have hnote := he ▸ hshow.trans hcount
  have hreport := hq ▸ Dev.frame_report (((e.pairDone p .eState).putPair p ((e.pairSt p).quarantined e.now f)).newSweep p)
    (if f.checker then 2 else 1) p 0
  refine ⟨fun u hu => ?_, ?_⟩
  · calc (d.quarantine p f).testSt u
        = (((e.pairDone p .eState).putPair p ((e.pairSt p).quarantined e.now f)).newSweep p).testSt u :=
          Dev.testSt_congr (hreport.same .tests (by decide)) u
      _ = e.testSt u := Dev.testSt_newSweep_other _ (by omega)
      _ = d.testSt u := Dev.testSt_congr (hnote.same .tests (by decide)) u
  · calc (d.quarantine p f).pairSt s
        = (((e.pairDone p .eState).putPair p ((e.pairSt p).quarantined e.now f)).newSweep p).pairSt s :=
          Dev.pairSt_congr (hreport.same .twins (by decide)).1 s
      _ = e.pairSt s := Dev.pairSt_putPair_ne _ _ hs
      _ = d.pairSt s := Dev.pairSt_congr (hnote.same .twins (by decide)).1 s

/-- The four words of a slot of a wheel, written to a bank. -/
abbrev Dev.writeSlot (d : Dev) (b : Nat) (z : List Word) (k : Nat) : Dev :=
  forUpTo 4 (fun i d => d.setReg (aWhlSlot b k i) (slotWord z i)) d

theorem Dev.reg_writeSlot_one (d : Dev) (b : Nat) (z : List Word) (k : Nat) :
    (d.writeSlot b z k).reg (aWhlSlot b k 1) = slotWord z 1 := by
  have h : ∀ i, i ≠ 1 → aWhlSlot b k 1 ≠ aWhlSlot b k i := fun i hi => by simp only [aWhlSlot]; omega
  simp only [Dev.writeSlot, forUpTo_succ]
  rw [Dev.reg_setReg_ne _ _ (h 3 (by decide)), Dev.reg_setReg_ne _ _ (h 2 (by decide)), Dev.reg_setReg_self]

/-- The last slot of a wheel that is loaded stands in the shadow bank. -/
theorem Dev.reg_loadShadow_last (d : Dev) {c : WheelCfg} {l : List (List Word)} {z : List Word} (h : c.slots = l ++ [z]) :
    (d.loadShadow c).reg (aWhlSlot (1 - d.whlBank) l.length 1) = slotWord z 1 := by
  unfold Dev.loadShadow
  simp only [h, List.zipIdx_append, forEach, List.foldl_append]
  simpa using Dev.reg_writeSlot_one _ (1 - d.whlBank) z l.length

/-- Loading a wheel writes registers and the time of the request alone. -/
theorem Dev.rest_loadWheel (d : Dev) (c : WheelCfg) : (d.loadWheel c).pers = d.pers ∧ (d.loadWheel c).waiting = d.waiting := by
  have hslot : ∀ (b : Nat) (s : List Word × Nat) (e : Dev),
      (e.writeSlot b s.1 s.2).pers = e.pers ∧ (e.writeSlot b s.1 s.2).waiting = e.waiting :=
    fun b s e => ⟨forUpTo_same Dev.pers (fun i f => f.setReg (aWhlSlot b s.2 i) (slotWord s.1 i)) (fun i f => rfl) 4 e,
      forUpTo_same Dev.waiting (fun i f => f.setReg (aWhlSlot b s.2 i) (slotWord s.1 i)) (fun i f => rfl) 4 e⟩
  have hshadow : (d.loadShadow c).pers = d.pers ∧ (d.loadShadow c).waiting = d.waiting := by
    unfold Dev.loadShadow
    exact ⟨forEach_same Dev.pers _ (fun s e => (hslot _ s e).1) _ _, forEach_same Dev.waiting _ (fun s e => (hslot _ s e).2) _ _⟩
  unfold Dev.loadWheel Dev.requestSwap
  split
  · exact hshadow
  · split <;> exact hshadow

/-- The swap that a loaded wheel requests writes WHL_CTRL and WHL_STATUS alone. -/
theorem Dev.reg_loadWheel (d : Dev) (c : WheelCfg) {a : Nat} (hc : a ≠ aWhlCtrl) (hs : a ≠ aWhlStatus) :
    (d.loadWheel c).reg a = (d.loadShadow c).reg a := by
  unfold Dev.loadWheel Dev.requestSwap
  split
  · rfl
  · split
    · exact (Dev.reg_setB_ne _ _ _ hs).trans (Dev.reg_setB_ne _ _ _ hc)
    · exact Dev.reg_setB_ne _ _ _ hs

theorem Dev.frame_spareCheck (d : Dev) (g : Nat) : Dev.Frame d (d.spareCheck g) [.safety, .log] repRegs := by
  unfold Dev.spareCheck
  have hrefl : Dev.Frame d d [.safety, .log] repRegs := Dev.Frame.refl d _ _
  split
  · exact hrefl
  · split
    · exact hrefl
    · split
      · exact d.frame_endCond 3 g
      · split
        · exact hrefl
        · exact d.frame_report 3 g 0

/-- A wheel of `n` + 1 slots whose words are all 0. -/
def blankWheel (n : Nat) : WheelCfg := { period := 0, phaseLo := 0, phaseHi := 0, slots := List.replicate n [] ++ [[]] }

/-- What a change of a pair's place makes of a slot. -/
def amendSlot (p s : Nat) (w : List Word) : List Word :=
  if (slotWord w 2).bit 16 && (slotWord w 3).bit p then
    [slotWord w 0, slotWord w 1, slotWord w 2, ((slotWord w 3).putBit p false).putBit s true]
  else w

theorem slots_amend (c : WheelCfg) (p s : Nat) : (c.amend p s).slots = c.slots.map (amendSlot p s) := rfl

/-- A slot of zeros runs no check, and stays. -/
theorem amendSlot_nil (p s : Nat) : amendSlot p s [] = [] := by
  have hcheck : (slotWord [] 2).bit 16 = false := by decide
  simp [amendSlot, hcheck]

/-- A blank wheel ends with a slot of zeros after a change of a pair's place as before it. -/
theorem amend_blankWheel (n p s : Nat) : ∃ l, l.length = n ∧ ((blankWheel n).amend p s).slots = l ++ [[]] := by
  refine ⟨(List.replicate n []).map (amendSlot p s), by rw [List.length_map, List.length_replicate], ?_⟩
  rw [slots_amend, blankWheel, List.map_append, List.map_singleton, amendSlot_nil]

/-- A device that sleeps, waits for nothing, and holds a blank wheel of `n` + 1 slots for SLEEP, which it may load to bank 1. -/
structure Dev.HoldsBlank (d : Dev) (n : Nat) : Prop where
  asleep  : d.pers = .sleep
  steady  : d.trans = none
  noWait  : d.waiting = []
  wheel   : d.wheels = [(Pers.sleep.code, blankWheel n)]
  noSwap  : d.getB aWhlCtrl 1 = false
  bank    : d.whlBank = 0

theorem Dev.HoldsBlank.frame {d e : Dev} {n : Nat} (h : d.HoldsBlank n) {ks : List Kind} {rs : Nat → Prop} (hf : Dev.Frame d e ks rs)
    (hk : ∀ k ∈ [Kind.personality, .setup, .accesses], k ∉ ks) (hc : ¬ rs aWhlCtrl) (hs : ¬ rs aWhlStatus) : e.HoldsBlank n := by
  obtain ⟨hpers, htrans, -⟩ := hf.same .personality (hk _ (by decide))
  obtain ⟨-, -, hwheels, -⟩ := hf.same .setup (hk _ (by decide))
  obtain ⟨hwait, -⟩ := hf.same .accesses (hk _ (by decide))
  exact ⟨hpers.trans h.asleep, htrans.trans h.steady, hwait.trans h.noWait, hwheels.trans h.wheel,
    (Dev.getB_of_reg (hf.regs _ hc) 1).trans h.noSwap, (Dev.getF_of_reg (hf.regs _ hs) 0 0).trans h.bank⟩

/-- A substitution on such a device loads the wheel over the registers after the bank. -/
theorem Dev.HoldsBlank.amended {d : Dev} {n : Nat} (h : d.HoldsBlank n) (hn : aWhlSlot 1 n 1 = aTwinPstatus 0) (p s : Nat) :
    (d.amendWheels p s).pers = .sleep ∧ (d.amendWheels p s).waiting = [] ∧ (d.amendWheels p s).reg (aTwinPstatus 0) = 0 := by
  obtain ⟨l, hl, hslots⟩ := amend_blankWheel n p s
  let e : Dev := { d with wheels := [(Pers.sleep.code, (blankWheel n).amend p s)], wheelDirty := true }
  have heq : d.amendWheels p s = { e.loadWheel ((blankWheel n).amend p s) with wheelDirty := false } := by
    have hswap : e.getB aWhlCtrl 1 = false := h.noSwap
    have hmap : ({ d with wheels := d.wheels.map (fun x => (x.1, x.2.amend p s)), wheelDirty := true } : Dev) = e := by
      rw [h.wheel]; rfl
    have hpers : e.wheelPers = some .sleep := by
      simp [Dev.wheelPers, e, h.steady, h.asleep]
    rw [Dev.amendWheels, hmap, Dev.loadDirty, hpers]
    simp only [hswap]
    rfl
  obtain ⟨hp, hw⟩ := e.rest_loadWheel ((blankWheel n).amend p s)
  rw [heq]
  refine ⟨hp.trans h.asleep, hw.trans h.noWait, ?_⟩
  have hbank : e.whlBank = 0 := h.bank
  have hlast := e.reg_loadShadow_last hslots
  rw [hbank, hl, hn] at hlast
  exact (e.reg_loadWheel _ (by decide) (by decide)).trans hlast

/-- The engines of a spare that run no test chunk are taken as they are. -/
theorem Dev.abandonChunk_idle {d : Dev} {e : Nat} (h : d.getF (aGxStatus e) 7 4 ≠ 7) : d.abandonChunk e = d := by
  rw [Dev.abandonChunk, if_neg h]

/-- A member that goes out of work gives its place to a healthy spare. -/
theorem Dev.outOfWork_eq {d : Dev} {p g s : Nat} {x : EngineGroup} (hspare : d.spareOf p = none) (hmember : d.memberOf p = some g)
    (hgroup : d.eg? g = some x) (hhealthy : d.healthySpare g = some s) (h0 : d.getF (aGxStatus (2 * s)) 7 4 ≠ 7)
    (h1 : d.getF (aGxStatus (2 * s + 1)) 7 4 ≠ 7) :
    ∃ gs ps, (d.outOfWork p).2 = (({ d with egs := gs, pairs := ps } : Dev).amendWheels p s).spareCheck g := by
  have hyield : d.yieldSpare p = d := by simp [Dev.yieldSpare, hmember, hhealthy]
  have hidle : (d.abandonChunk (2 * s)).abandonChunk (2 * s + 1) = d := by
    rw [Dev.abandonChunk_idle h0, Dev.abandonChunk_idle h1]
  refine ⟨d.egs.put g { x with engines := x.engines - pairMask p + pairMask s, spares := clrBitN x.spares s },
    d.pairs.put p { d.pairSt p with home := some g, subst := some (s, d.now) }, ?_⟩
  simp only [Dev.outOfWork, hspare, hyield, Dev.substitute, hmember, hhealthy, hgroup, hidle]
  rfl

/-! ### A split that fails and is not seen -/

/-- The record of a split whose delay buffer entry cannot be read. -/
def unreadRecord : TwinRecord :=
  { stream := 0, lead := [], trail := [], entry := .bad, cmpAOk := true, cmpBOk := true, last := true, differ := false }

/-- PAIR0 splits in SLEEP, PAIR1 stands in for it, and the wheel of SLEEP is blank and has `n` + 1 slots. -/
def splitting (n : Nat) : Dev :=
  { pers := .sleep, egs := [(0, { pt := 0, twin := true, engines := 3, spares := 2 })],
    wheels := [(Pers.sleep.code, blankWheel n)],
    regs := [(aGxStatus 2, 0), (aGxStatus 3, 0), (aTwinPstatus 0, 3), (aTwinPstatus 1, 2)] }

theorem reg_splitting (n a : Nat) : ((splitting n).advance 0).reg a = (splitting 0).reg a := rfl

theorem holdsBlank_splitting (n : Nat) : ((splitting n).advance 0).HoldsBlank n where
  asleep := rfl
  steady := rfl
  noWait := rfl
  wheel  := rfl
  noSwap := (Dev.getB_of_reg (reg_splitting n aWhlCtrl) 1).trans (by decide)
  bank   := (Dev.getF_of_reg (reg_splitting n aWhlStatus) 0 0).trans (by decide)

theorem pairState_splitting (n : Nat) : (splitting n).pairState 0 = 3 :=
  (Dev.getF_of_reg (reg_splitting n (aTwinPstatus 0)) 2 0).trans (by decide)

theorem pairHealthy_splitting (n : Nat) : ((splitting n).advance 0).pairHealthy 1 = true :=
  (Dev.pairHealthy_congr (d := splitting 0) (by decide) (fun a _ => reg_splitting n a) (fun _ _ => rfl) rfl).trans (by decide)

/-- The registers that a failed split of PAIR0 writes before a spare is sought. -/
def failedRegs (a : Nat) : Prop := (a = aTwinPrec 0 ∨ ∃ i < 8, a = aTwinPsig 0 i) ∨ quarRegs 0 a

/-- They are those of PAIR0, of the counters and of the reports. -/
theorem not_failedRegs {a : Nat} (h : ∀ k < 0x100, a ≠ aTwinP 0 + k) (hc : ¬ cntRegs a) (hr : ¬ repRegs a) : ¬ failedRegs a := by
  rintro ((h' | ⟨i, hi, h'⟩) | h' | h' | h' | h')
  · exact h 0xC (by decide) h'
  · exact h (0x10 + 4 * i) (by omega) (h'.trans (Nat.add_assoc _ _ _))
  · exact h 4 (by decide) h'
  · exact h 8 (by decide) h'
  · exact hc h'
  · exact hr h'

section
variable (n : Nat) (f : Finding) (l t : List Dword)

/-- The device once PAIR0 is quarantined. -/
def splitFailed : Dev := (((splitting n).advance 0).keepRecord 0 0 0 l t).quarantine 0 f

theorem frame_splitFailed : Dev.Frame ((splitting n).advance 0) (splitFailed n f l t) quarKinds failedRegs :=
  ((Dev.frame_keepRecord _ 0 0 0 l t).mono (by simp) fun _ h => .inl h).trans
    ((Dev.frame_quarantine _ 0 f).mono (by simp) fun _ h => .inr h)

theorem holdsBlank_splitFailed : (splitFailed n f l t).HoldsBlank n := by
  have hlow : ∀ a, a < aTwinP 0 → ∀ k < 0x100, a ≠ aTwinP 0 + k := fun a ha k _ => by omega
  exact (holdsBlank_splitting n).frame (frame_splitFailed n f l t) (by decide)
    (not_failedRegs (hlow _ (by decide)) (by unfold cntRegs; decide) (by unfold repRegs; decide))
    (not_failedRegs (hlow _ (by decide)) (by unfold cntRegs; decide) (by unfold repRegs; decide))

/-- The registers of the spare pair and of its engines stay. -/
theorem not_failedRegs_spare {a : Nat} (h : a = aTwinPstatus 1 ∨ a = aGxStatus 2 ∨ a = aGxStatus 3) : ¬ failedRegs a := by
  have hdie : 0x7F10000000 ≤ a := by
    obtain rfl | rfl | rfl := h
    · exact hub_lt_pstatus 1
    · exact hub_lt_aGx 2 4
    · exact hub_lt_aGx 3 4
  refine not_failedRegs (fun k hk => ?_) (cntRegs_lt hdie) (repRegs_lt hdie)
  simp only [aTwinPstatus, aTwinP, aGxStatus, aGx, dieBase] at h ⊢
  omega

theorem group_splitFailed : (splitFailed n f l t).eg? 0 = some { pt := 0, twin := true, engines := 3, spares := 2 } := by
  rw [Dev.eg?, ((frame_splitFailed n f l t).same .setup (by decide)).2.1]
  rfl

theorem pairHealthy_splitFailed : (splitFailed n f l t).pairHealthy 1 = true := by
  have hkept := ((splitting n).advance 0).frame_keepRecord 0 0 0 l t
  obtain ⟨htests, hpair⟩ := Dev.others_quarantine (((splitting n).advance 0).keepRecord 0 0 0 l t) 0 f (s := 1) (by decide)
  have hregs := fun a h => (frame_splitFailed n f l t).regs a (not_failedRegs_spare (a := a) h)
  refine (Dev.pairHealthy_congr (by decide) hregs (fun u hu => ?_) ?_).trans (pairHealthy_splitting n)
  · exact (htests u hu).trans (Dev.testSt_congr (hkept.same .tests (by decide)) u)
  · exact hpair.trans (Dev.pairSt_congr (hkept.same .twins (by decide)).1 1)

theorem spare_splitFailed : (splitFailed n f l t).healthySpare 0 = some 1 := by
  have hmask : maskBits 2 32 = [1] := by decide
  simp [Dev.healthySpare, group_splitFailed, hmask, pairHealthy_splitFailed]

/-- What the failed split leaves: the wheel that the spare's place rewrites stands over the status of PAIR0. -/
theorem outOfWork_splitFailed (hn : aWhlSlot 1 n 1 = aTwinPstatus 0) : let y := ((splitFailed n f l t).outOfWork 0).2
    y.pers = .sleep ∧ y.waiting = [] ∧ y.reg (aTwinPstatus 0) = 0 := by
  have hegs : (splitFailed n f l t).egs = (splitting n).egs := ((frame_splitFailed n f l t).same .setup (by decide)).2.1
  have hidle : ∀ e, e = 2 ∨ e = 3 → (splitFailed n f l t).getF (aGxStatus e) 7 4 ≠ 7 := fun e he => by
    have hreg : (splitFailed n f l t).reg (aGxStatus e) = (splitting 0).reg (aGxStatus e) :=
      ((frame_splitFailed n f l t).regs _ (not_failedRegs_spare (by obtain rfl | rfl := he <;> simp))).trans (reg_splitting n _)
    rw [Dev.getF_of_reg hreg]
    obtain rfl | rfl := he <;> decide
  have hspare : (splitFailed n f l t).spareOf 0 = none := by rw [Dev.spareOf, hegs]; rfl
  have hmember : (splitFailed n f l t).memberOf 0 = some 0 := by rw [Dev.memberOf, hegs]; rfl
  obtain ⟨gs, ps, heq⟩ := Dev.outOfWork_eq hspare hmember (group_splitFailed n f l t) (spare_splitFailed n f l t)
    (hidle 2 (.inl rfl)) (hidle 3 (.inr rfl))
  have hblank : ({ splitFailed n f l t with egs := gs, pairs := ps } : Dev).HoldsBlank n := by
    obtain ⟨h1, h2, h3, h4, h5, h6⟩ := holdsBlank_splitFailed n f l t
    exact ⟨h1, h2, h3, h4, h5, h6⟩
  obtain ⟨hpers, hwait, hreg⟩ := hblank.amended hn 0 1
  have hcheck := Dev.frame_spareCheck (({ splitFailed n f l t with egs := gs, pairs := ps } : Dev).amendWheels 0 1) 0
  intro y
  have hy : y = _ := heq
  rw [hy]
  exact ⟨(hcheck.same .personality (by decide)).1.trans hpers, (hcheck.same .accesses (by decide)).1.trans hwait,
    (hcheck.regs _ (repRegs_lt (hub_lt_pstatus 0))).trans hreg⟩

end

/-- Where nothing waits and the device sleeps, what follows an effect leaves the status of PAIR0. -/
theorem Dev.reg_settle_asleep {d : Dev} (hp : d.pers = .sleep) (hw : d.waiting = []) :
    d.settle.reg (aTwinPstatus 0) = d.reg (aTwinPstatus 0) := by
  have hwaits : d.serveWaits = d := by simp [Dev.serveWaits, hw]
  obtain ⟨hpers, hword⟩ := d.serveUnparks_still
  rw [Dev.settle, hwaits, Dev.pass_asleep (hpers.trans hp)]
  exact Dev.reg_of_twinWord hword

/-- A split whose delay buffer entry cannot be read quarantines the pair, and a spare is sought (R249, R257). -/
theorem Dev.split_unread {d : Dev} {p : Nat} {r : TwinRecord} (hst : d.pairState p = 3) (hr : r.entry = .bad) :
    d.split p r = (((d.keepRecord p r.stream.val 0 (deviate r.lead (d.finalDwords (2 * p)))
      (deviate r.trail (d.finalDwords (2 * p + 1)))).quarantine p (findFinal true)).outOfWork p).2.settle := by
  rw [Dev.split, if_neg (not_not.mpr hst)]
  simp only [recVerdict_bad r _ _ hr]
  rfl

/-- A pair that is QUARANTINED has a status whose low half is not 0. -/
theorem Dev.mark_of_quarantined {d : Dev} (h : d.pairState 0 = 4) : 0 < d.getF (aTwinPstatus 0) 15 0 := by
  simp only [Dev.pairState, Dev.getF, Word.fld, bitsOf] at h ⊢
  norm_num at h ⊢
  omega

/-- Refutes O41, in a split that fails: the slots of a wheel configuration that is longer than a bank (and that `WheelCfg.ok` refuses)
reach up to TWIN_PSTATUS of PAIR0, and the change that puts the spare in the pair's place loads them there after the quarantine.
The status is then 0, while no device in which the pair is QUARANTINED settles to that. -/
theorem not_pairsAreJudged : ¬ Obligations.PairsAreJudged := by
  unfold Obligations.PairsAreJudged
  intro h
  obtain ⟨n, hn⟩ : ∃ n, aWhlSlot 1 n 1 = aTwinPstatus 0 := ⟨0x104DEC0, by decide⟩
  let s : State := { dev := splitting n, pending := [] }
  obtain ⟨-, -, -, -, -, -, -, hsplit, -⟩ := h.1 s 0 0 rfl
  let d : Dev := (splitting n).advance 0
  let y : Dev := ((splitFailed n (findFinal true) (deviate [] (d.finalDwords 0)) (deviate [] (d.finalDwords 1))).outOfWork 0).2
  obtain ⟨hpers, hwait, hreg⟩ : y.pers = .sleep ∧ y.waiting = [] ∧ y.reg (aTwinPstatus 0) = 0 := outOfWork_splitFailed n _ _ _ hn
  obtain ⟨e, hends, hstate⟩ := hsplit unreadRecord (pairState_splitting n) (by rw [recVerdict_bad _ _ _ rfl]; decide)
  have hrun : Ends (.twinSplit 0 unreadRecord 0) s (Dev.keep d y.settle) :=
    ends_of_effect (exec_twinSplit s 0 unreadRecord 0) rfl (Dev.split_unread (pairState_splitting n) rfl)
  have hsame : Dev.keep d e.settle = Dev.keep d y.settle := congrArg State.dev (Host.Outcome.next.inj (hends.symm.trans hrun))
  have hasleep : e.settle.pers = .sleep := by
    rw [← Dev.keep_pers d e.settle, hsame, Dev.keep_pers, y.settle_pers, hpers]
  have hzero : e.settle.reg (aTwinPstatus 0) = 0 := by
    have hfree : aTwinPstatus 0 ∉ lockables := by decide
    rw [← Dev.reg_keep_free d e.settle hfree, hsame, Dev.reg_keep_free d _ hfree, Dev.reg_settle_asleep hpers hwait, hreg]
  have hmark := Dev.mark_settle_asleep hasleep (Dev.mark_of_quarantined hstate)
  rw [Dev.getF, hzero] at hmark
  exact absurd hmark (by decide)

end Sys2Proof.Machine

/-! SUPPORT. A step on a queue that holds a command, and on one that is empty (log entry 2). -/

namespace Sys2Proof.Machine

/-- Settles O1: that is how a step reads its queue. -/
theorem stepRunsTheFrontCommand : Obligations.StepRunsTheFrontCommand := by
  unfold Obligations.StepRunsTheFrontCommand
  exact fun _ _ _ => rfl

theorem Dev.same_tick (d : Dev) (k : Kind) : Dev.Same d d.tick k := by
  cases k <;> simp [Dev.Same, Dev.tick]
  intro a; rfl

/-- RATE read as a signed number of 32 bits. -/
theorem sext_toNat (w : Word) : sext 32 w.toNat = w.toInt := by
  rw [sext, BitVec.toInt_eq_toNat_cond, Nat.mod_eq_of_lt w.isLt]
  by_cases h : w.toNat < 2 ^ 31
  · rw [if_pos h, if_pos (by omega)]
  · rw [if_neg (by simpa using h), if_neg (by omega)]

theorem Dev.tick_tb (d : Dev) : d.tick.tb = ((d.tb : Int) + 2 ^ 32 + (d.reg aCntTbRate).toInt).toNat % 2 ^ 96 := by
  have hreset : regReset aCntTbRate = 0 := by decide
  simp only [Dev.tick, sext_toNat, Dev.reg, hreset]

/-- An idle cycle in which no page access waits. -/
theorem Dev.idle_quiet {d : Dev} (hp : d.power = .on) (hw : d.waiting = []) : d.idle = Dev.keep d.tick d.tick := by
  have hs : d.tick.servePages = d.tick := by simp [Dev.servePages, Dev.tick, hw]
  rw [Dev.idle, if_pos hp, hs]

/-- Settles O2: an idle cycle is a tick of the time base, and the wrapper of effects changes nothing of a device that it is given twice. -/
theorem emptyQueueIdles : Obligations.EmptyQueueIdles := by
  unfold Obligations.EmptyQueueIdles
  intro d
  refine ⟨fun hp hw => ⟨d.idle, rfl, ?_⟩, fun hp => ?_⟩
  · have hkeep := Dev.frame_keep d.tick d.tick (Dev.Frame.refl d.tick [] fun _ => False) id id
    rw [Dev.idle_quiet hp hw]
    exact ⟨d.tick_tb, fun k => (d.same_tick k).trans (hkeep.same k (by simp)), fun a => hkeep.regs a id, rfl, rfl⟩
  · simp only [step, Dev.idle, if_neg hp]

end Sys2Proof.Machine

/-! SUPPORT. Saturating counters: single increments, sums from a clear on, and the one counter that a count changes (R471, R472). -/

namespace Sys2Proof.Machine

/-! ### One counter -/

theorem Counter.add_held {c : Counter} (h : c.ovf = true) (k : Nat) : c.add k = { val := 2 ^ 48 - 1, ovf := true } := by
  obtain ⟨v, o⟩ := c
  subst h
  rfl

theorem Counter.add_exact {c : Counter} (h : c.ovf = false) {k : Nat} (hk : c.val + k ≤ 2 ^ 48 - 1) :
    c.add k = { val := c.val + k, ovf := false } := by
  obtain ⟨v, o⟩ := c
  subst h
  exact (if_neg Bool.false_ne_true).trans (if_pos hk)

theorem Counter.add_past {c : Counter} (h : c.ovf = false) {k : Nat} (hk : 2 ^ 48 - 1 < c.val + k) :
    c.add k = { val := 2 ^ 48 - 1, ovf := true } := by
  exact (if_neg (ne_true_of_eq_false h)).trans (if_neg (Nat.not_le.mpr hk))

theorem Counter.val_add_le (c : Counter) (k : Nat) : (c.add k).val ≤ 2 ^ 48 - 1 := by
  cases h : c.ovf
  · rcases Nat.lt_or_ge (2 ^ 48 - 1) (c.val + k) with hk | hk
    · rw [Counter.add_past h hk]
    · rw [Counter.add_exact h hk]; exact hk
  · rw [Counter.add_held h]

theorem Counter.maxOf_held {c : Counter} (h : c.ovf = true) (k : Nat) : c.maxOf k = c := if_pos h

theorem Counter.maxOf_exact {c : Counter} (h : c.ovf = false) {k : Nat} (hk : k ≤ 2 ^ 48 - 1) :
    c.maxOf k = { val := max c.val k, ovf := false } := by
  obtain ⟨v, o⟩ := c
  subst h
  exact (if_neg Bool.false_ne_true).trans (if_pos hk)

theorem Counter.maxOf_past {c : Counter} (h : c.ovf = false) {k : Nat} (hk : 2 ^ 48 - 1 < k) :
    c.maxOf k = { val := 2 ^ 48 - 1, ovf := true } := by
  exact (if_neg (ne_true_of_eq_false h)).trans (if_neg (Nat.not_le.mpr hk))

theorem Counter.val_maxOf_le {c : Counter} (hc : c.val ≤ 2 ^ 48 - 1) (k : Nat) : (c.maxOf k).val ≤ 2 ^ 48 - 1 := by
  cases h : c.ovf
  · rcases Nat.lt_or_ge (2 ^ 48 - 1) k with hk | hk
    · rw [Counter.maxOf_past h hk]
    · rw [Counter.maxOf_exact h hk]; exact Nat.max_le.mpr ⟨hc, hk⟩
  · rw [Counter.maxOf_held h]; exact hc

/-! ### Many increments -/

/-- A counter that has overflowed holds. -/
theorem foldl_add_held (ks : List Nat) :
    ks.foldl Counter.add { val := 2 ^ 48 - 1, ovf := true } = { val := 2 ^ 48 - 1, ovf := true } := by
  induction ks with
  | nil => rfl
  | cons k ks ih => rw [List.foldl_cons, Counter.add_held rfl, ih]

theorem foldl_maxOf_held (ks : List Nat) (c : Counter) (h : c.ovf = true) : ks.foldl Counter.maxOf c = c := by
  induction ks with
  | nil => rfl
  | cons k ks ih => rw [List.foldl_cons, Counter.maxOf_held h, ih]

/-- A counter after increments is its value and their sum, or has overflowed. -/
theorem foldl_add (ks : List Nat) (v : Nat) (hv : v ≤ 2 ^ 48 - 1) : ks.foldl Counter.add { val := v } =
    if v + ks.sum ≤ 2 ^ 48 - 1 then { val := v + ks.sum, ovf := false } else { val := 2 ^ 48 - 1, ovf := true } := by
  induction ks generalizing v with
  | nil => exact (if_pos hv).symm
  | cons k ks ih =>
    rw [List.foldl_cons, List.sum_cons, ← Nat.add_assoc]
    rcases Nat.lt_or_ge (2 ^ 48 - 1) (v + k) with hk | hk
    · rw [Counter.add_past rfl hk, foldl_add_held, if_neg (by omega)]
    · rw [Counter.add_exact rfl hk]
      exact ih _ hk

/-- A greatest value seen after values is the greatest of them, or has overflowed. -/
theorem foldl_maxOf (ks : List Nat) (v : Nat) : ks.foldl Counter.maxOf { val := v } =
    if ∀ k ∈ ks, k ≤ 2 ^ 48 - 1 then { val := ks.foldl max v, ovf := false } else { val := 2 ^ 48 - 1, ovf := true } := by
  induction ks generalizing v with
  | nil => simp
  | cons k ks ih =>
    rw [List.foldl_cons, List.foldl_cons]
    rcases Nat.lt_or_ge (2 ^ 48 - 1) k with hk | hk
    · rw [Counter.maxOf_past rfl hk, foldl_maxOf_held _ _ rfl, if_neg]
      exact fun h => absurd (h k (by simp)) (Nat.not_le.mpr hk)
    · rw [Counter.maxOf_exact rfl hk]
      refine (ih _).trans ?_
      simp only [List.forall_mem_cons, hk, true_and]

/-! ### The counters of the device -/

/-- An event changes no counter but the one of events lost of its instance (group 0x00, index 17). -/
theorem Dev.cnts_post (d : Dev) (k c a x : Nat) {key : Nat} (h : ¬ (k < 64 ∧ key = cntKey (0x80 + k) 17)) :
    (d.post k c a x).cnts.lookD key {} = d.cnts.lookD key {} := by
  unfold Dev.post
  simp only
  split
  · rfl
  · have hset : ∀ e : Dev, e.cnts = d.cnts → ∀ b : Bool, (b = true → k < 64) →
        (if b then { e with cnts := e.cnts.upd (cntKey (0x80 + k) 17) {} (·.add 1) } else e).cnts.lookD key {} = d.cnts.lookD key {} := by
      intro e he b hb
      cases b
      · simp [he]
      · simp only [if_true, Tab.upd, he]
        exact Tab.lookD_put_ne _ _ _ fun hk => h ⟨hb rfl, hk⟩
    have hraise : ∀ (e : Dev) (b : Bool) i, (if b then e.raise i else e).cnts = e.cnts := by
      intro e b i; cases b <;> rfl
    rw [hraise]
    refine hset (d.setPage k _) rfl _ fun hb => ?_
    exact of_decide_eq_true (Bool.and_eq_true_iff.mp hb).2

/-- A counter's change reaches the table at its own key; where the accounting event of R479 overflows a ring, also at the key of the
instance's lost events. -/
theorem Dev.cnts_cntUpd_look (d : Dev) (g i : Nat) (f : Counter → Counter) {key : Nat}
    (h : ¬ (0x40 ≤ g ∧ g < 0x80 ∧ i < 7 ∧ key = cntKey (g + 0x40) 17)) :
    (d.cntUpd g i f).cnts.lookD key {} = if key = cntKey g i then f (d.cnt g i) else d.cnts.lookD key {} := by
  have hput : (d.cnts.put (cntKey g i) (f (d.cnt g i))).lookD key {} =
      if key = cntKey g i then f (d.cnt g i) else d.cnts.lookD key {} := by
    simp only [Tab.lookD, Tab.look_put]
    split <;> rfl
  rw [← hput]
  unfold Dev.cntUpd
  simp only
  have hovf : ∀ (e : Dev) (b : Bool), (if b then
      (if (e.setB aCntOvfStat (ovfGroup g) true).getB aCntOvfIrq (ovfGroup g) then
        ((e.setB aCntOvfStat (ovfGroup g) true).raise .counter).logE 15 0 g 0 i else e.setB aCntOvfStat (ovfGroup g) true) else e).cnts
      = e.cnts := by
    intro e b
    cases b
    · rfl
    · simp only [if_true]; split <;> rfl
  split
  · rename_i hacct
    simp only [Bool.and_eq_true, decide_eq_true_eq, List.mem_cons, List.not_mem_nil, or_false] at hacct
    obtain ⟨⟨⟨⟨h1, h2⟩, h3⟩, -⟩, -⟩ := hacct
    rw [Dev.cnts_post _ _ _ _ _ (by omega), Dev.cnts_post, hovf]
    rintro ⟨-, hk⟩
    exact h ⟨h1, h2, by omega, by rw [hk]; congr 1; omega⟩
  · rw [hovf]

theorem Dev.cnt_cntUpd_self (d : Dev) (g i : Nat) (f : Counter → Counter) : (d.cntUpd g i f).cnt g i = f (d.cnt g i) := by
  rw [Dev.cnt, Dev.cnts_cntUpd_look, if_pos rfl]
  simp only [cntKey]
  omega

/-- An increment reaches the counter that it names, also where it counts an injected unit. -/
theorem Dev.cnt_count_self (d : Dev) (g i k : Nat) : (d.count g i k).cnt g i = (d.cnt g i).add k := by
  unfold Dev.count
  simp only
  split
  · rename_i ht
    have hg : g < 0x40 ∨ 0x80 ≤ g := by simp [twinGroup] at ht; omega
    rw [Dev.cnt, Dev.cnts_cntUpd_look _ _ _ _ (by omega), if_neg (by simp [cntKey])]
    exact d.cnt_cntUpd_self g i _
  · exact d.cnt_cntUpd_self g i _

/-- An increment of no injected unit leaves every other counter outside group 0x00. -/
theorem Dev.cnt_count_ne (d : Dev) {g i k h j : Nat} (hj : j < 4096) (hne : h * 4096 + j ≠ g * 4096 + i) (hh : h < 0x80 ∨ 0xC0 ≤ h)
    (hu : d.injUnit = false) : (d.count g i k).cnt h j = d.cnt h j := by
  have hu' : (d.cntUpd g i (·.add k)).injUnit = false := by
    rw [((d.frame_cntUpd g i _).same .faultInjection (by decide)).2, hu]
  unfold Dev.count
  simp only [hu', Bool.false_and, Bool.false_eq_true, if_false]
  rw [Dev.cnt, Dev.cnts_cntUpd_look, if_neg (by exact hne)]
  · rfl
  · rintro ⟨h1, h2, -, hk⟩
    simp only [cntKey] at hk
    omega

/-- Settles O7. -/
theorem countersSaturate : Obligations.CountersSaturate := by
  unfold Obligations.CountersSaturate
  refine ⟨fun c k _ => ⟨c.val_add_le k, (c.add_held · k), fun h => c.add_exact h, fun h => c.add_past h⟩, fun ks => ?_,
    fun c k hc => ⟨c.val_maxOf_le hc k, (c.maxOf_held · k), fun h => c.maxOf_exact h, fun h => c.maxOf_past h⟩, fun ks => foldl_maxOf ks 0,
    fun d g i k => ⟨d.cnt_count_self g i k, fun h j => d.cnt_count_ne⟩, fun d g i k => d.cnt_cntUpd_self g i _⟩
  simpa using foldl_add ks 0 (Nat.zero_le _)

end Sys2Proof.Machine

/-! SUPPORT. Reports and the ends of conditions: the outputs that they drive (R275 to R277). -/

namespace Sys2Proof.Machine

/-! ### The outputs -/

theorem Dev.getF_refreshCond (d : Dev) (code hi lo : Nat) : (d.refreshCond code).getF aSafeOut hi lo = d.getF aSafeOut hi lo :=
  congrArg (·.fld hi lo) (d.reg_setB_ne (b := aSafeOut) code _ (by decide))

theorem Dev.getF_refreshWarn (d : Dev) : d.refreshWarn.getF aSafeOut 5 4 = d.getF aSafeOut 5 4 :=
  d.getF_setF_ne aSafeOut 1 1 _ 5 4 (.inr (by decide))

/-- WARN_N is driven where it is not forced off and a pulse runs or a condition holds. -/
theorem Dev.refreshWarn_on {d : Dev} (hf : d.getF aSafeOut 5 4 ≠ 2) (h : d.warnEnd.isSome = true ∨
      ∃ p ∈ d.held, p.1 < 32 ∧ (d.cpbLost.isSome = true → hwSourced p.1 = true)) : d.refreshWarn.getB aSafeOut 1 = true := by
  have hw : (d.warnEnd.isSome || d.held.any fun p => decide (p.1 < 32) && (d.cpbLost.isNone || hwSourced p.1)) = true := by
    rw [Bool.or_eq_true, List.any_eq_true]
    refine h.imp id fun ⟨p, hp, hlt, hs⟩ => ⟨p, hp, ?_⟩
    cases hc : d.cpbLost <;> simp_all
  unfold Dev.refreshWarn
  simp only
  rw [Dev.getB_setB_self _ _ _ _ (by decide), hw]
  simp [hf]

/-- FAULT_N is driven where it is not forced off and a FAULT-class report is latched. -/
theorem Dev.driveFault_on {d : Dev} (hf : d.getF aSafeOut 5 4 ≠ 2) : d.driveFault.getB aSafeOut 0 = true := by
  unfold Dev.driveFault Dev.refreshFault
  have hf' : ({ d with faultLatched := true } : Dev).getF aSafeOut 5 4 ≠ 2 := hf
  simp only
  rw [Dev.getB_setB_self _ _ _ _ (by decide)]
  simp [hf']

theorem Dev.getB_refreshCond (d : Dev) {code : Nat} (hc : code < 32) :
    (d.refreshCond code).getB aSafeCond code = true ↔ ∃ p ∈ d.held, p.1 % 32 = code := by
  rw [Dev.refreshCond, Dev.getB_setB_self _ _ _ _ hc, List.any_eq_true]
  simp only [decide_eq_true_eq]

theorem Dev.getB_refreshWarn_cond (d : Dev) (i : Nat) : d.refreshWarn.getB aSafeCond i = d.getB aSafeCond i :=
  Dev.getB_of_reg (d.reg_setB_ne 1 _ (by decide)) i

theorem Dev.getB_driveFault_cond (d : Dev) (i : Nat) : d.driveFault.getB aSafeCond i = d.getB aSafeCond i :=
  Dev.getB_of_reg (({ d with faultLatched := true } : Dev).reg_setB_ne 0 _ (by decide)) i

theorem Dev.getB_driveFault_warn (d : Dev) : d.driveFault.getB aSafeOut 1 = d.getB aSafeOut 1 :=
  ({ d with faultLatched := true } : Dev).getB_setB_ne aSafeOut 0 1 _ (by decide)

/-! ### A report that CPB's loss does not silence -/

/-- A report as it is seen and logged, before it drives an output. -/
def Dev.reportLogged (d : Dev) (code subject detail : Nat) : Dev := (d.setB aSafeSeen code true).logE 1 code subject 0 detail

theorem Dev.getF_reportLogged (d : Dev) (code subject detail : Nat) :
    (d.reportLogged code subject detail).getF aSafeOut 5 4 = d.getF aSafeOut 5 4 :=
  congrArg (·.fld 5 4) (d.reg_setB_ne (b := aSafeOut) code true (by decide))

section
variable (d : Dev) {code : Nat} (subject detail : Nat) (hq : d.cpbLost.isSome = true → hwSourced code = true)
include hq

theorem Dev.not_silenced : ¬ (d.cpbLost.isSome && !hwSourced code) = true := by
  rw [Bool.and_eq_true, Bool.not_eq_true']
  exact fun h => absurd (hq h.1) (ne_true_of_eq_false h.2)

theorem Dev.report_of_pulse (hc : repClass code = .pulse) : d.report code subject detail =
    ({ d.reportLogged code subject detail with warnEnd := some (d.now + 1000000) } : Dev).refreshWarn := by
  simp only [Dev.report, Dev.reportAs, if_neg (d.not_silenced hq), hc]
  rfl

theorem Dev.report_of_held (hc : repClass code = .heldC) : d.report code subject detail =
    (({ d.reportLogged code subject detail with held := insertNew d.held (code, subject) } : Dev).refreshCond code).refreshWarn := by
  simp only [Dev.report, Dev.reportAs, if_neg (d.not_silenced hq), hc]
  rfl

theorem Dev.report_of_fault (hc : repClass code = .fault) : d.report code subject detail =
    ((({ d.reportLogged code subject detail with held := insertNew d.held (code + 32, subject) } : Dev).refreshCond
      code).refreshWarn).driveFault := by
  simp only [Dev.report, Dev.reportAs, if_neg (d.not_silenced hq), hc]
  rfl

/-- A report is seen, logged at the present time, and marks nothing but what its class drives. -/
theorem Dev.report_logged (hc : code < 32) : (d.report code subject detail).getB aSafeSeen code = true ∧
    (d.report code subject detail).log = (d.reportLogged code subject detail).log := by
  have hseen : (d.setB aSafeSeen code true).getB aSafeSeen code = true := d.getB_setB_self aSafeSeen code true hc
  have hwarn : ∀ e : Dev, e.refreshWarn.getB aSafeSeen code = e.getB aSafeSeen code := fun e =>
    Dev.getB_of_reg (e.reg_setB_ne 1 _ (by decide)) code
  have hcond : ∀ e : Dev, (e.refreshCond code).getB aSafeSeen code = e.getB aSafeSeen code := fun e =>
    Dev.getB_of_reg (e.reg_setB_ne code _ (by decide)) code
  have hfault : ∀ e : Dev, e.driveFault.getB aSafeSeen code = e.getB aSafeSeen code := fun e =>
    Dev.getB_of_reg (({ e with faultLatched := true } : Dev).reg_setB_ne 0 _ (by decide)) code
  cases hk : repClass code with
  | pulse => rw [d.report_of_pulse subject detail hq hk, hwarn]; exact ⟨hseen, rfl⟩
  | heldC => rw [d.report_of_held subject detail hq hk, hwarn, hcond]; exact ⟨hseen, rfl⟩
  | fault => rw [d.report_of_fault subject detail hq hk, hfault, hwarn, hcond]; exact ⟨hseen, rfl⟩

/-- A pulse of WARN_N for 1 ms. -/
theorem Dev.report_pulse (hc : repClass code = .pulse) : (d.report code subject detail).warnEnd = some (d.now + 1000000) ∧
    (d.getF aSafeOut 5 4 ≠ 2 → (d.report code subject detail).getB aSafeOut 1 = true) := by
  rw [d.report_of_pulse subject detail hq hc]
  refine ⟨rfl, fun hf => Dev.refreshWarn_on ?_ (.inl rfl)⟩
  exact (d.getF_reportLogged code subject detail).trans_ne hf

/-- A condition that holds, and drives WARN_N. -/
theorem Dev.report_held (hlt : code < 32) (hc : repClass code = .heldC) : (code, subject) ∈ (d.report code subject detail).held ∧
    (d.report code subject detail).getB aSafeCond code = true ∧
    (d.getF aSafeOut 5 4 ≠ 2 → (d.report code subject detail).getB aSafeOut 1 = true) := by
  have hin := mem_insertNew d.held (code, subject)
  rw [d.report_of_held subject detail hq hc]
  refine ⟨hin, ?_, fun hf => Dev.refreshWarn_on ?_ (.inr ⟨_, hin, hlt, hq⟩)⟩
  · rw [Dev.getB_refreshWarn_cond, Dev.getB_refreshCond _ hlt]
    exact ⟨_, hin, Nat.mod_eq_of_lt hlt⟩
  · rw [Dev.getF_refreshCond]
    exact (d.getF_reportLogged code subject detail).trans_ne hf

/-- A FAULT-class report drives FAULT_N and stays latched. -/
theorem Dev.report_latches (hlt : code < 32) (hc : repClass code = .fault) : (d.report code subject detail).faultLatched = true ∧
    (d.report code subject detail).getB aSafeCond code = true ∧
    (d.getF aSafeOut 5 4 ≠ 2 → (d.report code subject detail).getB aSafeOut 0 = true) := by
  have hin := mem_insertNew d.held (code + 32, subject)
  rw [d.report_of_fault subject detail hq hc]
  refine ⟨rfl, ?_, fun hf => Dev.driveFault_on ?_⟩
  · rw [Dev.getB_driveFault_cond, Dev.getB_refreshWarn_cond, Dev.getB_refreshCond _ hlt]
    exact ⟨_, hin, by simp [Nat.mod_eq_of_lt hlt]⟩
  · rw [Dev.getF_refreshWarn, Dev.getF_refreshCond]
    exact (d.getF_reportLogged code subject detail).trans_ne hf

/-! ### The end of a condition -/

theorem Dev.endCond_held (p : Nat × Nat) :
    p ∈ (d.endCond code subject).held ↔ p ∈ d.held ∧ ¬ (p.1 % 32 = code ∧ p.2 = subject) := by
  simp only [Dev.endCond, if_neg (d.not_silenced hq)]
  show p ∈ d.held.filter _ ↔ _
  simp only [List.mem_filter, Bool.not_eq_true', Bool.and_eq_false_imp, decide_eq_true_eq, decide_eq_false_iff_not, not_and]

/-- The bit of SAFE_COND stays while another subject's condition holds. -/
theorem Dev.endCond_cond (hlt : code < 32) :
    (d.endCond code subject).getB aSafeCond code = true ↔ ∃ p ∈ d.held, p.1 % 32 = code ∧ p.2 ≠ subject := by
  simp only [Dev.endCond, if_neg (d.not_silenced hq)]
  rw [Dev.getB_refreshWarn_cond, Dev.getB_refreshCond _ hlt]
  refine exists_congr fun p => ?_
  simp only [List.mem_filter, Bool.not_eq_true', Bool.and_eq_false_imp, decide_eq_true_eq, decide_eq_false_iff_not]
  exact ⟨fun ⟨⟨hp, hn⟩, hm⟩ => ⟨hp, hm, hn hm⟩, fun ⟨hp, hm, hn⟩ => ⟨⟨hp, fun _ => hn⟩, hm⟩⟩

end

/-- Settles O8, class by class. -/
theorem reportsAndConditions : Obligations.ReportsAndConditions := by
  unfold Obligations.ReportsAndConditions
  refine ⟨fun d code subject detail _ hle hq => ?_, fun d code subject _ hle hq => ?_⟩
  · have hlt : code < 32 := by omega
    obtain ⟨hseen, hlog⟩ := d.report_logged subject detail hq hlt
    exact ⟨hseen, ⟨_, hlog⟩, d.report_pulse subject detail hq, d.report_held subject detail hq hlt,
      d.report_latches subject detail hq hlt, d.frame_report code subject detail⟩
  · exact ⟨d.endCond_held subject hq, d.endCond_cond subject hq (by omega), d.frame_endCond code subject⟩

end Sys2Proof.Machine

/-! SUPPORT. The address map in numbers: which byte an interleaved and a stack-local address name (R283). -/

namespace Sys2Proof.Machine

theorem Dev.ilvBit_eq (d : Dev) {g : Nat} (hg : g < 36) :
    d.ilvBit g = if g < 32 then d.getB aBwrIlvLo g else d.getB aBwrIlvHi (g - 32) := by
  unfold Dev.ilvBit
  rw [if_pos hg]

/-- An interleaved address names a byte where its granule is interleaved. -/
theorem Dev.phys_interleaved (d : Dev) {x : Nat} (hx : x < 144 * 2 ^ 30) : d.phys (0x5000000000 + x) =
    if d.ilvBit (x / (4 * 2 ^ 30)) = true then some (x / 4096 % 4 * (36 * 2 ^ 30) + (x / 16384 * 4096 + x % 4096)) else none := by
  have h1 : ¬ 0x5000000000 + x < 4 * gib36 := by simp only [gib36]; omega
  have h2 : ¬ (0x4000000000 ≤ 0x5000000000 + x ∧ 0x5000000000 + x < 0x4010000000) := by omega
  have h3 : 0x5000000000 ≤ 0x5000000000 + x ∧ 0x5000000000 + x < 0x5000000000 + 4 * gib36 := by simp only [gib36]; omega
  unfold Dev.phys
  rw [if_neg h1, if_neg h2, if_pos h3]
  simp only [Nat.add_sub_cancel_left]
  rfl

/-- A stack-local address names its own byte where its granule is not interleaved. -/
theorem Dev.phys_local (d : Dev) {n x : Nat} (hn : n < 4) (hx : x < 36 * 2 ^ 30) : d.phys (n * (36 * 2 ^ 30) + x) =
    if d.ilvBit (x / 2 ^ 30) = true then none else some (n * (36 * 2 ^ 30) + x) := by
  have h1 : n * (36 * 2 ^ 30) + x < 4 * gib36 := by simp only [gib36]; omega
  have h2 : (n * (36 * 2 ^ 30) + x) % gib36 = x := by rw [Nat.mul_comm]; exact (Nat.mul_add_mod gib36 n x).trans (Nat.mod_eq_of_lt hx)
  unfold Dev.phys
  rw [if_pos h1, h2]

/-- Settles O9. -/
theorem memoryIsKept : Obligations.MemoryIsKept := by
  unfold Obligations.MemoryIsKept
  refine ⟨fun d hl => ⟨fun a bs i hi hp => d.rd8_wrN_in a bs i hl hi hp, fun a bs x hx => d.rd8_wrN_out a bs x hl hx,
      fun a n x => d.rd8_zero a n x hl, fun a bs => d.frame_wrN a bs hl, fun a n => d.frame_zero a n hl⟩,
    fun d => ⟨fun g hg => d.ilvBit_eq hg, fun x hx => d.phys_interleaved hx, fun n x hn hx => d.phys_local hn hx,
      fun x g _ => by omega, fun a b k => d.phys_inj⟩,
    fun d a n bs hw => ⟨d.wf_wrN a bs hw, d.wf_zero a n hw⟩⟩

end Sys2Proof.Machine

/-! SUPPORT. The watchdogs and the error-reporting registers (R273 to R277). -/

namespace Sys2Proof.Machine

/-! ### A pair whose watchdog runs out (R273, R274) -/

theorem Dev.loseCpa_lost {d : Dev} (h : d.cpaLost = none) :
    d.loseCpa.cpaLost = some d.now ∧ d.loseCpa.faultLatched = true ∧ d.loseCpa.getB aSafeSeen 14 = true := by
  have hw : hwSourced 14 = true := by decide
  have he : d.loseCpa = { d.report 14 0 with cpaLost := some d.now } := by simp [Dev.loseCpa, h]
  obtain ⟨hlatched, -, -⟩ := d.report_latches 0 0 (fun _ => hw) (by decide) (by decide)
  obtain ⟨hseen, -⟩ := d.report_logged 0 0 (fun _ => hw) (code := 14) (by decide)
  rw [he]
  exact ⟨rfl, hlatched, hseen⟩

theorem Dev.loseCpb_lost {d : Dev} (h : d.cpbLost = none) :
    d.loseCpb.cpbLost = some d.now ∧ d.loseCpb.faultLatched = true ∧ d.loseCpb.getB aSafeSeen 15 = true := by
  have hw : hwSourced 15 = true := by decide
  have he : d.loseCpb = ({ d.report 15 0 with cpbLost := some d.now } : Dev).refreshWarn := by simp [Dev.loseCpb, h]
  obtain ⟨hlatched, -, -⟩ := d.report_latches 0 0 (fun _ => hw) (by decide) (by decide)
  obtain ⟨hseen, -⟩ := d.report_logged 0 0 (fun _ => hw) (code := 15) (by decide)
  have hwarn : ∀ e : Dev, e.refreshWarn.reg aSafeSeen = e.reg aSafeSeen := fun e => e.reg_setB_ne 1 _ (by decide)
  rw [he]
  exact ⟨rfl, hlatched, (Dev.getB_of_reg (hwarn _) 15).trans hseen⟩

/-! ### Kicks, reports and the lock (R277) -/

theorem Dev.kick_cpa {d : Dev} {v : Word} (h : d.cpaLost = none) (h0 : v.bit 0 = true) (h1 : v.bit 1 = false) :
    d.kick .cpa v = { d with kickA := d.now } := by
  simp [Dev.kick, h, h0, h1]

theorem Dev.kick_cpb {d : Dev} {v : Word} (h : d.cpbLost = none) (h0 : v.bit 0 = false) (h1 : v.bit 1 = true) :
    d.kick .cpb v = ({ d with kickB := d.now } : Dev).setB aSafeOut 2 (!d.getB aSafeOut 2) := by
  simp [Dev.kick, h, h0, h1]

/-- A kick of another master than the pair it is for is logged. -/
theorem Dev.kick_other (d : Dev) {m : Master} {v : Word} (h : m ≠ .cpa ∧ v.bit 0 = true ∧ v.bit 1 = false ∨
      m ≠ .cpb ∧ v.bit 0 = false ∧ v.bit 1 = true) : d.kick m v = d.noEffect (d.masterNo m) aSafeKick v := by
  obtain ⟨hm, h0, h1⟩ | ⟨hm, h0, h1⟩ := h
  · simp [Dev.kick, h0, h1, hm]
  · simp [Dev.kick, h0, h1, hm]

section
variable (d : Dev) {v : Word} (hc : cpbCode (v.fld 7 0) = true)
include hc

theorem Dev.safeReport_reports (hv : repClass (v.fld 7 0) = .heldC → v.bit 8 = true) :
    d.safeReport .cpb v = ({ d with freeCtr := d.freeCtr + 1 } : Dev).report (v.fld 7 0) (Config.freeNat d.freeCtr % 2 ^ 32) := by
  have hn : ¬ (repClass (v.fld 7 0) = .heldC && !v.bit 8) = true := by
    rw [Bool.and_eq_true, decide_eq_true_eq]
    exact fun h => by simp [hv h.1] at h
  simp only [Dev.safeReport, hc]
  rw [if_neg (by simp), if_neg hn]
  rfl

theorem Dev.safeReport_ends (hk : repClass (v.fld 7 0) = .heldC) (hv : v.bit 8 = false) :
    d.safeReport .cpb v = d.endCode (v.fld 7 0) := by
  simp only [Dev.safeReport, hc, hk, hv]
  rw [if_neg (by simp), if_pos (by simp)]

end

theorem Dev.safeReport_other (d : Dev) {m : Master} (hm : m ≠ .cpb) (v : Word) :
    d.safeReport m v = d.noEffect (d.masterNo m) aSafeReport v := if_pos (.inl hm)

theorem Dev.frame_lockSafeCfg (d : Dev) : (d.setB aSafeCfg 31 true).getB aSafeCfg 31 = true ∧
    Dev.Frame d (d.setB aSafeCfg 31 true) [] fun a => a = aSafeCfg :=
  ⟨d.getB_setB_self _ _ _ (by decide), d.frame_setB _ _ _ (by decide) (by decide)⟩

/-- Settles O42, row by row. -/
theorem watchdogsAndReports : Obligations.WatchdogsAndReports := by
  unfold Obligations.WatchdogsAndReports
  intro s t hp d
  refine ⟨fun hk hh hl => ⟨d.loseCpa, ends_of_effect (exec_wdtExpire s false t) hp ?_, Dev.loseCpa_lost hl⟩,
    fun hk hh hl => ⟨d.loseCpb, ends_of_effect (exec_wdtExpire s true t) hp ?_, Dev.loseCpb_lost hl⟩,
    fun hl => ends_of_effect (exec_safeWdtKick s .cpa 1 t) hp (Dev.kick_cpa hl (by decide) (by decide)),
    fun hl => ends_of_effect (exec_safeWdtKick s .cpb 2 t) hp (Dev.kick_cpb hl (by decide) (by decide)),
    fun m => ⟨fun hm => ends_of_effect (exec_safeWdtKick s m 1 t) hp (d.kick_other (.inl ⟨hm, by decide, by decide⟩)),
      fun hm => ends_of_effect (exec_safeWdtKick s m 2 t) hp (d.kick_other (.inr ⟨hm, by decide, by decide⟩))⟩,
    fun v hc hv => ⟨_, Nat.mod_lt _ (by decide), ends_of_effect (exec_safeReport s .cpb v t) hp (d.safeReport_reports hc hv)⟩,
    fun v hc hk hv => ends_of_effect (exec_safeReport s .cpb v t) hp (d.safeReport_ends hc hk hv),
    fun m v hm => ⟨ends_of_effect (exec_safeReport s m v t) hp (d.safeReport_other hm v),
      ends_of_effect (exec_safeCfgLock s m) hp (if_neg hm)⟩,
    ⟨_, ends_of_effect (exec_safeCfgLock s .cpb) hp (if_pos rfl), Dev.frame_lockSafeCfg _⟩,
    fun x hx hle => ends_of_effect (exec_warnPulseEnd s t) hp ?_⟩
  · exact (if_neg Bool.false_ne_true).trans (if_pos ⟨hk, Option.isNone_iff_eq_none.mpr hh⟩)
  · exact (if_pos rfl).trans (if_pos ⟨hk, Option.isNone_iff_eq_none.mpr hh⟩)
  · have hx' : (s.dev.advance t).warnEnd = some x := hx
    simp only [hx']
    exact if_pos hle

end Sys2Proof.Machine

/-! SUPPORT. The cut of reservations (R300). -/

namespace Sys2Proof.Machine

/-- What one kind's cut does: the factor is at most 1, it is below 1 only where something is over, what stays over finds the kind cut to
nothing, and what the factor leaves of the kind is what was there less what was taken off the excess. -/
theorem cutStep_spec (x : Int) (r : Nat) :
    (cutStep x r).1 ≤ 65536 ∧ ((cutStep x r).1 < 65536 → 0 < x) ∧ (x ≤ 0 → (cutStep x r).2 = x) ∧
    (0 < (cutStep x r).2 → (r = 0 ∨ (cutStep x r).1 = 0) ∧ (cutStep x r).2 = x - r) ∧
    ((r * (cutStep x r).1 : Nat) : Int) ≤ r * 65536 - (x - (cutStep x r).2) * 65536 := by
  unfold cutStep
  by_cases h1 : x ≤ 0 ∨ r = 0
  · rw [if_pos h1]
    refine ⟨Nat.le_refl _, fun h => absurd h (Nat.lt_irrefl _), fun _ => rfl, fun hx => ?_, by push_cast; omega⟩
    have hr : r = 0 := h1.resolve_left (Int.not_le.mpr hx)
    exact ⟨.inl hr, by simp [hr]⟩
  · rw [if_neg h1]
    obtain ⟨hx, hr⟩ := not_or.mp h1
    by_cases h2 : (r : Int) ≤ x
    · rw [if_pos h2]
      exact ⟨Nat.zero_le _, fun _ => by omega, fun h => absurd h hx, fun _ => ⟨.inr rfl, rfl⟩, by simp⟩
    · rw [if_neg h2]
      have hle : r * (((r : Int) - x).toNat * 65536 / r) ≤ ((r : Int) - x).toNat * 65536 := Nat.mul_div_le _ _
      dsimp only
      refine ⟨?_, fun _ => by omega, fun h => absurd h hx, fun h => absurd h (by simp), by omega⟩
      exact Nat.div_le_of_le_mul (Nat.mul_le_mul_right 65536 (by omega))

/-- Settles O44: the excess is taken from one kind after another, and each step's account adds up. -/
theorem theCutKeepsToTheFigure : Obligations.TheCutKeepsToTheFigure := by
  unfold Obligations.TheCutKeepsToTheFigure
  intro safety display cock best lease fig c
  generalize hx : ((safety + display + cock + best + lease : Nat) : Int) - (fig : Int) = x
  obtain ⟨l1, l2, l3, l4, l5⟩ := cutStep_spec x lease
  obtain ⟨b1, b2, b3, b4, b5⟩ := cutStep_spec (cutStep x lease).2 best
  obtain ⟨k1, k2, k3, k4, k5⟩ := cutStep_spec (cutStep (cutStep x lease).2 best).2 cock
  have hlease : c.lease = (cutStep x lease).1 := by rw [← hx]; rfl
  have hbest : c.best = (cutStep (cutStep x lease).2 best).1 := by rw [← hx]; rfl
  have hcock : c.cock = (cutStep (cutStep (cutStep x lease).2 best).2 cock).1 := by rw [← hx]; rfl
  rw [← hlease] at l1 l2 l4 l5
  rw [← hbest] at b1 b2 b4 b5
  rw [← hcock] at k1 k2 k4 k5
  refine ⟨l1, b1, k1, fun h => (l4 (b2 h)).1, fun h => ?_, fun h => ?_, fun h => ?_⟩
  · have hb := k2 h
    exact ⟨(l4 (by omega)).1, (b4 hb).1⟩
  · omega
  · generalize lease * c.lease = pl at l5 ⊢
    generalize best * c.best = pb at b5 ⊢
    generalize cock * c.cock = pk at k5 ⊢
    omega

end Sys2Proof.Machine

/-! SUPPORT. The interleave mask over memory in use (R283, R284). -/

namespace Sys2Proof.Machine

/-- The reset device with one byte in granule 1 of stack 0, which no ownership entry covers. -/
def inGranule1 : Dev := { Dev.reset with mem := [(2 ^ 30, 1)] }

/-- Refutes O45, in its clause on the interleave mask, whose frame leaves memory out: with the bit of an unowned granule written 1, the
byte at a stack-local address of the granule becomes unreachable there (R283), and no longer reads as it did. -/
theorem not_bandwidthIsRegulated : ¬ Obligations.BandwidthIsRegulated := by
  unfold Obligations.BandwidthIsRegulated
  intro h
  obtain ⟨-, -, -, -, -, hmask⟩ := h { dev := inGranule1, pending := [] } 0 rfl
  obtain ⟨e, -, -, hfree, hframe⟩ := hmask false 2
  have hbit : e.ilvBit 1 = true := (hfree 1 (by decide) rfl (by decide)).trans (by decide)
  have hgone : e.rd8 (2 ^ 30) = 0 := by
    refine Dev.rd8_nowhere ?_
    rw [show 2 ^ 30 = 0 * (36 * 2 ^ 30) + 2 ^ 30 from rfl, Dev.phys_local e (by decide) (by decide)]
    exact if_pos hbit
  have hkept : e.rd8 (2 ^ 30) = (inGranule1.advance 0).rd8 (2 ^ 30) := (hframe.same .memory (by decide)).1 _
  exact absurd (hgone.symm.trans hkept) (by decide)

end Sys2Proof.Machine

/-! SUPPORT. Isolation of stores: which bytes a store of a core, with the dirty logs it is recorded in, can change (R286, R391). -/

namespace Sys2Proof.Machine

/-! ### Ownership inside a page of 4 KiB -/

/-- The page in its stack of an offset in the interleaved window. -/
theorem ilv_page (u : Nat) : (u / 4096 % 4 * gib36 + (u / 16384 * 4096 + u % 4096)) / 4096 = u / 4096 % 4 * 9437184 + u / 4096 / 4 := by
  have h : u / 16384 = u / 4096 / 4 := by rw [Nat.div_div_eq_div_mul]
  rw [h]
  simp only [gib36]
  omega

theorem Dev.phys_page (d : Dev) {x y k j : Nat} (h : x / 4096 = y / 4096) (hx : d.phys x = some k) (hy : d.phys y = some j) :
    k / 4096 = j / 4096 := by
  have h1 : x < 4 * gib36 ↔ y < 4 * gib36 := by simp only [gib36]; omega
  have h3 : (0x4000000000 ≤ x ∧ x < 0x4010000000) ↔ (0x4000000000 ≤ y ∧ y < 0x4010000000) := by omega
  have h5 : (x - 0x5000000000) / 4096 = (y - 0x5000000000) / 4096 := by omega
  unfold Dev.phys at hx hy
  simp only [h1, h3] at hx hy
  split at hx
  · rename_i hlo
    rw [if_pos hlo] at hy
    split at hx <;> split at hy <;> simp_all
  · rename_i hlo
    rw [if_neg hlo] at hy
    split at hx
    · rename_i hms
      rw [if_pos hms] at hy
      simp_all
    · rename_i hms
      rw [if_neg hms] at hy
      split at hx
      · split at hy
        · split at hx
          · split at hy
            · simp only [Option.some.injEq] at hx hy
              rw [← hx, ← hy, ilv_page, ilv_page, h5]
            · exact absurd hy (by simp)
          · exact absurd hx (by simp)
        · exact absurd hy (by simp)
      · exact absurd hx (by simp)

theorem Dev.ownOf_page (d : Dev) {k j : Nat} (h : k / 4096 = j / 4096) : d.ownOf k = d.ownOf j ∧ isDram k = isDram j := by
  have h1 : k / gib36 = j / gib36 := by simp only [gib36]; omega
  have h2 : k % gib36 / 0x200000 = j % gib36 / 0x200000 := by simp only [gib36]; omega
  have h3 : k < 4 * gib36 ↔ j < 4 * gib36 := by simp only [gib36]; omega
  exact ⟨by simp only [Dev.ownOf, stackOf, h1, h2], by simp only [isDram, h3]⟩

/-- Where the checks pass a range, the ownership entry of each of its bytes passes. -/
theorem Dev.owned_of_accBad (d : Dev) {pt inst a n x : Nat} (h : d.accBad pt inst a n = none) (hx : a ≤ x) (hn : x < a + n) :
    ∃ k, d.phys x = some k ∧ isDram k = true ∧ ownPasses (d.ownOf k) pt inst = true := by
  obtain ⟨i, rfl⟩ := Nat.exists_eq_add_of_le hx
  have hi : i < n := by omega
  obtain ⟨k, hk⟩ := Option.isSome_iff_exists.mp (d.phys_of_accBad h hi)
  have hok : d.accOk pt inst (max a ((a + i) / 4096 * 4096)) = true := by
    have := List.find?_eq_none.mp h _ (pageStart_mem hi)
    simpa using this
  refine ⟨k, hk, ?_⟩
  unfold Dev.accOk at hok
  split at hok
  · rename_i j hj
    simp only [Bool.and_eq_true] at hok
    obtain ⟨⟨hdram, -⟩, hown⟩ := hok
    obtain ⟨ho, hd⟩ := d.ownOf_page (d.phys_page (by omega) hk hj)
    exact ⟨hd.trans hdram, by rw [ho]; exact hown⟩
  · exact absurd hok (by simp)

/-! ### Dirty logs -/

/-- The dirty logs of two devices lie at the same places. -/
def Dev.SameMaps (d e : Dev) : Prop :=
  ∀ j, (e.page j).dl.base0 = (d.page j).dl.base0 ∧ (e.page j).dl.base1 = (d.page j).dl.base1 ∧ (e.page j).dl.len = (d.page j).dl.len

theorem Dev.sameMaps_of_pages {d e : Dev} (h : e.pages = d.pages) : Dev.SameMaps d e := by
  intro j
  simp only [Dev.page, h, and_self]

theorem Dev.SameMaps.trans {d e f : Dev} (h : Dev.SameMaps d e) (g : Dev.SameMaps e f) : Dev.SameMaps d f := by
  intro j
  obtain ⟨h1, h2, h3⟩ := h j
  obtain ⟨g1, g2, g3⟩ := g j
  exact ⟨g1.trans h1, g2.trans h2, g3.trans h3⟩

theorem Dev.SameMaps.inMaps {d e : Dev} (h : Dev.SameMaps d e) (j x : Nat) : (e.page j).dl.inMaps x = (d.page j).dl.inMaps x := by
  obtain ⟨h1, h2, h3⟩ := h j
  simp only [DirtyLog.inMaps, h1, h2, h3]

theorem Dev.wr8_pages (d : Dev) (a : Nat) (b : Byte) : (d.wr8 a b).pages = d.pages := by
  unfold Dev.wr8
  split
  · split <;> rfl
  · rfl

theorem Dev.wrRaw_pages (bs : List Byte) (d : Dev) (a : Nat) : (d.wrRaw a bs).pages = d.pages := by
  induction bs generalizing d a with
  | nil => rfl
  | cons b t ih => rw [Dev.wrRaw, ih, Dev.wr8_pages]

theorem Dev.uncache_pages (d : Dev) (a n : Nat) : (d.uncache a n).pages = d.pages := by
  obtain ⟨r, l, e⟩ := d.uncache_eq a n
  rw [e]

theorem Dev.unpoison_pages (d : Dev) (a n : Nat) : (d.unpoison a n).pages = d.pages := by
  obtain ⟨p, e⟩ := d.unpoison_eq a n
  rw [e]

/-- The byte of a bitmap that holds the bit of a window offset lies in the bitmap. -/
theorem DirtyLog.inMaps_bit (l : DirtyLog) {off : Nat} (h : off / 0x200000 < l.len) : l.inMaps (l.base + off / 4096 / 8) = true := by
  have hlt : off / 4096 / 8 < l.len * 64 := by omega
  unfold DirtyLog.inMaps DirtyLog.base
  cases l.active1 <;> simp [hlt]

/-- Marking a page changes no byte outside the bitmaps of the instance's log, and moves no log. -/
theorem Dev.markDirty_maps (d : Dev) (j a : Nat) : Dev.SameMaps d (d.markDirty j a) ∧
    ∀ x, (d.page j).dl.inMaps x = false → (d.markDirty j a).rd8 x = d.rd8 x := by
  unfold Dev.markDirty
  simp only
  split
  · exact ⟨Dev.sameMaps_of_pages rfl, fun _ _ => rfl⟩
  · split
    · exact ⟨Dev.sameMaps_of_pages rfl, fun _ _ => rfl⟩
    · rename_i off _
      split
      · rename_i hlen
        refine ⟨Dev.sameMaps_of_pages ((Dev.uncache_pages _ _ _).trans (Dev.wr8_pages _ _ _)), fun x hx => ?_⟩
        rw [Dev.rd8_uncache, Dev.rd8_wr8_ne]
        rintro rfl
        exact absurd (DirtyLog.inMaps_bit _ hlen) (ne_true_of_eq_false hx)
      · refine ⟨fun i => ?_, fun _ _ => rfl⟩
        by_cases hi : i = j
        · subst hi
          simp only [Dev.page, Tab.lookD_put_self, and_self]
        · simp only [Dev.page, Tab.lookD_put_ne _ _ _ hi, and_self]

/-- A byte outside the bitmaps of the listed logs, over devices whose logs lie where those of `d` do. -/
theorem Dev.logDirty_maps (d : Dev) (a n x : Nat) (h : ∀ j ∈ d.loggers, (d.page j).dl.inMaps x = false) :
    (d.logDirty a n).rd8 x = d.rd8 x := by
  have hmarks : ∀ j, (d.page j).dl.inMaps x = false → ∀ (f : Nat → Nat) m e, Dev.SameMaps d e ∧ e.rd8 x = d.rd8 x →
      Dev.SameMaps d (forUpTo m (fun k e => e.markDirty j (f k)) e) ∧ (forUpTo m (fun k e => e.markDirty j (f k)) e).rd8 x = d.rd8 x := by
    intro j hj f m e he
    refine forUpTo_keeps (fun e => Dev.SameMaps d e ∧ e.rd8 x = d.rd8 x) _ (fun k e he => ?_) m e he
    obtain ⟨hmaps, hbyte⟩ := he
    obtain ⟨hsame, hkeep⟩ := e.markDirty_maps j (f k)
    exact ⟨hmaps.trans hsame, (hkeep x ((hmaps.inMaps j x).trans hj)).trans hbyte⟩
  have hlogs : ∀ (l : List Nat), (∀ j ∈ l, (d.page j).dl.inMaps x = false) → ∀ (f : Nat → Nat) m e, Dev.SameMaps d e ∧ e.rd8 x = d.rd8 x →
      (forEach l (fun j e => forUpTo m (fun k e => e.markDirty j (f k)) e) e).rd8 x = d.rd8 x := by
    intro l
    induction l with
    | nil => exact fun _ _ _ e he => he.2
    | cons j l ih => exact fun hl f m e he => ih (fun i hi => hl i (by simp [hi])) f m _ (hmarks j (hl j (by simp)) f m e he)
  unfold Dev.logDirty
  split
  · rfl
  · exact hlogs _ h (fun k => max a ((a / 4096 + k) * 4096)) _ d ⟨Dev.sameMaps_of_pages rfl, rfl⟩

/-- A write changes a byte only inside its range, or in a bitmap of a dirty log that runs. -/
theorem Dev.rd8_wrN_maps (d : Dev) (a : Nat) (bs : List Byte) (x : Nat) (hx : x < a ∨ a + bs.length ≤ x)
    (h : ∀ j ∈ d.loggers, (d.page j).dl.inMaps x = false) : (d.wrN a bs).rd8 x = d.rd8 x := by
  have hpages : (((d.wrRaw a bs).unpoison a bs.length).uncache a bs.length).pages = d.pages :=
    (Dev.uncache_pages _ _ _).trans ((Dev.unpoison_pages _ _ _).trans (Dev.wrRaw_pages _ _ _))
  have hloggers : (((d.wrRaw a bs).unpoison a bs.length).uncache a bs.length).loggers = d.loggers := by simp only [Dev.loggers, hpages]
  unfold Dev.wrN
  rw [Dev.logDirty_maps, Dev.rd8_uncache, Dev.rd8_unpoison, Dev.rd8_wrRaw_out _ _ _ _ hx]
  rw [hloggers]
  exact fun j hj => ((Dev.sameMaps_of_pages hpages).inMaps j x).trans (h j hj)

/-- A store of a core changes no byte, or it passes the checks and is a write with its traffic. -/
theorem Dev.rd8_coreMem (d : Dev) (core a n : Nat) (data : List Byte) (x : Nat) :
    (d.coreMem core true a n data).rd8 x = d.rd8 x ∨
    ∃ i, d.coreInst core = some i ∧ d.accBad (d.inst i).pt i a n = none ∧
      (d.coreMem core true a n data).rd8 x = (d.wrN a (data.take n)).rd8 x := by
  have htry : d.coreMem core true a n data = d.coreTry core true a n data := by
    unfold Dev.coreMem
    simp only
    split <;> rfl
  rw [htry]
  unfold Dev.coreTry
  simp only
  split
  · exact .inl rfl
  · split
    · exact .inl (((d.frame_refuse _ _ _).same .memory (by decide)).1 x)
    · rename_i hbad
      split
      · exact .inl rfl
      · split
        · exact .inl rfl
        · refine .inr ?_
          cases hi : d.coreInst core with
          | none => simp [hi] at hbad
          | some i =>
            simp only [hi] at hbad
            exact ⟨i, rfl, hbad, by rw [Dev.rd8_traffic]; rfl⟩

/-- Settles O60: a byte that changes lies in the range that the checks passed, or in a bitmap. -/
theorem storesStayInOwnedMemory : Obligations.StoresStayInOwnedMemory := by
  unfold Obligations.StoresStayInOwnedMemory
  intro d core a n data x hne
  obtain hsame | ⟨i, hi, hbad, hwr⟩ := d.rd8_coreMem core a n data x
  · exact absurd hsame hne
  · by_cases hin : a ≤ x ∧ x < a + n
    · obtain ⟨k, hk, hdram, hown⟩ := d.owned_of_accBad hbad hin.1 hin.2
      exact .inl ⟨i, k, hi, hk, hdram, hown⟩
    · refine .inr ?_
      by_contra hno
      refine hne (hwr.trans (d.rd8_wrN_maps a _ x ?_ fun j hj => ?_))
      · have := List.length_take_le n data
        omega
      · exact Bool.eq_false_iff.mpr fun hm => hno ⟨j, hj, hm⟩

end Sys2Proof.Machine

/-! SUPPORT. Rows written one after another (R315). -/

namespace Sys2Proof.Machine

/-! ### A write where no dirty log runs -/

theorem Dev.loggers_of_frame {d e : Dev} {ks : List Kind} {rs : Nat → Prop} (h : Dev.Frame d e ks rs) (hk : .pages ∉ ks) :
    e.loggers = d.loggers := by
  have : e.pages = d.pages := h.same .pages hk
  simp only [Dev.loggers, this]

theorem cbRegs_ilv : ¬ cbRegs aBwrIlvLo ∧ ¬ cbRegs aBwrIlvHi :=
  ⟨fun ⟨e, h⟩ => cb_ne_ilvLo e h.symm, fun ⟨e, h⟩ => cb_ne_ilvHi e h.symm⟩

theorem Dev.phys_of_frame {d e : Dev} {ks : List Kind} {rs : Nat → Prop} (h : Dev.Frame d e ks rs) (hl : ¬ rs aBwrIlvLo)
    (hh : ¬ rs aBwrIlvHi) (a : Nat) : e.phys a = d.phys a := Dev.phys_congr (h.regs _ hl) (h.regs _ hh) a

/-! ### Rows -/

/-- Rows of bytes written at their places, in the order of the list. -/
def Dev.wrRows (d : Dev) (dst : Nat → Nat) (row : Nat → List Byte) (l : List Nat) : Dev := forEach l (fun r d => d.wrN (dst r) (row r)) d

section
variable {d : Dev} {dst : Nat → Nat} {row : Nat → List Byte} {l : List Nat}

theorem Dev.frame_wrRows (h : d.loggers = []) : Dev.Frame d (d.wrRows dst row l) [.memory, .residency] cbRegs := by
  induction l generalizing d with
  | nil => exact .refl d _ _
  | cons r l ih =>
    have hf := d.frame_wrN (dst r) (row r) h
    exact hf.trans (ih ((Dev.loggers_of_frame hf (by decide)).trans h))

/-- A byte outside the rows. -/
theorem Dev.rd8_wrRows_out (h : d.loggers = []) {a : Nat} (ha : ∀ r ∈ l, a < dst r ∨ dst r + (row r).length ≤ a) :
    (d.wrRows dst row l).rd8 a = d.rd8 a := by
  induction l generalizing d with
  | nil => rfl
  | cons r l ih =>
    have hf := d.frame_wrN (dst r) (row r) h
    exact (ih ((Dev.loggers_of_frame hf (by decide)).trans h) fun k hk => ha k (by simp [hk])).trans
      (d.rd8_wrN_out (dst r) (row r) a h (ha r (by simp)))

/-- A byte of a row that meets no other. -/
theorem Dev.rd8_wrRows_in (h : d.loggers = []) (hl : l.Nodup) {r i : Nat} (hr : r ∈ l) (hi : i < (row r).length)
    (hp : (d.phys (dst r + i)).isSome = true)
    (hd : ∀ k ∈ l, k ≠ r → dst r + i < dst k ∨ dst k + (row k).length ≤ dst r + i) :
    (d.wrRows dst row l).rd8 (dst r + i) = (row r)[i] := by
  induction l generalizing d with
  | nil => exact absurd hr List.not_mem_nil
  | cons k l ih =>
    obtain ⟨hk, hl⟩ := List.nodup_cons.mp hl
    have hf := d.frame_wrN (dst k) (row k) h
    have hlog := (Dev.loggers_of_frame hf (by decide)).trans h
    by_cases hkr : r = k
    · subst hkr
      exact (Dev.rd8_wrRows_out hlog fun k' hk' => hd k' (by simp [hk']) fun e => hk (e ▸ hk')).trans
        (d.rd8_wrN_in (dst r) (row r) i h hi hp)
    · refine ih hlog hl ((List.mem_cons.mp hr).resolve_left hkr) ?_ fun k' hk' => hd k' (by simp [hk'])
      rw [Dev.phys_of_frame hf cbRegs_ilv.1 cbRegs_ilv.2]
      exact hp

end

theorem Dev.length_rdN (d : Dev) (a n : Nat) : (d.rdN a n).length = n := by simp [Dev.rdN]

theorem Dev.getElem_rdN (d : Dev) (a n i : Nat) (h : i < (d.rdN a n).length) : (d.rdN a n)[i] = d.rd8 (a + i) := by simp [Dev.rdN]

/-- COPY reads every row before it writes the first. -/
theorem Dev.copyRun_eq (d : Dev) (c : Cmd) : d.copyRun c = d.wrRows (fun r => (c.region 1).base + r * (c.p 4).toNat)
    (fun r => d.rdN ((c.region 0).base + r * (c.p 3).toNat) ((c.p 2).fld 23 0)) (List.range ((c.p 1).fld 19 0)) := by
  have hz : ∀ (f : Nat → List Byte) n, ((List.range n).map f).zipIdx = (List.range n).map fun r => (f r, r) := fun f n => by
    refine List.ext_getElem (by simp) fun i h1 h2 => ?_
    simp
  unfold Dev.copyRun Dev.wrRows forEach
  simp only [hz, List.foldl_map]

/-- Settles O32: rows that do not meet are written one after another, each with what was read before. -/
theorem copyMovesRows : Obligations.CopyMovesRows := by
  unfold Obligations.CopyMovesRows
  intro d c hlog n len src dst hmeet
  rw [d.copyRun_eq c]
  refine ⟨fun r i hr hi hp => ?_, fun a ha => ?_, Dev.frame_wrRows hlog⟩
  · refine (Dev.rd8_wrRows_in (dst := dst) (row := fun r => d.rdN (src r) len) hlog List.nodup_range (List.mem_range.mpr hr)
      (by rw [Dev.length_rdN]; exact hi) hp fun k hk hkr => ?_).trans (Dev.getElem_rdN _ _ _ _ _)
    have := hmeet r k hr (List.mem_range.mp hk) (Ne.symm hkr)
    rw [Dev.length_rdN]
    omega
  · refine Dev.rd8_wrRows_out (dst := dst) (row := fun r => d.rdN (src r) len) hlog fun r hr => ?_
    rw [Dev.length_rdN]
    exact ha r (List.mem_range.mp hr)

end Sys2Proof.Machine

/-! SUPPORT. DMA channels: their registers, what a burst and a write-back leave, and their rows (R305 to R318). -/

namespace Sys2Proof.Machine

/-! ### Writes of memory that dirty logs may record -/

theorem Dev.reg_markDirty (d : Dev) (n a : Nat) {b : Nat} (hb : ¬ cbRegs b) : (d.markDirty n a).reg b = d.reg b := by
  have hcb : ∀ e, aGxCbCtrl e ≠ b := fun e he => hb ⟨e, he.symm⟩
  unfold Dev.markDirty
  simp only
  split
  · rfl
  · split
    · rfl
    · split
      · rw [Dev.reg_uncache _ _ _ _ hcb, Dev.reg_congr (Dev.wr8_regs _ _ _)]
      · rfl

theorem Dev.reg_logDirty (d : Dev) (a n : Nat) {b : Nat} (hb : ¬ cbRegs b) : (d.logDirty a n).reg b = d.reg b := by
  unfold Dev.logDirty
  split
  · rfl
  · exact forEach_keeps (fun e => e.reg b = d.reg b) _
      (fun i e h => forUpTo_keeps (fun e => e.reg b = d.reg b) _ (fun k e h => (e.reg_markDirty i _ hb).trans h) _ e h) _ d rfl

/-- What a write of memory reaches besides bytes: residency, pages' dirty logs, and the registers of the codebook RAMs. -/
theorem Dev.WroteFrom.frame {d e : Dev} (h : Dev.WroteFrom d e) (hr : ∀ b, ¬ cbRegs b → e.reg b = d.reg b) :
    Dev.Frame d e [.memory, .residency, .pages] cbRegs := by
  obtain ⟨m, ms, p, r, l, pg, rfl⟩ := h
  refine ⟨?_, hr, rfl, rfl, Nat.le_refl _⟩
  intro q hq
  cases q <;> simp [Dev.Same] at hq ⊢

theorem Dev.frame_logDirty (d : Dev) (a n : Nat) : Dev.Frame d (d.logDirty a n) [.memory, .residency, .pages] cbRegs :=
  (d.logDirty_wrote a n).frame fun _ hb => d.reg_logDirty a n hb

/-- A write of memory, whether or not a dirty log runs. -/
theorem Dev.frame_wrN_logged (d : Dev) (a : Nat) (bs : List Byte) : Dev.Frame d (d.wrN a bs) [.memory, .residency, .pages] cbRegs := by
  have hput : Dev.Frame d (((d.wrRaw a bs).unpoison a bs.length).uncache a bs.length) [.memory, .residency] cbRegs :=
    ((Dev.frame_wrRaw bs d a).trans (Dev.frame_unpoison _ _ _)).trans (Dev.frame_uncache _ _ _)
  exact (hput.mono (by simp) fun _ h => h).trans (Dev.frame_logDirty _ _ _)

/-- Draws of free values. -/
theorem Dev.frame_freeCtr (d : Dev) (f : Nat) : Dev.Frame d { d with freeCtr := f } [] fun _ => False := by
  refine ⟨?_, fun _ _ => rfl, rfl, rfl, Nat.le_refl _⟩
  intro q hq
  cases q <;> simp [Dev.Same] at hq ⊢
  intro a; rfl

theorem Dev.frame_whey (d : Dev) (rs : List Region) : Dev.Frame d (d.whey rs) [.memory, .residency, .pages] cbRegs := by
  refine Dev.Frame.forEach rs _ (fun r _ d => ?_) d
  have hdraw : Dev.Frame d (d.freshBytes r.len).2 [.memory, .residency, .pages] cbRegs :=
    (d.frame_freeCtr _).mono (by simp) (by simp)
  exact ((hdraw.trans ((Dev.frame_wrRaw _ _ _).mono (by simp) fun _ h => h)).trans
    ((Dev.frame_uncache _ _ _).mono (by simp) fun _ h => h)).trans (Dev.frame_logDirty _ _ _)

/-! ### The channels' registers -/

theorem aDma_ge (ch : Nat) : 0x7F00061000 ≤ aDma ch := by
  unfold aDma
  split
  · omega
  · simp only [dieBase]; omega

/-- A channel's registers are none of the regulator's, of the counters' overflow or of a codebook RAM's. -/
theorem dma_apart (ch k : Nat) (hk : k < 0x40) : aBwrIlvLo ≠ aDma ch + k ∧ aBwrIlvHi ≠ aDma ch + k ∧ ¬ cntRegs (aDma ch + k) ∧
    ¬ cbRegs (aDma ch + k) := by
  have h := aDma_ge ch
  refine ⟨?_, ?_, ?_, ?_⟩
  · simp only [aBwrIlvLo, aBwr]; omega
  · simp only [aBwrIlvHi, aBwr]; omega
  · simp only [cntRegs, aCntOvfStat]; omega
  · rintro ⟨e, he⟩
    simp only [aGxCbCtrl, aGx, dieBase, aDma] at he
    split at he <;> omega

theorem Dev.frame_dmaReg (d : Dev) (ch k hi lo v : Nat) (hk : k < 0x40) :
    Dev.Frame d (d.setF (aDma ch + k) hi lo v) [] fun a => a = aDma ch + k :=
  d.frame_setF _ _ _ _ (dma_apart ch k hk).1 (dma_apart ch k hk).2.1

theorem Dev.frame_dmaTab (d : Dev) (t : Tab DmaCh) (l : Tab Nat) : Dev.Frame d { d with dmaCh := t, dmaLast := l } [.dma] fun _ => False := by
  refine ⟨?_, fun _ _ => rfl, rfl, rfl, Nat.le_refl _⟩
  intro q hq
  cases q <;> simp [Dev.Same] at hq ⊢
  intro a; rfl

theorem Dev.dmaState_setState (d : Dev) (ch st : Nat) : (d.dmaSetState ch st).dmaState ch = st % 8 := d.getF_setF_self _ _ _ _ (by decide)

theorem Dev.dmaStart_idle (d : Dev) {ch : Nat} (hen : d.dmaEn ch = true) (hst : d.dmaState ch = 0) :
    d.dmaStart ch = d.dmaFetch ch (d.dmaNext ch) := if_pos (by simp [hen, hst])

theorem Dev.dmaBurst_picked (d : Dev) {e ch : Nat} {c : DmaCh} (hk : d.dmaPick e = some ch) (hc : d.dmaCh.look ch = some c) :
    d.dmaBurst e = d.dmaMove ch c := by
  simp only [Dev.dmaBurst, hk, hc]

/-! ### Requests (R310, R317) -/

theorem aDmaReq_apart (r : Nat) : aBwrIlvLo ≠ aDmaReq r ∧ aBwrIlvHi ≠ aDmaReq r := by
  constructor
  · simp only [aBwrIlvLo, aBwr, aDmaReq]; omega
  · simp only [aBwrIlvHi, aBwr, aDmaReq]; omega

theorem Dev.frame_dmaReq (d : Dev) (r hi lo v : Nat) : Dev.Frame d (d.setF (aDmaReq r) hi lo v) [] fun a => a = aDmaReq r :=
  d.frame_setF _ _ _ _ (aDmaReq_apart r).1 (aDmaReq_apart r).2

/-- A field write leaves a bit outside it. -/
theorem Dev.getB_setF_ne (d : Dev) (a hi lo v i : Nat) (h : i < lo ∨ hi < i) : (d.setF a hi lo v).getB a i = d.getB a i := by
  simp [Dev.getB, Dev.setF, Word.bit_put_ne _ _ _ _ _ h]

section
variable (d : Dev) {r : Nat}

theorem Dev.dmaRequest_counted (hu : d.dmaUser r = none) (hn : d.getF (aDmaReq r) 7 0 < 255) :
    d.dmaRequest r = d.setF (aDmaReq r) 7 0 (d.getF (aDmaReq r) 7 0 + 1) := by
  simp only [Dev.dmaRequest, hu, if_pos hn]

theorem Dev.dmaRequest_overrun (hu : d.dmaUser r = none) (hn : d.getF (aDmaReq r) 7 0 = 255) :
    d.dmaRequest r = d.setB (aDmaReq r) 8 true := by
  simp only [Dev.dmaRequest, hu, hn]
  rfl

theorem Dev.dmaRequest_used {k : Nat} (hu : d.dmaUser r = some k) : d.dmaRequest r =
    if d.getF (aDmaReq r) 7 0 < 255 then
      (if (d.setF (aDmaReq r) 7 0 (d.getF (aDmaReq r) 7 0 + 1)).dmaState k = 2 then
        (d.setF (aDmaReq r) 7 0 (d.getF (aDmaReq r) 7 0 + 1)).dmaReady k else d.setF (aDmaReq r) 7 0 (d.getF (aDmaReq r) 7 0 + 1))
    else d.dmaError k 4 (d.dmaCur k) := by
  simp only [Dev.dmaRequest, hu]

end

/-! ### Completion (R312) -/

/-- What a write-back reaches: the descriptor's words in memory, or the accesses that wait. -/
theorem Dev.frame_dmaWriteBack (d : Dev) (ch xfer err : Nat) (done : Bool) :
    Dev.Frame d (d.dmaWriteBack ch xfer err done) [.memory, .residency, .pages, .accesses] cbRegs := by
  have hwr : ∀ e : Dev, ∀ a bs, Dev.Frame e (e.wrN a bs) [.memory, .residency, .pages, .accesses] cbRegs := fun e a bs =>
    (e.frame_wrN_logged a bs).mono (by simp) fun _ h => h
  unfold Dev.dmaWriteBack
  simp only
  split
  · exact .refl d _ _
  · split
    · exact (d.frame_accesses d.freeCtr d.hostQs _ d.lastAcc).mono (by simp) (by simp)
    · unfold Dev.dmaStoreBack
      exact (hwr d _ _).trans (hwr _ _ _)

/-- A completed descriptor: written back, counted, its interrupt raised, and gone from the channel. -/
def Dev.dmaCompleted (d : Dev) (ch : Nat) (c : DmaCh) : Dev :=
  let w := (d.dmaWriteBack ch c.done 0 true).count 0x07 (16 * dmaEngine ch + 2) 1
  let w := if c.irq && w.getB (aDmaCfg ch) 0 then w.raise (.dma ch) else w
  { w with dmaCh := w.dmaCh.del ch }

theorem Dev.dmaCompleted_look (d : Dev) (ch : Nat) (c : DmaCh) : (d.dmaCompleted ch c).dmaCh.look ch = none := by
  unfold Dev.dmaCompleted
  simp only [Tab.look_del, if_true]

theorem Dev.dmaCompleted_rd8 (d : Dev) (ch : Nat) (c : DmaCh) (a : Nat) :
    (d.dmaCompleted ch c).rd8 a = (d.dmaWriteBack ch c.done 0 true).rd8 a := by
  have hcount := ((d.dmaWriteBack ch c.done 0 true).frame_count 0x07 (16 * dmaEngine ch + 2) 1).same .memory (by decide)
  have hraise : ∀ (e : Dev) (b : Bool), (if b then e.raise (.dma ch) else e).rd8 a = e.rd8 a := by
    intro e b; cases b <;> rfl
  exact (hraise _ _).trans (hcount.1 a)

/-- An enabled interrupt of a descriptor that asks for one is raised: neither the write-back nor the count reaches the channel's CFG. -/
theorem Dev.dmaCompleted_irq (d : Dev) (ch : Nat) {c : DmaCh} (hc : c.irq = true) (he : d.getB (aDmaCfg ch) 0 = true) :
    .dma ch ∈ (d.dmaCompleted ch c).irqs := by
  obtain ⟨-, -, hcnt, hcb⟩ := dma_apart ch 4 (by decide)
  have hcfg : ((d.dmaWriteBack ch c.done 0 true).count 0x07 (16 * dmaEngine ch + 2) 1).getB (aDmaCfg ch) 0 = true := by
    have hcfg : aDmaCfg ch = aDma ch + 4 := rfl
    rw [hcfg] at he ⊢
    rw [(Dev.frame_count _ _ _ _).getB hcnt, (d.frame_dmaWriteBack ch c.done 0 true).getB hcb, he]
  simp only [Dev.dmaCompleted, hc, hcfg, Bool.and_self, if_true]
  exact mem_insertNew _ _

theorem Dev.dmaDescComplete_eq (d : Dev) {ch : Nat} {c : DmaCh} (hc : d.dmaCh.look ch = some c) (hst : d.dmaState ch = 4)
    (hw : ((d.dmaBad ch (d.dmaCur ch) 32).isNone && d.mustWaitFrom (dmaSrc ch) (d.dmaCur ch) 32 true) = false) :
    d.dmaDescComplete ch = if c.chain then (d.dmaCompleted ch c).dmaFetch ch c.next
      else ((d.dmaCompleted ch c).dmaSetState ch 0).setB (aDmaStatus ch) 1 true := by
  have hgo : ¬ (d.dmaState ch ≠ 4 || ((d.dmaBad ch (d.dmaCur ch) 32).isNone &&
      d.mustWaitFrom (dmaSrc ch) (d.dmaCur ch) 32 true)) = true := by
    rw [hw, Bool.or_false, decide_eq_true_eq]
    exact fun h => h hst
  unfold Dev.dmaDescComplete
  simp only [hc]
  rw [if_neg hgo]
  rfl

/-- A channel left IDLE with DONE. -/
theorem Dev.dmaIdle_done (d : Dev) (ch : Nat) : let e := (d.dmaSetState ch 0).setB (aDmaStatus ch) 1 true
    e.dmaState ch = 0 ∧ e.getB (aDmaStatus ch) 1 = true ∧ e.dmaCh = d.dmaCh ∧ e.irqs = d.irqs ∧ ∀ a, e.rd8 a = d.rd8 a := by
  have hmem := (((d.frame_dmaReg ch 0x18 6 4 0 (by decide)).trans
    (Dev.frame_dmaReg _ ch 0x18 1 1 1 (by decide))).same .memory (by decide)).1
  refine ⟨?_, Dev.getB_setB_self _ _ _ _ (by decide), rfl, rfl, hmem⟩
  exact (Dev.getF_setF_ne _ _ _ _ _ _ _ (.inr (by decide))).trans (d.dmaState_setState ch 0)

/-! ### Disabling (R314) -/

/-- A channel that is disabled, IDLE and holds no descriptor. -/
structure Dev.DmaOff (d : Dev) (ch : Nat) : Prop where
  en    : d.dmaEn ch = false
  state : d.dmaState ch = 0
  desc  : d.dmaCh.look ch = none

theorem Dev.DmaOff.of_frame {d e : Dev} {ch : Nat} {ks : List Kind} (h : d.DmaOff ch) (hf : Dev.Frame d e ks cbRegs) (hk : .dma ∉ ks) :
    e.DmaOff ch := by
  obtain ⟨hen, hst, hch⟩ := h
  have h0 := (dma_apart ch 0 (by decide)).2.2.2
  have h18 := (dma_apart ch 0x18 (by decide)).2.2.2
  exact ⟨(hf.getB h0 0).trans hen, (hf.getF h18 6 4).trans hst, (congrArg (Tab.look · ch) (hf.same .dma hk).1).trans hch⟩

/-- A channel that held a descriptor, with EN cleared, REMAIN undefined and its descriptor gone. -/
def Dev.dmaStopped (d : Dev) (ch : Nat) : Dev :=
  let x := (d.setB (aDmaCtrl ch) 0 false).fresh
  let y := (x.2.setReg (aDmaRemain ch) (BitVec.ofNat 32 (x.1 % 2 ^ 24))).dmaSetState ch 0
  { y with dmaCh := y.dmaCh.del ch }

/-- Its destination range, where the channel may reach it, holds undefined values. -/
def Dev.dmaBroken (d : Dev) (ch : Nat) (c : DmaCh) : Dev :=
  let r : Region := if c.dmode = 0 then ⟨c.dst, c.len⟩ else ⟨c.dst, min c.len (64 * 2 ^ c.bsz)⟩
  if c.toLine || (d.dmaBad ch r.base r.len).isSome then d else d.whey [r]

theorem Dev.dmaDisable_idle (d : Dev) {ch : Nat} (h : d.dmaCh.look ch = none) :
    d.dmaDisable ch = (d.setB (aDmaCtrl ch) 0 false).dmaSetState ch 0 := by
  have h' : (d.setB (aDmaCtrl ch) 0 false).dmaCh.look ch = none := h
  simp only [Dev.dmaDisable, h']

theorem Dev.dmaDisable_busy (d : Dev) {ch : Nat} {c : DmaCh} (h : d.dmaCh.look ch = some c) :
    d.dmaDisable ch = (let a := (d.setB (aDmaCtrl ch) 0 false).dmaCur ch
      let x := (d.dmaStopped ch).dmaBroken ch c
      if (x.dmaBad ch a 32).isSome then x
      else (x.freshBytes 8).2.wrN (a + 24) (((x.freshBytes 8).1.take 7) ++ [((x.freshBytes 8).1.getD 7 0) ||| 0x80])) := by
  have h' : (d.setB (aDmaCtrl ch) 0 false).dmaCh.look ch = some c := h
  unfold Dev.dmaDisable
  simp only [h']
  rfl

theorem Dev.dmaStopped_off (d : Dev) (ch : Nat) : (d.dmaStopped ch).DmaOff ch := by
  have hstatus : aDmaCtrl ch ≠ aDmaStatus ch := by simp only [aDmaCtrl, aDmaStatus]; omega
  have hremain : aDmaCtrl ch ≠ aDmaRemain ch := by simp only [aDmaCtrl, aDmaRemain]; omega
  have hen : (d.setB (aDmaCtrl ch) 0 false).getB (aDmaCtrl ch) 0 = false := d.getB_setB_self _ _ _ (by decide)
  refine ⟨(Dev.getB_of_reg ?_ 0).trans hen, Dev.dmaState_setState _ _ _, by simp only [Dev.dmaStopped, Tab.look_del, if_true]⟩
  exact (Dev.reg_setF_ne _ _ _ _ hstatus).trans (Dev.reg_setReg_ne _ _ hremain)

theorem Dev.dmaDisable_off (d : Dev) (ch : Nat) : (d.dmaDisable ch).DmaOff ch := by
  cases hc : d.dmaCh.look ch with
  | none =>
    have hstatus : aDmaCtrl ch ≠ aDmaStatus ch := by simp only [aDmaCtrl, aDmaStatus]; omega
    rw [d.dmaDisable_idle hc]
    exact ⟨(Dev.getB_of_reg (Dev.reg_setF_ne _ _ _ _ hstatus) 0).trans (d.getB_setB_self _ _ _ (by decide)),
      Dev.dmaState_setState _ _ _, hc⟩
  | some c =>
    have hbroken : ((d.dmaStopped ch).dmaBroken ch c).DmaOff ch := by
      unfold Dev.dmaBroken
      extract_lets r
      split
      · exact d.dmaStopped_off ch
      · exact (d.dmaStopped_off ch).of_frame (Dev.frame_whey _ _) (by decide)
    rw [d.dmaDisable_busy hc]
    simp only
    split
    · exact hbroken
    · refine hbroken.of_frame ?_ (by decide : Kind.dma ∉ [Kind.memory, .residency, .pages])
      exact ((Dev.frame_freeCtr _ _).mono (by simp) (by simp)).trans (Dev.frame_wrN_logged _ _ _)

/-- Settles O46, row by row. -/
theorem dmaMoves : Obligations.DmaMoves := by
  unfold Obligations.DmaMoves
  intro s ch line t hp d
  refine ⟨fun hen hst => ends_of_effect (exec_dmaStart s ch t) hp (d.dmaStart_idle hen hst),
    fun hu hn => ⟨_, ends_of_effect (exec_dmaRequest s line t) hp (d.dmaRequest_counted hu hn), ?_, d.frame_dmaReq _ _ _ _⟩,
    fun hu hn => ⟨_, ends_of_effect (exec_dmaRequest s line t) hp (d.dmaRequest_overrun hu hn), d.getB_setB_self _ _ _ (by decide), ?_,
      d.frame_dmaReq _ _ _ _⟩,
    fun g k c hk hc => ends_of_effect (exec_dmaBurst s g t) hp (d.dmaBurst_picked hk hc),
    fun k hu => ⟨fun hn => ?_, fun hn => ?_⟩, fun c hc hst hw => ⟨fun hch => ?_, fun hch => ?_⟩, ?_, ?_⟩
  · rw [Dev.getF_setF_self _ _ _ _ _ (by decide)]
    exact Nat.mod_eq_of_lt (by omega)
  · exact (d.getF_setF_ne _ _ _ _ _ _ (.inl (by decide))).trans hn
  · exact ends_of_effect (exec_dmaRequest s line t) hp ((d.dmaRequest_used hu).trans (if_pos hn))
  · exact ends_of_effect (exec_dmaRequest s line t) hp ((d.dmaRequest_used hu).trans (if_neg (by omega)))
  · obtain ⟨hidle, hdone, hdesc, hirqs, hmem⟩ := (d.dmaCompleted ch.val c).dmaIdle_done ch.val
    refine ⟨_, ends_of_effect (exec_dmaDescComplete s ch t) hp ((d.dmaDescComplete_eq hc hst hw).trans (if_neg (by simp [hch]))),
      hidle, hdone, ?_, fun hi hcfg => ?_, fun a => (hmem a).trans (d.dmaCompleted_rd8 ch.val c a)⟩
    · rw [hdesc, Dev.dmaCompleted_look]
    · rw [hirqs]; exact d.dmaCompleted_irq ch.val hi hcfg
  · exact ⟨_, ends_of_effect (exec_dmaDescComplete s ch t) hp ((d.dmaDescComplete_eq hc hst hw).trans (if_pos hch)),
      d.dmaCompleted_look ch.val c, d.dmaCompleted_irq ch.val, d.dmaCompleted_rd8 ch.val c⟩
  · obtain ⟨hen, hst, hch⟩ := (s.dev.advance 0).dmaDisable_off ch.val
    exact ⟨_, ends_of_effect (exec_dmaDisable s ch) hp rfl, hen, hst, hch⟩
  · exact ⟨_, ends_of_effect (exec_dmaReqClr s line) hp rfl, Dev.getF_setF_self _ _ _ _ _ (by decide),
      Dev.getB_setF_ne _ _ _ _ _ _ (.inr (by decide)), Dev.frame_dmaReq _ _ _ _ _⟩

end Sys2Proof.Machine

/-! SUPPORT. A burst from memory to memory (R310, R311). -/

namespace Sys2Proof.Machine

/-! ### Where an access reaches, which no count changes -/

/-- Two devices in which the same bytes are reachable, over the same paths and under the same ownership. -/
structure Dev.SameReach (d e : Dev) : Prop where
  regs   : ∀ a, a ≠ aCntOvfStat → e.reg a = d.reg a
  own    : e.own = d.own
  links  : e.links = d.links
  ifs    : e.stackIfs = d.stackIfs
  dies   : e.dieOff = d.dieOff
  poison : e.poison = d.poison

theorem Dev.Frame.sameReach {d e : Dev} {ks : List Kind} {rs : Nat → Prop} (h : Dev.Frame d e ks rs) (hr : ∀ a, rs a → a = aCntOvfStat)
    (hm : .memory ∉ ks) (ho : .ownership ∉ ks) (hl : .links ∉ ks) : Dev.SameReach d e := by
  obtain ⟨h1, h2, h3⟩ := h.same .links hl
  exact ⟨fun a ha => h.regs a fun hra => ha (hr a hra), h.same .ownership ho, h1, h2, h3, (h.same .memory hm).2⟩

section
variable {d e : Dev} (h : Dev.SameReach d e)
include h

theorem Dev.SameReach.phys (a : Nat) : e.phys a = d.phys a :=
  Dev.phys_congr (h.regs _ (by decide)) (h.regs _ (by decide)) a

theorem Dev.SameReach.getF {a : Nat} (ha : a ≠ aCntOvfStat) (hi lo : Nat) : e.getF a hi lo = d.getF a hi lo :=
  Dev.getF_of_reg (h.regs a ha) hi lo

theorem Dev.SameReach.getB {a : Nat} (ha : a ≠ aCntOvfStat) (i : Nat) : e.getB a i = d.getB a i := Dev.getB_of_reg (h.regs a ha) i

theorem Dev.SameReach.dieQuiet (s : Nat) : e.dieQuiet s = d.dieQuiet s := by
  have h1 : aRstDomStatus (3 + s) ≠ aCntOvfStat := by simp only [aRstDomStatus, aRstDomCtrl, aRst, aCntOvfStat]; omega
  have h2 : ∀ i, aClkCtrl i ≠ aCntOvfStat := fun i => by simp only [aClkCtrl, aClk, aCntOvfStat]; omega
  simp only [Dev.dieQuiet, h.getF h1, h.getB (h2 _)]

theorem Dev.SameReach.quietAt (a n : Nat) : e.quietAt a n = d.quietAt a n := by
  simp only [Dev.quietAt, h.phys, h.dieQuiet]

theorem Dev.SameReach.linkUp (l : Nat) : e.linkUp l = d.linkUp l := by simp only [Dev.linkUp, Dev.link, h.links]

theorem Dev.SameReach.routeFrom (src : Option Nat) (m : Nat) : e.routeFrom src m = d.routeFrom src m := by
  have hup : e.linkUp = d.linkUp := funext h.linkUp
  have hfirst : ∀ ps, e.firstUp ps = d.firstUp ps := fun ps => by simp only [Dev.firstUp, hup]
  have hhub : ∀ m, e.routeHd m = d.routeHd m := fun m => by simp only [Dev.routeHd, hfirst]
  cases src with
  | none => exact hhub m
  | some n => simp only [Dev.routeFrom, Dev.routeCd, hhub, hfirst, hup]

theorem Dev.SameReach.pathLost (src : Option Nat) (a n : Nat) : e.pathLost src a n = d.pathLost src a n := by
  have hdies : e.diesOf a n = d.diesOf a n := by simp only [Dev.diesOf, h.phys]
  simp only [Dev.pathLost, h.links, hdies, h.routeFrom, h.linkUp]

theorem Dev.SameReach.poisoned (a n : Nat) : e.poisoned a n = d.poisoned a n := by
  simp only [Dev.poisoned, Dev.linesOf, h.phys, h.poison]

theorem Dev.SameReach.accOk (pt inst x : Nat) : e.accOk pt inst x = d.accOk pt inst x := by
  have hup : ∀ k, e.stackUp k = d.stackUp k := fun k => by simp only [Dev.stackUp, h.dies, h.ifs]
  simp only [Dev.accOk, h.phys, hup, Dev.ownOf, h.own]

theorem Dev.SameReach.dmaBad (ch a n : Nat) : e.dmaBad ch a n = d.dmaBad ch a n := by
  have hcfg : aDmaCfg ch ≠ aCntOvfStat := (dma_apart ch 4 (by decide)).2.2.1
  have hup : ∀ k, e.stackUp k = d.stackUp k := fun k => by simp only [Dev.stackUp, h.dies, h.ifs]
  have hok : ∀ x, e.dmaOk ch x = d.dmaOk ch x := fun x => by
    simp only [Dev.dmaOk, Dev.dmaFw, Dev.dmaPt, Dev.dmaInst, h.getB hcfg, h.getF hcfg, h.phys, hup, h.accOk] <;> rfl
  simp only [Dev.dmaBad, hok]

end

/-! ### Traffic (R297, R301) -/

theorem traffic_apart (m c : Nat) : aBwrIlvLo ≠ aBwrMused m ∧ aBwrIlvHi ≠ aBwrMused m ∧ aBwrIlvLo ≠ aBwrLat m c ∧ aBwrIlvHi ≠ aBwrLat m c := by
  refine ⟨?_, ?_, ?_, ?_⟩ <;> simp only [aBwrIlvLo, aBwrIlvHi, aBwrMused, aBwrMcfg, aBwrLat, aBwr] <;> omega

/-- The registers of a master's count and of its latency monitors. -/
def trafficRegs (m a : Nat) : Prop := a = aBwrMused m ∨ ∃ c, a = aBwrLat m c

theorem Dev.frame_traffic (d : Dev) (m a n : Nat) : Dev.Frame d (d.traffic m a n) [] (trafficRegs m) := by
  unfold Dev.traffic
  split
  · exact .refl d _ _
  · obtain ⟨h1, h2, h3, h4⟩ := traffic_apart m (d.classOf a)
    unfold Dev.latency
    exact ((d.frame_setReg _ _ h1 h2).mono (by simp) fun _ h => .inl h).trans
      (((Dev.frame_freeCtr _ _).mono (by simp) (by simp)).trans
        ((Dev.frame_setF _ _ _ _ _ h3 h4).mono (by simp) fun _ h => .inr ⟨_, h⟩))

/-! ### The burst -/

/-- A burst that has started: the engine's turn and its counts. -/
def Dev.burstBegun (d : Dev) (ch : Nat) (c : DmaCh) : Dev :=
  let x : Dev := { d with dmaLast := d.dmaLast.put (dmaEngine ch) ch }
  (x.countMax 0x07 (16 * dmaEngine ch + 9) ((x.now - c.since) * x.dmaKhz (dmaEngine ch) / 10 ^ 6)).count 0x07 (16 * dmaEngine ch) 1

/-- Its bytes moved, with the traffic of both sides. -/
def Dev.burstMoved (d : Dev) (m : Nat) (c : DmaCh) : Dev :=
  ((d.traffic m c.srcAt c.burst).wrN c.dstAt (d.rdN c.srcAt c.burst)).traffic m c.dstAt c.burst

/-- The moved bytes counted. -/
def Dev.burstCounted (d : Dev) (ch n : Nat) : Dev :=
  let x := d.count 0x07 (16 * dmaEngine ch + 1) n
  if x.dmaFw ch then x else x.countAcct (x.dmaInst ch) 4 n

/-- Its descriptor advanced by the burst. -/
def Dev.burstDone (d : Dev) (ch : Nat) (c : DmaCh) : Dev :=
  let x : Dev := { d with dmaCh := d.dmaCh.put ch { c with done := c.done + c.burst, since := d.now } }
  (x.setReg (aDmaRemain ch) (BitVec.ofNat 32 (c.len - (c.done + c.burst)))).dmaReady ch

theorem Dev.frame_burstBegun (d : Dev) (ch : Nat) (c : DmaCh) :
    Dev.Frame d (d.burstBegun ch c) [.dma, .counters, .interrupts, .log] cntRegs := by
  have hturn := d.frame_dmaTab d.dmaCh (d.dmaLast.put (dmaEngine ch) ch)
  have hmax := fun e : Dev => e.frame_cntUpd_quiet (.inl (by decide) : 0x07 < 0x40 ∨ 0x80 ≤ 0x07) (16 * dmaEngine ch + 9)
    (·.maxOf ((e.now - c.since) * e.dmaKhz (dmaEngine ch) / 10 ^ 6))
  have hcount := fun e : Dev => (e.noted_count (by decide : 0x07 < 0x40) (16 * dmaEngine ch) 1).frame
  exact ((hturn.mono (by simp) (by simp)).trans ((hmax _).mono (by simp) fun _ h => h)).trans ((hcount _).mono (by simp) fun _ h => h)

/-- A burst between two ranges of memory that no check stops. -/
theorem Dev.dmaMove_copies (d : Dev) {ch : Nat} {c : DmaCh} (hreq : c.req = 0xFF) (hfrom : c.fromLine = false) (hto : c.toLine = false)
    (hsb : d.dmaBad ch c.srcAt c.burst = none) (hdb : d.dmaBad ch c.dstAt c.burst = none) (hpo : d.poisoned c.srcAt c.burst = false)
    (hsq : d.quietAt c.srcAt c.burst = false) (hdq : d.quietAt c.dstAt c.burst = false)
    (hsl : d.pathLost (dmaSrc ch) c.srcAt c.burst = false) (hdl : d.pathLost (dmaSrc ch) c.dstAt c.burst = false) :
    d.dmaMove ch c = (((d.burstBegun ch c).burstMoved (d.dmaMaster ch) c).burstCounted ch c.burst).burstDone ch c := by
  have hr : Dev.SameReach d (d.burstBegun ch c) := (d.frame_burstBegun ch c).sameReach (fun _ h => h) (by decide) (by decide) (by decide)
  rw [← hr.dmaBad] at hsb hdb
  rw [← hr.poisoned] at hpo
  rw [← hr.quietAt] at hsq hdq
  rw [← hr.pathLost] at hsl hdl
  unfold Dev.burstBegun at hsb hdb hpo hsq hdq hsl hdl
  unfold Dev.dmaMove
  simp only [hreq, hfrom, hto, if_true, Bool.not_false, Bool.true_and, Bool.false_and, hsq, hdq, hsl, hdl, hsb, hdb, hpo, Bool.or_false,
    Bool.false_eq_true, if_false]
  rfl

section
variable (d : Dev)

theorem Dev.burstMoved_loggers {m : Nat} (hl : d.loggers = []) (c : DmaCh) :
    Dev.Frame d (d.burstMoved m c) [.memory, .residency] fun a => trafficRegs m a ∨ cbRegs a := by
  have h1 := d.frame_traffic m c.srcAt c.burst
  have h2 := (d.traffic m c.srcAt c.burst).frame_wrN c.dstAt (d.rdN c.srcAt c.burst) ((Dev.loggers_of_frame h1 (by decide)).trans hl)
  exact ((h1.mono (by simp) fun _ h => .inl h).trans (h2.mono (by simp) fun _ h => .inr h)).trans
    ((Dev.frame_traffic _ m _ _).mono (by simp) fun _ h => .inl h)

theorem Dev.rd8_burstMoved_in {m : Nat} (hl : d.loggers = []) (c : DmaCh) {i : Nat} (hi : i < c.burst)
    (hp : (d.phys (c.dstAt + i)).isSome = true) : (d.burstMoved m c).rd8 (c.dstAt + i) = d.rd8 (c.srcAt + i) := by
  have h1 := d.frame_traffic m c.srcAt c.burst
  have hphys : (d.traffic m c.srcAt c.burst).phys (c.dstAt + i) = d.phys (c.dstAt + i) := by
    have ha : ∀ b, b = aBwrIlvLo ∨ b = aBwrIlvHi → ¬ trafficRegs m b := by
      rintro b hb (h | ⟨k, h⟩)
      · obtain ⟨h1, h2, -, -⟩ := traffic_apart m 0
        rcases hb with rfl | rfl <;> contradiction
      · obtain ⟨-, -, h1, h2⟩ := traffic_apart m k
        rcases hb with rfl | rfl <;> contradiction
    exact Dev.phys_of_frame h1 (ha _ (.inl rfl)) (ha _ (.inr rfl)) _
  unfold Dev.burstMoved
  rw [Dev.rd8_traffic, Dev.rd8_wrN_in _ _ _ _ ((Dev.loggers_of_frame h1 (by decide)).trans hl) (by rw [Dev.length_rdN]; exact hi)
    (by rw [hphys]; exact hp), Dev.getElem_rdN]

theorem Dev.rd8_burstMoved_out {m : Nat} (hl : d.loggers = []) (c : DmaCh) {a : Nat} (ha : a < c.dstAt ∨ c.dstAt + c.burst ≤ a) :
    (d.burstMoved m c).rd8 a = d.rd8 a := by
  have h1 := d.frame_traffic m c.srcAt c.burst
  unfold Dev.burstMoved
  rw [Dev.rd8_traffic, Dev.rd8_wrN_out _ _ _ _ ((Dev.loggers_of_frame h1 (by decide)).trans hl) (by rw [Dev.length_rdN]; exact ha),
    Dev.rd8_traffic]

theorem Dev.frame_burstCounted (ch n : Nat) : Dev.Frame d (d.burstCounted ch n) [.pages, .counters, .interrupts, .log] cntRegs := by
  have h1 := d.frame_count 0x07 (16 * dmaEngine ch + 1) n
  unfold Dev.burstCounted Dev.countAcct
  exact h1.orElse (Dev.frame_count _ _ _ _)

theorem Dev.frame_dmaReady (ch : Nat) : Dev.Frame d (d.dmaReady ch) [.dma] fun a => a = aDmaStatus ch := by
  have hst := fun st => (d.frame_dmaReg ch 0x18 6 4 st (by decide)).mono (ks' := [.dma]) (by simp) fun _ h => h
  unfold Dev.dmaReady
  split
  · exact .refl d _ _
  · split
    · exact hst 4
    · split
      · exact (hst 3).trans ((Dev.frame_dmaTab _ _ d.dmaLast).mono (by simp) (by simp))
      · exact hst 2

theorem Dev.dmaReady_done {ch : Nat} {c : DmaCh} (h : d.dmaCh.look ch = some c) :
    ((d.dmaReady ch).dmaCh.look ch).map (·.done) = some c.done := by
  simp only [Dev.dmaReady, h]
  split
  · exact congrArg (Option.map _) h
  · split
    · simp only [Tab.look_put_self, Option.map_some]
    · exact congrArg (Option.map _) h

theorem Dev.frame_burstDone (ch : Nat) (c : DmaCh) : Dev.Frame d (d.burstDone ch c) [.dma] fun a => a = aDmaRemain ch ∨ a = aDmaStatus ch := by
  obtain ⟨hl, hh, -, -⟩ := dma_apart ch 0x24 (by decide)
  exact (((d.frame_dmaTab _ d.dmaLast).mono (by simp) (by simp)).trans
    ((Dev.frame_setReg _ (aDmaRemain ch) _ hl hh).mono (by simp) fun _ h => .inl h)).trans
      ((Dev.frame_dmaReady _ ch).mono (by simp) fun _ h => .inr h)

/-- What the channel shows after the burst. -/
theorem Dev.burstDone_shows (ch : Nat) (c : DmaCh) :
    (d.burstDone ch c).reg (aDmaRemain ch) = BitVec.ofNat 32 (c.len - (c.done + c.burst)) ∧
    ((d.burstDone ch c).dmaCh.look ch).map (·.done) = some (c.done + c.burst) := by
  have hne : aDmaRemain ch ≠ aDmaStatus ch := by simp only [aDmaRemain, aDmaStatus]; omega
  unfold Dev.burstDone
  extract_lets x
  exact ⟨((Dev.frame_dmaReady _ ch).regs _ hne).trans (Dev.reg_setReg_self _ _ _),
    Dev.dmaReady_done _ (c := { c with done := c.done + c.burst, since := d.now }) (Tab.look_put_self d.dmaCh ch _)⟩

end

/-- Settles O47: between its counts, a burst is a read of the source and a write of the destination. -/
theorem burstsCopy : Obligations.BurstsCopy := by
  unfold Obligations.BurstsCopy
  intro d ch c _ hlog hreq hfrom hto _ hsb hdb hpo hsq hdq hsl hdl e
  have he : e = _ := d.dmaMove_copies hreq hfrom hto hsb hdb hpo hsq hdq hsl hdl
  have hbegun := d.frame_burstBegun ch c
  have hlog' : (d.burstBegun ch c).loggers = [] := (Dev.loggers_of_frame hbegun (by decide)).trans hlog
  have hmoved := (d.burstBegun ch c).burstMoved_loggers (m := d.dmaMaster ch) hlog' c
  have hcounted := ((d.burstBegun ch c).burstMoved (d.dmaMaster ch) c).frame_burstCounted ch c.burst
  have hdone := (((d.burstBegun ch c).burstMoved (d.dmaMaster ch) c).burstCounted ch c.burst).frame_burstDone ch c
  have hbytes : ∀ a, e.rd8 a = ((d.burstBegun ch c).burstMoved (d.dmaMaster ch) c).rd8 a := fun a => by
    rw [he, (hdone.same .memory (by decide)).1, (hcounted.same .memory (by decide)).1]
  have hbefore : ∀ a, (d.burstBegun ch c).rd8 a = d.rd8 a := (hbegun.same .memory (by decide)).1
  obtain ⟨hremain, hdesc⟩ := (((d.burstBegun ch c).burstMoved (d.dmaMaster ch) c).burstCounted ch c.burst).burstDone_shows ch c
  have hkept : ∀ k, k ∉ [Kind.dma, .counters, .interrupts, .log, .memory, .residency, .pages] → Dev.Same d e k := fun k hk => by
    rw [he]
    simp only [List.mem_cons, List.not_mem_nil, or_false, not_or] at hk
    refine (((hbegun.same k ?_).trans (hmoved.same k ?_)).trans (hcounted.same k ?_)).trans (hdone.same k ?_) <;> simp [hk]
  refine ⟨fun i hi hp => ?_, fun a ha => ?_, he ▸ hremain, he ▸ hdesc, hkept .ownership (by decide), hkept .queues (by decide)⟩
  · rw [hbytes, Dev.rd8_burstMoved_in _ hlog' c hi, hbefore]
    rw [Dev.phys_of_frame hbegun (by unfold cntRegs; decide) (by unfold cntRegs; decide)]
    exact hp
  · rw [hbytes, Dev.rd8_burstMoved_out _ hlog' c ha, hbefore]

end Sys2Proof.Machine

/-! SUPPORT. The graphics unit: kills, suspensions, guard times, tile memory errors (R334 to R336, R341, R347). -/

namespace Sys2Proof.Machine

section
variable (d : Dev) {p : Nat × Cmd} (h : d.gfxRunning = some p)
include h

theorem Dev.gfxKill_runs : d.gfxKill = (d.killRerun p.1 p.2.seq .preempt).settle := by
  simp only [Dev.gfxKill, h]

/-- A job that is to stop, at a boundary and where none comes. -/
theorem Dev.jobSuspend_stops (hs : d.getF aGfxStatus 2 0 = 4) (boundary : Bool) : d.jobSuspend boundary =
    if boundary then (((d.updCmd p.1 p.2.seq fun c => { c with suspended := some 0 }).setF aGfxStatus 2 0 0).count 0x08 1 1).settle
    else (d.killJob p.1 p.2.seq ((d.gfxStopCause p.1 p.2).getD .preempt)).settle := by
  simp only [Dev.jobSuspend, hs, h, ne_eq, not_true, if_false]

end

/-- A guard time that an unpressed compositor job of the pipe needs. -/
theorem Dev.compositorGuard_due (d : Dev) {pipe : Nat} {x : Nat × Cmd} (hx : x ∈ d.allCmds) (hc : d.isComp x.1 x.2 = true)
    (hp : x.2.render.pipe = pipe) (ht : ((d.pipes.lookD pipe {}).lastLatch).getD 0 ≤ x.2.takenT)
    (hle : d.deadline x.2 ≤ d.now + d.getF (aDispCtrl pipe) 23 8 * 100000) (hlt : d.now < d.deadline x.2) :
    d.compositorGuard pipe = ({ d with pipes := d.pipes.upd pipe {} fun x => { x with guarding := true } } : Dev).pass := by
  refine if_pos (List.any_eq_true.mpr ⟨x, hx, ?_⟩)
  simp only [hc, hp, ht, hle, hlt, decide_true, Bool.and_self, Bool.or_true]

theorem Dev.frame_gfxErr (d : Dev) (i : Nat) : Dev.Frame d (d.setB aGfxErr i true) [] fun a => a = aGfxErr :=
  d.frame_setB _ _ _ (by decide) (by decide)

/-- Settles O48, row by row. -/
theorem graphicsUnitEvents : Obligations.GraphicsUnitEvents := by
  unfold Obligations.GraphicsUnitEvents
  intro s t hp d
  refine ⟨fun p h => ends_of_effect (exec_gfxKill s t) hp (d.gfxKill_runs h),
    fun p h hs => ⟨ends_of_effect (exec_jobSuspend s true t) hp ((d.jobSuspend_stops h hs true).trans (if_pos rfl)),
      ends_of_effect (exec_jobSuspend s false t) hp ((d.jobSuspend_stops h hs false).trans (if_neg Bool.false_ne_true))⟩,
    fun pipe x hx hc hpipe ht hle hlt => ends_of_effect (exec_compositorGuard s pipe t) hp (d.compositorGuard_due hx hc hpipe ht hle hlt),
    ⟨_, ends_of_effect (exec_tileMemError s true t) hp rfl, d.getB_setB_self _ _ _ (by decide), d.frame_gfxErr 0⟩,
    fun p h => ⟨d.setB aGfxErr 1 true, ends_of_effect (exec_tileMemError s false t) hp ?_, d.getB_setB_self _ _ _ (by decide)⟩⟩
  have h' : ((s.dev.advance t).setB aGfxErr 1 true).gfxRunning = some p := h
  simp only [Bool.false_eq_true, if_false, h']
  rfl

end Sys2Proof.Machine

/-! SUPPORT. The display pipes' latches and the cameras' frames (R337 to R345). -/

namespace Sys2Proof.Machine

/-! ### Surfaces -/

/-- A surface is permitted alike in devices that reach the same bytes under the same ownership. -/
theorem Dev.layerOk_congr {d e : Dev} (hp : ∀ a, e.phys a = d.phys a) (ho : e.own = d.own) (hd : e.dieOff = d.dieOff)
    (hs : e.stackIfs = d.stackIfs) (hq : e.poison = d.poison) (hi : e.insts = d.insts) (l : Layer) : e.layerOk l = d.layerOk l := by
  have hinst : e.inst l.inst = d.inst l.inst := by simp only [Dev.inst, hi]
  have hup : ∀ k, e.stackUp k = d.stackUp k := fun k => by simp only [Dev.stackUp, hd, hs]
  have hok : ∀ pt i x, e.accOk pt i x = d.accOk pt i x := fun pt i x => by simp only [Dev.accOk, hp, hup, Dev.ownOf, ho]
  simp only [Dev.layerOk, Dev.accBad, hok, hinst, Dev.poisoned, Dev.linesOf, hp, hq]

theorem Dev.Frame.layerOk {d e : Dev} {ks : List Kind} {rs : Nat → Prop} (h : Dev.Frame d e ks rs) (hl : ¬ rs aBwrIlvLo)
    (hh : ¬ rs aBwrIlvHi) (hk : ∀ k ∈ [Kind.memory, .ownership, .links, .instances], k ∉ ks) (l : Layer) : e.layerOk l = d.layerOk l := by
  obtain ⟨-, hs, hd⟩ := h.same .links (hk _ (by decide))
  exact Dev.layerOk_congr (Dev.phys_of_frame h hl hh) (h.same .ownership (hk _ (by decide))) hd hs (h.same .memory (hk _ (by decide))).2
    (h.same .instances (hk _ (by decide))) l

/-- A set whose surfaces are all permitted is kept whole. -/
theorem Dev.keepSet_all {d : Dev} {t : Tab Layer} (h : ∀ l ∈ t, d.layerOk l.2 = true) : d.keepSet t = t :=
  List.filter_eq_self.mpr h

/-! ### Latches (R338) -/

theorem aDisp_apart (p k : Nat) : aBwrIlvLo ≠ aDisp p + k ∧ aBwrIlvHi ≠ aDisp p + k ∧ aDisp p + k ≠ aCntOvfStat := by
  refine ⟨?_, ?_, ?_⟩ <;> simp only [aBwrIlvLo, aBwrIlvHi, aBwr, aDisp, aCntOvfStat] <;> omega

theorem Dev.frame_dispReg (d : Dev) (p k : Nat) (w : Word) : Dev.Frame d (d.setReg (aDisp p + k) w) [] fun a => a = aDisp p + k := by
  obtain ⟨hl, hh, -⟩ := aDisp_apart p k
  exact d.frame_setReg _ w hl hh

theorem Dev.frame_pipes (d : Dev) (t : Tab Pipe) : Dev.Frame d { d with pipes := t } [.display] fun _ => False := by
  refine ⟨?_, fun _ _ => rfl, rfl, rfl, Nat.le_refl _⟩
  intro q hq
  cases q <;> simp [Dev.Same] at hq ⊢
  intro a; rfl

/-- FRAME of a pipe after a latch. -/
def Dev.frameCounted (d : Dev) (p : Nat) : Dev := d.setReg (aDispFrame p) (d.reg (aDispFrame p) + 1)

/-- A pipe after a latch that shows a set of layers. -/
def Pipe.latched (x : Pipe) (now : Nat) (cur : Tab Layer) : Pipe :=
  { x with under := false, guarding := false, lastLatch := some now, cur := cur }

/-- A pipe whose new set is formed. -/
def Pipe.formed (x : Pipe) (now : Nat) : Pipe := { x.latched now x.next with pend := [], flips := [] }

def Dev.putPipe (d : Dev) (p : Nat) (y : Pipe) : Dev := { d with pipes := d.pipes.put p y }

theorem Dev.layerOk_frameCounted (d : Dev) (p : Nat) (l : Layer) : (d.frameCounted p).layerOk l = d.layerOk l := by
  obtain ⟨hl, hh, -⟩ := aDisp_apart p 0x10
  exact (d.frame_dispReg p 0x10 _).layerOk hl hh (by simp) l

section
variable (d : Dev) {p : Nat} (hs : d.getB (aDispCtrl p) 0 = true)
include hs

/-- The new set is formed where no compositor job has missed the latch and every surface is permitted. -/
theorem Dev.displayLatch_forms (hm : d.missed p = false) (hok : ∀ l ∈ (d.pipes.lookD p {}).next, d.layerOk l.2 = true) :
    d.displayLatch p = ((d.frameCounted p).putPipe p ((d.pipes.lookD p {}).formed d.now)).pass := by
  have hok' : ∀ l ∈ (d.pipes.lookD p {}).next, (d.frameCounted p).layerOk l.2 = true := fun l hl =>
    (d.layerOk_frameCounted p l.2).trans (hok l hl)
  have hbad : ((d.pipes.lookD p {}).next.find? fun (e : Nat × Layer) =>
      !(d.frameCounted p).layerOk e.2 && !(decide (Tab.look (d.pipes.lookD p {}).cur e.1 = some e.2))) = none := by
    refine List.find?_eq_none.mpr fun l hl => ?_
    simp [hok' l hl]
  have hkeep := Dev.keepSet_all hok'
  unfold Dev.frameCounted at hbad hkeep
  simp only [Dev.displayLatch, hs, hm, Bool.not_true, Bool.false_eq_true, if_false, hbad, hkeep]
  rfl

/-- A latch that a compositor job has missed, marked and counted. -/
def Dev.latchMissed (d : Dev) (p : Nat) : Dev :=
  (((d.frameCounted p).setB (aDispStatus p) 0 true).logE 7 0 p 0 1).count 0x08 (12 + p) 1

omit hs in
theorem Dev.frame_latchMissed (d : Dev) (p : Nat) : Dev.Frame d (d.latchMissed p) [.pages, .counters, .interrupts, .log]
    fun a => a = aDispFrame p ∨ a = aDispStatus p ∨ a = aCntOvfStat := by
  have h1 := d.frame_dispReg p 0x10 (d.reg (aDispFrame p) + 1)
  have h2 := (d.frameCounted p).frame_dispReg p 0x14 (((d.frameCounted p).reg (aDispStatus p)).put 0 0 (b2n true))
  have h3 := ((d.frameCounted p).setB (aDispStatus p) 0 true).frame_logE 7 0 p 0 1
  exact (((h1.mono (by simp) fun _ h => .inl h).trans (h2.mono (by simp) fun _ h => .inr (.inl h))).trans
    (h3.mono (by simp) (by simp))).trans ((Dev.frame_count _ _ _ _).mono (by simp) fun _ h => .inr (.inr h))

theorem Dev.displayLatch_misses (hm : d.missed p = true) (hok : ∀ l ∈ (d.pipes.lookD p {}).cur, d.layerOk l.2 = true) :
    d.displayLatch p = ((d.latchMissed p).putPipe p
      ((d.pipes.lookD p {}).latched (d.latchMissed p).now (d.pipes.lookD p {}).cur)).pass := by
  obtain ⟨l1, h1, -⟩ := aDisp_apart p 0x10
  obtain ⟨l2, h2, -⟩ := aDisp_apart p 0x14
  have hkeep : (d.latchMissed p).keepSet (d.pipes.lookD p {}).cur = (d.pipes.lookD p {}).cur := by
    refine Dev.keepSet_all fun l hl => ?_
    refine ((d.frame_latchMissed p).layerOk ?_ ?_ (by decide) l.2).trans (hok l hl)
    · rintro (h | h | h)
      · exact l1 h
      · exact l2 h
      · exact absurd h (by decide)
    · rintro (h | h | h)
      · exact h1 h
      · exact h2 h
      · exact absurd h (by decide)
  have hnow : (d.latchMissed p).now = d.now := congrArg (· / 2 ^ 32)
    (Dev.noted_count (((d.frameCounted p).setB (aDispStatus p) 0 true).logE 7 0 p 0 1) (g := 0x08) (by decide) (12 + p) 1).time
  rw [hnow, ← hkeep]
  simp only [Dev.displayLatch, hs, hm, Bool.not_true, Bool.false_eq_true, if_false, if_true]
  rfl

end

/-- What a missed latch shows. -/
theorem Dev.latchMissed_shows (d : Dev) (p : Nat) : (d.latchMissed p).reg (aDispFrame p) = d.reg (aDispFrame p) + 1 ∧
    (d.latchMissed p).getB (aDispStatus p) 0 = true ∧ (d.latchMissed p).cnt 0x08 (12 + p) = (d.cnt 0x08 (12 + p)).add 1 := by
  have hne : aDispFrame p ≠ aDispStatus p := by simp only [aDispFrame, aDispStatus]; omega
  have hcount := (((d.frameCounted p).setB (aDispStatus p) 0 true).logE 7 0 p 0 1).frame_count 0x08 (12 + p) 1
  refine ⟨?_, ?_, Dev.cnt_count_self _ _ _ _⟩
  · exact (hcount.regs _ (aDisp_apart p 0x10).2.2).trans ((Dev.reg_setB_ne _ _ _ hne).trans (Dev.reg_setReg_self _ _ _))
  · exact (hcount.getB (aDisp_apart p 0x14).2.2 0).trans (Dev.getB_setB_self (d.frameCounted p) _ _ _ (by decide))

/-- An underrun of a pipe that scans out (R339). -/
def Dev.underran (d : Dev) (p : Nat) : Dev :=
  let x := (d.setB (aDispStatus p) 1 true).count 0x08 (16 + p) 1
  { x with pipes := x.pipes.upd p {} fun x => { x with under := true } }

theorem Dev.underran_shows (d : Dev) (p : Nat) : (d.underran p).getB (aDispStatus p) 1 = true ∧
    ((d.underran p).pipes.lookD p {}).under = true ∧ (d.underran p).cnt 0x08 (16 + p) = (d.cnt 0x08 (16 + p)).add 1 := by
  have hcount := (d.setB (aDispStatus p) 1 true).frame_count 0x08 (16 + p) 1
  refine ⟨?_, ?_, Dev.cnt_count_self _ _ _ _⟩
  · exact (hcount.getB (aDisp_apart p 0x14).2.2 1).trans (d.getB_setB_self _ _ _ (by decide))
  · simp only [Dev.underran, Tab.upd, Tab.lookD_put_self]

/-! ### A camera's frame without a channel (R344) -/

/-- No channel of a DMA engine drains the stream, which has met no error. -/
structure Dev.Undrained (d : Dev) (r : Nat) : Prop where
  user  : d.dmaUser r = none
  error : (d.cams.lookD r {}).error = false

theorem dmaReq_ne_dma {r : Nat} (hr : r < 64) (ch k : Nat) (hk : k < 0x40) : aDma ch + k ≠ aDmaReq r := by
  simp only [aDma, aDmaReq, dieBase]
  split <;> omega

/-- A request of a camera's line changes no channel. -/
theorem Dev.dmaUser_reqWritten (d : Dev) {r : Nat} (hr : r < 64) (hi lo v : Nat) (q : Nat) :
    (d.setF (aDmaReq r) hi lo v).dmaUser q = d.dmaUser q := by
  have h0 : ∀ ch, (d.setF (aDmaReq r) hi lo v).reg (aDma ch + 0) = d.reg (aDma ch + 0) := fun ch =>
    d.reg_setF_ne hi lo v (dmaReq_ne_dma hr ch 0 (by decide))
  have h18 : ∀ ch, (d.setF (aDmaReq r) hi lo v).reg (aDma ch + 0x18) = d.reg (aDma ch + 0x18) := fun ch =>
    d.reg_setF_ne hi lo v (dmaReq_ne_dma hr ch 0x18 (by decide))
  have huses : ∀ ch, (d.setF (aDmaReq r) hi lo v).dmaUses ch q = d.dmaUses ch q := fun ch => by
    have hen : (d.setF (aDmaReq r) hi lo v).dmaEn ch = d.dmaEn ch := Dev.getB_of_reg (h0 ch) 0
    have hst : (d.setF (aDmaReq r) hi lo v).dmaState ch = d.dmaState ch := Dev.getF_of_reg (h18 ch) 6 4
    simp only [Dev.dmaUses, hen, hst]
    rfl
  simp only [Dev.dmaUser, huses]
  rfl

/-- Bytes that join a stream's buffer. -/
def Dev.camBuffered (d : Dev) (r : Nat) (bs : List Byte) : Dev :=
  { d with cams := d.cams.put r { d.cams.lookD r {} with buf := (d.cams.lookD r {}).buf ++ bs } }

theorem Dev.camBuffered_look (d : Dev) (r : Nat) (bs : List Byte) : (d.camBuffered r bs).cams.lookD r {} =
    { d.cams.lookD r {} with buf := (d.cams.lookD r {}).buf ++ bs } := Tab.lookD_put_self _ _ _ _

/-- The bytes of a port with one of its streams longer. -/
theorem Dev.portBuf_camBuffered (d : Dev) (port : Nat) {stream : Nat} (hs : stream < 4) (bs : List Byte) :
    (d.camBuffered (4 * port + stream) bs).portBuf port = d.portBuf port + bs.length := by
  have hlook : ∀ v, ((d.camBuffered (4 * port + stream) bs).cams.lookD (4 * port + v) {}).buf.length =
      (d.cams.lookD (4 * port + v) {}).buf.length + if v = stream then bs.length else 0 := fun v => by
    split
    · rename_i h
      rw [h, Dev.camBuffered_look, List.length_append]
    · have hne : 4 * port + v ≠ 4 * port + stream := by omega
      simp only [Dev.camBuffered, Tab.lookD_put_ne _ _ _ hne, Nat.add_zero]
  simp only [Dev.portBuf, hlook, show List.range 4 = [0, 1, 2, 3] from rfl, List.foldl_cons, List.foldl_nil]
  interval_cases stream <;> simp <;> omega

/-- A request of a line that no channel uses writes its register alone. -/
theorem Dev.dmaRequest_unused (d : Dev) {r : Nat} (hu : d.dmaUser r = none) : ∃ hi lo v, d.dmaRequest r = d.setF (aDmaReq r) hi lo v := by
  by_cases hn : d.getF (aDmaReq r) 7 0 < 255
  · exact ⟨7, 0, _, d.dmaRequest_counted hu hn⟩
  · exact ⟨8, 8, b2n true, by simp only [Dev.dmaRequest, hu, if_neg hn]; rfl⟩

theorem Dev.cameraChunk_room (d : Dev) {r : Nat} {bs : List Byte} (he : (d.cams.lookD r {}).error = false)
    (hroom : d.portBuf (r / 4) + bs.length ≤ 65536) : d.cameraChunk r bs =
      (let x := (d.camBuffered r bs).dmaRequest r
      if (x.dmaUser r).isSome && decide (x.dmaPick 0 = x.dmaUser r) then x.dmaBurst 0 else x) := by
  unfold Dev.cameraChunk
  simp only
  rw [if_neg (by simp [he]), if_neg (by omega)]
  rfl

/-- A chunk of a stream that no channel drains joins its buffer. -/
theorem Dev.cameraChunk_buffers (d : Dev) {port stream : Nat} (hp : port < 16) (hs : stream < 4) (bs : List Byte)
    (hd : d.Undrained (4 * port + stream)) (hroom : d.portBuf port + bs.length ≤ 65536) :
    let e := d.cameraChunk (4 * port + stream) bs
    e.Undrained (4 * port + stream) ∧ (e.cams.lookD (4 * port + stream) {}).buf = (d.cams.lookD (4 * port + stream) {}).buf ++ bs ∧
    e.portBuf port = d.portBuf port + bs.length := by
  obtain ⟨hu, he⟩ := hd
  have hbuf := d.portBuf_camBuffered port hs bs
  generalize hr : 4 * port + stream = r at hu he hbuf ⊢
  have hport : r / 4 = port := by omega
  obtain ⟨hi, lo, v, hreq⟩ := (d.camBuffered r bs).dmaRequest_unused (r := r) hu
  have huser : ((d.camBuffered r bs).setF (aDmaReq r) hi lo v).dmaUser r = none :=
    (Dev.dmaUser_reqWritten _ (by omega) hi lo v r).trans hu
  have hchunk : d.cameraChunk r bs = (d.camBuffered r bs).setF (aDmaReq r) hi lo v := by
    rw [d.cameraChunk_room he (by rw [hport]; exact hroom), hreq]
    simp only [huser, Option.isSome_none, Bool.false_and, Bool.false_eq_true, if_false]
  have hlook : ((d.camBuffered r bs).setF (aDmaReq r) hi lo v).cams.lookD r {} =
    { d.cams.lookD r {} with buf := (d.cams.lookD r {}).buf ++ bs } := d.camBuffered_look r bs
  simp only [hchunk]
  exact ⟨⟨huser, by rw [hlook]; exact he⟩, by rw [hlook], hbuf⟩

/-- Chunk by chunk the whole frame joins the buffer. -/
theorem Dev.cameraChunks_buffer {port stream : Nat} (hp : port < 16) (hs : stream < 4) (k : Nat) (d : Dev) (bs : List Byte)
    (hd : d.Undrained (4 * port + stream)) (hk : bs.length ≤ 1024 * k) (hroom : d.portBuf port + bs.length ≤ 65536) :
    ((d.cameraChunks (4 * port + stream) k bs).cams.lookD (4 * port + stream) {}).error = false ∧
    ((d.cameraChunks (4 * port + stream) k bs).cams.lookD (4 * port + stream) {}).buf =
      (d.cams.lookD (4 * port + stream) {}).buf ++ bs := by
  induction k generalizing d bs with
  | zero =>
    obtain rfl : bs = [] := List.eq_nil_of_length_eq_zero (by omega)
    exact ⟨hd.error, (List.append_nil _).symm⟩
  | succ k ih =>
    unfold Dev.cameraChunks
    split
    · rename_i hempty
      obtain rfl : bs = [] := List.isEmpty_iff.mp hempty
      exact ⟨hd.error, (List.append_nil _).symm⟩
    · have htake : (bs.take 1024).length ≤ bs.length := by rw [List.length_take]; omega
      have hsplit : (bs.take 1024).length + (bs.drop 1024).length = bs.length := by
        rw [← List.length_append, List.take_append_drop]
      obtain ⟨hd', hbuf, hport⟩ := d.cameraChunk_buffers hp hs (bs.take 1024) hd (by omega)
      obtain ⟨herr, hall⟩ := ih (d.cameraChunk (4 * port + stream) (bs.take 1024)) (bs.drop 1024) hd'
        (by rw [List.length_drop]; omega) (by omega)
      exact ⟨herr, by rw [hall, hbuf, List.append_assoc, List.take_append_drop]⟩

/-- A frame's error mark is cleared, and its bytes stay. -/
theorem lookD_errorCleared (t : Tab CamState) (r : Nat) (h : (t.lookD r {}).error = false) :
    (t.adjust r fun x => { x with error := false }).lookD r {} = t.lookD r {} := by
  simp only [Tab.lookD, Tab.look_adjust, if_true] at h ⊢
  cases hx : t.look r with
  | none => rfl
  | some x =>
    simp only [hx, Option.getD_some] at h
    obtain ⟨buf, error⟩ := x
    subst h
    rfl

section
variable (d : Dev) {port stream vc : Nat} {lines : List (List Byte)} {c : CamCfg} {ty : Nat × Nat} (hport : port ∈ d.boot.camPorts)
  (hc : Tab.look d.boot.cams (4 * port + stream) = some c) (hvc : vc = stream) (hty : camType c.dt = some ty)
include hport hc hvc hty

/-- A frame that does not fit its stream's configuration. -/
theorem Dev.cameraFrame_unfit (h : lines.length ≠ c.h ∨ ¬ ∀ l ∈ lines, l.length = c.w * ty.1) :
    d.cameraFrame port stream vc c.dt lines = d.cameraError (4 * port + stream) := by
  have hgo : ¬ (port ∉ d.boot.camPorts ∨ vc ≠ stream ∨ c.dt ≠ c.dt) := by simp [hport, hvc]
  have hall : (lines.length ≠ c.h ∨ (!lines.all fun l => decide (l.length = c.w * ty.1)) = true) := by
    simpa [List.all_eq_true] using h
  simp only [Dev.cameraFrame, hc, if_neg hgo, hty, if_pos hall]

/-- A frame of the configured kind is taken in chunks. -/
theorem Dev.cameraFrame_fits (hh : lines.length = c.h) (hw : ∀ l ∈ lines, l.length = c.w * ty.1) :
    d.cameraFrame port stream vc c.dt lines =
      (let body := if c.dt = 0x1E then lines.flatten else lines.flatMap (camRow ty.2)
      let all := body ++ List.replicate (alignUp body.length 64 - body.length) (0 : Byte) ++
        (List.replicate 8 (0 : Byte) ++ leBytes 8 d.now ++ List.replicate 48 (0 : Byte))
      let e := d.cameraChunks (4 * port + stream) (all.length / 1024 + 1) all
      { e with cams := e.cams.adjust (4 * port + stream) fun x => { x with error := false } }) := by
  have hgo : ¬ (port ∉ d.boot.camPorts ∨ vc ≠ stream ∨ c.dt ≠ c.dt) := by simp [hport, hvc]
  have hall : ¬ (lines.length ≠ c.h ∨ (!lines.all fun l => decide (l.length = c.w * ty.1)) = true) := by
    simpa [List.all_eq_true, hh] using hw
  simp only [Dev.cameraFrame, hc, if_neg hgo, hty, if_neg hall]

end

/-- Settles O49: latches, underruns and camera frames. -/
theorem pipesLatchAndCamerasStore : Obligations.PipesLatchAndCamerasStore := by
  unfold Obligations.PipesLatchAndCamerasStore
  intro s t hp d
  refine ⟨fun p => ?_, fun p => ?_, fun p hs => ?_, fun port stream kind c hport hc => ?_,
    fun port stream vc lines c ty hport hc hvc hty => ⟨fun h => ?_, ?_⟩⟩
  · intro x hs hm hok
    refine ⟨_, ends_of_effect (exec_displayLatch s p t) hp (d.displayLatch_forms hs hm hok), Dev.reg_setReg_self _ _ _,
      Tab.lookD_put_self _ _ _ _, ?_⟩
    exact ((d.frame_dispReg p 0x10 _).mono (by simp) fun _ h => h).trans ((Dev.frame_pipes _ _).mono (by simp) (by simp))
  · intro x hs hm hok
    obtain ⟨hframe, hmark, hcnt⟩ := d.latchMissed_shows p.val
    have hlook : ∀ y, (((d.latchMissed p.val).putPipe p.val y).pipes.lookD p.val {}) = y := fun y => Tab.lookD_put_self _ _ _ _
    refine ⟨_, ends_of_effect (exec_displayLatch s p t) hp (d.displayLatch_misses hs hm hok), hframe, ?_, ?_, ?_, hmark, hcnt⟩ <;>
      rw [hlook] <;> rfl
  · refine ⟨d.underran p.val, ends_of_effect (exec_displayUnderrun s p t) hp (if_neg ?_), d.underran_shows p.val⟩
    rw [Bool.not_eq_true']
    exact ne_false_of_eq_true hs
  · refine ends_of_effect (exec_cameraFrameError s port stream kind t) hp (if_pos ⟨hport, ?_⟩)
    exact Option.isSome_iff_exists.mpr ⟨c, hc⟩
  · exact ends_of_effect (exec_cameraFrame s port stream vc c.dt lines t) hp (d.cameraFrame_unfit hport hc hvc hty h)
  · intro r x body all e y hh hw
    refine ⟨ends_of_effect (exec_cameraFrame s port stream vc c.dt lines t) hp (d.cameraFrame_fits hport hc hvc hty hh hw),
      fun hu herr hroom => ?_⟩
    obtain ⟨hok, hbuf⟩ := Dev.cameraChunks_buffer port.isLt stream.isLt (all.length / 1024 + 1) d all ⟨hu, herr⟩ (by omega) hroom
    have hy : y.cams.lookD r {} = e.cams.lookD r {} := lookD_errorCleared _ _ hok
    rw [hy]
    exact ⟨hok, hbuf⟩

end Sys2Proof.Machine

/-! SUPPORT. Frames on the gateway's ports and completions of reads never change the personality or the keys (R350 to R370, R447). -/

namespace Sys2Proof.Machine

/-- The personality and the keys of a device. -/
def Dev.persKeys (d : Dev) : Pers × Tab (List Byte) := (d.pers, d.keys)

theorem Dev.Frame.persKeys {d e : Dev} {ks : List Kind} {rs : Nat → Prop} (h : Dev.Frame d e ks rs) (hp : .personality ∉ ks)
    (hk : .keys ∉ ks) : e.persKeys = d.persKeys := Prod.ext (h.same .personality hp).1 (h.same .keys hk)

@[simp] theorem Dev.count_persKeys (d : Dev) (g i k : Nat) : (d.count g i k).persKeys = d.persKeys :=
  (d.frame_count g i k).persKeys (by decide) (by decide)

@[simp] theorem Dev.gwCount_persKeys (d : Dev) (p i k : Nat) : (d.gwCount p i k).persKeys = d.persKeys := d.count_persKeys _ _ _

@[simp] theorem Dev.setReg_persKeys (d : Dev) (a : Nat) (w : Word) : (d.setReg a w).persKeys = d.persKeys := rfl
@[simp] theorem Dev.setF_persKeys (d : Dev) (a hi lo v : Nat) : (d.setF a hi lo v).persKeys = d.persKeys := rfl
@[simp] theorem Dev.setB_persKeys (d : Dev) (a i : Nat) (b : Bool) : (d.setB a i b).persKeys = d.persKeys := rfl
@[simp] theorem Dev.logE_persKeys (d : Dev) (k c s a x : Nat) : (d.logE k c s a x).persKeys = d.persKeys := rfl

theorem Dev.persKeys_ite {b : Prop} [Decidable b] {d e : Dev} {x : Pers × Tab (List Byte)} (hd : d.persKeys = x) (he : e.persKeys = x) :
    (if b then d else e).persKeys = x := by
  split
  · exact hd
  · exact he

theorem Dev.wrN_persKeys (d : Dev) (a : Nat) (bs : List Byte) : (d.wrN a bs).persKeys = d.persKeys :=
  (d.frame_wrN_logged a bs).persKeys (by decide) (by decide)

theorem Dev.forEach_persKeys {α : Type} (l : List α) (f : α → Dev → Dev) (d : Dev) (h : ∀ x e, (f x e).persKeys = e.persKeys) :
    (forEach l f d).persKeys = d.persKeys := forEach_same Dev.persKeys f h l d

/-! ### Drops, policers and queues -/

@[simp] theorem Dev.ethDrop_persKeys (d : Dev) (p : Nat) (c : EthDrop) : (d.ethDrop p c).persKeys = d.persKeys := by
  unfold Dev.ethDrop
  simp only
  split <;> exact d.gwCount_persKeys p c.idx 1

@[simp] theorem Dev.police_persKeys (d : Dev) (i rate : Nat) : (d.police i rate).2.persKeys = d.persKeys := by
  unfold Dev.police
  simp only
  split
  · rfl
  · split <;> split <;> rfl

@[simp] theorem Dev.enqueue_persKeys (d : Dev) (ingress port tc : Nat) (f : EthFrame) : (d.enqueue ingress port tc f).persKeys = d.persKeys := by
  unfold Dev.enqueue
  simp only
  split
  · exact d.ethDrop_persKeys _ _
  · rfl

@[simp] theorem Dev.txqRefresh_persKeys (d : Dev) (ch : Nat) : (d.txqRefresh ch).persKeys = d.persKeys :=
  forUpTo_same Dev.persKeys _ (fun _ _ => rfl) 4 d

@[simp] theorem Dev.canQueue_persKeys (d : Dev) (ch cls : Nat) (f : CanFrame) : (d.canQueue ch cls f).persKeys = d.persKeys := by
  unfold Dev.canQueue
  exact Dev.persKeys_ite (d.gwCount_persKeys _ _ _)
    (Dev.persKeys_ite (d.gwCount_persKeys _ _ _) (Dev.txqRefresh_persKeys _ _))

@[simp] theorem Dev.canSend_persKeys (d : Dev) (i : Nat) (e : RtEntry) (ch : Nat) (f : CanFrame) (payload : List Byte) :
    (d.canSend i e ch f payload).persKeys = d.persKeys := by
  unfold Dev.canSend
  simp only
  split
  · exact d.canQueue_persKeys _ _ _
  · split
    · rfl
    · split
      · exact d.gwCount_persKeys _ _ _
      · split
        · exact d.gwCount_persKeys _ _ _
        · exact Dev.canQueue_persKeys _ _ _ _

@[simp] theorem Dev.sendBox_persKeys (d : Dev) (num : Nat) : (d.sendBox num).persKeys = d.persKeys := by
  unfold Dev.sendBox
  split
  · rfl
  · simp only
    split
    · rfl
    · exact (Dev.gwCount_persKeys _ _ _ _).trans (Dev.forEach_persKeys _ _ _ fun p e => e.enqueue_persKeys _ _ _ _)

@[simp] theorem Dev.addPdu_persKeys (d : Dev) (num : Nat) (p : Pdu) : (d.addPdu num p).persKeys = d.persKeys := by
  unfold Dev.addPdu
  split
  · rfl
  · simp only
    split
    · exact d.sendBox_persKeys num
    · rfl

/-! ### CAN -/

/-- A CAN frame that entry e, number i, has let through, with its payload or the counter of its drop. -/
def Dev.canRouted (d : Dev) (ch : Nat) (f : CanFrame) (e : RtEntry) (i : Nat) (checked : List Byte ⊕ Nat) : Dev :=
  match checked with
  | .inr k => d.gwCount (32 + ch) k
  | .inl payload =>
    let d := if rtAuthRx e then
        { d with gw := { d.gw with last := d.gw.last.put i (leNat (subBytes f.data (authLen f.xl (rtPlen e) - 12) 4)) } }
      else d
    if rtKind e = 2 then
      forEach (maskBits (rw_ e 3).toNat 16) (fun c d => d.canSend i e c f payload) d
    else
      (d.addPdu ((rw_ e 3).fld 7 0)
        { id := rw_ e 4, data := payload.take (rtPlen e), ver := rtAuthRx e, fmt := canFmt f, time := d.now }).gwCount (32 + ch) 10

theorem Dev.canHandle_of_route {d : Dev} {ch : Nat} {f : CanFrame} {e : RtEntry} {i : Nat}
    (h : (d.routes.find? fun e => rtCanMatch e.1 ch f) = some (e, i)) :
    d.canHandle ch f = if !(d.police i (rtRate e)).1 then (d.police i (rtRate e)).2.gwCount (32 + ch) 8
      else (d.police i (rtRate e)).2.canRouted ch f e i (if rtAuthRx e then (d.police i (rtRate e)).2.authCheck i e f else .inl f.data) := by
  unfold Dev.canHandle
  rw [h]
  rfl

theorem Dev.canRouted_persKeys (d : Dev) (ch : Nat) (f : CanFrame) (e : RtEntry) (i : Nat) (checked : List Byte ⊕ Nat) :
    (d.canRouted ch f e i checked).persKeys = d.persKeys := by
  cases checked with
  | inr k => exact d.gwCount_persKeys _ _ _
  | inl payload =>
    refine Dev.persKeys_ite ?_ ?_
    · exact (Dev.forEach_persKeys _ _ _ fun c x => x.canSend_persKeys _ _ _ _ _).trans (Dev.persKeys_ite rfl rfl)
    · exact (Dev.gwCount_persKeys _ _ _ _).trans ((Dev.addPdu_persKeys _ _ _).trans (Dev.persKeys_ite rfl rfl))

@[simp] theorem Dev.canHandle_persKeys (d : Dev) (ch : Nat) (f : CanFrame) : (d.canHandle ch f).persKeys = d.persKeys := by
  cases h : d.routes.find? fun e => rtCanMatch e.1 ch f with
  | none =>
    unfold Dev.canHandle
    rw [h]
    exact d.gwCount_persKeys _ _ _
  | some x =>
    obtain ⟨e, i⟩ := x
    rw [Dev.canHandle_of_route h]
    exact Dev.persKeys_ite ((Dev.gwCount_persKeys _ _ _ _).trans (d.police_persKeys _ _))
      ((Dev.canRouted_persKeys _ _ _ _ _ _).trans (d.police_persKeys _ _))

/-- A unit's injection mark. -/
def Dev.withInj (d : Dev) (b : Bool) : Dev := { d with injUnit := b }

@[simp] theorem Dev.withInj_persKeys (d : Dev) (b : Bool) : (d.withInj b).persKeys = d.persKeys := rfl

/-- The receive FIFO of a channel holds these frames (R273 item 3). -/
def Dev.setFifo (d : Dev) (ch : Nat) (l : List (CanFrame × Bool)) : Dev := { d with gw := { d.gw with canRx := d.gw.canRx.put ch l } }

/-- The receive FIFO of a channel is empty. -/
def Dev.noFifo (d : Dev) (ch : Nat) : Dev := { d with gw := { d.gw with canRx := d.gw.canRx.del ch } }

/-- The service handles the frames of a receive FIFO. -/
def Dev.canDrain (d : Dev) (ch : Nat) (l : List (CanFrame × Bool)) : Dev := forEach l (fun g d => (d.withInj g.2).canHandle ch g.1) d

theorem canIn_can (ch : Nat) (f : CanFrame) (b : Bool) (d : Dev) : canIn ch (.can f) b d =
    let e := d.gwCount (32 + ch) 11
    let l := e.gw.canRx.lookD ch [] 
    if e.cpaLost.isSome then if 64 ≤ l.length then e.gwCount (32 + ch) 1 else e.setFifo ch (l ++ [(f, e.injUnit)])
    else ((e.noFifo ch).canDrain ch (l ++ [(f, e.injUnit)])).withInj e.injUnit := rfl

theorem Dev.canDrain_persKeys (d : Dev) (ch : Nat) (l : List (CanFrame × Bool)) : (d.canDrain ch l).persKeys = d.persKeys :=
  Dev.forEach_persKeys _ _ _ fun g x => (Dev.canHandle_persKeys _ _ _).trans (x.withInj_persKeys g.2)

@[simp] theorem canIn_persKeys (ch : Nat) (u : FiUnit) (b : Bool) (d : Dev) : (canIn ch u b d).persKeys = d.persKeys := by
  cases u with
  | can f =>
    rw [canIn_can]
    have hcount : (d.gwCount (32 + ch) 11).persKeys = d.persKeys := d.gwCount_persKeys _ _ _
    refine Dev.persKeys_ite (Dev.persKeys_ite ((Dev.gwCount_persKeys _ _ _ _).trans hcount) hcount) ?_
    exact (Dev.withInj_persKeys _ _).trans ((Dev.canDrain_persKeys _ _ _).trans hcount)
  | _ => rfl

@[simp] theorem Dev.canTxError_persKeys (d : Dev) (ch : Nat) : (d.canTxError ch).persKeys = d.persKeys := by
  unfold Dev.canTxError
  simp only
  split
  · rw [Dev.logE_persKeys, Dev.gwCount_persKeys, Dev.txqRefresh_persKeys]
    exact forUpTo_same Dev.persKeys (fun q d => { d with gw := { d.gw with canTx := d.gw.canTx.del (ch * 4 + q) } }) (fun _ _ => rfl) 4 _
  · split <;> rfl

@[simp] theorem Dev.canSent_persKeys (d : Dev) (ch : Nat) (f : Option CanFrame) : (d.canSent ch f).persKeys = d.persKeys := by
  unfold Dev.canSent
  simp only [Dev.gwCount_persKeys]
  cases f <;> simp only <;> split <;> rfl

@[simp] theorem canOut_persKeys (ch q : Nat) (fails : Option CanFrame) (u : FiUnit) (b : Bool) (d : Dev) :
    (canOut ch q fails u b d).persKeys = d.persKeys := by
  unfold canOut
  split
  · split
    · exact d.canSent_persKeys _ _
    · exact (Dev.canTxError_persKeys _ _).trans (Dev.txqRefresh_persKeys _ _)
  · rfl

/-! ### Ethernet -/

@[simp] theorem Dev.bridgeRx_persKeys (d : Dev) (port : Nat) (payload : List Byte) : (d.bridgeRx port payload).persKeys = d.persKeys := by
  unfold Dev.bridgeRx
  split
  · rfl
  · refine Dev.forEach_persKeys _ _ _ fun p x => Dev.forEach_persKeys _ _ _ fun e y => ?_
    have hpol : (y.police e.2 (rtRate e.1)).2.persKeys = y.persKeys := y.police_persKeys _ _
    exact Dev.persKeys_ite ((Dev.ethDrop_persKeys _ _ _).trans hpol)
      ((Dev.forEach_persKeys _ _ _ fun c z => Dev.persKeys_ite (z.gwCount_persKeys _ _ _) (z.canSend_persKeys _ _ _ _ _)).trans hpol)

theorem Dev.macsecRx_persKeys {d e : Dev} {port : Nat} {bytes bs : List Byte} (h : d.macsecRx port bytes = some (bs, e)) :
    e.persKeys = d.persKeys := by
  unfold Dev.macsecRx at h
  simp only at h
  split at h
  · split at h
    · split at h <;> simp_all
    · simp at h
  · split at h
    · simp at h
    · split at h
      · simp at h
      · split at h
        · simp at h
        · split at h
          · simp at h
          · obtain ⟨-, rfl⟩ := Prod.mk.inj (Option.some.inj h)
            rfl

theorem Dev.cbRx_persKeys {d e : Dev} {i : Nat} {f g : EthFrame} (h : d.cbRx i f = some (g, e)) : e.persKeys = d.persKeys := by
  unfold Dev.cbRx at h
  split at h
  · obtain ⟨-, rfl⟩ := Prod.mk.inj (Option.some.inj h)
    rfl
  · simp only at h
    split at h
    · split at h
      · obtain ⟨-, rfl⟩ := Prod.mk.inj (Option.some.inj h)
        rfl
      · simp at h
    · split at h <;>
      · obtain ⟨-, rfl⟩ := Prod.mk.inj (Option.some.inj h)
        rfl

/-- The colour of a stream's frame, whether its yellow frames drop, and the device with the meter run (R362). -/
def Dev.streamMeter (d : Dev) (r : List Word) (len : Nat) : Nat × Bool × Dev :=
  match (rw_ r 3).bit 29, d.gw.table.meters.look ((rw_ r 3).fld 15 8) with
  | true, some m =>
    let x := meterRun m (d.gw.meters.lookD ((rw_ r 3).fld 15 8) ⟨m.cbs * 8000000, m.ebs * 8000000, d.now⟩) d.now len
    (x.1, m.dropYellow, { d with gw := { d.gw with meters := d.gw.meters.put ((rw_ r 3).fld 15 8) x.2 } })
  | _, _ => (0, false, d)

theorem Dev.streamMeter_persKeys (d : Dev) (r : List Word) (len : Nat) : (d.streamMeter r len).2.2.persKeys = d.persKeys := by
  unfold Dev.streamMeter
  split <;> rfl

/-- A stream's checks after its gate and its meter. -/
def Dev.streamMetered (r : List Word) (port : Nat) (ipv : Option Nat) (f : EthFrame) (mt : Nat × Bool × Dev) :
    (EthFrame × Option Nat × Nat × Dev) ⊕ Dev :=
  if mt.1 = 2 ∨ (mt.1 = 1 ∧ mt.2.1) then .inr (mt.2.2.ethDrop port .policed) else
  let f := if mt.1 = 1 then { f with dei := true } else f
  if !(rw_ r 3).bit 28 then .inl (f, ipv, 0, mt.2.2) else
  match mt.2.2.cbRx ((rw_ r 3).fld 22 16) f with
  | none => .inr mt.2.2
  | some (f, d) => .inl (f, ipv, ((d.gw.table.cb.look ((rw_ r 3).fld 22 16)).map (·.outMask)).getD 0, d)

theorem Dev.streamRx_of_stream {d : Dev} {port da : Nat} {f : EthFrame} {r : List Word} (h : d.streamOf port da f.vid = some r) (len : Nat) :
    ∃ (closed : Bool) (ipv : Option Nat), d.streamRx port da len f =
      if closed then .inr (d.ethDrop port .policed) else Dev.streamMetered r port ipv f (d.streamMeter r len) := by
  unfold Dev.streamRx
  rw [h]
  exact ⟨_, _, rfl⟩

/-- The device after a frame's stream checks, whether the frame goes on or is dropped. -/
def streamDev : (EthFrame × Option Nat × Nat × Dev) ⊕ Dev → Dev
  | .inl x => x.2.2.2
  | .inr e => e

theorem Dev.streamMetered_persKeys (r : List Word) (port : Nat) (ipv : Option Nat) (f : EthFrame) (mt : Nat × Bool × Dev) :
    (streamDev (Dev.streamMetered r port ipv f mt)).persKeys = mt.2.2.persKeys := by
  unfold Dev.streamMetered
  split
  · exact mt.2.2.ethDrop_persKeys _ _
  · simp only
    split
    · rfl
    · split
      · rfl
      · next h => exact Dev.cbRx_persKeys h

theorem Dev.streamRx_persKeys (d : Dev) (port da len : Nat) (f : EthFrame) :
    (streamDev (d.streamRx port da len f)).persKeys = d.persKeys := by
  cases hr : d.streamOf port da f.vid with
  | none =>
    unfold Dev.streamRx
    rw [hr]
    rfl
  | some r =>
    obtain ⟨closed, ipv, h⟩ := Dev.streamRx_of_stream hr len
    rw [h]
    cases closed
    · exact (Dev.streamMetered_persKeys _ _ _ _ _).trans (d.streamMeter_persKeys r len)
    · exact d.ethDrop_persKeys _ _

/-- A frame past its streams: bridging, its route, the egress queues (R351, R360). -/
def Dev.ethRouted (d : Dev) (port da : Nat) (f : EthFrame) (ipv : Option Nat) (replicas : Nat) : Dev :=
  let isBridge := decide (beNat (subBytes f.bytes 12 2) = 0x88B5) &&
    d.gw.table.entries.any fun e => decide (rtKind e = 4) && decide (rtIn e = port)
  let d := if isBridge then d.bridgeRx port (f.bytes.drop 14) else d
  match d.ethRoute port da f.vid with
  | none => if isBridge then d else d.ethDrop port .noRoute
  | some (e, i) =>
    let pol := d.police i (rtRate e)
    if !pol.1 then pol.2.ethDrop port .policed
    else forEach (maskBits (Nat.lor (rw_ e 3).toNat replicas) 22) (fun p d => d.enqueue port p (ipv.getD (rtTc e)) f) pol.2

theorem Dev.ethRouted_persKeys (d : Dev) (port da : Nat) (f : EthFrame) (ipv : Option Nat) (replicas : Nat) :
    (d.ethRouted port da f ipv replicas).persKeys = d.persKeys := by
  unfold Dev.ethRouted
  simp only
  generalize hb : (decide (beNat (subBytes f.bytes 12 2) = 0x88B5) &&
    d.gw.table.entries.any fun e => decide (rtKind e = 4) && decide (rtIn e = port)) = isBridge
  have hx : (if isBridge then d.bridgeRx port (f.bytes.drop 14) else d).persKeys = d.persKeys :=
    Dev.persKeys_ite (d.bridgeRx_persKeys _ _) rfl
  generalize (if isBridge then d.bridgeRx port (f.bytes.drop 14) else d) = x at hx ⊢
  split
  · exact (Dev.persKeys_ite rfl (x.ethDrop_persKeys _ _)).trans hx
  · next e i _ =>
    exact (Dev.persKeys_ite ((Dev.ethDrop_persKeys _ _ _).trans (x.police_persKeys _ _))
      ((Dev.forEach_persKeys _ _ _ fun p y => y.enqueue_persKeys _ _ _ _).trans (x.police_persKeys _ _))).trans hx

/-- A frame's checks from MACsec on. -/
theorem Dev.ethIn_cases (d : Dev) (port : Nat) (bytes : List Byte) (node : Nat) :
    (∃ c, d.ethIn port bytes node = d.ethDrop port c) ∨
    ∃ bs e, d.macsecRx port bytes = some (bs, e) ∧ ∃ da len f,
      d.ethIn port bytes node = match e.streamRx port da len f with
        | .inr x => x
        | .inl (g, ipv, replicas, x) => x.ethRouted port da g ipv replicas := by
  unfold Dev.ethIn
  simp only
  split
  · exact .inl ⟨_, rfl⟩
  · split
    · exact .inl ⟨_, rfl⟩
    · next bs e h => exact .inr ⟨bs, e, h, _, _, _, rfl⟩

theorem Dev.ethIn_persKeys (d : Dev) (port : Nat) (bytes : List Byte) (node : Nat) : (d.ethIn port bytes node).persKeys = d.persKeys := by
  obtain ⟨c, h⟩ | ⟨bs, e, hm, da, len, f, h⟩ := d.ethIn_cases port bytes node
  · rw [h, Dev.ethDrop_persKeys]
  · have hs := (e.streamRx_persKeys port da len f).trans (Dev.macsecRx_persKeys hm)
    rw [h]
    split
    · next heq => rwa [heq] at hs
    · next heq =>
      rw [heq] at hs
      exact (Dev.ethRouted_persKeys _ _ _ _ _ _).trans hs

theorem ethInOut_persKeys (port : Nat) (u : FiUnit) (b : Bool) (d : Dev) : (ethInOut port u b d).persKeys = d.persKeys := by
  unfold ethInOut
  split
  · exact d.ethIn_persKeys _ _ _
  · rfl

theorem ethDropped_persKeys (port : Nat) (d : Dev) : (ethDropped port d).persKeys = d.persKeys :=
  (Dev.gwCount_persKeys _ _ _ _).trans ((d.frame_freeCtr _).persKeys (by decide) (by decide))

/-- A frame in a receive ring of an IP port. -/
theorem Dev.ipRxWrite_persKeys (d : Dev) (i : Nat) (bytes : List Byte) : (d.ipRxWrite i bytes).persKeys = d.persKeys := by
  unfold Dev.ipRxWrite
  split
  · rfl
  · simp only
    split
    · exact d.gwCount_persKeys _ _ _
    · rw [Dev.gwCount_persKeys]
      refine ((Dev.frame_raise _ _).persKeys (by decide) (by decide)).trans ?_
      exact (Dev.wrN_persKeys _ _ _).trans ((Dev.wrN_persKeys _ _ _).trans (Dev.wrN_persKeys _ _ _))

theorem ethOutOut_persKeys (port : Nat) (u : FiUnit) (b : Bool) (d : Dev) : (ethOutOut port u b d).persKeys = d.persKeys := by
  unfold ethOutOut
  split
  · split
    · exact d.ipRxWrite_persKeys _ _
    · exact Dev.gwCount_persKeys _ _ _ _
  · rfl

theorem cplOut_persKeys (u : FiUnit) (ep : Bool) (d : Dev) : (cplOut u ep d).persKeys = d.persKeys := by
  unfold cplOut
  split
  · next bs bad inst _ =>
    simp only
    split
    · exact (d.frame_count (0x100 + inst) 2 1).persKeys (by decide) (by decide)
    · rfl
  · rfl

/-! ### Units of the injection paths, a new personality -/

theorem Dev.fiChoose_persKeys (d : Dev) (p : FiPath) (u : FiUnit) : (d.fiChoose p u).2.persKeys = d.persKeys := by
  unfold Dev.fiChoose
  split
  · rfl
  · refine foldl_keeps (fun x : Option Nat × Dev => x.2.persKeys = d.persKeys) _ (fun acc e h => ?_) _ _ rfl
    simp only
    split
    · exact h
    · split
      · exact (Dev.count_persKeys _ _ _ _).trans ((Dev.count_persKeys _ _ _ _).trans h)
      · exact (Dev.count_persKeys _ _ _ _).trans h

theorem Dev.fiStep_persKeys {out : FiUnit → Bool → Dev → Dev} {dropped : Dev → Dev} (ho : ∀ u b e, (out u b e).persKeys = e.persKeys)
    (hd : ∀ e, (dropped e).persKeys = e.persKeys) (d : Dev) (p : FiPath) (u : FiUnit) :
    (d.fiStep p u out dropped).persKeys = d.persKeys := by
  have hc := d.fiChoose_persKeys p u
  unfold Dev.fiStep
  simp only
  split
  · exact (ho _ _ _).trans hc
  · next e _ =>
    refine (Dev.withInj_persKeys _ _).trans ?_
    split
    · exact (hd _).trans hc
    · exact (ho _ _ _).trans hc
    · exact (ho _ _ _).trans hc
    · exact hc

theorem Dev.fiFree_persKeys (d : Dev) (h : FiHeld) : (d.fiFree h).persKeys = d.persKeys := by
  unfold Dev.fiFree
  simp only
  split
  · split
    · exact Dev.fiStep_persKeys (ethOutOut_persKeys _) (ethDropped_persKeys _) _ _ _
    · exact Dev.fiStep_persKeys (ethInOut_persKeys _) (ethDropped_persKeys _) _ _ _
  · split
    · split
      · exact Dev.fiStep_persKeys (canOut_persKeys _ _ _) (fun e => e.canSent_persKeys _ _) _ _ _
      · exact Dev.fiStep_persKeys (canIn_persKeys _) (fun _ => rfl) _ _ _
    · exact Dev.fiStep_persKeys cplOut_persKeys (dropped := cplDropped) (fun _ => rfl) _ _ _

theorem Dev.fiRelease_persKeys (d : Dev) (which : FiHeld → Bool) : (d.fiRelease which).persKeys = d.persKeys :=
  Dev.forEach_persKeys _ _ _ fun h e => e.fiFree_persKeys h

theorem Dev.fiCheck_persKeys (d : Dev) : d.fiCheck.persKeys = d.persKeys := by
  have hauto : d.fiAuto.persKeys = d.persKeys := Dev.persKeys_ite (Dev.fiRelease_persKeys _ _) rfl
  exact Dev.persKeys_ite rfl hauto

theorem Dev.postAll_persKeys (d : Dev) (code arg detail : Nat) : (d.postAll code arg detail).persKeys = d.persKeys :=
  Dev.forEach_persKeys _ _ _ fun k e => (e.frame_post k code arg detail).persKeys (by decide) (by decide)

theorem Dev.firstReport_keys (d : Dev) : d.firstReport.keys = d.keys := by
  unfold Dev.firstReport
  split <;> rfl

/-- The personality of an entry with its cap, before fault injection is looked at (R26, R277). -/
def Dev.entered (d : Dev) (p : Pers) (degraded : Bool) : Dev :=
  let d := (d.firstReport).setF aPwrCtrl 8 0 (d.capOf p)
  let d := if p = .service then d else d.setF aSafeOut 5 4 0
  { d with pers := p, degraded, trans := none, reported := true }

theorem Dev.enter_eq (d : Dev) (p : Pers) (degraded : Bool) :
    d.enter p degraded = (d.entered p degraded).fiCheck.persEvent.refreshWarn.refreshFault := rfl

theorem Dev.entered_keys (d : Dev) (p : Pers) (degraded : Bool) : (d.entered p degraded).keys = d.keys := by
  unfold Dev.entered
  simp only
  split <;> exact d.firstReport_keys

/-- R447: the units that an entry's fault injection sets free leave the personality it reports, and the keys. -/
theorem Dev.enter_persKeys (d : Dev) (p : Pers) (degraded : Bool) : (d.enter p degraded).persKeys = (p, d.keys) := by
  rw [Dev.enter_eq]
  calc _ = (d.entered p degraded).fiCheck.persEvent.refreshWarn.persKeys := rfl
    _ = (d.entered p degraded).fiCheck.persEvent.persKeys := (Dev.frame_refreshWarn _).persKeys (by decide) (by decide)
    _ = (d.entered p degraded).persKeys := (Dev.postAll_persKeys _ _ _ _).trans (Dev.fiCheck_persKeys _)
    _ = (p, d.keys) := Prod.ext rfl (d.entered_keys p degraded)

end Sys2Proof.Machine

/-! SUPPORT. What the rind keeps while every other rail is off (R456, R465, R467), and obligation O57. -/

namespace Sys2Proof.Machine

/-- The device with the rind's registers alone, its clocks not yet stopped. -/
def Dev.rindKept (d : Dev) (p : Power) : Dev :=
  { d.bareOn with regs := d.regs.filter fun (x : Nat × Word) => rindReg x.1, power := p, pers := d.pers, boot := d.boot,
                  keys := d.keys, faultLatched := d.faultLatched, auxOff := d.auxOff }

/-- A clock stands still. -/
def Dev.clkStill (d : Dev) (i : Nat) : Dev := (d.clkHalt i).setB (aClkStatus i) 25 false

theorem Dev.rindOnly_eq (d : Dev) (p : Power) : d.rindOnly p = (forUpTo 21 (fun i d => d.clkStill i) (d.rindKept p)).refreshFault := rfl

theorem Dev.rindOnly_same {γ : Type} (g : Dev → γ) (hg : ∀ e a w, g (Dev.setReg e a w) = g e) (d : Dev) (p : Power) :
    g (d.rindOnly p) = g (d.rindKept p) := by
  rw [Dev.rindOnly_eq]
  exact (hg _ _ _).trans (forUpTo_same g _ (fun i e => (hg _ _ _).trans ((hg _ _ _).trans (hg _ _ _))) 21 _)

theorem Dev.clkStill_reg_ne (d : Dev) (i : Nat) {a : Nat} (h : a ≠ aClkStatus i) : (d.clkStill i).reg a = d.reg a := by
  rw [Dev.clkStill, Dev.reg_setB_ne _ _ _ h, Dev.clkHalt, Dev.reg_setB_ne _ _ _ h, Dev.reg_setF_ne _ _ _ _ h]

theorem Dev.clkStill_off (d : Dev) (i : Nat) : (d.clkStill i).getB (aClkStatus i) 24 = false := by
  rw [Dev.clkStill, Dev.getB_setB_ne _ _ _ _ _ (by decide), Dev.clkHalt, Dev.getB_setB_self _ _ _ _ (by decide)]

/-- PWR_EVT is the rind's and stands (R456, R465). -/
theorem Dev.rindOnly_pwrEvt (d : Dev) (p : Power) : (d.rindOnly p).reg aPwrEvt = d.reg aPwrEvt := by
  have hclk : ∀ i, aPwrEvt ≠ aClkStatus i := fun i => by simp only [aPwrEvt, aPwr, aClkStatus, aClk]; omega
  have hkept : (d.rindKept p).reg aPwrEvt = d.reg aPwrEvt := by
    unfold Dev.reg
    rw [show (d.rindKept p).regs = d.regs.filter fun (x : Nat × Word) => rindReg x.1 from rfl, Tab.look_filter, if_pos (by decide)]
  rw [Dev.rindOnly_eq, Dev.refreshFault, Dev.reg_setB_ne _ _ _ (by decide)]
  exact (forUpTo_same (fun e : Dev => e.reg aPwrEvt) _ (fun i e => e.clkStill_reg_ne i (hclk i)) 21 _).trans hkept

/-- Every clock of the device stands still. -/
theorem Dev.rindOnly_clocks (d : Dev) (p : Power) (i : Nat) (hi : i < 21) : (d.rindOnly p).getB (aClkStatus i) 24 = false := by
  have hout : aClkStatus i ≠ aSafeOut := by simp only [aSafeOut, aClkStatus, aClk]; omega
  rw [Dev.rindOnly_eq, Dev.refreshFault, Dev.getB_of_reg (Dev.reg_setB_ne _ _ _ hout)]
  refine forEach_each (fun i (e : Dev) => e.getB (aClkStatus i) 24 = false) _ (fun i e => e.clkStill_off i) (fun i j e hij h => ?_)
    (List.range 21) _ i (List.mem_range.mpr hi)
  have hne : aClkStatus i ≠ aClkStatus j := by simp only [aClkStatus, aClk]; omega
  rw [Dev.getB_of_reg (e.clkStill_reg_ne j hne)]
  exact h

theorem anew_ends {c : Instr} {s : State} {f : Dev → Dev} {e : Dev} (hx : exec c s = s.anew f) (he : f s.dev = e) :
    exec c s = .next { s with dev := { e with fuse := s.dev.fuse } } := by
  rw [hx, State.anew, he]

/-- Settles O57: each of these commands gives the device anew with its fuses; what leaves the rind alone stops every clock and keeps
the rind's registers, and the units that SLEEP's entry sets free change neither the personality nor the keys. -/
theorem deviceResetsAndPower : Obligations.DeviceResetsAndPower := by
  intro s t d ends
  refine ⟨fun v hp hv hs => ?_, fun v hp hv => ?_, ?_, fun hp hd => ?_, ?_, ?_, fun rail n hp hr hn => ?_, fun rail hp hr hn => ?_,
    fun site hs hp => ?_, fun hp hk => ?_, fun timer pins hp hf => ?_⟩
  · have hpers : (s.dev.advance t).pers = .service := hs
    exact anew_ends (exec_rstDev s v t) (if_pos (by simp only [hp, hv, hpers]; rfl))
  · have hno : ¬ ((decide (s.dev.power = .on) && (v.bit 0 && decide (d.pers = .service))) = true) := by
      have hpers : d.pers = s.dev.pers := rfl
      rcases hv with hv | hv <;> simp [hv, hpers]
    exact anew_ends (exec_rstDev s v t) ((if_neg hno).trans (if_pos hp))
  · exact anew_ends (exec_resetN s t) rfl
  · exact anew_ends (exec_resetDelayExpire s t) (if_pos (by rw [hp, hd]; rfl))
  · exact anew_ends (exec_powerGood s t) rfl
  · exact ⟨s.dev.dark, anew_ends (exec_vinOvervoltage s t) rfl, anew_ends (exec_vinUndervoltage s t) rfl, rfl, rfl, rfl, rfl, rfl⟩
  · refine anew_ends (exec_railFault s rail t) ?_
    rw [Dev.railFault, hr, hn]
    exact if_pos hp
  · refine ⟨anew_ends (exec_railFault s rail t) ?_, ?_, ?_⟩
    · rw [Dev.railFault, hr, hn, if_pos hp]
      rfl
    · exact Dev.rindOnly_same Dev.power (fun _ _ _ => rfl) _ _
    · exact (Dev.getB_of_reg (Dev.rindOnly_pwrEvt _ _) 1).trans (Dev.getB_setB_self _ _ _ _ (by decide))
  · refine ⟨_, anew_ends (exec_thermalShutdown s site t) (if_neg (not_not.mpr hp)), Dev.rindOnly_same Dev.power (fun _ _ _ => rfl) _ _, ?_, ?_⟩
    · refine (Dev.getB_of_reg (Dev.rindOnly_pwrEvt _ _) 0).trans ?_
      rw [Dev.getB_setF_ne _ _ _ _ _ _ (by decide), Dev.getB_setB_self _ _ _ _ (by decide)]
    · refine (Dev.getF_of_reg (Dev.rindOnly_pwrEvt _ _) 15 8).trans ?_
      rw [Dev.getF_setF_self _ _ _ _ _ (by decide)]
      exact Nat.mod_eq_of_lt hs
  · refine ⟨_, anew_ends (exec_sleepCommit s t) (if_pos ⟨hp, hk⟩), Dev.rindOnly_same Dev.power (fun _ _ _ => rfl) _ _, ?_, ?_, ?_,
      fun i hi => Dev.rindOnly_clocks _ _ i hi⟩
    · exact (Dev.rindOnly_same Dev.pers (fun _ _ _ => rfl) _ _).trans (congrArg Prod.fst (Dev.enter_persKeys _ _ _))
    · exact Dev.rindOnly_same Dev.queues (fun _ _ _ => rfl) _ _
    · exact (Dev.rindOnly_same Dev.keys (fun _ _ _ => rfl) _ _).trans (congrArg Prod.snd (Dev.enter_persKeys _ _ _))
  · exact anew_ends (exec_sleepWake s timer pins t) (if_neg (by simp [hp, hf]))

end Sys2Proof.Machine

/-! SUPPORT. Debug enables, halted cores and keys (R428, R435, R437, R438, R441 to R445), and obligation O58. -/

namespace Sys2Proof.Machine

/-- A bit of a field just written. -/
theorem Dev.getB_setF_in (d : Dev) (a hi lo v i : Nat) (hlo : lo ≤ i) (hhi : i ≤ hi) (h : hi < 32) :
    (d.setF a hi lo v).getB a i = v.testBit (i - lo) := by
  rw [Dev.getB, Dev.setF, Dev.reg_setReg_self, Word.bit_eq, Word.getLsbD_put, if_pos ⟨hlo, hhi, by omega⟩]

/-- The counters of the device's own group reach no page. -/
theorem Dev.frame_countDev (d : Dev) (i k : Nat) : Dev.Frame d (d.countDev i k) [.counters, .interrupts, .log] cntRegs :=
  (d.noted_count (g := 0x0A) (by decide) i k).frame.mono (by simp) fun _ h => h

theorem Dev.frame_countDbg (d : Dev) (i : Nat) : Dev.Frame d (d.countDev i) [.counters, .interrupts, .log] fun a => a = aDbgStatus ∨ cntRegs a :=
  (d.frame_countDev i 1).mono (fun _ h => h) fun _ h => .inr h

/-! ### Certificates -/

theorem Dev.certCheck_le (d : Dev) (b : List Byte) : d.certCheck b ≤ 7 := by
  unfold Dev.certCheck
  simp only
  split_ifs <;> decide

/-- A certificate that every check passes opens its enables. -/
theorem Dev.debugCert_opens (d : Dev) {b : List Byte} (hl : b.length = 288) (ha : d.auxOff = false) (hc : d.certCheck b = 0) (k : Nat) (hk : k < 4)
    (hb : bitOf (wordAt b 28) k = true) : (d.debugCert b).getB aDbgStatus k = true ∧ (d.debugCert b).getB aDbgStatus (k + 4) = true := by
  rw [bitOf_eq] at hb
  have heq : d.debugCert b = ((d.setF aDbgStatus 7 4 (Nat.lor (d.getF aDbgStatus 7 4) (wordAt b 28))).setF aDbgStatus 3 0
      (Nat.lor ((d.setF aDbgStatus 7 4 (Nat.lor (d.getF aDbgStatus 7 4) (wordAt b 28))).getF aDbgStatus 3 0) (wordAt b 28))).countDev 48 := by
    simp [Dev.debugCert, hl, ha, hc]
  have hcnt : ∀ e : Dev, (e.countDev 48).reg aDbgStatus = e.reg aDbgStatus := fun e => (e.frame_countDev 48 1).regs _ (by simp only [cntRegs]; decide)
  rw [heq, Dev.getB_of_reg (hcnt _), Dev.getB_of_reg (hcnt _)]
  constructor
  · rw [Dev.getB_setF_in _ _ _ _ _ _ (by omega) (by omega) (by decide)]
    exact (Nat.testBit_lor _ _ _).trans (by rw [Nat.sub_zero, hb, Bool.or_true])
  · rw [Dev.getB_setF_ne _ _ _ _ _ _ (by omega), Dev.getB_setF_in _ _ _ _ _ _ (by omega) (by omega) (by decide)]
    exact (Nat.testBit_lor _ _ _).trans (by rw [Nat.add_sub_cancel, hb, Bool.or_true])

/-- A certificate that fails a check leaves its code and opens nothing. -/
theorem Dev.debugCert_fails (d : Dev) {b : List Byte} (hl : b.length = 288) (ha : d.auxOff = false) (hc : d.certCheck b ≠ 0) :
    (d.debugCert b).getF aDbgStatus 15 12 = d.certCheck b ∧ (d.debugCert b).getF aDbgStatus 7 0 = d.getF aDbgStatus 7 0 := by
  have heq : d.debugCert b = (d.setF aDbgStatus 15 12 (d.certCheck b)).countDev (48 + d.certCheck b) := by
    simp [Dev.debugCert, hl, ha, hc]
  have hcnt : ∀ (e : Dev) i, (e.countDev i).reg aDbgStatus = e.reg aDbgStatus := fun e i => (e.frame_countDev i 1).regs _ (by simp only [cntRegs]; decide)
  rw [heq, Dev.getF_of_reg (hcnt _ _), Dev.getF_of_reg (hcnt _ _)]
  have hle := d.certCheck_le b
  constructor
  · rw [Dev.getF_setF_self _ _ _ _ _ (by decide)]
    exact Nat.mod_eq_of_lt (by omega)
  · exact Dev.getF_setF_ne _ _ _ _ _ _ _ (.inl (by decide))

theorem Dev.frame_debugCert (d : Dev) (b : List Byte) :
    Dev.Frame d (d.debugCert b) [.counters, .interrupts, .log] fun a => a = aDbgStatus ∨ cntRegs a := by
  have hset : ∀ (e : Dev) hi lo v, Dev.Frame e (e.setF aDbgStatus hi lo v) [.counters, .interrupts, .log] fun a => a = aDbgStatus ∨ cntRegs a :=
    fun e hi lo v => (e.frame_setF aDbgStatus hi lo v (by decide) (by decide)).mono (by simp) fun _ h => .inl h
  unfold Dev.debugCert
  split
  · exact .refl _ _ _
  · simp only
    split
    · exact ((hset _ _ _ _).trans (hset _ _ _ _)).trans (Dev.frame_countDbg _ _)
    · exact (hset _ _ _ _).trans (Dev.frame_countDbg _ _)

/-! ### Halted cores -/

theorem Dev.frame_debug (d : Dev) (h : Tab Nat) (b : Bool) (l : List Nat) :
    Dev.Frame d { d with dbgHalt := h, dbgDenied := b, trace := l } [.debug] fun _ => False := by
  refine ⟨?_, fun _ _ => rfl, rfl, rfl, Nat.le_refl _⟩
  intro q hq
  cases q <;> simp [Dev.Same] at hq ⊢
  intro a; rfl

/-- A core is halted from now on, where it is not already. -/
def Dev.haltCore (d : Dev) (i : Nat) : Dev := if (d.dbgHalt.look i).isSome then d else { d with dbgHalt := d.dbgHalt.put i d.now }

theorem Dev.haltCore_look (d : Dev) (i : Nat) : ((d.haltCore i).dbgHalt.look i).isSome = true := by
  unfold Dev.haltCore
  split
  · assumption
  · exact congrArg Option.isSome (Tab.look_put_self _ _ _)

theorem Dev.haltCore_keeps (d : Dev) (i j : Nat) (h : (d.dbgHalt.look i).isSome = true) : ((d.haltCore j).dbgHalt.look i).isSome = true := by
  unfold Dev.haltCore
  split
  · exact h
  · by_cases hij : i = j
    · subst hij
      exact congrArg Option.isSome (Tab.look_put_self _ _ _)
    · exact (congrArg Option.isSome (Tab.look_put_ne _ _ hij)).trans h

theorem Dev.frame_haltCore (d : Dev) (i : Nat) : Dev.Frame d (d.haltCore i) [.debug] fun _ => False := by
  unfold Dev.haltCore
  split
  · exact .refl _ _ _
  · exact d.frame_debug _ _ _

theorem Dev.resumeCore_look (d : Dev) (i : Nat) : (d.resumeCore i).dbgHalt.look i = none := by
  unfold Dev.resumeCore
  split
  · assumption
  · simp only
    split
    · exact (Tab.look_del _ _ _).trans (if_pos rfl)
    · split <;> exact (Tab.look_del _ _ _).trans (if_pos rfl)

theorem Dev.resumeCore_keeps (d : Dev) (i j : Nat) (h : d.dbgHalt.look i = none) : (d.resumeCore j).dbgHalt.look i = none := by
  have hdel : (d.dbgHalt.del j).look i = none := by rw [Tab.look_del]; split <;> simp [h]
  unfold Dev.resumeCore
  split
  · exact h
  · simp only
    split
    · exact hdel
    · split <;> exact hdel

theorem Dev.frame_kicks (d : Dev) (a b : Nat) : Dev.Frame d { d with kickA := a, kickB := b } [.debug, .safety] fun _ => False := by
  refine ⟨?_, fun _ _ => rfl, rfl, rfl, Nat.le_refl _⟩
  intro q hq
  cases q <;> simp [Dev.Same] at hq ⊢
  intro a; rfl

theorem Dev.frame_resumeCore (d : Dev) (i : Nat) : Dev.Frame d (d.resumeCore i) [.debug, .safety] fun _ => False := by
  have hdel := (d.frame_debug (d.dbgHalt.del i) d.dbgDenied d.trace).mono (ks' := [.debug, .safety]) (by simp) fun _ h => h
  unfold Dev.resumeCore
  split
  · exact .refl _ _ _
  · simp only
    split
    · exact hdel.trans (Dev.frame_kicks _ _ _)
    · split
      · exact hdel.trans (Dev.frame_kicks _ _ _)
      · exact hdel

theorem Dev.mem_copies (d : Dev) (n : Nat) : n ∈ d.copies n := by
  unfold Dev.copies
  split
  · simp; omega
  · simp

theorem Dev.forEach_haltCore (d : Dev) {l : List Nat} {n : Nat} (h : n ∈ l) :
    ((forEach l (fun i d => d.haltCore i) d).dbgHalt.look n).isSome = true :=
  forEach_each (fun i (e : Dev) => (e.dbgHalt.look i).isSome = true) _ (fun i e => e.haltCore_look i)
    (fun i j e _ he => e.haltCore_keeps i j he) l d n h

theorem Dev.forEach_resumeCore (d : Dev) {l : List Nat} {n : Nat} (h : n ∈ l) : (forEach l (fun i d => d.resumeCore i) d).dbgHalt.look n = none :=
  forEach_each (fun i (e : Dev) => e.dbgHalt.look i = none) _ (fun i e => e.resumeCore_look i)
    (fun i j e _ he => e.resumeCore_keeps i j he) l d n h

/-! ### What the debug access port does -/

theorem Dev.debugAccess_halt (d : Dev) {n : Nat} (hn : n < 26) (ha : d.auxOff = false) : d.debugAccess (.halt n) =
    if d.dbgEn (if d.viCore n then 0 else 2) then forEach (d.copies n) (fun i d => d.haltCore i) d else d.deny := by
  have hn' : ¬ 26 ≤ n := by omega
  unfold Dev.debugAccess
  rw [if_neg (by simp [ha])]
  simp only [hn', if_false]
  cases d.dbgEn (if d.viCore n then 0 else 2) <;> rfl

theorem Dev.debugAccess_resume (d : Dev) {n : Nat} (hn : n < 26) (ha : d.auxOff = false)
    (he : d.dbgEn (if d.viCore n then 0 else 2) = true) : d.debugAccess (.resume n) = forEach (d.copies n) (fun i d => d.resumeCore i) d := by
  have hn' : ¬ 26 ≤ n := by omega
  unfold Dev.debugAccess
  rw [if_neg (by simp [ha])]
  simp only [hn', if_false, he]
  rfl

theorem Dev.debugAccess_trace (d : Dev) {n : Nat} (hn : n < 26) (ha : d.auxOff = false) : d.debugAccess (.trace n) =
    if d.dbgEn (if d.viCore n then 1 else 3) then { d with trace := insertNew d.trace (if n < 24 then n / 8 * 8 else n) } else d.deny := by
  have hn' : ¬ 26 ≤ n := by omega
  unfold Dev.debugAccess
  rw [if_neg (by simp [ha])]
  simp only [hn', if_false]
  cases d.dbgEn (if d.viCore n then 1 else 3) <;> rfl

theorem Dev.debugAccess_read (d : Dev) (ha : d.auxOff = false) (h0 : d.dbgEn 0 = true) (a : Nat) :
    d.debugAccess (.read a) = d.fwRead .dbg a := by
  simp [Dev.debugAccess, ha, h0]

theorem Dev.debugAccess_write (d : Dev) (ha : d.auxOff = false) (h0 : d.dbgEn 0 = true) (a : Nat) (v : Word) :
    d.debugAccess (.write a v) = d.fwWrite .dbg a v := by
  simp [Dev.debugAccess, ha, h0]

theorem Dev.debugAccess_read_denied (d : Dev) (ha : d.auxOff = false) (h0 : d.dbgEn 0 = false) (h1 : d.dbgEn 1 = false)
    (h2 : d.dbgEn 2 = false) (a : Nat) : d.debugAccess (.read a) = d.deny := by
  simp [Dev.debugAccess, ha, h0, h1, h2]

theorem Dev.debugAccess_write_denied (d : Dev) (ha : d.auxOff = false) (h0 : d.dbgEn 0 = false) (h2 : d.dbgEn 2 = false) (a : Nat) (v : Word) :
    d.debugAccess (.write a v) = d.deny := by
  simp [Dev.debugAccess, ha, h0, h2]

theorem Dev.debugAccess_clear (d : Dev) (ha : d.auxOff = false) : d.debugAccess .clearDenied = { d with dbgDenied := false } := by
  simp [Dev.debugAccess, ha]

theorem Dev.frame_lastAcc (d : Dev) (r : AccResult) : Dev.Frame d { d with lastAcc := r } [.accesses] fun _ => False := by
  refine ⟨?_, fun _ _ => rfl, rfl, rfl, Nat.le_refl _⟩
  intro q hq
  cases q <;> simp [Dev.Same] at hq ⊢
  intro a; rfl

theorem Dev.frame_deny (d : Dev) : Dev.Frame d d.deny [.debug, .counters, .accesses, .interrupts, .log] cntRegs := by
  have hcnt := (d.frame_countDev 56 1).mono (ks' := [.debug, .counters, .accesses, .interrupts, .log]) (rs' := cntRegs) (by simp) fun _ h => h
  have hmark := ((d.countDev 56).frame_debug (d.countDev 56).dbgHalt true (d.countDev 56).trace).mono
    (ks' := [.debug, .counters, .accesses, .interrupts, .log]) (rs' := cntRegs) (by simp) (by simp)
  have hread := (d.dbgDeny.frame_lastAcc (.read [0, 0, 0, 0])).mono
    (ks' := [.debug, .counters, .accesses, .interrupts, .log]) (rs' := cntRegs) (by simp) (by simp)
  exact (hcnt.trans hmark).trans hread

theorem Dev.deny_dbgHalt (d : Dev) : d.deny.dbgHalt = d.dbgHalt := by
  have h : (d.countDev 56).dbgHalt = d.dbgHalt := ((d.frame_countDev 56 1).same .debug (by decide)).1
  dsimp only [Dev.deny, Dev.dbgDeny]
  rw [h]

theorem Dev.deny_trace (d : Dev) : d.deny.trace = d.trace := by
  have h : (d.countDev 56).trace = d.trace := ((d.frame_countDev 56 1).same .debug (by decide)).2.2
  dsimp only [Dev.deny, Dev.dbgDeny]
  rw [h]

/-! ### CLOSE and ZEROISE -/

theorem bitsOf_lt (n hi lo : Nat) : bitsOf n hi lo < 2 ^ (hi + 1 - lo) := Nat.mod_lt _ (Nat.two_pow_pos _)

theorem testBit_sub_land (x m k : Nat) (hx : x < 16) (hm : m < 16) (hk : k < 4) (h : m.testBit k = true) :
    (x - Nat.land x m).testBit k = false := by
  have hall : ∀ x < 16, ∀ m < 16, ∀ k < 4, m.testBit k = true → (x - Nat.land x m).testBit k = false := by decide
  exact hall x hx m hm k hk h

/-- CLOSE closes the enables of its mask that a certificate opened. -/
theorem Dev.closeDbg_closes (d : Dev) (v : Word) (k : Nat) (hk : k < 4) (hv : v.bit k = true) :
    (d.closeDbg (v.fld 3 0)).getB aDbgStatus (k + 4) = false := by
  have hmask : (v.fld 3 0).testBit k = true := by
    rw [Word.testBit_fld, ← Word.bit_eq, Nat.zero_add, hv, Bool.and_true]
    exact decide_eq_true hk
  unfold Dev.closeDbg
  simp only
  rw [Dev.getB_setF_ne _ _ _ _ _ _ (by omega), Dev.getB_setF_in _ _ _ _ _ _ (by omega) (by omega) (by decide), Nat.add_sub_cancel]
  exact testBit_sub_land _ _ k (bitsOf_lt _ 7 4) (bitsOf_lt _ 3 0) hk hmask

/-- Every association of the device has lost its keys. -/
def Dev.msecEmpty (d : Dev) : Dev :=
  { d with gw := { d.gw with macsec := d.gw.macsec.map fun (p : Nat × Macsec) => (p.1, { p.2 with valid := [] }) } }

theorem Dev.zeroise_eq (d : Dev) : d.zeroise =
    forEach (({ d with keys := [] } : Dev).keyBits.gw.macsec.keys) (fun p d => d.msecStatus p) (({ d with keys := [] } : Dev).keyBits.msecEmpty) := rfl

theorem Dev.zeroise_same {γ : Type} (g : Dev → γ) (hg : ∀ e a w, g (Dev.setReg e a w) = g e) (d : Dev) :
    g d.zeroise = g (({ d with keys := [] } : Dev).keyBits.msecEmpty) := by
  rw [Dev.zeroise_eq]
  exact forEach_same g _ (fun p e => (hg _ _ _).trans (hg _ _ _)) _ _

/-- A map over a table's values. -/
theorem Tab.look_map_values {α β : Type} (f : α → β) (t : Tab α) (k : Nat) :
    Tab.look (t.map fun (p : Nat × α) => (p.1, f p.2)) k = (Tab.look t k).map f := by
  induction t with
  | nil => rfl
  | cons c t ih =>
    obtain ⟨j, v⟩ := c
    simp only [List.map_cons, Tab.look]
    split
    · rfl
    · exact ih

theorem Dev.msecEmpty_valid (d : Dev) {p : Nat} {x : Macsec} (h : d.msecEmpty.gw.macsec.look p = some x) : x.valid = [] := by
  have hmap : (d.gw.macsec.look p).map (fun y : Macsec => { y with valid := [] }) = some x :=
    (Tab.look_map_values _ d.gw.macsec p).symm.trans h
  obtain ⟨y, -, rfl⟩ := Option.map_eq_some_iff.mp hmap
  rfl

/-- The registers that show keys and associations (R357, R435). -/
def keyRegs (a : Nat) : Prop := a = aKeyValidLo ∨ a = aKeyValidHi ∨ a = aKeyValidX ∨ ∃ p, a = aSwPortStatus p

theorem Dev.frame_keys (d : Dev) (k : Tab (List Byte)) : Dev.Frame d { d with keys := k } [.keys, .gateway] keyRegs := by
  refine ⟨?_, fun _ _ => rfl, rfl, rfl, Nat.le_refl _⟩
  intro q hq
  cases q <;> simp [Dev.Same] at hq ⊢
  intro a; rfl

theorem Dev.frame_msecEmpty (d : Dev) : Dev.Frame d d.msecEmpty [.keys, .gateway] keyRegs := by
  refine ⟨?_, fun _ _ => rfl, rfl, rfl, Nat.le_refl _⟩
  intro q hq
  cases q <;> simp [Dev.Same, Dev.msecEmpty] at hq ⊢
  intro a; rfl

theorem Dev.frame_keyBits (d : Dev) : Dev.Frame d d.keyBits [.keys, .gateway] keyRegs := by
  have hset : ∀ (e : Dev) a w, keyRegs a → aBwrIlvLo ≠ a → aBwrIlvHi ≠ a → Dev.Frame e (e.setReg a w) [.keys, .gateway] keyRegs :=
    fun e a w ha hl hh => (e.frame_setReg a w hl hh).mono (by simp) fun b hb => hb ▸ ha
  exact ((hset _ _ _ (.inl rfl) (by decide) (by decide)).trans (hset _ _ _ (.inr (.inl rfl)) (by decide) (by decide))).trans
    (hset _ _ _ (.inr (.inr (.inl rfl))) (by decide) (by decide))

theorem Dev.frame_msecStatus (d : Dev) (p : Nat) : Dev.Frame d (d.msecStatus p) [.keys, .gateway] keyRegs := by
  have hl : aBwrIlvLo ≠ aSwPortStatus p := by simp only [aBwrIlvLo, aBwr, aSwPortStatus, aSwPort]; omega
  have hh : aBwrIlvHi ≠ aSwPortStatus p := by simp only [aBwrIlvHi, aBwr, aSwPortStatus, aSwPort]; omega
  have hreg : ∀ b, b = aSwPortStatus p → keyRegs b := fun b hb => .inr (.inr (.inr ⟨p, hb⟩))
  exact ((d.frame_setF _ _ _ _ hl hh).mono (by simp) hreg).trans ((Dev.frame_setB _ _ _ _ hl hh).mono (by simp) hreg)

theorem Dev.frame_zeroise (d : Dev) : Dev.Frame d d.zeroise [.keys, .gateway] keyRegs := by
  rw [Dev.zeroise_eq]
  exact (((d.frame_keys []).trans (Dev.frame_keyBits _)).trans (Dev.frame_msecEmpty _)).trans
    (Dev.Frame.forEach _ _ (fun p _ e => e.frame_msecStatus p) _)

/-- Settles O58: the certificate, the debug port and the registers of keys and worlds, each by its own lemma. -/
theorem debugAndKeysAreGuarded : Obligations.DebugAndKeysAreGuarded := by
  intro s t hp d o
  refine ⟨fun b hl ha => ⟨d.debugCert b, ends_of_effect (exec_debugCert s b t) hp rfl, d.frame_debugCert b, ?_⟩, fun n hn ha => ⟨fun he => ⟨?_, ?_⟩, fun he => ?_⟩,
    fun ha he a v => ⟨ends_of_effect (exec_debugAccess s _ t) hp (d.debugAccess_read ha he a),
      ends_of_effect (exec_debugAccess s _ t) hp (d.debugAccess_write ha he a v)⟩,
    fun n hn ha => ⟨_, ends_of_effect (exec_debugAccess s _ t) hp (d.debugAccess_trace hn ha), ?_⟩,
    fun ha h0 h1 h2 a => ⟨_, ends_of_effect (exec_debugAccess s _ t) hp (d.debugAccess_read_denied ha h0 h1 h2 a), rfl, rfl⟩,
    fun ha h0 h2 a v => ⟨_, ends_of_effect (exec_debugAccess s _ t) hp (d.debugAccess_write_denied ha h0 h2 a v), rfl, d.frame_deny⟩,
    fun ha => ⟨_, ends_of_effect (exec_debugAccess s _ t) hp (d.debugAccess_clear ha), rfl, d.frame_debug _ _ _⟩,
    fun v => ⟨ends_of_effect (exec_debugClose s v) hp rfl, fun k hk hv => o.closeDbg_closes v k hk hv⟩, fun v hv => ?_, ?_⟩
  · split
    · next hc => exact fun k hk hb => d.debugCert_opens hl ha hc k hk hb
    · next hc => exact d.debugCert_fails hl ha hc
  · refine ⟨_, ends_of_effect (exec_debugAccess s _ t) hp ((d.debugAccess_halt hn ha).trans (if_pos he)), d.forEach_haltCore (d.mem_copies n), ?_⟩
    exact Dev.Frame.forEach _ _ (fun i _ e => e.frame_haltCore i) _
  · refine ⟨_, ends_of_effect (exec_debugAccess s _ t) hp (d.debugAccess_resume hn ha he), d.forEach_resumeCore (d.mem_copies n), ?_⟩
    exact Dev.Frame.forEach _ _ (fun i _ e => e.frame_resumeCore i) _
  · exact ⟨_, ends_of_effect (exec_debugAccess s _ t) hp ((d.debugAccess_halt hn ha).trans (if_neg (by simp [he]))), d.deny_dbgHalt, rfl, rfl⟩
  · by_cases he : d.dbgEn (if d.viCore n then 1 else 3) = true
    · rw [if_pos he, if_pos he]
      exact ⟨mem_insertNew _ _, d.frame_debug _ _ _⟩
    · rw [if_neg he, if_neg he]
      exact ⟨rfl, d.deny_trace⟩
  · refine ⟨o.zeroise, ends_of_effect (exec_keyZeroise s v) hp (if_pos hv), ?_, ?_, ?_, ?_⟩
    · exact Dev.zeroise_same Dev.keys (fun _ _ _ => rfl) o
    · rw [Dev.zeroise_same Dev.gw (fun _ _ _ => rfl) o]
      exact fun p x h => Dev.msecEmpty_valid _ h
    · exact Dev.zeroise_same Dev.queues (fun _ _ _ => rfl) o
    · exact o.frame_zeroise.same .memory (by decide)
  · exact ⟨_, ends_of_effect (exec_worldLock s) hp rfl, Dev.getB_setB_self _ _ _ _ (by decide), o.frame_setB _ _ _ (by decide) (by decide)⟩

end Sys2Proof.Machine

/-! SUPPORT. Clocks and reset domains (R398 to R411), and obligation O55. -/

namespace Sys2Proof.Machine

/-! ### Registers of clocks and domains -/

theorem clkCtrl_ne_status (i j : Nat) : aClkCtrl i ≠ aClkStatus j := by simp only [aClkCtrl, aClkStatus, aClk]; omega
theorem clkStatus_ne_ctrl (i j : Nat) : aClkStatus i ≠ aClkCtrl j := fun h => clkCtrl_ne_status j i h.symm
theorem clkStatus_ne_wake (i j : Nat) : aClkStatus i ≠ aClkWake j := by simp only [aClkWake, aClkStatus, aClk]; omega
theorem clkStatus_not_cnt (i : Nat) : ¬ cntRegs (aClkStatus i) := by simp only [cntRegs, aCntOvfStat, aClkStatus, aClk]; omega
theorem clkCtrl_not_cnt (i : Nat) : ¬ cntRegs (aClkCtrl i) := by simp only [cntRegs, aCntOvfStat, aClkCtrl, aClk]; omega
theorem rstStatus_not_cnt (r : Nat) : ¬ cntRegs (aRstDomStatus r) := by
  simp only [cntRegs, aCntOvfStat, aRstDomStatus, aRstDomCtrl, aRst]; omega
theorem rstStatus_ne_clkStatus (r i : Nat) (hi : i < 22) : aRstDomStatus r ≠ aClkStatus i := by
  simp only [aRstDomStatus, aRstDomCtrl, aRst, aClkStatus, aClk]; omega
theorem rstStatus_ne_clkWake (r i : Nat) : aRstDomStatus r ≠ aClkWake i := by
  simp only [aRstDomStatus, aRstDomCtrl, aRst, aClkWake, aClk]; omega

theorem Dev.countDev_clkStatus (d : Dev) (k i : Nat) : (d.countDev k).reg (aClkStatus i) = d.reg (aClkStatus i) :=
  (d.frame_countDev k 1).regs _ (clkStatus_not_cnt i)

theorem Dev.countDev_clkCtrl (d : Dev) (k i : Nat) : (d.countDev k).reg (aClkCtrl i) = d.reg (aClkCtrl i) :=
  (d.frame_countDev k 1).regs _ (clkCtrl_not_cnt i)

theorem Dev.countDev_rstStatus (d : Dev) (k r : Nat) : (d.countDev k).reg (aRstDomStatus r) = d.reg (aRstDomStatus r) :=
  (d.frame_countDev k 1).regs _ (rstStatus_not_cnt r)

/-! ### A clock that runs, and one that is stopped -/

theorem Dev.clkRun_reg_ne (d : Dev) (i k : Nat) {a : Nat} (h : a ≠ aClkStatus i) : (d.clkRun i k).reg a = d.reg a := by
  rw [Dev.clkRun, Dev.reg_setB_ne _ _ _ h, Dev.reg_setB_ne _ _ _ h, Dev.reg_setF_ne _ _ _ _ h]

theorem Dev.clkRun_runs (d : Dev) (i k : Nat) : (d.clkRun i k).getB (aClkStatus i) 24 = true := by
  rw [Dev.clkRun, Dev.getB_setB_ne _ _ _ _ _ (by decide), Dev.getB_setB_self _ _ _ _ (by decide)]

theorem Dev.clkRun_freq (d : Dev) (i k : Nat) (hk : k < 2 ^ 24) : (d.clkRun i k).getF (aClkStatus i) 23 0 = k := by
  rw [Dev.clkRun, Dev.setB, Dev.setB, Dev.getF_setF_ne _ _ _ _ _ _ _ (.inl (by decide)), Dev.getF_setF_ne _ _ _ _ _ _ _ (.inl (by decide)),
    Dev.getF_setF_self _ _ _ _ _ (by decide)]
  exact Nat.mod_eq_of_lt hk

theorem Dev.clkHalt_off (d : Dev) (i : Nat) : (d.clkHalt i).getB (aClkStatus i) 24 = false :=
  Dev.getB_setB_self _ _ _ _ (by decide)

theorem Dev.clkHalt_freq (d : Dev) (i : Nat) : (d.clkHalt i).getF (aClkStatus i) 23 0 = 0 := by
  rw [Dev.clkHalt, Dev.setB, Dev.getF_setF_ne _ _ _ _ _ _ _ (.inl (by decide)), Dev.getF_setF_self _ _ _ _ _ (by decide)]
  rfl

theorem Dev.clkHalt_reg_ne (d : Dev) (i : Nat) {a : Nat} (h : a ≠ aClkStatus i) : (d.clkHalt i).reg a = d.reg a := by
  rw [Dev.clkHalt, Dev.reg_setB_ne _ _ _ h, Dev.reg_setF_ne _ _ _ _ h]

theorem Dev.frame_clkHalt (d : Dev) (i : Nat) : Dev.Frame d (d.clkHalt i) [] fun a => a = aClkStatus i := by
  have hl : aBwrIlvLo ≠ aClkStatus i := by simp only [aBwrIlvLo, aBwr, aClkStatus, aClk]; omega
  have hh : aBwrIlvHi ≠ aClkStatus i := by simp only [aBwrIlvHi, aBwr, aClkStatus, aClk]; omega
  exact (d.frame_setF _ _ _ _ hl hh).trans (Dev.frame_setB _ _ _ _ hl hh)

theorem Dev.clkOn_reg_ne (d : Dev) (i : Nat) {a : Nat} (h : a ≠ aClkStatus i) : (d.clkOn i).reg a = d.reg a := by
  unfold Dev.clkOn
  split
  · rfl
  · exact d.clkRun_reg_ne i _ h

/-- Every clock's frequency fits its field (R398, R399). -/
theorem Dev.clkFor_lt (d : Dev) (i req : Nat) : d.clkFor i req < 2 ^ 24 := by
  have htop : clkTop i ≤ 2200000 := by unfold clkTop; split_ifs <;> decide
  have hmax : d.clkMax i ≤ 2200000 := by
    unfold Dev.clkMax
    split
    · decide
    · exact htop
  have hlo : ∀ p, clkStep i = some p → p.2 ≤ 400000 := by
    intro p
    unfold clkStep
    split_ifs <;> simp <;> rintro rfl <;> decide
  unfold Dev.clkFor
  split
  · next st lo hs =>
    have := hlo _ hs
    simp only at this
    omega
  · split <;> omega

/-! ### Writes of CLK_CTRL -/

/-- A clock's CLK_CTRL with a requested frequency in its field, the clock following it. -/
def Dev.clkAsked (d : Dev) (i f : Nat) : Dev :=
  let d := { d with capBase := d.capBase.del (64 + i) }
  ((d.setF (aClkCtrl i) 23 0 f).clkRun i (d.clkFor i f)).countDev 2

/-- AUTOGATE and STOP as written. -/
def Dev.clkMode (d : Dev) (i : Nat) (v : Word) : Dev := (d.setB (aClkCtrl i) 25 (v.bit 25)).setB (aClkCtrl i) 24 (v.bit 24)

theorem Dev.clkMode_status (d : Dev) (i : Nat) (v : Word) : (d.clkMode i v).reg (aClkStatus i) = d.reg (aClkStatus i) := by
  rw [Dev.clkMode, Dev.reg_setB_ne _ _ _ (clkStatus_ne_ctrl i i), Dev.reg_setB_ne _ _ _ (clkStatus_ne_ctrl i i)]

theorem Dev.clkAsked_ctrl (d : Dev) (i f : Nat) : (d.clkAsked i f).reg (aClkCtrl i) = (d.setF (aClkCtrl i) 23 0 f).reg (aClkCtrl i) :=
  (Dev.countDev_clkCtrl _ _ _).trans (Dev.clkRun_reg_ne _ _ _ (clkCtrl_ne_status i i))

/-- What a write of CLK_CTRL does with FREQ. -/
def Dev.clkFreq (d : Dev) (i : Nat) (v : Word) : Dev :=
  if (clkStep i).isSome && decide (v.fld 23 0 ≠ d.getF (aClkCtrl i) 23 0) then
    if d.getB (aClkStatus i) 24 then d.clkAsked i (v.fld 23 0)
    else ({ d with capBase := d.capBase.del (64 + i) } : Dev).noEffect 71 (aClkCtrl i) v
  else { d with capBase := d.capBase.del (64 + i) }

/-- What a write of CLK_CTRL does with AUTOGATE and STOP. -/
def Dev.clkGate (d : Dev) (i : Nat) (v : Word) : Dev :=
  if noStop i then d.clkMode i v
  else if v.bit 24 then (d.clkMode i v).clkHalt i
  else if d.getB (aClkCtrl i) 24 && (d.clkMode i v).clkMay i then ((d.clkMode i v).clkOn i).settle
  else d.clkMode i v

theorem Dev.clkWrite_eq (d : Dev) (i : Nat) (v : Word) : d.clkWrite i v = (d.clkFreq i v).clkGate i v := rfl

/-- A new frequency of a clock that runs. -/
theorem Dev.clkWrite_asked (d : Dev) {i : Nat} {v : Word} (hs : (clkStep i).isSome = true) (hf : v.fld 23 0 ≠ d.getF (aClkCtrl i) 23 0)
    (hr : d.getB (aClkStatus i) 24 = true) (hv : v.bit 24 = false) (hc : d.getB (aClkCtrl i) 24 = false) :
    d.clkWrite i v = (d.clkAsked i (v.fld 23 0)).clkMode i v := by
  have hgo : ((clkStep i).isSome && decide (v.fld 23 0 ≠ d.getF (aClkCtrl i) 23 0)) = true := by rw [hs, decide_eq_true hf]; rfl
  have hnew : d.clkFreq i v = d.clkAsked i (v.fld 23 0) := (if_pos hgo).trans (if_pos hr)
  have hwas : (d.clkAsked i (v.fld 23 0)).getB (aClkCtrl i) 24 = false :=
    (Dev.getB_of_reg (d.clkAsked_ctrl i _) 24).trans ((Dev.getB_setF_ne _ _ _ _ _ _ (.inr (by decide))).trans hc)
  rw [Dev.clkWrite_eq, hnew, Dev.clkGate, hv, hwas]
  simp

/-- STOP of a clock that takes it. -/
theorem Dev.clkWrite_stop (d : Dev) {i : Nat} {v : Word} (hn : noStop i = false) (hv : v.bit 24 = true) :
    d.clkWrite i v = ((d.clkFreq i v).clkMode i v).clkHalt i := by
  rw [Dev.clkWrite_eq, Dev.clkGate, hn, hv]
  rfl

/-! ### A clock's failure -/

theorem Dev.reportAs_cpaLost (d : Dev) (cls : RepClass) (c s x : Nat) : (d.reportAs cls c s x).cpaLost = d.cpaLost := by
  unfold Dev.reportAs
  split
  · rfl
  · simp only
    split
    · rfl
    · split <;> rfl

theorem Dev.loseCpa_ne (d : Dev) : d.loseCpa.cpaLost ≠ none := by
  unfold Dev.loseCpa
  split
  · next h => exact fun hn => by simp [hn] at h
  · exact Option.some_ne_none _

theorem Dev.loseCpb_ne (d : Dev) : d.loseCpb.cpbLost ≠ none := by
  unfold Dev.loseCpb
  split
  · next h => exact fun hn => by simp [hn] at h
  · exact Option.some_ne_none _

theorem Dev.loseCpb_cpaLost (d : Dev) : d.loseCpb.cpaLost = d.cpaLost := by
  unfold Dev.loseCpb
  split
  · rfl
  · exact d.reportAs_cpaLost _ _ _ _

theorem Dev.report_clkFail (d : Dev) (c s : Nat) : (d.report c s).clkFail = d.clkFail :=
  ((d.frame_report c s 0).same .supervision (by decide)).2.2.1

theorem Dev.loseCpa_clkFail (d : Dev) : d.loseCpa.clkFail = d.clkFail := by
  unfold Dev.loseCpa
  split
  · rfl
  · exact d.report_clkFail _ _

theorem Dev.loseCpb_clkFail (d : Dev) : d.loseCpb.clkFail = d.clkFail := by
  unfold Dev.loseCpb
  split
  · rfl
  · exact d.report_clkFail _ _

/-- MON_FAULT of a clock with its log entry and its counter (R400). -/
def Dev.monFault (d : Dev) (i : Nat) : Dev := ((d.setB (aClkStatus i) 26 true).logE 15 0 i (aClkStatus i) 0).countDev 3

theorem Dev.clkFails_die (d : Dev) {i : Nat} (hr : d.getB (aClkStatus i) 24 = true) (hi : i ≤ 3) :
    d.clkFails i = (((d.monFault i).domReset (3 + i) true).offline i).settle :=
  (if_neg (by simp [hr])).trans (if_pos hi)

theorem Dev.clkFails_control (d : Dev) {i : Nat} (hr : d.getB (aClkStatus i) 24 = true) (hi : i ∈ [4, 8, 20, 21]) :
    d.clkFails i = ({ d.monFault i with clkFail := true } : Dev).loseCpa.loseCpb := by
  have h3 : ¬ i ≤ 3 := by simp at hi; omega
  have hstack : ¬ (decide (16 ≤ i) && decide (i ≤ 19)) = true := by simp at hi ⊢; omega
  exact (if_neg (by simp [hr])).trans ((if_neg h3).trans ((if_neg hstack).trans (if_pos (decide_eq_true hi))))

theorem Dev.clkFails_domain (d : Dev) {i : Nat} (hr : d.getB (aClkStatus i) 24 = true) (hi : i ∈ [5, 6, 7, 9, 10, 11, 12, 13, 14, 15]) :
    d.clkFails i = (((d.monFault i).domReset (clkDomain i) true).post 64 15 i 0).settle := by
  have h3 : ¬ i ≤ 3 := by simp at hi; omega
  have hstack : ¬ (decide (16 ≤ i) && decide (i ≤ 19)) = true := by simp at hi ⊢; omega
  have hcp : ¬ decide (i ∈ [4, 8, 20, 21]) = true := by simp at hi ⊢; omega
  exact (if_neg (by simp [hr])).trans ((if_neg h3).trans ((if_neg hstack).trans (if_neg hcp)))

/-! ### Gated domains -/

theorem Dev.gatedNow_iff (d : Dev) (i : Nat) : d.gatedNow i = true ↔ autoGated i = true ∧ d.getB (aClkCtrl i) 25 = true ∧
    d.getB (aClkCtrl i) 24 = false ∧ d.getB (aClkStatus i) 24 = false ∧ d.getF (aRstDomStatus (clkDomain i)) 2 0 = 0 := by
  simp [Dev.gatedNow, and_assoc]

theorem Dev.clkOn_runs (d : Dev) (i : Nat) (h : d.getB (aClkCtrl i) 24 = false) : (d.clkOn i).getB (aClkStatus i) 24 = true := by
  rw [Dev.clkOn, h]
  exact d.clkRun_runs i _

/-- The clock of a gated domain runs again after a wake. -/
theorem Dev.domainWake_runs (d : Dev) {i : Nat} (h : d.gatedNow i = true) : (d.domainWake i).getB (aClkStatus i) 24 = true := by
  obtain ⟨-, -, hstop, -, -⟩ := (d.gatedNow_iff i).mp h
  have heq : d.domainWake i = ((d.fresh.2.clkOn i).countDev 0).setF (aClkWake i) 15 0
      (max (((d.fresh.2.clkOn i).countDev 0).getF (aClkWake i) 15 0) (d.fresh.1 % 201)) := if_neg (by simp [h])
  rw [heq, Dev.getB_of_reg (Dev.reg_setF_ne _ _ _ _ (clkStatus_ne_wake i i)), Dev.getB_of_reg (Dev.countDev_clkStatus _ _ _)]
  exact Dev.clkOn_runs _ _ hstop

theorem Dev.wakeTimeout_marks (d : Dev) {i : Nat} (h : d.gatedNow i = true) (h9 : i ≠ 9) :
    d.wakeTimeout i = (d.setB (aClkStatus i) 26 true).countDev 1 := by
  unfold Dev.wakeTimeout
  rw [if_neg (by simp [h])]
  simp only [h9, if_false]
  split <;> rfl

/-! ### Requested resets -/

theorem Dev.countDev_tb (d : Dev) (k : Nat) : (d.countDev k).tb = d.tb := (d.noted_count (g := 0x0A) (by decide) k 1).time

theorem Dev.clkOn_tb (d : Dev) (i : Nat) : (d.clkOn i).tb = d.tb := by
  unfold Dev.clkOn
  split <;> rfl

theorem Dev.domainWake_rstStatus (d : Dev) (i r : Nat) (hi : i < 22) :
    (d.domainWake i).reg (aRstDomStatus r) = d.reg (aRstDomStatus r) := by
  unfold Dev.domainWake
  split
  · rfl
  · rw [Dev.reg_setF_ne _ _ _ _ (rstStatus_ne_clkWake r i), Dev.countDev_rstStatus, Dev.clkOn_reg_ne _ _ (rstStatus_ne_clkStatus r i hi)]
    rfl

theorem Dev.domainWake_now (d : Dev) (i : Nat) : (d.domainWake i).now = d.now := by
  unfold Dev.domainWake
  split
  · rfl
  · exact congrArg (· / 2 ^ 32) ((Dev.countDev_tb _ _).trans (Dev.clkOn_tb _ _))

/-- A domain is quiesced from now on. -/
def Dev.domQuiesce (d : Dev) (r : Nat) : Dev := { d.setF (aRstDomStatus r) 2 0 1 with rstT := d.rstT.put r d.now }

theorem Dev.domQuiesce_state (d : Dev) (r : Nat) : (d.domQuiesce r).getF (aRstDomStatus r) 2 0 = 1 := Dev.getF_setF_self _ _ _ _ _ (by decide)

theorem Dev.domQuiesce_since (d : Dev) (r : Nat) : (d.domQuiesce r).rstT.look r = some d.now := Tab.look_put_self _ _ _

/-- A request for a compute die's domain tears down the contexts that work there. -/
theorem Dev.rstReq_die (d : Dev) {r : Nat} (hz : d.getF (aRstDomStatus r) 2 0 = 0) (ha : d.rstAllowed r = true) (hr : r < 7) :
    d.rstReq r = ((d.domQuiesce r).tearAll fun c => (d.domQuiesce r).ctxOn c (r - 3) || (d.domQuiesce r).ctxIn c (r - 3)).settle := by
  have h3 : 3 ≤ r := by
    refine Nat.lt_of_not_le fun h2 => ?_
    rw [Dev.rstAllowed, if_pos h2] at ha
    exact Bool.false_ne_true ha
  have hwake : ¬ (decide (7 ≤ r) && decide (r ≤ 10)) = true := by simp; omega
  have hdie : (decide (3 ≤ r) && decide (r ≤ 6)) = true := by simp; omega
  unfold Dev.rstReq
  simp only [ha, hz, hwake, hdie, if_true, if_false, ne_eq, not_true_eq_false, Bool.not_true, Bool.false_eq_true]
  rfl

/-- Waiting accesses of a cluster's cores are gone with its domain. -/
def Dev.domDrained (d : Dev) (r : Nat) : Dev :=
  if decide (7 ≤ r) && decide (r ≤ 9) then { d with waiting := d.waiting.filter fun w => !w.ofCluster (r - 7) } else d

theorem Dev.domDrained_same (d : Dev) (r : Nat) : (d.domDrained r).regs = d.regs ∧ (d.domDrained r).rstT = d.rstT := by
  unfold Dev.domDrained
  split <;> exact ⟨rfl, rfl⟩

/-- A gated domain is woken before it is quiesced. -/
def Dev.domAwake (d : Dev) (r : Nat) : Dev := if decide (7 ≤ r) && decide (r ≤ 10) then d.domainWake (wakeClock r) else d

theorem Dev.domAwake_now (d : Dev) (r : Nat) : (d.domAwake r).now = d.now := by
  unfold Dev.domAwake
  split
  · exact d.domainWake_now _
  · rfl

/-- A request for another domain. -/
theorem Dev.rstReq_hub (d : Dev) {r : Nat} (hz : d.getF (aRstDomStatus r) 2 0 = 0) (ha : d.rstAllowed r = true) (hr : 7 ≤ r) :
    d.rstReq r = ((d.domAwake r).domQuiesce r).domDrained r := by
  have hdie : ¬ (decide (3 ≤ r) && decide (r ≤ 6)) = true := by simp; omega
  unfold Dev.rstReq
  rw [ha, hz]
  exact if_neg hdie

theorem Dev.rstReq_hub_state (d : Dev) {r : Nat} (hz : d.getF (aRstDomStatus r) 2 0 = 0) (ha : d.rstAllowed r = true) (hr : 7 ≤ r) :
    (d.rstReq r).getF (aRstDomStatus r) 2 0 = 1 ∧ (d.rstReq r).rstT.look r = some d.now := by
  obtain ⟨hregs, hrst⟩ := ((d.domAwake r).domQuiesce r).domDrained_same r
  rw [d.rstReq_hub hz ha hr]
  constructor
  · exact (Dev.getF_of_reg (Dev.reg_congr hregs _) 2 0).trans (Dev.domQuiesce_state _ r)
  · rw [hrst, Dev.domQuiesce_since, d.domAwake_now]

theorem Dev.rstReq_denied (d : Dev) {r : Nat} (ha : d.rstAllowed r = false) : d.rstReq r = d.noEffect 71 (aRstDomCtrl r) 1 :=
  if_pos (by rw [ha]; rfl)

theorem Dev.rstEnter_quiet (d : Dev) {r : Nat} (hz : d.getF (aRstDomStatus r) 2 0 = 1) (hi : d.inFlight r = false) :
    d.rstEnter r = (d.domReset r false).settle := by
  unfold Dev.rstEnter
  rw [if_neg (not_not.mpr hz)]
  simp only [hi, Bool.false_and, Bool.false_eq_true, if_false]

/-- A display pipe's domain is in reset (R408, R409). -/
theorem Dev.domReset_pipe (d : Dev) {r : Nat} (h11 : 11 ≤ r) (h14 : r ≤ 14) : (d.domReset r false).getF (aRstDomStatus r) 2 0 = 2 ∧
    (d.domReset r false).getB (aRstDomStatus r) 3 = false := by
  have heff : ∀ x : Dev, (x.domEffect r false).regs = x.regs := by
    intro x
    unfold Dev.domEffect
    rw [if_neg (by simp; omega), if_neg (by simp; omega), if_neg (by omega), if_pos (by simp; omega)]
  have hreg : (d.domReset r false).reg (aRstDomStatus r) =
      ((d.setF (aRstDomStatus r) 2 0 2).setB (aRstDomStatus r) 3 false).reg (aRstDomStatus r) := by
    refine Eq.trans ?_ (Dev.countDev_rstStatus _ (4 + 2 * r) r)
    exact congrArg (fun t => (Tab.look t (aRstDomStatus r)).getD (regReset (aRstDomStatus r))) (heff _)
  constructor
  · rw [Dev.getF_of_reg hreg, Dev.setB, Dev.getF_setF_ne _ _ _ _ _ _ _ (.inl (by decide)), Dev.getF_setF_self _ _ _ _ _ (by decide)]
    rfl
  · rw [Dev.getB_of_reg hreg, Dev.getB_setB_self _ _ _ _ (by decide)]

theorem domClocks_lt {r i : Nat} (hr : r < 20) (h : i ∈ domClocks r) : i < 22 := by
  unfold domClocks at h
  split at h
  · simp at *; omega
  · split at h
    · simp at *; omega
    · split at h <;> simp at h; omega

/-- A release lets the domain run, with its clocks. -/
theorem Dev.rstRelease_runs (d : Dev) {r : Nat} (hr : r < 20) (hz : d.getF (aRstDomStatus r) 2 0 = 2) : ∃ e : Dev,
    e.getF (aRstDomStatus r) 2 0 = 0 ∧ d.rstRelease r = e.settle := by
  refine ⟨_, ?_, if_neg (by simp [hz])⟩
  have hreg : ∀ l : List Nat, (∀ i ∈ l, i < 22) → ∀ x : Dev,
      (forEach l (fun i d => d.clkOn i) x).reg (aRstDomStatus r) = x.reg (aRstDomStatus r) := by
    intro l
    induction l with
    | nil => exact fun _ _ => rfl
    | cons i l ih =>
      intro hl x
      exact (ih (fun j hj => hl j (List.mem_cons_of_mem _ hj)) _).trans
        (x.clkOn_reg_ne i (rstStatus_ne_clkStatus r i (hl i List.mem_cons_self)))
  rw [Dev.getF_of_reg (hreg _ (fun i h => domClocks_lt hr h) _), Dev.getF_setF_self _ _ _ _ _ (by decide)]
  rfl

/-- Settles O55: each row by the lemma on its effect. -/
theorem clocksAndDomainsFollow : Obligations.ClocksAndDomainsFollow := by
  intro s i r t hp d
  refine ⟨fun v => ⟨fun hs hf hr hv hc => ?_, fun hn hv => ?_⟩, fun hr => ⟨fun hi => ?_, fun hi => ?_, fun hi => ?_⟩, fun hg => ⟨?_, fun h9 => ?_⟩,
    fun ha hc hr hi => ?_, fun hz ha => ?_, fun ha => ?_, fun hz hi => ?_, fun h11 h14 => d.domReset_pipe h11 h14, fun hz => ?_⟩
  · refine ⟨_, ends_of_effect (exec_clkFreqSet s i v t) hp (d.clkWrite_asked hs hf hr hv hc), ?_, ?_, ?_⟩
    · rw [Dev.clkMode, Dev.setB, Dev.setB, Dev.getF_setF_ne _ _ _ _ _ _ _ (.inl (by decide)), Dev.getF_setF_ne _ _ _ _ _ _ _ (.inl (by decide)),
        Dev.getF_of_reg (d.clkAsked_ctrl _ _), Dev.getF_setF_self _ _ _ _ _ (by decide)]
      exact Nat.mod_eq_of_lt (bitsOf_lt _ 23 0)
    · rw [Dev.getF_of_reg (Dev.clkMode_status _ _ _), Dev.clkAsked, Dev.getF_of_reg (Dev.countDev_clkStatus _ _ _),
        Dev.clkRun_freq _ _ _ (Dev.clkFor_lt _ _ _)]
      rfl
    · rw [Dev.clkMode, Dev.getB_setB_ne _ _ _ _ _ (by decide), Dev.getB_setB_self _ _ _ _ (by decide)]
  · refine ⟨_, ends_of_effect (exec_clkFreqSet s i v t) hp (d.clkWrite_stop hn hv), Dev.clkHalt_off _ _, Dev.clkHalt_freq _ _, ?_⟩
    rw [Dev.getB_of_reg (Dev.clkHalt_reg_ne _ _ (clkCtrl_ne_status _ _)), Dev.clkMode, Dev.getB_setB_self _ _ _ _ (by decide), hv]
  · exact ends_of_effect (exec_clkMonFault s i t) hp (d.clkFails_die hr hi)
  · refine ⟨_, ends_of_effect (exec_clkMonFault s i t) hp (d.clkFails_control hr hi), ?_, ?_, Dev.loseCpb_ne _⟩
    · rw [Dev.loseCpb_clkFail, Dev.loseCpa_clkFail]
    · rw [Dev.loseCpb_cpaLost]
      exact Dev.loseCpa_ne _
  · exact ends_of_effect (exec_clkMonFault s i t) hp (d.clkFails_domain hr hi)
  · exact ⟨_, ends_of_effect (exec_domainWake s i t) hp rfl, d.domainWake_runs hg⟩
  · obtain ⟨-, -, -, hoff, -⟩ := (d.gatedNow_iff i.val).mp hg
    refine ⟨_, ends_of_effect (exec_domainWakeTimeout s i t) hp (d.wakeTimeout_marks hg h9), ?_, ?_⟩
    · rw [Dev.getB_of_reg (Dev.countDev_clkStatus _ _ _), Dev.getB_setB_self _ _ _ _ (by decide)]
    · rw [Dev.getB_of_reg (Dev.countDev_clkStatus _ _ _), Dev.getB_setB_ne _ _ _ _ _ (by decide)]
      exact hoff
  · refine ⟨_, ends_of_effect (exec_autogateStop s i) hp (if_pos ?_), Dev.clkHalt_off _ _, Dev.frame_clkHalt _ _⟩
    have hstop : (autoGated i.val && s.dev.getB (aClkCtrl i.val) 25 && s.dev.getB (aClkStatus i.val) 24 && s.dev.idleDomain i.val) = true := by
      simp [ha, hc, hr, hi]
    exact hstop
  · by_cases hr : 7 ≤ r.val
    · obtain ⟨hq, hs⟩ := d.rstReq_hub_state hz ha hr
      exact ⟨_, hq, hs, fun _ => ends_of_effect (exec_rstDomReq s r t) hp rfl, fun h => absurd h (by omega)⟩
    · exact ⟨_, d.domQuiesce_state _, d.domQuiesce_since _, fun h => absurd h hr,
        fun h => ends_of_effect (exec_rstDomReq s r t) hp (d.rstReq_die hz ha h)⟩
  · exact ends_of_effect (exec_rstDomReq s r t) hp (d.rstReq_denied ha)
  · exact ends_of_effect (exec_rstDomInReset s r t) hp (d.rstEnter_quiet hz hi)
  · obtain ⟨e, he, heq⟩ := d.rstRelease_runs r.isLt hz
    exact ⟨e, he, ends_of_effect (exec_rstDomRel s r t) hp heq⟩

end Sys2Proof.Machine

/-! SUPPORT. Sensors, duties, the limiter and the cap (R457, R460 to R464), and obligation O54. -/

namespace Sys2Proof.Machine

/-! ### Engine duties -/

theorem gxDuty_inj {e f : Nat} (h : aGxDuty e = aGxDuty f) : e = f := by
  simp only [aGxDuty, aGx, dieBase] at h
  omega

theorem gxDuty_ge (e : Nat) : 0x7F10000000 ≤ aGxDuty e := by simp only [aGxDuty, aGx, dieBase]; omega

/-- Registers of the hub are not an engine's duty. -/
theorem hub_ne_gxDuty {a : Nat} (h : a < 0x7F10000000) (e : Nat) : a ≠ aGxDuty e := fun he => by
  have := gxDuty_ge e
  omega

/-- What a count of an open amount leaves as it was. -/
theorem Dev.countFree_reg (d : Dev) (g i : Nat) {a : Nat} (h : ¬ cntRegs a) : (d.countFree g i).reg a = d.reg a :=
  (Dev.reg_congr rfl a : (d.countFree g i).reg a = (d.count g i (Config.freeNat d.freeCtr)).reg a).trans ((d.frame_count g i _).regs a h)

theorem Dev.dutyCount_reg (d : Dev) (e : Nat) {a : Nat} (h : ¬ cntRegs a) : (d.dutyCount e).reg a = d.reg a := by
  unfold Dev.dutyCount
  split
  · exact d.countFree_reg _ _ h
  · rfl

theorem Dev.dutyCount_therm (d : Dev) (e : Nat) : (d.dutyCount e).therm = d.therm := by
  unfold Dev.dutyCount
  split <;> rfl

theorem Dev.setHwDuty_reg_ne (d : Dev) (e x : Nat) {a : Nat} (h : ¬ cntRegs a) (ha : a ≠ aGxDuty e) : (d.setHwDuty e x).reg a = d.reg a := by
  rw [Dev.setHwDuty, Dev.reg_setF_ne _ _ _ _ ha, Dev.dutyCount_reg _ _ h]

theorem Dev.setHwDuty_therm (d : Dev) (e x : Nat) : (d.setHwDuty e x).therm = d.therm := d.dutyCount_therm e

theorem Dev.hwDuty_lt (d : Dev) (e : Nat) : d.hwDuty e < 16 := bitsOf_lt _ 3 0

theorem Dev.hwDuty_setHwDuty_self (d : Dev) (e x : Nat) (hx : x < 16) : (d.setHwDuty e x).hwDuty e = x := by
  rw [Dev.hwDuty, Dev.setHwDuty, Dev.getF_setF_self _ _ _ _ _ (by decide)]
  exact Nat.mod_eq_of_lt hx

theorem Dev.hwDuty_setHwDuty_ne (d : Dev) {e f : Nat} (x : Nat) (h : f ≠ e) : (d.setHwDuty e x).hwDuty f = d.hwDuty f :=
  Dev.getF_of_reg (d.setHwDuty_reg_ne e x (cntRegs_lt (gxDuty_ge f)) fun he => h (gxDuty_inj he)) 3 0

theorem Dev.thermDuty_congr {d e : Dev} (h : e.therm = d.therm) (g : Nat) : e.thermDuty g = d.thermDuty g := by
  rw [Dev.thermDuty, Dev.thermDuty, h]

/-! ### What the whole device's engines do -/

/-- A step that sets each engine's duty from its own present one. -/
theorem Dev.forUpTo_setHwDuty (f : Dev → Nat → Nat) (hlt : ∀ d e, f d e < 16)
    (hf : ∀ d e : Dev, ∀ g, e.therm = d.therm → e.hwDuty g = d.hwDuty g → f e g = f d g) (n : Nat) (d : Dev) :
    (forUpTo n (fun e d => d.setHwDuty e (f d e)) d).therm = d.therm ∧
    ∀ g, (forUpTo n (fun e d => d.setHwDuty e (f d e)) d).hwDuty g = if g < n then f d g else d.hwDuty g := by
  induction n with
  | zero => exact ⟨rfl, fun g => rfl⟩
  | succ n ih =>
    obtain ⟨ht, hd⟩ := ih
    rw [forUpTo_succ]
    refine ⟨(Dev.setHwDuty_therm _ _ _).trans ht, fun g => ?_⟩
    by_cases hg : g = n
    · subst hg
      rw [Dev.hwDuty_setHwDuty_self _ _ _ (hlt _ _), if_pos (Nat.lt_succ_self g)]
      exact hf _ _ g ht ((hd g).trans (if_neg (Nat.lt_irrefl g)))
    · rw [Dev.hwDuty_setHwDuty_ne _ _ hg, hd]
      exact if_congr (by omega) rfl rfl

theorem Dev.forUpTo_setHwDuty_reg (f : Dev → Nat → Nat) (n : Nat) (d : Dev) {a : Nat} (h : ¬ cntRegs a) (ha : a < 0x7F10000000) :
    (forUpTo n (fun e d => d.setHwDuty e (f d e)) d).reg a = d.reg a :=
  forUpTo_same (fun x : Dev => x.reg a) _ (fun e x => x.setHwDuty_reg_ne e _ h (hub_ne_gxDuty ha e)) n d

/-! ### Sensors -/

theorem sensorsDiffer_iff (x y : Int) : sensorsDiffer (some x) (some y) = true ↔ 50 < x - y ∨ 50 < y - x := by
  simp only [sensorsDiffer, decide_eq_true_eq]
  omega

theorem not_cntRegs_of_ne {a : Nat} (h : a ≠ aCntOvfStat) : ¬ cntRegs a := h

/-- A check of a site's sensors touches SENSOR alone. -/
theorem Dev.sensorCheck_reg (d : Dev) (site : Nat) (x y : Option Int) {a : Nat} (h : ¬ cntRegs a) (ha : a ≠ aPwrStatus) :
    (d.sensorCheck site x y).reg a = d.reg a := by
  unfold Dev.sensorCheck
  split
  · exact ((Dev.frame_countDev _ _ _).regs a h).trans (d.reg_setB_ne _ _ ha)
  · rfl

theorem Dev.sensorCheck_sensor (d : Dev) {site : Nat} (hs : site < 74) (x y : Option Int) :
    (d.sensorCheck site x y).getB aPwrStatus 5 = (d.getB aPwrStatus 5 || sensorsDiffer x y) := by
  unfold Dev.sensorCheck
  rw [decide_eq_true hs, Bool.true_and]
  cases sensorsDiffer x y with
  | false => simp
  | true =>
    rw [if_pos rfl, Dev.getB_of_reg ((Dev.frame_countDev _ _ _).regs _ (not_cntRegs_of_ne (by decide))),
      Dev.getB_setB_self _ _ _ _ (by decide), Bool.or_true]

theorem Dev.countDev_therm (d : Dev) (i : Nat) : (d.countDev i).therm = d.therm :=
  ((d.frame_countDev i 1).same .supervision (by decide)).2.2.2.2.2.1

theorem Dev.sensorCheck_therm (d : Dev) (site : Nat) (x y : Option Int) : (d.sensorCheck site x y).therm = d.therm := by
  unfold Dev.sensorCheck
  split
  · exact Dev.countDev_therm _ _
  · rfl

theorem Dev.tjSample_reg (d : Dev) (site : Nat) (tj : Int) {a : Nat} (ha : a ≠ aPwrTjmax) : (d.tjSample site tj).reg a = d.reg a := by
  unfold Dev.tjSample
  simp only
  split
  · rw [Dev.reg_setF_ne _ _ _ _ ha, Dev.reg_setF_ne _ _ _ _ ha]
  · rfl

theorem Dev.tjSample_therm (d : Dev) (site : Nat) (tj : Int) : (d.tjSample site tj).therm = d.therm := by
  unfold Dev.tjSample
  simp only
  split <;> rfl

/-- A reading of a site: its sensors checked and its temperature shown. -/
def Dev.siteRead (d : Dev) (site : Nat) (x y : Option Int) : Dev := (d.sensorCheck site x y).tjSample site (siteReading x y)

theorem Dev.siteRead_therm (d : Dev) (site : Nat) (x y : Option Int) : (d.siteRead site x y).therm = d.therm :=
  (Dev.tjSample_therm _ _ _).trans (d.sensorCheck_therm site x y)

theorem Dev.siteRead_hwDuty (d : Dev) (site : Nat) (x y : Option Int) (g : Nat) : (d.siteRead site x y).hwDuty g = d.hwDuty g :=
  Dev.getF_of_reg ((Dev.tjSample_reg _ _ _ (hub_ne_gxDuty (by decide) g).symm).trans
    (d.sensorCheck_reg site x y (cntRegs_lt (gxDuty_ge g)) (hub_ne_gxDuty (by decide) g).symm)) 3 0

theorem Dev.siteRead_sensor (d : Dev) {site : Nat} (hs : site < 74) (x y : Option Int) :
    (d.siteRead site x y).getB aPwrStatus 5 = (d.getB aPwrStatus 5 || sensorsDiffer x y) :=
  (Dev.getB_of_reg (Dev.tjSample_reg _ _ _ (by decide)) 5).trans (d.sensorCheck_sensor hs x y)

theorem Dev.frame_siteRead (d : Dev) (site : Nat) (x y : Option Int) : Dev.Frame d (d.siteRead site x y) [.counters, .interrupts, .log]
    fun a => a = aPwrTjmax ∨ cntRegs a ∨ (a = aPwrStatus ∧ sensorsDiffer x y = true) := by
  have htj : ∀ (e : Dev) hi lo v, Dev.Frame e (e.setF aPwrTjmax hi lo v) [.counters, .interrupts, .log]
      fun a => a = aPwrTjmax ∨ cntRegs a ∨ (a = aPwrStatus ∧ sensorsDiffer x y = true) := fun e hi lo v =>
    (e.frame_setF aPwrTjmax hi lo v (by decide) (by decide)).mono (by simp) fun _ h => .inl h
  have hcheck : Dev.Frame d (d.sensorCheck site x y) [.counters, .interrupts, .log]
      fun a => a = aPwrTjmax ∨ cntRegs a ∨ (a = aPwrStatus ∧ sensorsDiffer x y = true) := by
    unfold Dev.sensorCheck
    split
    · next h =>
      have hd : sensorsDiffer x y = true := (Bool.and_eq_true _ _ ▸ h : _ ∧ _).2
      exact ((d.frame_setB aPwrStatus 5 true (by decide) (by decide)).mono (by simp) fun _ hr => .inr (.inr ⟨hr, hd⟩)).trans
        ((Dev.frame_countDev _ _ _).mono (by simp) fun _ hr => .inr (.inl hr))
    · exact .refl _ _ _
  have hshow : ∀ e : Dev, Dev.Frame e (e.tjSample site (siteReading x y)) [.counters, .interrupts, .log]
      fun a => a = aPwrTjmax ∨ cntRegs a ∨ (a = aPwrStatus ∧ sensorsDiffer x y = true) := by
    intro e
    unfold Dev.tjSample
    simp only
    split
    · exact (htj _ _ _ _).trans (htj _ _ _ _)
    · exact .refl _ _ _
  exact hcheck.trans (hshow _)

/-! ### A step of a site's throttle -/

theorem Dev.refreshThrottle_reg (d : Dev) {a : Nat} (ha : a ≠ aPwrStatus) : d.refreshThrottle.reg a = d.reg a := d.reg_setB_ne _ _ ha

theorem Dev.refreshThrottle_therm (d : Dev) : d.refreshThrottle.therm = d.therm := rfl

/-- THROTTLE shows a site that has taken a step. -/
theorem Dev.refreshThrottle_on (d : Dev) {g n : Nat} (h : (g, n + 1) ∈ d.therm) : d.refreshThrottle.getB aPwrStatus 1 = true := by
  rw [Dev.refreshThrottle, Dev.getB_setB_self _ _ _ _ (by decide)]
  exact List.any_eq_true.mpr ⟨_, h, decide_eq_true (Nat.succ_pos n)⟩

theorem Tab.mem_put {α : Type} (t : Tab α) (k : Nat) (x : α) : (k, x) ∈ Tab.put t k x := by
  induction t with
  | nil => exact List.mem_cons_self
  | cons c t ih =>
    obtain ⟨j, v⟩ := c
    rw [Tab.put]
    split_ifs
    · exact List.mem_cons_self
    · exact List.mem_cons_self
    · exact List.mem_cons_of_mem _ ih

/-- A site has taken one more step. -/
def Dev.moreSteps (d : Dev) (g : Nat) : Dev := { d with therm := d.therm.put g (d.therm.lookD g 0 + 1) }

/-- An engine's site has taken one more step down, its duty with it. -/
def Dev.stepDown (d : Dev) (g : Nat) : Dev := ((d.moreSteps g).setHwDuty g (d.hwDuty g - 1)).refreshThrottle

theorem Dev.stepDown_therm (d : Dev) (g : Nat) : (d.stepDown g).therm = d.therm.put g (d.therm.lookD g 0 + 1) :=
  (Dev.refreshThrottle_therm _).trans ((d.moreSteps g).setHwDuty_therm g (d.hwDuty g - 1))

theorem Dev.stepDown_hwDuty (d : Dev) (g : Nat) : (d.stepDown g).hwDuty g = d.hwDuty g - 1 := by
  have hlt : d.hwDuty g - 1 < 16 := Nat.lt_of_le_of_lt (Nat.sub_le _ _) (d.hwDuty_lt g)
  exact (Dev.getF_of_reg (Dev.refreshThrottle_reg _ (hub_ne_gxDuty (by decide) g).symm) 3 0).trans (Dev.hwDuty_setHwDuty_self _ g (d.hwDuty g - 1) hlt)

theorem Dev.stepDown_shown (d : Dev) (g : Nat) : (d.stepDown g).getB aPwrStatus 1 = true := by
  refine Dev.refreshThrottle_on _ (g := g) (n := d.therm.lookD g 0) ?_
  rw [Dev.setHwDuty_therm]
  exact Tab.mem_put _ _ _

theorem Dev.stepDown_sensor (d : Dev) (g : Nat) : (d.stepDown g).getB aPwrStatus 5 = d.getB aPwrStatus 5 := by
  rw [Dev.stepDown, Dev.refreshThrottle, Dev.getB_setB_ne _ _ _ _ _ (by decide)]
  exact Dev.getB_of_reg (Dev.setHwDuty_reg_ne _ _ _ (not_cntRegs_of_ne (by decide)) (hub_ne_gxDuty (by decide) g)) 5

/-- The report of the first step of a site (R276, code 16). -/
def Dev.firstStep (d : Dev) (g n : Nat) : Dev := if decide (0 < n) then d else d.report 16 g

theorem Dev.firstStep_therm (d : Dev) (g n : Nat) : (d.firstStep g n).therm = d.therm := by
  unfold Dev.firstStep
  split
  · rfl
  · exact ((d.frame_report 16 g 0).same .supervision (by decide)).2.2.2.2.2.1

theorem Dev.firstStep_reg (d : Dev) (g n : Nat) {a : Nat} (h : ¬ repRegs a) : (d.firstStep g n).reg a = d.reg a := by
  unfold Dev.firstStep
  split
  · rfl
  · exact (d.frame_report 16 g 0).regs a h

theorem Dev.firstStep_held (d : Dev) (g : Nat) : (16, g) ∈ (d.firstStep g 0).held :=
  (d.report_held g 0 (fun _ => by decide) (by decide) (by decide)).1

theorem siteClock_engine {g : Nat} (hg : g < 64) : siteClock g = none := by
  unfold siteClock
  rw [if_neg (by simp; omega), if_neg (by omega)]

theorem siteSteps_engine (d : Dev) {g : Nat} (hg : g < 64) : d.siteSteps g = 15 := by
  rw [Dev.siteSteps, siteClock_engine hg]
  exact if_pos (by omega)

theorem siteEngines_engine {g : Nat} (hg : g < 64) : siteEngines g = [g] := if_pos hg

/-- One more step of a site, where it has one. -/
def Dev.stepCount (d : Dev) (site : Nat) : Dev :=
  if d.therm.lookD site 0 < d.siteSteps site then d.moreSteps site else d

/-- What a site throttles takes one step down. -/
def Dev.siteDown (d : Dev) (site : Nat) : Dev :=
  match siteClock site with
  | some i => d.clkFollow i
  | none => forEach (siteEngines site) (fun e d => d.setHwDuty e (d.hwDuty e - 1)) d

/-- A step of a site that is too hot (R462). -/
theorem Dev.throttle_hot (d : Dev) {site : Nat} {tj : Int} (h : ¬ (tj ≤ 1050 ∨ 71 < site)) :
    d.throttle site tj = ((((d.tjSample site tj).countDev (66 + site)).stepCount site).siteDown site).refreshThrottle.firstStep site
      (((d.tjSample site tj).countDev (66 + site)).therm.lookD site 0) := if_neg h

theorem Dev.stepDown_eq (d : Dev) {g : Nat} (hg : g < 64) (hn : d.therm.lookD g 0 < 15) :
    ((d.stepCount g).siteDown g).refreshThrottle = d.stepDown g := by
  rw [Dev.stepCount, siteSteps_engine _ hg, if_pos hn, Dev.siteDown, siteClock_engine hg, siteEngines_engine hg]
  rfl

/-- A step down of an engine's own site (R462). -/
theorem Dev.throttle_engine (d : Dev) {g : Nat} (hg : g < 64) (x y : Option Int) (ht : 1050 < siteReading x y)
    (hn : d.therm.lookD g 0 < 15) : (d.sensorCheck g x y).throttle g (siteReading x y) =
      (((d.siteRead g x y).countDev (66 + g)).stepDown g).firstStep g (d.therm.lookD g 0) := by
  have hth : ((d.siteRead g x y).countDev (66 + g)).therm = d.therm := (Dev.countDev_therm _ _).trans (d.siteRead_therm g x y)
  have hgo : ¬ (siteReading x y ≤ 1050 ∨ 71 < g) := by omega
  rw [Dev.throttle_hot _ hgo, ← Dev.siteRead.eq_def, hth, Dev.stepDown_eq _ hg (by rw [hth]; exact hn)]

/-! ### A step of a site's release -/

/-- A site has one step less. -/
def Dev.lessSteps (d : Dev) (site : Nat) : Dev :=
  { d with therm := if d.therm.lookD site 0 = 1 then d.therm.del site else d.therm.put site (d.therm.lookD site 0 - 1) }

theorem Dev.lessSteps_steps (d : Dev) (site : Nat) : (d.lessSteps site).therm.lookD site 0 = d.therm.lookD site 0 - 1 := by
  have hdel : (d.therm.del site).lookD site 0 = 0 := by rw [Tab.lookD, Tab.look_del, if_pos rfl]; rfl
  have hput : ∀ n, (d.therm.put site n).lookD site 0 = n := fun n => by rw [Tab.lookD, Tab.look_put_self]; rfl
  rw [show (d.lessSteps site).therm = if d.therm.lookD site 0 = 1 then d.therm.del site else d.therm.put site (d.therm.lookD site 0 - 1) from rfl]
  split
  · next h => rw [hdel, h]
  · exact hput _

/-- What a site throttles takes one step up. -/
def Dev.siteUp (d : Dev) (site : Nat) : Dev :=
  match siteClock site with
  | some i => d.clkFollow i
  | none => forEach (siteEngines site) (fun e d => d.setHwDuty e (min (d.thermDuty e) (d.hwDuty e + 1))) d

/-- The end of a site's throttle (R276, code 16). -/
def Dev.lastStep (d : Dev) (site n : Nat) : Dev := if n = 1 then d.endCond 16 site else d

theorem Dev.endCond_therm (d : Dev) (c s : Nat) : (d.endCond c s).therm = d.therm := by
  unfold Dev.endCond
  split <;> rfl

theorem Dev.lastStep_therm (d : Dev) (site n : Nat) : (d.lastStep site n).therm = d.therm := by
  unfold Dev.lastStep
  split
  · exact d.endCond_therm _ _
  · rfl

theorem Dev.lastStep_reg (d : Dev) (site n : Nat) {a : Nat} (h : ¬ repRegs a) : (d.lastStep site n).reg a = d.reg a := by
  unfold Dev.lastStep
  split
  · exact (d.frame_endCond 16 site).regs a h
  · rfl

/-- A step of a site that has cooled (R462). -/
theorem Dev.thermRelease_cool (d : Dev) {site : Nat} {tj : Int} (h : ¬ (1020 ≤ tj ∨ (d.tjSample site tj).therm.lookD site 0 = 0)) :
    d.thermRelease site tj = ((((d.tjSample site tj).lessSteps site).siteUp site).refreshThrottle).lastStep site
      ((d.tjSample site tj).therm.lookD site 0) := if_neg h

/-- A step up of an engine's own site (R462). -/
theorem Dev.thermRelease_engine (d : Dev) {g : Nat} (hg : g < 64) (x y : Option Int) (ht : siteReading x y < 1020)
    (hn : 0 < d.therm.lookD g 0) : (d.sensorCheck g x y).thermRelease g (siteReading x y) =
      ((((d.siteRead g x y).lessSteps g).setHwDuty g (min (((d.siteRead g x y).lessSteps g).thermDuty g)
        (((d.siteRead g x y).lessSteps g).hwDuty g + 1))).refreshThrottle).lastStep g (d.therm.lookD g 0) := by
  have hgo : ¬ (1020 ≤ siteReading x y ∨ (d.siteRead g x y).therm.lookD g 0 = 0) := by
    rw [d.siteRead_therm]
    omega
  rw [Dev.thermRelease_cool _ hgo, ← Dev.siteRead.eq_def, d.siteRead_therm, Dev.siteUp, siteClock_engine hg, siteEngines_engine hg]
  rfl

theorem Dev.thermDuty_lt (d : Dev) (g : Nat) : d.thermDuty g < 16 := Nat.lt_succ_of_le (Nat.sub_le _ _)

/-! ### The limiter -/

theorem Dev.sampleMs_hwDuty (d : Dev) (w g : Nat) : (d.sampleMs w).hwDuty g = d.hwDuty g :=
  Dev.getF_of_reg (d.reg_setF_ne 24 16 _ (hub_ne_gxDuty (by decide) g).symm) 3 0

theorem Dev.frame_pwrMs (d : Dev) (l : List (Nat × Nat)) : Dev.Frame d { d with pwrMs := l } [.supervision] fun _ => False := by
  refine ⟨?_, fun _ _ => rfl, rfl, rfl, Nat.le_refl _⟩
  intro q hq
  cases q <;> simp [Dev.Same] at hq ⊢
  intro a; rfl

theorem Dev.frame_sampleMs (d : Dev) (w : Nat) : Dev.Frame d (d.sampleMs w) [.supervision] fun a => a = aPwrAvg :=
  ((d.frame_setF aPwrAvg 24 16 _ (by decide) (by decide)).mono (by simp) fun _ h => h).trans
    ((Dev.frame_pwrMs _ _).mono (fun _ h => h) fun _ h => h.elim)

/-! ### The cap -/

/-- The average shown, and the end of an excess (R459). -/
def Dev.capRead (d : Dev) (w : Nat) : Dev :=
  if w ≤ (d.setF aPwrAvg 8 0 (min 511 w)).getF aPwrCtrl 8 0 then { d.setF aPwrAvg 8 0 (min 511 w) with capOver := false }
  else d.setF aPwrAvg 8 0 (min 511 w)

theorem Dev.frame_capOver (d : Dev) (b : Bool) : Dev.Frame d { d with capOver := b } [.supervision] fun _ => False := by
  refine ⟨?_, fun _ _ => rfl, rfl, rfl, Nat.le_refl _⟩
  intro q hq
  cases q <;> simp [Dev.Same] at hq ⊢
  intro a; rfl

theorem Dev.frame_capRead (d : Dev) (w : Nat) : Dev.Frame d (d.capRead w) [.supervision] fun a => a = aPwrAvg := by
  have hset := (d.frame_setF aPwrAvg 8 0 (min 511 w) (by decide) (by decide)).mono (ks' := [.supervision]) (rs' := fun a => a = aPwrAvg)
    (by simp) fun _ h => h
  unfold Dev.capRead
  split
  · exact hset.trans ((Dev.frame_capOver _ _).mono (fun _ h => h) fun _ h => h.elim)
  · exact hset

theorem Dev.setAvg_cap (d : Dev) (w : Nat) : (d.setF aPwrAvg 8 0 (min 511 w)).getF aPwrCtrl 8 0 = d.getF aPwrCtrl 8 0 :=
  Dev.getF_of_reg (d.reg_setF_ne 8 0 _ (by decide)) 8 0

theorem Dev.capRead_cpaLost (d : Dev) (w : Nat) : (d.capRead w).cpaLost = d.cpaLost := by
  unfold Dev.capRead
  split <;> rfl

/-- What Sebry does about a reading of the input power (R460). -/
def Dev.capAct (d : Dev) (cap w : Nat) : Dev :=
  if d.cpaLost.isSome then d
  else if 98 * cap < 100 * w then
    match d.capStages.find? (fun l => l.any d.canLower) with
    | some l => (forEach (l.filter d.canLower) (fun x d => d.capLower x) d).countDev 58
    | none =>
      if decide (cap < w) && !d.capOver then
        let d := ({ d with capOver := true } : Dev).setB aPwrStatus 4 true |>.derateEvent 2 w
        forEach d.running (fun r d => d.checkpoint r.1 r.2 false) d
      else d
  else if 100 * w < 90 * cap then
    match d.capStages.reverse.find? (fun l => l.any d.canRaise) with
    | some l => (forEach (l.filter d.canRaise) (fun x d => d.capRaise x) d).countDev 58
    | none => d
  else d

theorem Dev.capCheck_eq (d : Dev) (w : Nat) :
    d.capCheck w = (d.capRead w).capAct ((d.setF aPwrAvg 8 0 (min 511 w)).getF aPwrCtrl 8 0) w := rfl

/-- Between 90 % and 98 % of the cap nothing is lowered and nothing raised. -/
theorem Dev.capCheck_band (d : Dev) {w : Nat} (hc : d.cpaLost = none) (hlo : 90 * d.getF aPwrCtrl 8 0 ≤ 100 * w)
    (hhi : 100 * w ≤ 98 * d.getF aPwrCtrl 8 0) : d.capCheck w = d.capRead w := by
  rw [Dev.capCheck_eq, d.setAvg_cap, Dev.capAct, if_neg (by rw [d.capRead_cpaLost, hc]; simp), if_neg (by omega), if_neg (by omega)]

/-- Above 98 % the first stage that can be lowered is; here the engines of LEASE groups. -/
theorem Dev.capCheck_over (d : Dev) {w : Nat} (hc : d.cpaLost = none) (hhi : 98 * d.getF aPwrCtrl 8 0 < 100 * w)
    (hl : ((d.capRead w).kindEngines .lease).any (d.capRead w).canLower = true) : d.capCheck w =
      (forEach (((d.capRead w).kindEngines .lease).filter (d.capRead w).canLower) (fun x d => d.capLower x) (d.capRead w)).countDev 58 := by
  have hfind : (d.capRead w).capStages.find? (fun l => l.any (d.capRead w).canLower) = some ((d.capRead w).kindEngines .lease) :=
    List.find?_cons_of_pos hl
  rw [Dev.capCheck_eq, d.setAvg_cap, Dev.capAct, if_neg (by rw [d.capRead_cpaLost, hc]; simp), if_pos hhi, hfind]

theorem Dev.capRead_kindEngines (d : Dev) (w : Nat) (k : PartKind) : (d.capRead w).kindEngines k = d.kindEngines k := by
  unfold Dev.capRead
  split <;> rfl

theorem mem_kindEngines_lt {d : Dev} {k : PartKind} {x : Nat} (h : x ∈ d.kindEngines k) : x < 64 :=
  List.mem_range.mp (List.mem_filter.mp h).1

theorem nodup_kindEngines (d : Dev) (k : PartKind) : (d.kindEngines k).Nodup := List.nodup_range.filter _

/-- An engine can be lowered while its FW_DUTY is above 0. -/
theorem Dev.canLower_engine (d : Dev) {x : Nat} (hx : x < 64) : d.canLower x = decide (0 < d.getF (aGxDuty x) 11 8) := by
  simp [Dev.canLower, capBottom, Dev.capLevel, hx]

theorem Dev.fwDuty_lt (d : Dev) (x : Nat) : d.getF (aGxDuty x) 11 8 < 16 := bitsOf_lt _ 11 8

/-- The level that an item had before it was first lowered is kept (R460). -/
def Dev.capNoted (d : Dev) (x : Nat) : Dev :=
  { d with capBase := if (d.capBase.look x).isSome then d.capBase else d.capBase.put x (d.capLevel x) }

theorem Dev.capNoted_fwDuty (d : Dev) (x g : Nat) : (d.capNoted x).getF (aGxDuty g) 11 8 = d.getF (aGxDuty g) 11 8 := rfl

theorem Dev.capLower_eq (d : Dev) {x : Nat} (hx : x < 64) : d.capLower x =
    ((d.capNoted x).dutyCount x).setF (aGxDuty x) 11 8 (d.getF (aGxDuty x) 11 8 - 1) := by
  have hlev : (d.capNoted x).capLevel x = d.getF (aGxDuty x) 11 8 := (if_pos hx).trans (d.capNoted_fwDuty x x)
  have hbot : capBottom x = 0 := if_pos hx
  have hstep : capStep x = 1 := if_pos hx
  calc d.capLower x = (d.capNoted x).capPut x (max (capBottom x) ((d.capNoted x).capLevel x - capStep x)) := rfl
    _ = (d.capNoted x).capPut x (d.getF (aGxDuty x) 11 8 - 1) := by rw [hlev, hbot, hstep, Nat.zero_max]
    _ = _ := if_pos hx

theorem Dev.capLower_engine (d : Dev) {x : Nat} (hx : x < 64) :
    (d.capLower x).getF (aGxDuty x) 11 8 = d.getF (aGxDuty x) 11 8 - 1 ∧
    ∀ g, g ≠ x → (d.capLower x).getF (aGxDuty g) 11 8 = d.getF (aGxDuty g) 11 8 := by
  have hlt := d.fwDuty_lt x
  rw [d.capLower_eq hx]
  refine ⟨?_, fun g hg => ?_⟩
  · rw [Dev.getF_setF_self _ _ _ _ _ (by decide)]
    exact Nat.mod_eq_of_lt (by omega)
  · rw [Dev.getF_of_reg (Dev.reg_setF_ne _ _ _ _ fun h => hg (gxDuty_inj h)),
      Dev.getF_of_reg (Dev.dutyCount_reg _ x (cntRegs_lt (gxDuty_ge g))), d.capNoted_fwDuty]

/-- Engines that Sebry lowers, each once. -/
theorem Dev.forEach_capLower (l : List Nat) (hl : ∀ x ∈ l, x < 64) (hn : l.Nodup) (d : Dev) (g : Nat) :
    (forEach l (fun x d => d.capLower x) d).getF (aGxDuty g) 11 8 =
      if g ∈ l then d.getF (aGxDuty g) 11 8 - 1 else d.getF (aGxDuty g) 11 8 := by
  induction l generalizing d with
  | nil => rfl
  | cons x l ih =>
    obtain ⟨hx, hnl⟩ := List.nodup_cons.mp hn
    obtain ⟨hself, hother⟩ := d.capLower_engine (hl x List.mem_cons_self)
    refine (ih (fun y hy => hl y (List.mem_cons_of_mem _ hy)) hnl (d.capLower x)).trans ?_
    by_cases hg : g = x
    · subst hg
      rw [if_neg hx, if_pos List.mem_cons_self, hself]
    · simp only [List.mem_cons, hg, false_or, hother g hg]

theorem Dev.capRead_fwDuty (d : Dev) (w g : Nat) : (d.capRead w).getF (aGxDuty g) 11 8 = d.getF (aGxDuty g) 11 8 :=
  Dev.getF_of_reg ((d.frame_capRead w).regs _ (hub_ne_gxDuty (by decide) g).symm) 11 8

/-- Above 98 % of the cap every engine of a LEASE group takes one step. -/
theorem Dev.capCheck_lease (d : Dev) {w : Nat} (hc : d.cpaLost = none) (hhi : 98 * d.getF aPwrCtrl 8 0 < 100 * w)
    (hl : (d.kindEngines .lease).any d.canLower = true) (g : Nat) : (d.capCheck w).getF (aGxDuty g) 11 8 =
      if g ∈ d.kindEngines .lease then d.getF (aGxDuty g) 11 8 - 1 else d.getF (aGxDuty g) 11 8 := by
  have hcan : ∀ x ∈ d.kindEngines .lease, (d.capRead w).canLower x = decide (0 < d.getF (aGxDuty x) 11 8) := fun x hx => by
    rw [Dev.canLower_engine _ (mem_kindEngines_lt hx), d.capRead_fwDuty]
  have hany : ((d.capRead w).kindEngines .lease).any (d.capRead w).canLower = true := by
    obtain ⟨x, hx, hlow⟩ := List.any_eq_true.mp hl
    rw [d.capRead_kindEngines]
    exact List.any_eq_true.mpr ⟨x, hx, (hcan x hx).trans ((d.canLower_engine (mem_kindEngines_lt hx)).symm.trans hlow)⟩
  rw [d.capCheck_over hc hhi hany, d.capRead_kindEngines,
    Dev.getF_of_reg ((Dev.frame_countDev _ _ _).regs _ (cntRegs_lt (gxDuty_ge g))),
    Dev.forEach_capLower _ (fun x hx => mem_kindEngines_lt (List.mem_filter.mp hx).1) ((nodup_kindEngines _ _).filter _), d.capRead_fwDuty]
  by_cases hg : g ∈ d.kindEngines .lease
  · by_cases hz : 0 < d.getF (aGxDuty g) 11 8
    · rw [if_pos (List.mem_filter.mpr ⟨hg, (hcan g hg).trans (decide_eq_true hz)⟩), if_pos hg]
    · rw [if_pos hg]
      split <;> omega
  · rw [if_neg hg, if_neg fun h => hg (List.mem_filter.mp h).1]

/-! ### VAUX33 -/

theorem Dev.frame_auxOff (d : Dev) (b : Bool) : Dev.Frame d { d with auxOff := b } [.supervision] fun _ => False := by
  refine ⟨?_, fun _ _ => rfl, rfl, rfl, Nat.le_refl _⟩
  intro q hq
  cases q <;> simp [Dev.Same] at hq ⊢
  intro a; rfl

/-- A device's VAUX33 has been switched off by an overload. -/
def Dev.vauxOff (d : Dev) : Dev := ({ d with auxOff := true } : Dev).setB aPwrStatus 3 true

theorem Dev.frame_vauxOff (d : Dev) : Dev.Frame d d.vauxOff [.supervision] fun a => a = aPwrStatus :=
  ((d.frame_auxOff true).mono (fun _ h => h) fun _ h => h.elim).trans
    ((Dev.frame_setB _ aPwrStatus 3 true (by decide) (by decide)).mono (by simp) fun _ h => h)

/-! ### The thermal figure -/

theorem stackShare_le (x : Int) : stackShare x ≤ 1024 := by
  unfold stackShare
  split_ifs <;> omega

theorem Dev.thermalFig_lt (d : Dev) (temps : List Int) : d.thermalFig temps < 2 ^ 13 := by
  have hone : ∀ n, (if d.stackUp n then stackShare (temps.getD n 0) else 0) ≤ 1024 := fun n => by
    split
    · exact stackShare_le _
    · exact Nat.zero_le _
  have h0 := hone 0
  have h1 := hone 1
  have h2 := hone 2
  have h3 := hone 3
  have hsum : d.thermalFig temps = 0 + (if d.stackUp 0 then stackShare (temps.getD 0 0) else 0) +
      (if d.stackUp 1 then stackShare (temps.getD 1 0) else 0) + (if d.stackUp 2 then stackShare (temps.getD 2 0) else 0) +
      (if d.stackUp 3 then stackShare (temps.getD 3 0) else 0) := rfl
  omega

/-- The stacks' temperatures shown. -/
def Dev.stackTemps (d : Dev) (temps : List Int) : Dev :=
  d.setReg aPwrTstack (BitVec.ofNat 32 (leNat ((List.range 4).map fun n => BitVec.ofInt 8 (Int.fdiv (temps.getD n 0) 10))))

theorem Dev.stackTemps_therm (d : Dev) (temps : List Int) : (d.stackTemps temps).getF aPwrTherm 12 0 = d.getF aPwrTherm 12 0 :=
  Dev.getF_of_reg (d.reg_setReg_ne _ (by decide)) 12 0

theorem Dev.thermalEval_eq (d : Dev) (temps : List Int) : d.thermalEval temps =
    if d.getF aPwrTherm 12 0 + 16 ≤ d.thermalFig temps ∨ d.thermalFig temps + 16 ≤ d.getF aPwrTherm 12 0 then
      ((d.stackTemps temps).setF aPwrTherm 12 0 (d.thermalFig temps)).reFig else d.stackTemps temps := by
  rw [← d.stackTemps_therm temps]
  rfl

/-! ### The limiter's steps -/

theorem Dev.limiter_down (d : Dev) {w : Nat} (h : 420 < w) : d.limiter w =
    ((forUpTo 64 (fun e d => d.setHwDuty e (d.hwDuty e - 1)) (d.sampleMs w)).setB aPwrStatus 2 true).countDev 59 := if_pos h

/-- Every engine takes a step back, as far as its site lets it. -/
def Dev.allUp (d : Dev) (w : Nat) : Dev :=
  (forUpTo 64 (fun e d => d.setHwDuty e (min (d.thermDuty e) (d.hwDuty e + 1))) (d.sampleMs w)).countDev 59

theorem Dev.limiter_up (d : Dev) {w : Nat} (hw : w < 400) (hb : d.getB aPwrStatus 2 = true) : d.limiter w =
    (d.allUp w).setB aPwrStatus 2 ((List.range 64).any fun e => decide ((d.allUp w).hwDuty e < (d.allUp w).thermDuty e)) := by
  have hb' : (d.sampleMs w).getB aPwrStatus 2 = true := (Dev.getB_of_reg (d.reg_setF_ne 24 16 _ (by decide)) 2).trans hb
  exact (if_neg (by omega)).trans (if_pos (by rw [decide_eq_true hw, hb']; rfl))

theorem Dev.limiter_between (d : Dev) {w : Nat} (hlo : 400 ≤ w) (hhi : w ≤ 420) : d.limiter w = d.sampleMs w :=
  (if_neg (by omega)).trans (if_neg (by simp; omega))

theorem Dev.countDev_hwDuty (d : Dev) (i g : Nat) : (d.countDev i).hwDuty g = d.hwDuty g :=
  Dev.getF_of_reg ((d.frame_countDev i 1).regs _ (cntRegs_lt (gxDuty_ge g))) 3 0

theorem Dev.setStatus_hwDuty (d : Dev) (i : Nat) (b : Bool) (g : Nat) : (d.setB aPwrStatus i b).hwDuty g = d.hwDuty g :=
  Dev.getF_of_reg (d.reg_setB_ne i b (hub_ne_gxDuty (by decide) g).symm) 3 0

theorem Dev.allUp_hwDuty (d : Dev) (w : Nat) : (∀ g, (d.allUp w).thermDuty g = d.thermDuty g) ∧
    ∀ g, g < 64 → (d.allUp w).hwDuty g = min (d.thermDuty g) (d.hwDuty g + 1) := by
  obtain ⟨ht, hd⟩ := Dev.forUpTo_setHwDuty (fun d e => min (d.thermDuty e) (d.hwDuty e + 1))
    (fun d e => Nat.lt_of_le_of_lt (Nat.min_le_left _ _) (d.thermDuty_lt e))
    (fun d e g ht hd => by rw [Dev.thermDuty_congr ht, hd]) 64 (d.sampleMs w)
  refine ⟨fun g => Dev.thermDuty_congr ((Dev.countDev_therm _ _).trans ht) g, fun g hg => ?_⟩
  rw [Dev.allUp, Dev.countDev_hwDuty, hd, if_pos hg, d.sampleMs_hwDuty]
  rfl

theorem Dev.allDown_hwDuty (d : Dev) (w g : Nat) (hg : g < 64) :
    (forUpTo 64 (fun e d => d.setHwDuty e (d.hwDuty e - 1)) (d.sampleMs w)).hwDuty g = d.hwDuty g - 1 := by
  obtain ⟨-, hd⟩ := Dev.forUpTo_setHwDuty (fun d e => d.hwDuty e - 1)
    (fun d e => Nat.lt_of_le_of_lt (Nat.sub_le _ _) (d.hwDuty_lt e)) (fun d e g _ hd => by rw [hd]) 64 (d.sampleMs w)
  rw [hd, if_pos hg, d.sampleMs_hwDuty]

/-- Settles O54: each step of the rind and of Sebry by the lemmas on it. -/
theorem powerAndHeatAreHeld : Obligations.PowerAndHeatAreHeld := by
  intro s t hp d
  have hrind : ∀ f : Dev → Dev, s.dev.rindAct t f = s.dev.act t f := fun f => if_neg (by rw [hp]; decide)
  refine ⟨fun g x y n hn => ?_, fun site x y => ⟨ends_of_effect (exec_thermalThrottleStep s _ _ _ t) hp rfl,
      ends_of_effect (exec_thermalReleaseStep s _ _ _ t) hp rfl⟩, fun x y => ⟨rfl, sensorsDiffer_iff x y⟩, rfl,
    fun x => ⟨rfl, by cases x <;> rfl⟩, fun temps => ⟨fun h => ?_, fun hlo hhi => ?_⟩, fun w => ⟨fun h => ?_, fun hw hb => ?_, fun hlo hhi => ?_⟩,
    fun w => ?_, fun ha => ?_, fun ha => ?_⟩
  · intro tj
    subst hn
    have hg := g.isLt
    have hstatus : ¬ repRegs aPwrStatus := by simp only [repRegs]; decide
    have hduty : ¬ repRegs (aGxDuty g.val) := fun h => by
      have := gxDuty_ge g.val
      simp only [repRegs, aSafeSeen, aSafeCond, aSafeOut] at h
      omega
    refine ⟨fun ht hn => ⟨_, ends_of_effect (exec_thermalThrottleStep s _ _ _ t) hp (d.throttle_engine hg x y ht hn), ?_, ?_, ?_, fun h0 => ?_, ?_⟩,
      fun ht hn => ⟨_, ends_of_effect (exec_thermalReleaseStep s _ _ _ t) hp (d.thermRelease_engine hg x y ht hn), ?_, ?_⟩, fun ht => ?_⟩
    · rw [Dev.firstStep_therm, Dev.stepDown_therm, Dev.countDev_therm, d.siteRead_therm, Tab.lookD, Tab.look_put_self]
      rfl
    · rw [Dev.hwDuty, Dev.getF_of_reg (Dev.firstStep_reg _ _ _ hduty)]
      exact (Dev.stepDown_hwDuty _ _).trans (by rw [Dev.countDev_hwDuty, d.siteRead_hwDuty])
    · rw [Dev.getB_of_reg (Dev.firstStep_reg _ _ _ hstatus), Dev.stepDown_shown]
    · rw [h0]
      exact Dev.firstStep_held _ _
    · rw [Dev.getB_of_reg (Dev.firstStep_reg _ _ _ hstatus), Dev.stepDown_sensor,
        Dev.getB_of_reg ((Dev.frame_countDev _ _ _).regs _ (not_cntRegs_of_ne (by decide))), d.siteRead_sensor (by omega)]
    · rw [Dev.lastStep_therm, Dev.refreshThrottle_therm, Dev.setHwDuty_therm, Dev.lessSteps_steps, d.siteRead_therm]
    · rw [Dev.hwDuty, Dev.getF_of_reg (Dev.lastStep_reg _ _ _ hduty), Dev.thermDuty_congr (Dev.lastStep_therm _ _ _),
        Dev.thermDuty_congr (Dev.refreshThrottle_therm _), Dev.thermDuty_congr (Dev.setHwDuty_therm _ _ _),
        Dev.getF_of_reg (Dev.refreshThrottle_reg _ (hub_ne_gxDuty (by decide) g.val).symm)]
      refine (Dev.hwDuty_setHwDuty_self _ _ _ (Nat.lt_of_le_of_lt (Nat.min_le_left _ _) (Dev.thermDuty_lt _ _))).trans ?_
      exact congrArg (fun k => min _ (k + 1)) (d.siteRead_hwDuty g.val x y g.val)
    · exact ⟨_, ends_of_effect (exec_thermalReleaseStep s _ _ _ t) hp (if_pos (.inl ht)),
        (Dev.siteRead_sensor d (by omega) x y), d.frame_siteRead g.val x y⟩
  · refine ⟨_, ends_of_effect (exec_thermalFigureEval s temps t) hp ((d.thermalEval_eq temps).trans (if_pos h)), ?_⟩
    rw [Dev.getF_setF_self _ _ _ _ _ (by decide)]
    exact Nat.mod_eq_of_lt (d.thermalFig_lt temps)
  · exact ⟨_, ends_of_effect (exec_thermalFigureEval s temps t) hp ((d.thermalEval_eq temps).trans (if_neg (by omega))),
      d.frame_setReg _ _ (by decide) (by decide)⟩
  · refine ⟨_, ends_of_effect (exec_powerLimitStep s w t) hp (d.limiter_down h), ?_, fun g hg => ?_⟩
    · rw [Dev.getB_of_reg ((Dev.frame_countDev _ _ _).regs _ (not_cntRegs_of_ne (by decide))), Dev.getB_setB_self _ _ _ _ (by decide)]
    · rw [Dev.countDev_hwDuty, Dev.setStatus_hwDuty, d.allDown_hwDuty w g hg]
  · obtain ⟨hth, hdu⟩ := d.allUp_hwDuty w
    refine ⟨_, ends_of_effect (exec_powerLimitStep s w t) hp (d.limiter_up hw hb), fun g hg => ?_, ?_⟩
    · rw [Dev.setStatus_hwDuty, hdu g hg]
    · rw [Dev.getB_setB_self _ _ _ _ (by decide), List.any_eq_true]
      simp only [List.mem_range, decide_eq_true_eq, Dev.setStatus_hwDuty, hth]
  · exact ⟨_, ends_of_effect (exec_powerLimitStep s w t) hp (d.limiter_between hlo hhi), d.frame_sampleMs w⟩
  · intro cap hc
    exact ⟨fun hlo hhi => ⟨_, ends_of_effect (exec_capCheck s w t) hp (d.capCheck_band hc hlo hhi), d.frame_capRead w⟩,
      fun hhi hl => ⟨_, ends_of_effect (exec_capCheck s w t) hp rfl, fun g _ => d.capCheck_lease hc hhi hl g⟩⟩
  · have hx : exec (.vauxOverload t) s = s.act t fun d => if d.auxOff then d else d.vauxOff := by
      rw [exec_vauxOverload, execVauxOverload, hrind]
      rfl
    exact ⟨_, ends_of_effect hx hp (if_neg (by rw [ha]; decide)), rfl, Dev.getB_setB_self _ _ _ _ (by decide), d.frame_vauxOff⟩
  · have hx : exec (.vauxRetry false t) s = s.act t fun d => if !d.auxOff then d else if false then d.setB aPwrStatus 3 true else { d with auxOff := false } := by
      rw [exec_vauxRetry, execVauxRetry, hrind]
      rfl
    exact ⟨_, ends_of_effect hx hp ((if_neg (by rw [ha]; decide)).trans (if_neg Bool.false_ne_true)), rfl, d.frame_auxOff false⟩

end Sys2Proof.Machine

/-! SUPPORT. Requests and resets at the PCIe ports (R379 to R388, R494), and obligation O52. -/

namespace Sys2Proof.Machine

/-- The host counters' group reaches no page. -/
theorem Dev.frame_countHost (d : Dev) (n i k : Nat) : Dev.Frame d (d.countHost n i k) [.counters, .interrupts, .log] cntRegs := by
  have hcount : ∀ (e : Dev) j, Dev.Frame e (e.cntUpd (0x100 + n) j (·.add k)) [.counters, .interrupts, .log] cntRegs :=
    fun e j => e.frame_cntUpd_quiet (.inr (by omega)) j _
  unfold Dev.countHost Dev.count
  simp only
  split
  · exact (hcount _ _).trans (hcount _ _)
  · exact hcount _ _

theorem pcie_not_cnt (p o : Nat) : ¬ cntRegs (aPcie p + o) := by simp only [cntRegs, aCntOvfStat, aPcie]; omega

theorem Dev.countHost_pcie (d : Dev) (n i p o : Nat) : (d.countHost n i).reg (aPcie p + o) = d.reg (aPcie p + o) :=
  (d.frame_countHost n i 1).regs _ (pcie_not_cnt p o)

theorem Dev.countHost_inst (d : Dev) (n i m : Nat) : (d.countHost n i).inst m = d.inst m := by
  have h : (d.countHost n i).insts = d.insts := (d.frame_countHost n i 1).same .instances (by decide)
  rw [Dev.inst, Dev.inst, h]

theorem Dev.countHost_waiting (d : Dev) (n i : Nat) : (d.countHost n i).waiting = d.waiting :=
  ((d.frame_countHost n i 1).same .accesses (by decide)).1

theorem Dev.countHost_page (d : Dev) (n i k : Nat) : (d.countHost n i).page k = d.page k := by
  have h : (d.countHost n i).pages = d.pages := (d.frame_countHost n i 1).same .pages (by decide)
  rw [Dev.page, Dev.page, h]

theorem Dev.countHost_boot (d : Dev) (n i : Nat) : (d.countHost n i).boot = d.boot :=
  ((d.frame_countHost n i 1).same .supervision (by decide)).1

/-! ### Requests -/

theorem Dev.servePages_none {d : Dev} (h : d.waiting = []) : d.servePages = d := by
  unfold Dev.servePages
  rw [h]
  rfl

theorem Dev.behind_none {d : Dev} (h : d.waiting = []) (master : Nat) : d.behind master = false := by
  rw [Dev.behind, h]
  rfl

/-- A request to a page behind no posted write acts on the page. -/
theorem Dev.pcieReg_now {d : Dev} (h : d.waiting = []) (master page off : Nat) (w : Option (List Byte)) (len : Nat) (m : Master) :
    d.pcieReg master page off w len m = d.pageAcc page off w len m :=
  if_neg (by rw [Dev.behind_none h]; exact Bool.false_ne_true)

theorem Dev.countHost_none {d : Dev} (h : d.waiting = []) (n i : Nat) : (d.countHost n i).waiting = [] := (d.countHost_waiting n i).trans h

/-- The physical function of the manager's port reaches the manager page and INST0's (R379). -/
theorem Dev.pcieMem_pf (d : Dev) {port : Fin 2} {off len : Nat} (w : Option (List Byte)) (hon : d.pcieOn port.val = true)
    (hm : d.getB (aPcieCtrl port.val) 1 = true) (hlen : off + len ≤ 65536) (hw : d.waiting = []) :
    d.pcieMem port 0 0 off w len = (d.countHost 0 0).pageAcc 64 off w len (.pcie port 0) ∧
    d.pcieMem port 0 4 off w len = (d.countHost 0 0).pageAcc 0 off w len (.pcie port 0) := by
  have hfit : (decide (off + len ≤ 65536)) = true := decide_eq_true hlen
  constructor <;>
  · rw [← Dev.pcieReg_now (Dev.countHost_none hw 0 0) pfMaster]
    unfold Dev.pcieMem
    simp [hon, hm, hfit]

section
variable (d : Dev) {port : Fin 2} {fn : Fin 65} {n : Nat} (hon : d.pcieOn port.val = true) (hfn : fn.val ≠ 0)
  (hvf : fn.val ≤ d.getF (aPcieVfcfg port.val) 6 0) (hi : d.vfInst port.val fn.val = some n)
include hon hfn hvf hi

/-- A request of a virtual function acts for its instance. -/
theorem Dev.pcieMem_vf (bar off : Nat) (w : Option (List Byte)) (len : Nat) : d.pcieMem port fn bar off w len =
    let e := d.countHost n 0
    if (e.inst n).flr then (e.countHost n 1).pcieRefused port.val fn.val off w.isSome
    else if decide (bar = 0) && decide (off + len ≤ 65536) then e.pcieReg (e.vfMaster port.val fn.val) n off w len (.pcie port fn)
    else if bar = 2 then e.pcieWin port.val n (e.vfMaster port.val fn.val) fn.val off w len
    else (e.countHost n 1).pcieRefused port.val fn.val off w.isSome := by
  have hvf' : ¬ d.getF (aPcieVfcfg port.val) 6 0 < fn.val := by omega
  unfold Dev.pcieMem
  simp only [hon, Bool.not_true, Bool.false_eq_true, if_false, hfn, hvf', hi]

theorem Dev.pcieMem_vf_page {off len : Nat} (w : Option (List Byte)) (hflr : (d.inst n).flr = false) (hlen : off + len ≤ 65536)
    (hw : d.waiting = []) : d.pcieMem port fn 0 off w len = (d.countHost n 0).pageAcc n off w len (.pcie port fn) := by
  rw [d.pcieMem_vf hon hfn hvf hi, ← Dev.pcieReg_now (Dev.countHost_none hw n 0) ((d.countHost n 0).vfMaster port.val fn.val)]
  simp only [d.countHost_inst, hflr, hlen, decide_true, Bool.and_self, Bool.false_eq_true, if_false, if_true]

theorem Dev.pcieMem_vf_window {off len : Nat} (w : Option (List Byte)) (hflr : (d.inst n).flr = false) (hlen : off + len ≤ d.bar2Size port.val) :
    d.pcieMem port fn 2 off w len = ((d.countHost n 0).countFree (0x100 + n) 4).winAcc n (d.vfMaster port.val fn.val) off w len := by
  have hcfg : (d.countHost n 0).reg (aPcieVfcfg port.val) = d.reg (aPcieVfcfg port.val) := d.countHost_pcie n 0 _ _
  have hmaster : (d.countHost n 0).vfMaster port.val fn.val = d.vfMaster port.val fn.val := by
    rw [Dev.vfMaster, Dev.vfMaster, Dev.getF_of_reg hcfg]
  have hsize : ¬ (d.countHost n 0).bar2Size port.val < off + len := by
    rw [Dev.bar2Size, Dev.getF_of_reg hcfg]
    exact Nat.not_lt.mpr hlen
  rw [d.pcieMem_vf hon hfn hvf hi]
  simp only [d.countHost_inst, hflr, Bool.false_eq_true, if_false, Dev.pcieWin, hsize, hmaster]
  rfl

/-- A function whose FLR has begun answers none. -/
theorem Dev.pcieMem_vf_flr (bar off : Nat) (w : Option (List Byte)) (len : Nat) (hflr : (d.inst n).flr = true) :
    d.pcieMem port fn bar off w len = ((d.countHost n 0).countHost n 1).pcieRefused port.val fn.val off w.isSome := by
  rw [d.pcieMem_vf hon hfn hvf hi]
  simp only [d.countHost_inst, hflr, if_true]

end

/-- A refused request leaves memory and pages. -/
theorem Dev.frame_pcieRefused (d : Dev) (port src off : Nat) (w : Bool) : Dev.Frame d (d.pcieRefused port src off w) [.accesses]
    fun a => ∃ o, a = aPcie port + o := by
  have hne : ∀ o, aBwrIlvLo ≠ aPcie port + o ∧ aBwrIlvHi ≠ aPcie port + o := fun o => by
    simp only [aBwrIlvLo, aBwrIlvHi, aBwr, aPcie]
    constructor <;> omega
  have hset : ∀ (e : Dev) o v, Dev.Frame e (e.setReg (aPcie port + o) v) [.accesses] fun a => ∃ o, a = aPcie port + o := fun e o v =>
    (e.frame_setReg _ v (hne o).1 (hne o).2).mono (by simp) fun a h => ⟨o, h⟩
  have hregs : Dev.Frame d ((d.setPair (aPcieErrLo port) (aPcieErrHi port) (off % 2 ^ 40)).setReg (aPcieErrSrc port) (BitVec.ofNat 32 src)) [.accesses]
      fun a => ∃ o, a = aPcie port + o := ((hset _ 0x10 _).trans (hset _ 0x14 _)).trans (hset _ 0x18 _)
  unfold Dev.pcieRefused
  simp only
  split
  · exact hregs.trans ((Dev.frame_lastAcc _ _).mono (fun _ h => h) fun _ h => h.elim)
  · exact (hregs.trans (hset _ 0xC _)).trans ((Dev.frame_lastAcc _ _).mono (fun _ h => h) fun _ h => h.elim)

theorem Dev.pcieRefused_answer (d : Dev) (port src off : Nat) (w : Bool) :
    (d.pcieRefused port src off w).lastAcc = if w then .discarded else .unsupported := rfl

/-- A host counter leaves the instance's other host counters. -/
theorem Dev.cnt_countHost_ne (d : Dev) {n i j k : Nat} (hi : i < 1024) (hj : j < 1024) (hne : j ≠ i) :
    (d.countHost n i k).cnt (0x100 + n) j = d.cnt (0x100 + n) j := by
  have hkey : ∀ (e : Dev) i', i' = i ∨ i' = i + 1024 → (e.cntUpd (0x100 + n) i' (·.add k)).cnt (0x100 + n) j = e.cnt (0x100 + n) j := by
    intro e i' hi'
    rw [Dev.cnt, Dev.cnts_cntUpd_look _ _ _ _ (by omega), if_neg (by simp only [cntKey]; omega)]
    rfl
  unfold Dev.countHost Dev.count
  simp only
  split
  · exact (hkey _ _ (.inr rfl)).trans (hkey _ _ (.inl rfl))
  · exact hkey _ _ (.inl rfl)

/-! ### Function level resets -/

/-- FLR noted at a port. -/
def Dev.flrNoted (d : Dev) (p : Nat) : Dev := d.setB (aPcieErr p) 2 true

/-- A function level reset reaches an instance: counted, and its function's held units discarded. -/
def Dev.flrBegun (d : Dev) (n : Nat) : Dev :=
  let e := d.countHost n 3
  e.fiDiscard 3 (e.bindMaster (e.inst n).bindKind (e.inst n).bindIdx - 128)

theorem Dev.flrBegun_eq (d : Dev) (n : Nat) :
    d.flrBegun n = (d.countHost n 3).fiDiscard 3 (d.bindMaster (d.inst n).bindKind (d.inst n).bindIdx - 128) := by
  have hmaster : (d.countHost n 3).bindMaster ((d.countHost n 3).inst n).bindKind ((d.countHost n 3).inst n).bindIdx =
      d.bindMaster (d.inst n).bindKind (d.inst n).bindIdx := by
    rw [d.countHost_inst, Dev.bindMaster, Dev.bindMaster, Dev.totalVf, Dev.totalVf, d.countHost_boot]
  exact congrArg (fun k => (d.countHost n 3).fiDiscard 3 (k - 128)) hmaster

theorem Dev.flrBegun_regs (d : Dev) (n : Nat) : (d.flrBegun n).regs = (d.countHost n 3).regs := rfl
theorem Dev.flrBegun_queues (d : Dev) (n : Nat) : (d.flrBegun n).queues = (d.countHost n 3).queues := rfl
theorem Dev.flrBegun_pages (d : Dev) (n : Nat) : (d.flrBegun n).pages = (d.countHost n 3).pages := rfl

theorem Dev.flrBegun_err (d : Dev) (n p : Nat) : (d.flrBegun n).reg (aPcieErr p) = d.reg (aPcieErr p) :=
  (Dev.reg_congr (d.flrBegun_regs n) _).trans (d.countHost_pcie n 3 p 0xC)

/-- An instance that is being squashed answers no function any more (R383). -/
def Dev.flrMark (d : Dev) (n : Nat) : Dev := if (d.page n).state = .squashing then d.setInst n { d.inst n with flr := true } else d

theorem Dev.flrInst_eq (d : Dev) (n : Nat) : d.flrInst n =
    (if runsOrOrphan (d.page n).state || decide ((d.page n).state = .draining) then ((d.flrBegun n).beginSquash n).settle
      else d.flrBegun n).flrMark n := rfl

/-- An FLR of a function whose instance runs squashes what it runs (R385). -/
theorem Dev.flrInst_active (d : Dev) {n : Nat} (h : (d.page n).state = .active) :
    d.flrInst n = (((d.flrBegun n).beginSquash n).settle).flrMark n := by
  rw [Dev.flrInst_eq, if_pos (by rw [h]; rfl)]

/-- An FLR of a function whose instance is being squashed marks it. -/
theorem Dev.flrInst_squashing (d : Dev) {n : Nat} (h : (d.page n).state = .squashing) : d.flrInst n =
    (d.flrBegun n).setInst n { (d.flrBegun n).inst n with flr := true } := by
  have hp : ((d.flrBegun n).page n).state = .squashing := (congrArg Page.state (d.countHost_page n 3 n)).trans h
  rw [Dev.flrInst_eq, if_neg (by rw [h]; decide)]
  exact if_pos hp

theorem Dev.setInst_flr (d : Dev) (n : Nat) (i : Inst) : (d.setInst n i).inst n = i := by
  rw [Dev.inst, Dev.setInst_insts, Tab.lookD, Tab.look_put_self]
  rfl

/-! ### PERST_N -/

theorem Dev.frame_freeF (d : Dev) (a hi lo : Nat) (hl : aBwrIlvLo ≠ a) (hh : aBwrIlvHi ≠ a) : Dev.Frame d (d.freeF a hi lo) [] fun b => b = a :=
  ((d.frame_freeCtr _).mono (fun _ h => h) fun _ h => h.elim).trans (Dev.frame_setF _ a hi lo _ hl hh)

/-- A port whose reset ends: its domain runs, and its link's state is open. -/
def Dev.portReleased (d : Dev) (p : Nat) : Dev :=
  (((d.setF (aRstDomStatus (17 + p)) 2 0 0).freeF (aPcieStatus p) 10 7).freeF (aPcieStatus p) 6 4).freeF (aPcieStatus p) 0 0

theorem rst_ne_pcieStatus (r p : Nat) (hr : r < 20) : aRstDomStatus r ≠ aPcieStatus p := by
  simp only [aRstDomStatus, aRstDomCtrl, aRst, aPcieStatus, aPcie]; omega

theorem Dev.portReleased_runs (d : Dev) {p : Nat} (hp : p < 2) : (d.portReleased p).getF (aRstDomStatus (17 + p)) 2 0 = 0 := by
  have hne := rst_ne_pcieStatus (17 + p) p (by omega)
  have hfree : ∀ (e : Dev) hi lo, (e.freeF (aPcieStatus p) hi lo).reg (aRstDomStatus (17 + p)) = e.reg (aRstDomStatus (17 + p)) := fun e hi lo =>
    Dev.reg_setF_ne _ _ _ _ hne
  rw [Dev.portReleased, Dev.getF_of_reg (hfree _ _ _), Dev.getF_of_reg (hfree _ _ _), Dev.getF_of_reg (hfree _ _ _),
    Dev.getF_setF_self _ _ _ _ _ (by decide)]
  rfl

theorem Dev.frame_portReleased (d : Dev) (p : Nat) :
    Dev.Frame d (d.portReleased p) [] fun a => a = aRstDomStatus (17 + p) ∨ a = aPcieStatus p := by
  have hl : aBwrIlvLo ≠ aPcieStatus p := by simp only [aBwrIlvLo, aBwr, aPcieStatus, aPcie]; omega
  have hh : aBwrIlvHi ≠ aPcieStatus p := by simp only [aBwrIlvHi, aBwr, aPcieStatus, aPcie]; omega
  have hfree : ∀ (e : Dev) hi lo, Dev.Frame e (e.freeF (aPcieStatus p) hi lo) [] fun a => a = aRstDomStatus (17 + p) ∨ a = aPcieStatus p :=
    fun e hi lo => (e.frame_freeF _ hi lo hl hh).mono (fun _ h => h) fun _ h => .inr h
  have hrst : Dev.Frame d (d.setF (aRstDomStatus (17 + p)) 2 0 0) [] fun a => a = aRstDomStatus (17 + p) ∨ a = aPcieStatus p :=
    (d.frame_setF _ 2 0 0 (by simp only [aBwrIlvLo, aBwr, aRstDomStatus, aRstDomCtrl, aRst]; omega)
      (by simp only [aBwrIlvHi, aBwr, aRstDomStatus, aRstDomCtrl, aRst]; omega)).mono (fun _ h => h) fun _ h => .inl h
  exact ((hrst.trans (hfree _ _ _)).trans (hfree _ _ _)).trans (hfree _ _ _)

theorem Dev.perst_high (d : Dev) {p : Nat} (h : d.getF (aRstDomStatus (17 + p)) 2 0 = 2) : d.perst p true = d.portReleased p := by
  unfold Dev.perst
  simp only [h, if_true]
  rfl

theorem Dev.perst_low (d : Dev) {p : Nat} (h : d.getF (aRstDomStatus (17 + p)) 2 0 ≠ 2) :
    d.perst p false = ((d.setF (aRstDomStatus (17 + p)) 2 0 2).resetPort p).settle := by
  unfold Dev.perst
  simp only [Bool.false_eq_true, if_false, h]

/-- Settles O52: requests by the lemmas on `pcieMem`, function level resets by those on `flrInst`. -/
theorem hostPortsActOnTheirInstances : Obligations.HostPortsActOnTheirInstances := by
  intro s port t hp d p
  have hflr : ∀ fn : Fin 65, exec (.pcieFlr port fn t) s = s.act t fun d => if !d.pcieOn port.val then d else
      if fn.val = 0 then (d.flrNoted port.val).flrPort port.val else match (d.flrNoted port.val).vfInst port.val fn.val with
        | some n => (d.flrNoted port.val).flrInst n
        | none => d.flrNoted port.val := fun fn => exec_pcieFlr s port fn t
  have hmap : ∀ (fn : Fin 65) (n : Nat), d.vfInst p fn.val = some n → (d.flrNoted p).vfInst p fn.val = some n := by
    intro fn n h
    have hne : aPcieVfmap p fn.val ≠ aPcieErr p := by simp only [aPcieVfmap, aPcieErr, aPcie]; omega
    rw [← h, Dev.vfInst, Dev.vfInst, Dev.flrNoted, d.reg_setB_ne _ _ hne]
  have hvf : d.pcieOn p = true → ∀ (fn : Fin 65) (n : Nat), fn.val ≠ 0 → d.vfInst p fn.val = some n →
      Ends (.pcieFlr port fn t) s (Dev.keep d ((d.flrNoted p).flrInst n)) := by
    intro hon fn n hfn hi
    refine ends_of_effect (hflr fn) hp ((if_neg (by rw [hon]; decide)).trans ((if_neg hfn).trans ?_))
    rw [hmap fn n hi]
  refine ⟨fun hon hw => ?_, fun hon => ⟨?_, fun fn n hfn hi ha => ?_, fun fn n hfn hi hs => ?_⟩, fun hon => ?_, fun hr => ?_, fun hr => ?_⟩
  · have hmem : ∀ (fn : Fin 65) (bar : Fin 6) off w len e, d.pcieMem port fn bar.val off w len = e →
        Ends (.pcieMemRequest port fn bar off w len t) s (Dev.keep d e) := by
      intro fn bar off w len e he
      refine ends_of_effect (exec_pcieMemRequest s port fn bar off w len t) hp ?_
      rw [Dev.servePages_none (d := s.dev.advance t) hw]
      exact he
    refine ⟨fun off w len hm hlen => ?_, fun fn n off w len hfn hv hi => ⟨fun hf hlen => ?_, fun hf hlen => ?_, fun hf bar => ?_⟩⟩
    · obtain ⟨h0, h4⟩ := d.pcieMem_pf w hon hm hlen hw
      exact ⟨hmem 0 0 off w len _ h0, hmem 0 4 off w len _ h4⟩
    · exact hmem fn 0 off w len _ (d.pcieMem_vf_page hon hfn hv hi w hf hlen hw)
    · exact hmem fn 2 off w len _ (d.pcieMem_vf_window hon hfn hv hi w hf hlen)
    · refine ⟨_, hmem fn bar off w len _ (d.pcieMem_vf_flr hon hfn hv hi _ off w len hf), Dev.pcieRefused_answer _ _ _ _ _, ?_, ?_, fun k => ?_⟩
      · have hcnts := ((Dev.frame_pcieRefused ((d.countHost n 0).countHost n 1) p fn.val off w.isSome).same .counters (by decide)).1
        rw [Dev.cnt, hcnts]
        exact (Dev.cnt_count_self _ _ _ _).trans (congrArg (fun c : Counter => c.add 1) (d.cnt_countHost_ne (by decide) (by decide) (by decide)))
      · exact (((d.frame_countHost n 0 1).same .memory (by decide)).trans ((Dev.frame_countHost _ n 1 1).same .memory (by decide))).trans
          ((Dev.frame_pcieRefused _ _ _ _ _).same .memory (by decide))
      · have hpages : ((((d.countHost n 0).countHost n 1).pcieRefused p fn.val off w.isSome)).pages = ((d.countHost n 0).countHost n 1).pages :=
          (Dev.frame_pcieRefused _ _ _ _ _).same .pages (by decide)
        rw [Dev.page, hpages]
        exact congrArg Page.state ((Dev.countHost_page _ n 1 k).trans (d.countHost_page n 0 k))
  · exact ends_of_effect (hflr 0) hp ((if_neg (by rw [hon]; decide)).trans (if_pos rfl))
  · intro x y
    have h := hvf hon fn n hfn hi
    rw [(d.flrNoted p).flrInst_active ha, Dev.flrBegun_eq] at h
    exact h
  · refine ⟨_, hvf hon fn n hfn hi, ?_, ?_, ?_⟩ <;> rw [(d.flrNoted p).flrInst_squashing hs]
    · rw [Dev.setInst_flr]
    · rw [Dev.getB_of_reg (Dev.reg_congr (Dev.setInst_regs _ _ _) _), Dev.getB_of_reg (Dev.flrBegun_err _ _ _), Dev.flrNoted,
        Dev.getB_setB_self _ _ _ _ (by decide)]
    · rw [Dev.setInst_queues, Dev.flrBegun_queues]
      exact (Dev.frame_countHost _ n 3 1).same .queues (by decide)
  · exact ends_of_effect (exec_pcieLinkReset s port t) hp (if_pos hon)
  · exact ends_of_effect (exec_pciePerst s port false t) hp (d.perst_low hr)
  · exact ⟨d.portReleased p, ends_of_effect (exec_pciePerst s port true t) hp (d.perst_high hr), d.portReleased_runs port.isLt,
      d.frame_portReleased p⟩

end Sys2Proof.Machine

/-! SUPPORT. What a reset destroys: contexts and graphs of one instance, and nothing new (R385 to R388), and obligation O53. -/

namespace Sys2Proof.Machine

/-- The contexts and the graphs of a device. -/
def Dev.made (d : Dev) : Tab Ctx × Tab Graph := (d.ctxs, d.graphs)

theorem Dev.Frame.made {d e : Dev} {ks : List Kind} {rs : Nat → Prop} (h : Dev.Frame d e ks rs) (hc : .contexts ∉ ks)
    (hg : .graphs ∉ ks) : e.made = d.made := Prod.ext (h.same .contexts hc).1 (h.same .graphs hg)

theorem Dev.forEach_made {α : Type} (l : List α) (f : α → Dev → Dev) (d : Dev) (h : ∀ x e, (f x e).made = e.made) :
    (forEach l f d).made = d.made := forEach_same Dev.made f h l d

theorem Dev.made_ite {b : Prop} [Decidable b] {d e : Dev} {x : Tab Ctx × Tab Graph} (hd : d.made = x) (he : e.made = x) :
    (if b then d else e).made = x := by
  split
  · exact hd
  · exact he

theorem Dev.count_made (d : Dev) (g i k : Nat) : (d.count g i k).made = d.made := (d.frame_count g i k).made (by decide) (by decide)

theorem Dev.endCond_made (d : Dev) (c s : Nat) : (d.endCond c s).made = d.made := (d.frame_endCond c s).made (by decide) (by decide)

/-! ### A command squashed -/

theorem Dev.noteEnded_made (d : Dev) (q : Nat) (c : Cmd) (k : KillCause) : (d.noteEnded q c k).made = d.made :=
  Dev.made_ite rfl (Dev.forEach_made _ _ _ fun _ _ => rfl)

theorem Dev.pushPage_made (d : Dev) (die q pg : Nat) : (d.pushPage die q pg).made = d.made :=
  Dev.count_made (d.setPageState die q pg 0) _ _ _

theorem Dev.returnPages_made (d : Dev) (ps : List (Nat × Nat × Nat)) : (d.returnPages ps).made = d.made :=
  Dev.forEach_made _ _ _ fun _ e => Dev.made_ite rfl (e.pushPage_made _ _ _)

theorem Dev.freeEngines_made (d : Dev) (es : List Nat) : (d.freeEngines es).made = d.made :=
  Dev.forEach_made _ _ _ fun _ _ => Dev.forEach_made _ _ _ fun _ _ => rfl

theorem Dev.freeSort_made (d : Dev) (o : Option Nat) : (d.freeSort o).made = d.made := by
  cases o <;> rfl

theorem Dev.whey_made (d : Dev) (rs : List Region) : (d.whey rs).made = d.made := (d.frame_whey rs).made (by decide) (by decide)

/-- The wheys of the vector cores of engines. -/
theorem Dev.wheyCores_made (d : Dev) (es : List Nat) :
    (forEach es (fun e d => forUpTo 4 (fun k d => d.wheyCore (4 * e + k)) d) d).made = d.made :=
  Dev.forEach_made _ _ _ fun _ _ => Dev.forEach_made _ _ _ fun _ _ => rfl

theorem Dev.countEngines_made (d : Dev) (es : List Nat) : (forEach es (fun e d => d.count 0x03 (16 * e + 1) 1) d).made = d.made :=
  Dev.forEach_made _ _ _ fun _ e => e.count_made _ _ _

theorem Dev.apply_ite_made (b : Prop) [Decidable b] (d e : Dev) : (if b then d else e).made = if b then d.made else e.made :=
  apply_ite Dev.made b d e

theorem Dev.setF_made (d : Dev) (a hi lo v : Nat) : (d.setF a hi lo v).made = d.made := rfl

theorem Dev.releaseRun_made (d : Dev) (q : Nat) (c : Cmd) : (d.releaseRun q c).made = d.made := by
  simp [Dev.releaseRun, Dev.returnPages_made, Dev.apply_ite_made, Dev.wheyCores_made, Dev.countEngines_made, Dev.setF_made, Dev.freeSort_made,
    Dev.freeEngines_made, Dev.whey_made]

theorem Dev.acctKilled_made (d : Dev) (n : Nat) (c : Cmd) : (d.acctKilled n c).made = d.made :=
  Dev.made_ite rfl (d.count_made _ _ _)

/-- A command's wait for pages is over. -/
def Dev.noKvWait (d : Dev) (q n : Nat) : Dev :=
  { d with kvWait := d.kvWait.filter fun w => !(decide (w.2.1 = q) && decide (w.2.2.1 = n)) }

theorem Dev.squash_made (d : Dev) (q n : Nat) : (d.squash q n).made = d.made := by
  unfold Dev.squash
  split
  · rfl
  · next c _ =>
    have hrun : (((d.acctKilled (d.instOfQ q) c).noteEnded q c .squash).releaseRun q c).made = d.made :=
      (Dev.releaseRun_made _ _ _).trans ((Dev.noteEnded_made _ _ _ _).trans (d.acctKilled_made _ _))
    exact (Dev.count_made _ _ _ _).trans (Dev.made_ite ((Dev.count_made _ _ _ _).trans hrun) hrun)

theorem Dev.squashQueue_made (d : Dev) (q : Nat) : (d.squashQueue q).made = d.made := by
  unfold Dev.squashQueue
  split
  · rfl
  · exact Dev.forEach_made _ _ _ fun c e => e.squash_made q c.seq

theorem Dev.endServing_made (d : Dev) (n : Nat) : (d.endServing n).made = d.made := by
  have hdrop : (d.dropServed n).made = d.made := by
    unfold Dev.dropServed
    split
    · rfl
    · exact Dev.forEach_made _ _ _ fun c e => e.squash_made _ _
  exact hdrop

/-! ### A context and a graph dropped -/

theorem Dev.dropCtx_made (d : Dev) (c : Nat) : (d.dropCtx c).made = (d.ctxs.del c, d.graphs) := by
  have hq : (forEach (d.queuesOf c) (fun q d => d.squashQueue q) d).made = d.made :=
    Dev.forEach_made _ _ _ fun q e => e.squashQueue_made q
  obtain ⟨hctxs, hgraphs⟩ := Prod.mk.inj hq
  refine (Dev.endCond_made _ _ _).trans ?_
  rw [← hctxs, ← hgraphs]
  rfl

theorem Dev.zero_made (d : Dev) (a n : Nat) : (d.zero a n).made = d.made := by
  unfold Dev.zero
  refine ((Dev.frame_logDirty _ _ _).made (by decide) (by decide)).trans
    (((Dev.frame_uncache _ _ _).made (by decide) (by decide)).trans (((Dev.frame_unpoison _ _ _).made (by decide) (by decide)).trans ?_))
  exact Dev.made_ite rfl ((Dev.frame_wrRaw _ _ _).made (by decide) (by decide))

theorem Dev.freeAlloc_made (d : Dev) (n : Nat) (al : Alloc) : (d.freeAlloc n al).made = d.made := by
  have hret : ∀ e : Dev, (e.returnGranules n).made = e.made := fun e =>
    (Dev.forEach_made _ _ _ fun _ _ => rfl : (forEach _ (fun (g : Nat × Nat) (d : Dev) => d.markGranule g.2 false (e.inst n).pt false 0) e).made = e.made)
  exact (hret _).trans (d.zero_made _ _)

theorem Dev.setInst_made (d : Dev) (n : Nat) (i : Inst) : (d.setInst n i).made = d.made := rfl

theorem Dev.dropPool_made (d : Dev) (die q : Nat) : (d.dropPool die q).made = d.made := rfl

theorem Dev.markGranule_made (d : Dev) (a : Nat) (fw : Bool) (pt : Nat) (iv : Bool) (inst : Nat) :
    (d.markGranule a fw pt iv inst).made = d.made := rfl

theorem Dev.unhold_made (d : Dev) (pt : Nat) (h : Nat × Nat) : (d.unhold pt h).made = d.made := by
  unfold Dev.unhold
  exact forUpTo_same Dev.made _ (fun _ e => e.markGranule_made _ _ _ _ _) _ d

/-- A device without a graph's entry. -/
def Dev.withoutGraph (d : Dev) (g : Nat) : Dev := { d with graphs := d.graphs.del g }

theorem Dev.withoutGraph_made (d : Dev) (g : Nat) : (d.withoutGraph g).made = (d.made.1, d.made.2.del g) := rfl

/-- What a graph holds besides its context is given back. -/
def Dev.graphReturned (d : Dev) (g : Nat) (x : Graph) : Dev :=
  let d := forEach x.pools (fun p d => d.dropPool p.1 p.2) d
  let own := (d.inst x.inst).allocs.filter fun al =>
    match al.kind with
    | .graphBuf h _ => decide (h = g)
    | _ => false
  let d := forEach own (fun al d => d.freeAlloc x.inst al) d
  let d := forEach x.held (fun h d => d.unhold (d.inst x.inst).pt h) d
  d.subHeld x.inst (x.heldBytes + ((x.ref.map (fun r => r.data.length + 64)).getD 0))

theorem Dev.dropGraph_eq (d : Dev) {g : Nat} {x : Graph} (h : d.graph? g = some x) :
    d.dropGraph g = (((d.dropCtx x.ctx).graphReturned g x).withoutGraph g).endCond 8 g := by
  unfold Dev.dropGraph
  rw [h]
  rfl

theorem Dev.graphReturned_made (d : Dev) (g : Nat) (x : Graph) : (d.graphReturned g x).made = d.made := by
  unfold Dev.graphReturned Dev.subHeld
  refine (Dev.setInst_made _ _ _).trans ((Dev.forEach_made _ _ _ fun h e => e.unhold_made _ h).trans ?_)
  exact (Dev.forEach_made _ _ _ fun al e => e.freeAlloc_made _ al).trans (Dev.forEach_made _ _ _ fun p e => e.dropPool_made _ _)

/-- A graph's dropping takes its entry and its context's. -/
theorem Dev.dropGraph_made (d : Dev) {g : Nat} {x : Graph} (h : d.graph? g = some x) :
    (d.dropGraph g).made = (d.ctxs.del x.ctx, d.graphs.del g) := by
  rw [d.dropGraph_eq h, Dev.endCond_made, Dev.withoutGraph_made, Dev.graphReturned_made, Dev.dropCtx_made]

/-! ### Nothing new, and nothing of the instance -/

/-- The contexts and graphs of a device are among those of another. -/
def Dev.MadeWithin (d e : Dev) : Prop :=
  (∀ c x, e.ctxs.look c = some x → d.ctxs.look c = some x) ∧ ∀ g x, e.graphs.look g = some x → d.graphs.look g = some x

theorem Dev.MadeWithin.refl (d : Dev) : Dev.MadeWithin d d := ⟨fun _ _ h => h, fun _ _ h => h⟩

theorem Dev.MadeWithin.trans {d e f : Dev} (h : Dev.MadeWithin d e) (k : Dev.MadeWithin e f) : Dev.MadeWithin d f :=
  ⟨fun c x hx => h.1 c x (k.1 c x hx), fun g x hx => h.2 g x (k.2 g x hx)⟩

theorem Tab.look_of_look_del {α : Type} {t : Tab α} {k j : Nat} {x : α} (h : (t.del k).look j = some x) : j ≠ k ∧ t.look j = some x := by
  rw [Tab.look_del] at h
  split at h
  · exact absurd h (by simp)
  · next hne => exact ⟨hne, h⟩

theorem Dev.MadeWithin.of_made {d e : Dev} (h : e.made = d.made) : Dev.MadeWithin d e := by
  obtain ⟨hc, hg⟩ := Prod.mk.inj h
  exact ⟨fun c x hx => hc ▸ hx, fun g x hx => hg ▸ hx⟩

theorem Dev.madeWithin_dropCtx (d : Dev) (c : Nat) : Dev.MadeWithin d (d.dropCtx c) := by
  obtain ⟨hc, hg⟩ := Prod.mk.inj (d.dropCtx_made c)
  exact ⟨fun j x hx => (Tab.look_of_look_del (hc ▸ hx)).2, fun g x hx => hg ▸ hx⟩

theorem Dev.dropCtx_gone (d : Dev) (c : Nat) : (d.dropCtx c).ctxs.look c = none := by
  obtain ⟨hc, -⟩ := Prod.mk.inj (d.dropCtx_made c)
  rw [hc, Tab.look_del, if_pos rfl]

theorem Dev.dropGraph_none (d : Dev) {g : Nat} (h : d.graph? g = none) : d.dropGraph g = d := by
  unfold Dev.dropGraph
  rw [h]

theorem Dev.madeWithin_dropGraph (d : Dev) (g : Nat) : Dev.MadeWithin d (d.dropGraph g) := by
  cases h : d.graph? g with
  | none =>
    rw [d.dropGraph_none h]
    exact .refl d
  | some x =>
    obtain ⟨hc, hg⟩ := Prod.mk.inj (d.dropGraph_made h)
    exact ⟨fun j y hy => (Tab.look_of_look_del (hc ▸ hy)).2, fun j y hy => (Tab.look_of_look_del (hg ▸ hy)).2⟩

theorem Dev.dropGraph_gone (d : Dev) (g : Nat) : (d.dropGraph g).graphs.look g = none := by
  cases h : d.graph? g with
  | none =>
    rw [d.dropGraph_none h]
    exact h
  | some x =>
    obtain ⟨-, hg⟩ := Prod.mk.inj (d.dropGraph_made h)
    rw [hg, Tab.look_del, if_pos rfl]

theorem Dev.MadeWithin.forEach (f : Nat → Dev → Dev) (h : ∀ x e, Dev.MadeWithin e (f x e)) (l : List Nat) (d : Dev) :
    Dev.MadeWithin d (forEach l f d) := by
  induction l generalizing d with
  | nil => exact .refl d
  | cons x l ih => exact (h x d).trans (ih (f x d))

/-- What every step takes away for its own key, and none gives back, is gone after all of them. -/
theorem forEach_gone (look : Dev → Nat → Prop) (f : Nat → Dev → Dev) (hown : ∀ x e, ¬ look (f x e) x)
    (hkeep : ∀ x y e, ¬ look e x → ¬ look (f y e) x) (l : List Nat) (d : Dev) : ∀ x ∈ l, ¬ look (forEach l f d) x :=
  forEach_each (fun x e => ¬ look e x) f hown (fun x y e _ h => hkeep x y e h) l d

theorem Tab.mem_of_look {α : Type} {t : Tab α} {k : Nat} {x : α} (h : t.look k = some x) : (k, x) ∈ t := by
  induction t with
  | nil => exact absurd h (by simp [Tab.look])
  | cons c t ih =>
    obtain ⟨j, v⟩ := c
    rw [Tab.look] at h
    split at h
    · next hj =>
      subst hj
      cases Option.some.inj h
      exact List.mem_cons_self
    · exact List.mem_cons_of_mem _ (ih h)

/-- The handles of an instance's entries of a table. -/
def ownKeysOf {α : Type} (inst : α → Nat) (n : Nat) (t : Tab α) : List Nat := (t.filter fun (p : Nat × α) => inst p.2 = n).map (·.1)

theorem mem_ownKeysOf {α : Type} {inst : α → Nat} {n k : Nat} {t : Tab α} {x : α} (h : t.look k = some x) (hn : inst x = n) :
    k ∈ ownKeysOf inst n t :=
  List.mem_map.mpr ⟨(k, x), List.mem_filter.mpr ⟨Tab.mem_of_look h, decide_eq_true hn⟩, rfl⟩

/-- An instance's graphs are dropped. -/
def Dev.graphsDropped (d : Dev) (n : Nat) : Dev := forEach (ownKeysOf Graph.inst n d.graphs) (fun g d => d.dropGraph g) d

/-- An instance's contexts are dropped. -/
def Dev.ctxsDropped (d : Dev) (n : Nat) : Dev := forEach (ownKeysOf Ctx.inst n d.ctxs) (fun c d => d.dropCtx c) d

theorem Dev.graphsDropped_none (d : Dev) (n : Nat) {g : Nat} {x : Graph} (h : (d.graphsDropped n).graphs.look g = some x) : x.inst ≠ n := by
  intro hn
  have hin : Dev.MadeWithin d (d.graphsDropped n) := .forEach _ (fun g e => e.madeWithin_dropGraph g) _ d
  have hgone := forEach_gone (fun e g => ∃ x, e.graphs.look g = some x) (fun g d => d.dropGraph g)
    (fun g e ⟨y, hy⟩ => by rw [e.dropGraph_gone g] at hy; exact absurd hy (by simp))
    (fun g j e hno ⟨y, hy⟩ => hno ⟨y, (e.madeWithin_dropGraph j).2 g y hy⟩) (ownKeysOf Graph.inst n d.graphs) d g
    (mem_ownKeysOf (hin.2 g x h) hn)
  exact hgone ⟨x, h⟩

theorem Dev.ctxsDropped_none (d : Dev) (n : Nat) {c : Nat} {x : Ctx} (h : (d.ctxsDropped n).ctxs.look c = some x) : x.inst ≠ n := by
  intro hn
  have hin : Dev.MadeWithin d (d.ctxsDropped n) := .forEach _ (fun c e => e.madeWithin_dropCtx c) _ d
  have hgone := forEach_gone (fun e c => ∃ x, e.ctxs.look c = some x) (fun c d => d.dropCtx c)
    (fun c e ⟨y, hy⟩ => by rw [e.dropCtx_gone c] at hy; exact absurd hy (by simp))
    (fun c j e hno ⟨y, hy⟩ => hno ⟨y, (e.madeWithin_dropCtx j).1 c y hy⟩) (ownKeysOf Ctx.inst n d.ctxs) d c
    (mem_ownKeysOf (hin.1 c x h) hn)
  exact hgone ⟨x, h⟩

/-- The end of a reset's destruction: the service, and the instance's marks. -/
def Dev.marksCleared (d : Dev) (n : Nat) : Dev :=
  let d := d.endServing n
  let d := d.setPage n { d.page n with evict := false }
  d.setInst n { d.inst n with graceEnd := none, drainT := none, flr := false }

theorem Dev.dropWork_eq (d : Dev) (n : Nat) : d.dropWork n = ((d.graphsDropped n).ctxsDropped n).marksCleared n := rfl

theorem Dev.marksCleared_made (d : Dev) (n : Nat) : (d.marksCleared n).made = d.made := d.endServing_made n

theorem Dev.marksCleared_serving (d : Dev) (n : Nat) : Tab.look (d.marksCleared n).serving n = none := by
  rw [show (d.marksCleared n).serving = (d.dropServed n).serving.del n from rfl, Tab.look_del, if_pos rfl]

/-- After a reset's destruction nothing of the instance is left. -/
theorem Dev.dropWork_none (d : Dev) (n : Nat) : (∀ c x, (d.dropWork n).ctxs.look c = some x → x.inst ≠ n) ∧
    (∀ g x, (d.dropWork n).graphs.look g = some x → x.inst ≠ n) ∧ Tab.look (d.dropWork n).serving n = none := by
  rw [Dev.dropWork_eq]
  obtain ⟨hc, hg⟩ := Prod.mk.inj (((d.graphsDropped n).ctxsDropped n).marksCleared_made n)
  have hin : Dev.MadeWithin (d.graphsDropped n) ((d.graphsDropped n).ctxsDropped n) := .forEach _ (fun c e => e.madeWithin_dropCtx c) _ _
  exact ⟨fun c x hx => (d.graphsDropped n).ctxsDropped_none n (hc ▸ hx), fun g x hx => d.graphsDropped_none n (hin.2 g x (hg ▸ hx)),
    Dev.marksCleared_serving _ n⟩

/-! ### The states of an instance's end -/

/-- An event on another page leaves a page. -/
theorem Dev.post_page_ne (d : Dev) {k j : Nat} (c a x : Nat) (h : j ≠ k) : (d.post k c a x).page j = d.page j := by
  unfold Dev.post
  simp only
  split
  · rfl
  · split <;> split <;> exact d.page_setPage_ne _ h

theorem Dev.setState_state (d : Dev) {n : Nat} (hn : n < 64) (st : InstState) : ((d.setState n st).page n).state = st := by
  rw [Dev.setState, Dev.post_page_ne _ _ _ _ (by omega), Dev.page_setPage_self]

theorem Dev.setState_frame (d : Dev) (n : Nat) (st : InstState) : Dev.Frame d (d.setState n st) [.pages, .counters, .interrupts] fun _ => False :=
  ((d.frame_setPage n _).mono (by simp) fun _ h => h).trans (Dev.frame_post _ _ _ _ _)

/-- Once its reset is complete, no command still waits for it. -/
theorem Dev.resetsDone_ready (d : Dev) (n : Nat) (ops : List Nat) : ∀ x ∈ (d.resetsDone n ops).done, x.opcode ∈ ops → x.arg = n → x.ready = true := by
  intro x hx ho ha
  obtain ⟨y, -, rfl⟩ := List.mem_map.mp hx
  split
  · rfl
  · next h =>
    rw [if_neg h] at ho ha
    simpa [ho, ha] using h

/-- The reset of a squashed instance is complete. -/
def Dev.squashDone (d : Dev) (n : Nat) : Dev := ((d.dropWork n).setState n .resetDone).resetsDone n resetOps

/-- A reset's destruction, and its end where the instance was squashed. -/
def Dev.resetDropped (d : Dev) (n : Nat) : Dev := if (d.page n).state = .squashing then d.squashDone n else d.dropWork n

theorem Dev.resetDone_eq (d : Dev) (n : Nat) : d.resetDone n =
    if !(decide ((d.page n).state = .squashing) || ((d.inst n).destroy && decide ((d.page n).state ≠ .free))) || !d.quietInst n then d
    else (if (d.inst n).destroy then ((d.resetDropped n).postResets n).freeInstance n else d.resetDropped n).advanceTrans.settle := rfl

theorem Dev.resetDone_squashing (d : Dev) {n : Nat} (hq : d.quietInst n = true) (hd : (d.inst n).destroy = false)
    (hs : (d.page n).state = .squashing) : d.resetDone n = (d.squashDone n).advanceTrans.settle := by
  rw [Dev.resetDone_eq, if_neg (by simp [hq, hs]), if_neg (by simp [hd]), Dev.resetDropped, if_pos hs]

/-- An instance that was being destroyed is gone. -/
def Dev.destroyed (d : Dev) (n : Nat) : Dev := ((d.dropWork n).postResets n).freeInstance n

theorem Dev.resetDone_destroy (d : Dev) {n : Nat} (hq : d.quietInst n = true) (hd : (d.inst n).destroy = true)
    (hs : (d.page n).state = .resetDone) : d.resetDone n = (d.destroyed n).advanceTrans.settle := by
  rw [Dev.resetDone_eq, if_neg (by simp [hq, hd, hs]), if_pos hd, Dev.resetDropped, if_neg (by rw [hs]; decide), Dev.destroyed]

theorem Dev.resetsDone_made (d : Dev) (n : Nat) (ops : List Nat) : (d.resetsDone n ops).made = d.made := rfl
theorem Dev.resetsDone_serving (d : Dev) (n : Nat) (ops : List Nat) : (d.resetsDone n ops).serving = d.serving := rfl
theorem Dev.resetsDone_page (d : Dev) (n : Nat) (ops : List Nat) (k : Nat) : (d.resetsDone n ops).page k = d.page k := rfl

theorem Dev.squashDone_state (d : Dev) {n : Nat} (hn : n < 64) : ((d.squashDone n).page n).state = .resetDone := by
  rw [Dev.squashDone, Dev.resetsDone_page, Dev.setState_state _ hn]

theorem Dev.squashDone_none (d : Dev) (n : Nat) : (∀ c x, (d.squashDone n).ctxs.look c = some x → x.inst ≠ n) ∧
    (∀ g x, (d.squashDone n).graphs.look g = some x → x.inst ≠ n) ∧ Tab.look (d.squashDone n).serving n = none := by
  have hf := (d.dropWork n).setState_frame n .resetDone
  have hv : (d.squashDone n).serving = (d.dropWork n).serving := (Dev.resetsDone_serving _ _ _).trans (hf.same .serving (by decide))
  have hmade : (d.squashDone n).made = (d.dropWork n).made := (Dev.resetsDone_made _ _ _).trans (hf.made (by decide) (by decide))
  obtain ⟨hc, hg⟩ := Dev.MadeWithin.of_made hmade
  obtain ⟨hnc, hng, hns⟩ := d.dropWork_none n
  rw [hv]
  exact ⟨fun c x hx => hnc c x (hc c x hx), fun g x hx => hng g x (hg g x hx), hns⟩

/-- The device without an instance's entry and page. -/
theorem Dev.freeInstance_del (d : Dev) (n : Nat) : ∃ ps is, (d.freeInstance n).pages = Tab.del ps n ∧ (d.freeInstance n).insts = Tab.del is n :=
  ⟨_, _, rfl, rfl⟩

theorem Dev.destroyed_gone (d : Dev) (n : Nat) : ((d.destroyed n).page n).state = .free ∧ Tab.look (d.destroyed n).insts n = none := by
  obtain ⟨ps, is, hp, hi⟩ := ((d.dropWork n).postResets n).freeInstance_del n
  rw [Dev.destroyed, Dev.page, hp, hi, Tab.lookD, Tab.look_del, Tab.look_del, if_pos rfl, if_pos rfl]
  exact ⟨rfl, rfl⟩

/-- Settles O53: what a reset destroys by `dropWork_none`, the instance's states by the lemmas on `setState`. -/
theorem resetsComplete : Obligations.ResetsComplete := by
  intro s n t hp d
  refine ⟨fun t0 hs ht => ⟨fun h => ?_, fun h => ?_⟩, fun t0 htr hg h0 hs => ?_, fun hq hd hs => ?_, fun hq hd hs => ?_⟩
  · refine ends_of_effect (exec_drainTimeout s n t) hp ?_
    rw [Dev.drainEnd, ht]
    exact if_pos ⟨hs, h⟩
  · refine ends_of_effect (exec_drainTimeout s n t) hp ?_
    rw [Dev.drainEnd, ht]
    exact if_neg fun hx => Nat.not_lt.mpr hx.2 h
  · have hhand : d.handing = none := by rw [Dev.handing, htr]; rfl
    have hover : d.graceOver n.val = true := by
      rw [Dev.graceOver, hhand, hg]
      exact decide_eq_true h0
    have hrun : (runsOrOrphan (d.page n.val).state || (d.handing.isSome && decide ((d.page n.val).state = .draining))) = true := by
      rcases hs with hs | hs <;> rw [hs] <;> rfl
    exact ends_of_effect (exec_evictGraceEnd s n t) hp ((if_neg (by rw [hover]; decide)).trans (if_pos hrun))
  · obtain ⟨hc, hg, hv⟩ := d.squashDone_none n.val
    exact ⟨_, ends_of_effect (exec_resetComplete s n t) hp (d.resetDone_squashing hq hd hs), d.squashDone_state n.isLt, hc, hg, hv,
      Dev.resetsDone_ready _ _ _⟩
  · obtain ⟨hpage, hinst⟩ := d.destroyed_gone n.val
    exact ⟨_, ends_of_effect (exec_resetComplete s n t) hp (d.resetDone_destroy hq hd hs), hpage, hinst⟩

end Sys2Proof.Machine

/-! SUPPORT. The gateway's clocks, gates, recoveries and failed writes (R355, R356, R359, R362, R365, R370), and obligation O51. -/

namespace Sys2Proof.Machine

theorem swPort_not_cnt (p : Nat) : ¬ cntRegs (aSwPortStatus p) := by simp only [cntRegs, aCntOvfStat, aSwPortStatus, aSwPort]; omega

/-- The gateway's counters reach no page. -/
theorem Dev.frame_gwCount (d : Dev) (p i k : Nat) : Dev.Frame d (d.gwCount p i k) [.counters, .interrupts, .log] cntRegs :=
  (d.noted_count (g := 0x09) (by decide) (16 * p + i) k).frame.mono (by simp) fun _ h => h

theorem Dev.gwCount_gw (d : Dev) (p i k : Nat) : (d.gwCount p i k).gw = d.gw := (d.frame_gwCount p i k).same .gateway (by decide)

theorem Dev.cnt_gwCount_self (d : Dev) (p i : Nat) : (d.gwCount p i).cnt 0x09 (16 * p + i) = (d.cnt 0x09 (16 * p + i)).add 1 :=
  Dev.cnt_count_self d 0x09 (16 * p + i) 1

/-- The gateway's state is one kind. -/
theorem Dev.frame_gw (d : Dev) (g : Gw) : Dev.Frame d { d with gw := g } [.gateway] fun _ => False := by
  refine ⟨?_, fun _ _ => rfl, rfl, rfl, Nat.le_refl _⟩
  intro q hq
  cases q <;> simp [Dev.Same] at hq ⊢
  intro a; rfl

theorem Dev.frame_setPort (d : Dev) (p hi lo v : Nat) : Dev.Frame d (d.setF (aSwPortStatus p) hi lo v) [] fun a => a = aSwPortStatus p :=
  d.frame_setF _ hi lo v (by simp only [aBwrIlvLo, aBwr, aSwPortStatus, aSwPort]; omega)
    (by simp only [aBwrIlvHi, aBwr, aSwPortStatus, aSwPort]; omega)

theorem Dev.frame_setCanCtrl (d : Dev) (c i : Nat) (b : Bool) : Dev.Frame d (d.setB (aCanCtrl c) i b) [] fun a => a = aCanCtrl c :=
  d.frame_setB _ i b (by simp only [aBwrIlvLo, aBwr, aCanCtrl, aCan]; omega) (by simp only [aBwrIlvHi, aBwr, aCanCtrl, aCan]; omega)

/-- A two's-complement pattern of 64 bits in a register pair reads back as the number. -/
theorem sext_pair (d : Dev) {lo hi : Nat} (hne : lo ≠ hi) {x : Int} (h1 : -(2 ^ 63) ≤ x) (h2 : x < 2 ^ 63) :
    sext 64 ((d.setPair lo hi (ofInt 64 x)).pair lo hi) = x := by
  have hlt : ofInt 64 x < 2 ^ 64 := by unfold ofInt; omega
  have hpair : (d.setPair lo hi (ofInt 64 x)).pair lo hi = ofInt 64 x := by
    rw [Dev.pair, Dev.setPair, Dev.reg_setReg_self, Dev.reg_setReg_ne _ _ hne, Dev.reg_setReg_self, dword, BitVec.toNat_ofNat, BitVec.toNat_ofNat]
    omega
  rw [hpair, sext, Nat.mod_eq_of_lt hlt]
  unfold ofInt
  split <;> omega

/-- A device that follows a port's clock takes its rate and offset (R365). -/
def Dev.synced (d : Dev) (p : Nat) (ofs rate : Int) : Dev :=
  let d := (d.setReg aCntTbRate (rateWord rate)).setPair aSwOfsLo aSwOfsHi (ofInt 64 ofs)
  { d with gw := { d.gw with holdover := d.gw.holdover.filter (· ≠ p) } }

theorem Dev.synced_rate (d : Dev) (p : Nat) (ofs rate : Int) : (d.synced p ofs rate).reg aCntTbRate = rateWord rate := by
  rw [show (d.synced p ofs rate).reg aCntTbRate = ((d.setReg aCntTbRate (rateWord rate)).setPair aSwOfsLo aSwOfsHi (ofInt 64 ofs)).reg aCntTbRate
      from rfl, Dev.setPair, Dev.reg_setReg_ne _ _ (by decide), Dev.reg_setReg_ne _ _ (by decide), Dev.reg_setReg_self]

/-- Holdover of a port that has missed three Syncs. -/
def Dev.heldOver (d : Dev) (p : Nat) : Dev :=
  ({ d with gw := { d.gw with holdover := insertNew d.gw.holdover p } } : Dev).gwCount p 15

theorem Dev.heldOver_mem (d : Dev) (p : Nat) : p ∈ (d.heldOver p).gw.holdover := by
  rw [Dev.heldOver, Dev.gwCount_gw]
  exact mem_insertNew _ _

theorem GateState.activate_due {g : GateState} {l : GateList} {now : Int} (hp : g.pending = some l) (h : (g.at_ : Int) ≤ now) :
    g.activate now = { active := some { l with base := g.at_ }, idle := l.init } := by
  rw [GateState.activate, hp]
  exact if_pos h

theorem Tab.look_adjust_some {α : Type} {t : Tab α} {k : Nat} {x : α} (h : t.look k = some x) (f : α → α) :
    (t.adjust k f).look k = some (f x) := by
  rw [Tab.look_adjust, if_pos rfl, h]
  rfl

theorem Dev.reg_raise (d : Dev) (i : Irq) (a : Nat) : (d.raise i).reg a = d.reg a := rfl

/-- A port's gate takes its loaded list where its time has come. -/
def Dev.gateStarted (d : Dev) (p : Nat) : Dev := { d with gw := { d.gw with gates := d.gw.gates.adjust p fun g => g.activate d.gptpNow } }

/-- The same for a stream gate. -/
def Dev.sgateStarted (d : Dev) (i : Nat) : Dev := { d with gw := { d.gw with sgates := d.gw.sgates.adjust i fun g => g.activate d.gptpNow } }

/-- A redundancy stream's history is reset. -/
def Dev.historyReset (d : Dev) (i : Nat) : Dev :=
  { d with gw := { d.gw with cb := d.gw.cb.adjust i fun c => { c with takeAny := true, seen := [] } } }

theorem Dev.gateStarted_gates (d : Dev) (p : Nat) : (d.gateStarted p).gw.gates = d.gw.gates.adjust p fun g => g.activate d.gptpNow := rfl
theorem Dev.sgateStarted_sgates (d : Dev) (i : Nat) : (d.sgateStarted i).gw.sgates = d.gw.sgates.adjust i fun g => g.activate d.gptpNow := rfl
theorem Dev.historyReset_cb (d : Dev) (i : Nat) :
    (d.historyReset i).gw.cb = d.gw.cb.adjust i fun c => { c with takeAny := true, seen := [] } := rfl

/-- The first failed posted write is kept with its address and master (R370). -/
def Dev.pbFirst (d : Dev) (a master : Nat) : Dev :=
  (((d.setB aSwPbErr 0 true).setReg aSwPbErrAddr (BitVec.ofNat 32 a)).setReg aSwPbErrSrc (BitVec.ofNat 32 (master % 256))).raise .bridge

theorem Dev.pbFirst_kept (d : Dev) (a master : Nat) : (d.pbFirst a master).getB aSwPbErr 0 = true ∧
    (d.pbFirst a master).reg aSwPbErrAddr = BitVec.ofNat 32 a ∧ (d.pbFirst a master).reg aSwPbErrSrc = BitVec.ofNat 32 (master % 256) := by
  refine ⟨?_, ?_, ?_⟩
  · rw [Dev.getB, Dev.pbFirst, Dev.reg_raise, Dev.reg_setReg_ne _ _ (by decide), Dev.reg_setReg_ne _ _ (by decide)]
    exact Dev.getB_setB_self d aSwPbErr 0 true (by decide)
  · rw [Dev.pbFirst, Dev.reg_raise, Dev.reg_setReg_ne _ _ (by decide), Dev.reg_setReg_self]
  · rw [Dev.pbFirst, Dev.reg_raise, Dev.reg_setReg_self]

/-- Settles O51: each row's effect is one write of the gateway's state, its counters or a register. -/
theorem gatewayEventsAreKept : Obligations.GatewayEventsAreKept := by
  intro s t hp d
  refine ⟨fun port hts => ⟨fun h2 => ?_, fun h3 => ?_, fun hlt => ?_, fun hle => ?_⟩, fun port hc hf => ⟨fun ofs rate h1 h2 => ?_, ?_⟩,
    fun ch hoff => ⟨fun hrec => ?_, ?_⟩, fun port g l hg hl ha => ?_, fun port i g l hg hl ha => ?_, fun i c hc => ?_,
    fun a m ha hm => ⟨fun h0 => ?_, fun h1 => ?_⟩⟩
  · refine ⟨(d.setF (aSwPortStatus port.val) 9 8 3).gwCount port.val 11,
      ends_of_effect (exec_plcaBeaconLoss s port t) hp (if_pos (by rw [hts]; exact decide_eq_true h2)), ?_, Dev.cnt_gwCount_self _ _ _⟩
    rw [Dev.getF_of_reg ((Dev.frame_gwCount _ _ _ _).regs _ (swPort_not_cnt _)), Dev.getF_setF_self _ _ _ _ _ (by decide)]
    rfl
  · refine ⟨_, ends_of_effect (exec_plcaBeacon s port t) hp ((if_neg (by rw [hts]; decide)).trans (if_pos h3)), ?_, d.frame_setPort _ _ _ _⟩
    rw [Dev.getF_setF_self _ _ _ _ _ (by decide)]
    rfl
  · exact ends_of_effect (exec_dropLimit s port t) hp ((if_neg (by rw [hts]; decide)).trans (if_pos hlt))
  · exact ends_of_effect (exec_dropLimit s port t) hp ((if_neg (by rw [hts]; decide)).trans (if_neg (Nat.not_lt.mpr hle)))
  · have hgo : ¬ (d.cpaLost.isSome || !d.follower port.val) = true := by rw [hc, hf]; decide
    refine ⟨d.synced port.val ofs rate, ends_of_effect (exec_gptpSyncRx s port ofs rate t) hp (if_neg hgo), d.synced_rate _ _ _,
      sext_pair (d.setReg aCntTbRate (rateWord rate)) (by decide) h1 h2, fun hin => ?_⟩
    exact of_decide_eq_true (List.mem_filter.mp hin).2 rfl
  · have hgo : ¬ (d.cpaLost.isSome || !d.follower port.val) = true := by rw [hc, hf]; decide
    exact ⟨d.heldOver port.val, ends_of_effect (exec_holdover s port t) hp (if_neg hgo), d.heldOver_mem _, Dev.cnt_gwCount_self _ _ _⟩
  · have hgo : (d.getB (aCanCtrl ch.val) 2 || d.getB (aCanCtrl ch.val) 3) = true := by rcases hrec with h | h <;> simp [h]
    have hne : aCanStatus ch.val ≠ aCanCtrl ch.val := by simp only [aCanStatus, aCanCtrl]; omega
    have hrecd : d.canRecovered ch.val = d.setReg (aCanStatus ch.val) 0 := if_pos hoff
    refine ⟨(d.setReg (aCanStatus ch.val) 0).setB (aCanCtrl ch.val) 3 false, ends_of_effect (exec_busOffRecovery s ch t) hp ((if_pos hgo).trans ?_),
      ?_, Dev.getB_setB_self _ _ _ _ (by decide)⟩
    · exact congrArg (fun e : Dev => e.setB (aCanCtrl ch.val) 3 false) hrecd
    · rw [Dev.reg_setB_ne _ _ _ hne, Dev.reg_setReg_self]
  · have hoff0 : (s.dev.advance 0).getF (aCanStatus ch.val) 17 16 = 3 :=
      (Dev.getF_of_reg (Dev.reg_congr ((Dev.advance_regs _ _).trans (Dev.advance_regs _ t).symm) (aCanStatus ch.val)) 17 16).trans hoff
    have hrec : (s.dev.advance 0).canRecover ch.val = (s.dev.advance 0).setB (aCanCtrl ch.val) 3 true := if_pos hoff0
    exact ⟨_, ends_of_effect (exec_canRecover s ch) hp hrec, Dev.getB_setB_self _ _ _ _ (by decide), Dev.frame_setCanCtrl _ _ _ _⟩
  · refine ⟨d.gateStarted port.val, ends_of_effect (exec_gateListActivate s port none t) hp rfl, ?_, d.frame_gw _⟩
    rw [← GateState.activate_due hl ha, Dev.gateStarted_gates]
    exact Tab.look_adjust_some hg _
  · refine ⟨d.sgateStarted i.val, ends_of_effect (exec_gateListActivate s port (some i) t) hp rfl, ?_, d.frame_gw _⟩
    rw [← GateState.activate_due hl ha, Dev.sgateStarted_sgates]
    exact Tab.look_adjust_some hg _
  · refine ⟨d.historyReset i.val, ends_of_effect (exec_recoveryResetTimeout s i t) hp rfl, ?_, d.frame_gw _⟩
    rw [Dev.historyReset_cb]
    exact Tab.look_adjust_some hc _
  · have hgo : (isSwReg a && (decide (m = .cpa) || decide (m = .cpb))) = true := by rcases hm with h | h <;> simp [ha, h]
    obtain ⟨herr, haddr, hsrc⟩ := d.pbFirst_kept a (d.masterNo m)
    exact ⟨d.pbFirst a (d.masterNo m), ends_of_effect (exec_pbWriteFail s a m t) hp ((if_pos hgo).trans (if_neg (by rw [h0]; decide))), herr, haddr,
      hsrc, mem_insertNew _ _⟩
  · have hgo : (isSwReg a && (decide (m = .cpa) || decide (m = .cpb))) = true := by rcases hm with h | h <;> simp [ha, h]
    exact ⟨_, ends_of_effect (exec_pbWriteFail s a m t) hp ((if_pos hgo).trans (if_pos h1)), Dev.getB_setB_self _ _ _ _ (by decide),
      d.reg_setB_ne _ _ (by decide), d.reg_setB_ne _ _ (by decide)⟩

end Sys2Proof.Machine

/-! SUPPORT. Frames at the gateway where no injection acts (R351 to R364, R368, R395), and obligation O50. -/

namespace Sys2Proof.Machine

/-- No injection is armed and no unit is held. -/
def Dev.Plain (d : Dev) : Prop := d.fiArmed = false ∧ d.fi.held = []

/-- A unit passes its path as it is. -/
theorem Dev.Plain.fiPass {d : Dev} (h : d.Plain) (p : FiPath) (u : FiUnit) (out late : FiUnit → Bool → Dev → Dev) (dropped : Dev → Dev) :
    d.fiPass p u out late dropped = out u false d := by
  obtain ⟨ha, hh⟩ := h
  have hfi : ({ d.fi with held := [] } : FiState) = d.fi := by rw [← hh]
  have hstep : d.fiStep p u out dropped = out u false d := by
    have hc : d.fiChoose p u = (none, d) := if_pos (by rw [ha]; rfl)
    unfold Dev.fiStep
    rw [hc]
  unfold Dev.fiPass
  rw [hh, List.filter_nil, List.filter_nil, hfi]
  exact hstep

theorem Dev.Plain.of_frame {d e : Dev} {ks : List Kind} {rs : Nat → Prop} (h : d.Plain) (hf : Dev.Frame d e ks rs)
    (hk : .faultInjection ∉ ks) (hr : ¬ rs aFiStatus) : e.Plain := by
  obtain ⟨ha, hh⟩ := h
  refine ⟨(Dev.getB_of_reg (hf.regs _ hr) 0).trans ha, ?_⟩
  rw [(hf.same .faultInjection hk).1, hh]

theorem Dev.gwCount_plain {d : Dev} (h : d.Plain) (p i : Nat) : (d.gwCount p i).Plain :=
  h.of_frame (d.frame_gwCount p i 1) (by decide) (by simp only [cntRegs]; decide)

theorem Dev.gw_plain {d : Dev} (h : d.Plain) (g : Gw) : ({ d with gw := g } : Dev).Plain := h.of_frame (d.frame_gw g) (by decide) id

/-! ### Frames received -/

/-- The kinds that the gateway's frames touch. -/
def gwKinds : List Kind := [.gateway, .counters, .interrupts, .log]

theorem Dev.frame_gwCount' (d : Dev) (p i : Nat) : Dev.Frame d (d.gwCount p i) gwKinds cntRegs :=
  (d.frame_gwCount p i 1).mono (by decide) fun _ h => h

theorem Dev.frame_gw' (d : Dev) (g : Gw) : Dev.Frame d { d with gw := g } gwKinds cntRegs :=
  (d.frame_gw g).mono (by decide) fun _ h => h.elim

theorem Dev.ethDrop_routes (d : Dev) (p : Nat) (c : EthDrop) : (d.ethDrop p c).routes = d.routes := by
  have hgw : (d.gwCount p c.idx).gw.table = d.gw.table := congrArg Gw.table (d.gwCount_gw p c.idx 1)
  have htab : (d.ethDrop p c).gw.table = d.gw.table := by
    unfold Dev.ethDrop
    simp only
    split <;> exact hgw
  rw [Dev.routes, Dev.routes, htab]

/-- A frame without error of an allowed length is counted and checked. -/
theorem Dev.ethRx_frame {d : Dev} (h : d.Plain) {port : Nat} {frame : List Byte} (node : Nat) (hr : d.swRuns port = true)
    (hlo : 64 ≤ frame.length + 4) (hhi : frame.length + 4 ≤ 2000) :
    d.ethRx port frame .none node = (d.gwCount port 13).ethIn port frame node := by
  unfold Dev.ethRx
  rw [if_neg (by rw [hr]; decide)]
  simp only
  rw [if_neg (by omega), if_neg (by omega), (Dev.gwCount_plain h port 13).fiPass]
  rfl

theorem Dev.ethRx_symbol (d : Dev) {port : Nat} (frame : List Byte) (node : Nat) (hr : d.swRuns port = true) :
    d.ethRx port frame .symbol node = d.ethDrop port .symbol := if_neg (by rw [hr]; decide)

theorem Dev.ethRx_fcs (d : Dev) {port : Nat} (frame : List Byte) (node : Nat) (hr : d.swRuns port = true)
    (hn : d.ethRoute port (beNat (frame.take 6)) (d.ethCfg port).vid = none) : d.ethRx port frame .fcs node = d.ethDrop port .fcs := by
  have hroute : (d.ethDrop port .fcs).ethRoute port (beNat (frame.take 6)) (d.ethCfg port).vid = none := by
    rw [Dev.ethRoute, Dev.ethDrop_routes]
    exact hn
  unfold Dev.ethRx
  rw [if_neg (by rw [hr]; decide)]
  simp only
  rw [hroute]

theorem Dev.ethRx_runt (d : Dev) {port : Nat} {frame : List Byte} (node : Nat) (hr : d.swRuns port = true) (hl : frame.length + 4 < 64) :
    d.ethRx port frame .none node = d.ethDrop port .runt := (if_neg (by rw [hr]; decide)).trans (if_pos hl)

theorem Dev.ethRx_oversize (d : Dev) {port : Nat} {frame : List Byte} (node : Nat) (hr : d.swRuns port = true) (hl : 2000 < frame.length + 4) :
    d.ethRx port frame .none node = d.ethDrop port .oversize := (if_neg (by rw [hr]; decide)).trans ((if_neg (by omega)).trans (if_pos hl))

/-! ### CAN frames received -/

theorem Dev.withInj_self {x : Dev} {b : Bool} (h : x.injUnit = b) : x.withInj b = x := by
  subst h
  rfl

theorem Dev.noFifo_of_gw {d : Dev} {g : Gw} (h : d.gw = g) (ch : Nat) : d.noFifo ch = { d with gw := { g with canRx := g.canRx.del ch } } := by
  subst h
  rfl

theorem Dev.canDrain_one (d : Dev) (ch : Nat) (f : CanFrame) (b : Bool) : d.canDrain ch [(f, b)] = (d.withInj b).canHandle ch f := rfl

theorem Dev.frame_setFifo (d : Dev) (ch : Nat) (l : List (CanFrame × Bool)) : Dev.Frame d (d.setFifo ch l) gwKinds cntRegs := d.frame_gw' _

theorem Dev.setFifo_fifo (d : Dev) (ch : Nat) (l : List (CanFrame × Bool)) : (d.setFifo ch l).gw.canRx.lookD ch [] = l :=
  congrArg (fun o : Option (List (CanFrame × Bool)) => o.getD []) (Tab.look_put_self _ _ _)

section
variable {d : Dev} (h : d.Plain) {ch : Nat} (hen : d.getB (aCanCtrl ch) 0 = true) (hon : d.portOn (d.canCfg ch).parkOn = true)
  (hbus : d.getF (aCanStatus ch) 17 16 ≠ 3)
include hen hon hbus

theorem Dev.can_runs : ¬ (!d.getB (aCanCtrl ch) 0 || !d.portOn (d.canCfg ch).parkOn || decide (d.getF (aCanStatus ch) 17 16 = 3)) = true := by
  rw [hen, hon, decide_eq_false hbus]
  decide

include h

theorem Dev.canRx_in (f : CanFrame) : d.canRx ch f = canIn ch (.can f) false d :=
  (if_neg (Dev.can_runs hen hon hbus)).trans (h.fiPass _ _ _ _ _)

/-- A frame received while CPA runs goes to the service. -/
theorem Dev.canRx_handled (f : CanFrame) (hc : d.cpaLost = none) (he : d.gw.canRx.lookD ch [] = []) : d.canRx ch f =
    (((d.gwCount (32 + ch) 11).noFifo ch).canHandle ch f).withInj d.injUnit := by
  have hf := d.frame_gwCount (32 + ch) 11 1
  have hinj : (d.gwCount (32 + ch) 11).injUnit = d.injUnit := (hf.same .faultInjection (by decide)).2
  have hcpa : (d.gwCount (32 + ch) 11).cpaLost = none := (hf.same .safety (by decide)).2.2.2.1.trans hc
  rw [Dev.canRx_in h hen hon hbus, canIn_can]
  simp only [hcpa, d.gwCount_gw, hinj, he, Option.isSome_none, Bool.false_eq_true, if_false, List.nil_append]
  rw [Dev.canDrain_one, Dev.withInj_self (x := (d.gwCount (32 + ch) 11).noFifo ch) hinj]

/-- A frame received while CPA is lost waits in the receive FIFO. -/
theorem Dev.canRx_waits (f : CanFrame) (hc : d.cpaLost ≠ none) (hl : (d.gw.canRx.lookD ch []).length < 64) : d.canRx ch f =
    (d.gwCount (32 + ch) 11).setFifo ch (d.gw.canRx.lookD ch [] ++ [(f, d.injUnit)]) := by
  have hf := d.frame_gwCount (32 + ch) 11 1
  have hgw : (d.gwCount (32 + ch) 11).gw = d.gw := hf.same .gateway (by decide)
  have hinj : (d.gwCount (32 + ch) 11).injUnit = d.injUnit := (hf.same .faultInjection (by decide)).2
  have hcpa : (d.gwCount (32 + ch) 11).cpaLost.isSome = true := by
    rw [(hf.same .safety (by decide)).2.2.2.1]
    exact Option.isSome_iff_ne_none.mpr hc
  rw [Dev.canRx_in h hen hon hbus, canIn_can]
  simp only [hcpa, hgw, hinj, if_true]
  exact if_neg (by omega)

end

/-! ### CAN frames sent -/

/-- A transmit queue holds these frames. -/
def Dev.setCanTx (d : Dev) (k : Nat) (l : List CanFrame) : Dev := { d with gw := { d.gw with canTx := d.gw.canTx.put k l } }

theorem Dev.setCanTx_canTx (d : Dev) (k : Nat) (l : List CanFrame) : (d.setCanTx k l).gw.canTx = d.gw.canTx.put k l := rfl
theorem Dev.setCanTx_reg (d : Dev) (k : Nat) (l : List CanFrame) (a : Nat) : (d.setCanTx k l).reg a = d.reg a := rfl

theorem canStatus_ne_txq (c ch : Nat) : aCanStatus c ≠ aCanTxq ch := by simp only [aCanStatus, aCanTxq, aCan]; omega
theorem canStatus_not_cnt (c : Nat) : ¬ cntRegs (aCanStatus c) := by simp only [cntRegs, aCntOvfStat, aCanStatus, aCan]; omega

theorem Dev.txqRefresh_gw (d : Dev) (ch : Nat) : (d.txqRefresh ch).gw = d.gw :=
  forUpTo_same Dev.gw (fun q (d : Dev) => d.setF (aCanTxq ch) (8 * q + 7) (8 * q) (d.gw.canTx.lookD (ch * 4 + q) []).length) (fun _ _ => rfl) 4 d

theorem Dev.txqRefresh_fi (d : Dev) (ch : Nat) : (d.txqRefresh ch).fi = d.fi :=
  forUpTo_same Dev.fi (fun q (d : Dev) => d.setF (aCanTxq ch) (8 * q + 7) (8 * q) (d.gw.canTx.lookD (ch * 4 + q) []).length) (fun _ _ => rfl) 4 d

theorem Dev.txqRefresh_reg (d : Dev) (ch : Nat) {a : Nat} (h : a ≠ aCanTxq ch) : (d.txqRefresh ch).reg a = d.reg a :=
  forUpTo_same (fun e : Dev => e.reg a) (fun q (d : Dev) => d.setF (aCanTxq ch) (8 * q + 7) (8 * q) (d.gw.canTx.lookD (ch * 4 + q) []).length)
    (fun _ e => e.reg_setF_ne _ _ _ h) 4 d

theorem Dev.txqRefresh_plain {d : Dev} (h : d.Plain) (ch : Nat) : (d.txqRefresh ch).Plain := by
  obtain ⟨ha, hh⟩ := h
  refine ⟨(Dev.getB_of_reg (d.txqRefresh_reg ch ?_) 0).trans ha, ?_⟩
  · simp only [aFiStatus, aFi, aCanTxq, aCan]
    omega
  · rw [d.txqRefresh_fi, hh]

/-- The next frame of a controller is the first of its queue. -/
theorem Dev.canNext_head {d : Dev} {ch q : Nat} {f : CanFrame} (h : d.canNext ch = some (q, f)) :
    ∃ l, d.gw.canTx.lookD (ch * 4 + q) [] = f :: l := by
  obtain ⟨x, -, hx⟩ := List.mem_filterMap.mp (List.mem_of_mem_head? h)
  obtain ⟨g, hg, heq⟩ := Option.map_eq_some_iff.mp hx
  obtain ⟨rfl, rfl⟩ := Prod.mk.inj heq
  exact ⟨_, (List.head?_eq_some_iff.mp hg).choose_spec⟩

/-- A controller's next frame is taken out of its queue. -/
def Dev.canTaken (d : Dev) (ch q : Nat) : Dev := (d.setCanTx (ch * 4 + q) ((d.gw.canTx.lookD (ch * 4 + q) []).drop 1)).txqRefresh ch

theorem Dev.canTaken_gw (d : Dev) (ch q : Nat) : (d.canTaken ch q).gw.canTx = d.gw.canTx.put (ch * 4 + q) ((d.gw.canTx.lookD (ch * 4 + q) []).drop 1) := by
  rw [Dev.canTaken, Dev.txqRefresh_gw, Dev.setCanTx_canTx]

theorem Dev.canTaken_status (d : Dev) (ch q c : Nat) : (d.canTaken ch q).reg (aCanStatus c) = d.reg (aCanStatus c) := by
  rw [Dev.canTaken, Dev.txqRefresh_reg _ _ (canStatus_ne_txq c ch), Dev.setCanTx_reg]

/-- A frame that is not acknowledged goes back to the head of its queue. -/
def Dev.canBack (d : Dev) (ch q : Nat) (f : CanFrame) : Dev :=
  (d.setCanTx (ch * 4 + q) (f :: d.gw.canTx.lookD (ch * 4 + q) [])).txqRefresh ch

section
variable {d : Dev} (h : d.Plain) {ch q : Nat} {f : CanFrame} (hen : d.getB (aCanCtrl ch) 0 = true)
  (hon : d.portOn (d.canCfg ch).parkOn = true) (hbus : d.getF (aCanStatus ch) 17 16 ≠ 3) (hn : d.canNext ch = some (q, f))
include h hen hon hbus hn

theorem Dev.canTx_out (ok : Bool) : d.canTx ch ok = canOut ch q (if ok then none else some f) (.can f) false (d.canTaken ch q) := by
  have hplain : (d.canTaken ch q).Plain := Dev.txqRefresh_plain (Dev.gw_plain h _) ch
  have hpass := hplain.fiPass ⟨2, ch, 0⟩ (.can f) (canOut ch q (if ok then none else some f)) (canOut ch q none) (·.canSent ch none)
  unfold Dev.canTx
  rw [if_neg (Dev.can_runs hen hon hbus), hn]
  exact hpass

theorem Dev.canTx_acked : d.canTx ch true = (d.canTaken ch q).canSent ch (some f) := Dev.canTx_out h hen hon hbus hn true

theorem Dev.canTx_error : d.canTx ch false = ((d.canTaken ch q).canBack ch q f).canTxError ch := Dev.canTx_out h hen hon hbus hn false

end

theorem Dev.canBack_canTx (d : Dev) {ch q : Nat} {f : CanFrame} (hn : d.canNext ch = some (q, f)) (c : Nat) :
    ((d.canTaken ch q).canBack ch q f).gw.canTx.lookD c [] = d.gw.canTx.lookD c [] := by
  obtain ⟨l, hl⟩ := Dev.canNext_head hn
  have hput : ∀ (t : Tab (List CanFrame)) (x : List CanFrame) c, (t.put (ch * 4 + q) x).lookD c [] = if c = ch * 4 + q then x else t.lookD c [] :=
    fun t x c => by rw [Tab.lookD, Tab.look_put]; split <;> rfl
  rw [Dev.canBack, Dev.txqRefresh_gw, Dev.setCanTx_canTx, hput, Dev.canTaken_gw, hput, hput, if_pos rfl, hl]
  split
  · next hc => rw [hc, hl, List.drop_one, List.tail_cons]
  · rfl

theorem Dev.canBack_status (d : Dev) (ch q : Nat) (f : CanFrame) : (d.canBack ch q f).reg (aCanStatus ch) = d.reg (aCanStatus ch) := by
  rw [Dev.canBack, Dev.txqRefresh_reg _ _ (canStatus_ne_txq ch ch), Dev.setCanTx_reg]

/-! ### A controller's error counter -/

/-- The controller is error active again where both counters allow it (R359). -/
def Dev.errorActive (d : Dev) (ch tec : Nat) : Dev :=
  if tec < 128 && decide (d.getF (aCanStatus ch) 15 8 < 128) then d.setF (aCanStatus ch) 17 16 0 else d

/-- The frame that a channel sent last. -/
def Dev.setSent (d : Dev) (ch : Nat) (f : CanFrame) : Dev := { d with gw := { d.gw with sentCan := d.gw.sentCan.put ch f } }

theorem Dev.canSent_eq (d : Dev) (ch : Nat) (f : CanFrame) : d.canSent ch (some f) =
    ((((d.setF (aCanStatus ch) 7 0 (d.getF (aCanStatus ch) 7 0 - 1)).errorActive ch (d.getF (aCanStatus ch) 7 0 - 1)).setSent ch f).gwCount (32 + ch) 12) := rfl

theorem Dev.errorActive_gw (d : Dev) (ch tec : Nat) : (d.errorActive ch tec).gw = d.gw := by
  unfold Dev.errorActive
  split <;> rfl

theorem Dev.errorActive_tec (d : Dev) (ch tec : Nat) : (d.errorActive ch tec).getF (aCanStatus ch) 7 0 = d.getF (aCanStatus ch) 7 0 := by
  unfold Dev.errorActive
  split
  · exact Dev.getF_setF_ne _ _ _ _ _ _ _ (.inl (by decide))
  · rfl

theorem Dev.setSent_gw (d : Dev) (ch : Nat) (f : CanFrame) : (d.setSent ch f).gw = { d.gw with sentCan := d.gw.sentCan.put ch f } := rfl

theorem Dev.canSent_gw (d : Dev) (ch : Nat) (f : CanFrame) : (d.canSent ch (some f)).gw = { d.gw with sentCan := d.gw.sentCan.put ch f } := by
  rw [Dev.canSent_eq, Dev.gwCount_gw, Dev.setSent_gw, Dev.errorActive_gw]
  rfl

theorem Dev.tec_lt (d : Dev) (ch : Nat) : d.getF (aCanStatus ch) 7 0 < 256 := bitsOf_lt _ 7 0

/-- A frame acknowledged lowers TEC. -/
theorem Dev.canSent_tec (d : Dev) (ch : Nat) (f : CanFrame) :
    (d.canSent ch (some f)).getF (aCanStatus ch) 7 0 = d.getF (aCanStatus ch) 7 0 - 1 := by
  have hlt := d.tec_lt ch
  have hset : ∀ e : Dev, (e.setSent ch f).getF (aCanStatus ch) 7 0 = e.getF (aCanStatus ch) 7 0 := fun _ => rfl
  rw [Dev.canSent_eq, Dev.getF_of_reg ((Dev.frame_gwCount _ _ _ _).regs _ (canStatus_not_cnt ch)), hset, Dev.errorActive_tec,
    Dev.getF_setF_self _ _ _ _ _ (by decide)]
  exact Nat.mod_eq_of_lt (by omega)

/-- A transmission error that leaves the controller error active. -/
theorem Dev.canTxError_active (d : Dev) {ch : Nat} (h : d.getF (aCanStatus ch) 7 0 < 120) :
    d.canTxError ch = d.setF (aCanStatus ch) 7 0 (d.getF (aCanStatus ch) 7 0 + 8) :=
  (if_neg (by omega)).trans (if_neg (by omega))

/-- A controller in bus-off: its counter full, its queues empty. -/
def Dev.busOff (d : Dev) (ch : Nat) : Dev :=
  forUpTo 4 (fun q d => { d with gw := { d.gw with canTx := d.gw.canTx.del (ch * 4 + q) } })
    ((d.setF (aCanStatus ch) 7 0 255).setF (aCanStatus ch) 17 16 3)

theorem Dev.busOff_reg (d : Dev) (ch : Nat) (a : Nat) :
    (d.busOff ch).reg a = ((d.setF (aCanStatus ch) 7 0 255).setF (aCanStatus ch) 17 16 3).reg a :=
  forUpTo_same (fun e : Dev => e.reg a) (fun q (d : Dev) => { d with gw := { d.gw with canTx := d.gw.canTx.del (ch * 4 + q) } }) (fun _ _ => rfl) 4 _

theorem Dev.busOff_canTx (d : Dev) (ch : Nat) : ∀ k, k < 4 → (d.busOff ch).gw.canTx.lookD (ch * 4 + k) [] = [] := by
  have hdel : ∀ (t : Tab (List CanFrame)) j k, (t.del j).lookD k [] = if k = j then [] else t.lookD k [] :=
    fun t j k => by rw [Tab.lookD, Tab.look_del]; split <;> rfl
  refine forUpTo_each (fun k (e : Dev) => e.gw.canTx.lookD (ch * 4 + k) [] = []) _ 4 (fun k _ e => ?_) (fun k _ j _ hne e hk => ?_) _
  · exact (hdel _ _ _).trans (if_pos rfl)
  · refine (hdel _ _ _).trans ?_
    rw [if_neg (by omega)]
    exact hk

/-- Bus-off, reported: the queues shown, the counter and the log. -/
def Dev.busOffReported (d : Dev) (ch : Nat) : Dev := (((d.busOff ch).txqRefresh ch).gwCount (32 + ch) 7).logE 8 0 (32 + ch) 0 7

theorem Dev.canTxError_busOff (d : Dev) {ch : Nat} (h : 247 < d.getF (aCanStatus ch) 7 0) :
    d.canTxError ch = d.busOffReported ch := if_pos (by omega)

theorem Dev.busOffReported_state (d : Dev) (ch : Nat) : (d.busOffReported ch).getF (aCanStatus ch) 17 16 = 3 := by
  have hlog : (d.busOffReported ch).reg (aCanStatus ch) = (((d.busOff ch).txqRefresh ch).gwCount (32 + ch) 7).reg (aCanStatus ch) := rfl
  rw [Dev.getF_of_reg (hlog.trans ((Dev.frame_gwCount _ _ _ _).regs _ (canStatus_not_cnt ch))),
    Dev.getF_of_reg ((Dev.txqRefresh_reg _ _ (canStatus_ne_txq ch ch)).trans (d.busOff_reg ch _)), Dev.getF_setF_self _ _ _ _ _ (by decide)]
  rfl

theorem Dev.busOffReported_canTx (d : Dev) (ch : Nat) {k : Nat} (hk : k < 4) : (d.busOffReported ch).gw.canTx.lookD (ch * 4 + k) [] = [] := by
  have hlog : (d.busOffReported ch).gw = (((d.busOff ch).txqRefresh ch).gwCount (32 + ch) 7).gw := rfl
  rw [hlog, Dev.gwCount_gw, Dev.txqRefresh_gw]
  exact d.busOff_canTx ch k hk

theorem Dev.gw_setF (d : Dev) (a hi lo v : Nat) : (d.setF a hi lo v).gw = d.gw := rfl

/-! ### Ethernet frames sent -/

/-- A port's class queue without its first frame, and the port's tries at an end. -/
def Dev.egressPop (d : Dev) (port tc : Nat) : Dev :=
  { d with gw := { d.gw with egress := d.gw.egress.put (port * 8 + tc) ((d.gw.egress.lookD (port * 8 + tc) []).drop 1), tries := d.gw.tries.del port } }

theorem Dev.egressPop_gw (d : Dev) (port tc : Nat) : (d.egressPop port tc).gw =
    { d.gw with egress := d.gw.egress.put (port * 8 + tc) ((d.gw.egress.lookD (port * 8 + tc) []).drop 1), tries := d.gw.tries.del port } := rfl

theorem Dev.frame_egressPop (d : Dev) (port tc : Nat) : Dev.Frame d (d.egressPop port tc) gwKinds cntRegs := d.frame_gw' _

/-- A frame on the wire of a port, its FCS good. -/
def Dev.sentOn (d : Dev) (port : Nat) (bytes : List Byte) : Dev :=
  { d with gw := { d.gw with sentEth := d.gw.sentEth.put port bytes, sentBad := d.gw.sentBad.filter (· ≠ port) } }

theorem Dev.sentOn_gw (d : Dev) (port : Nat) (bytes : List Byte) : (d.sentOn port bytes).gw =
    { d.gw with sentEth := d.gw.sentEth.put port bytes, sentBad := d.gw.sentBad.filter (· ≠ port) } := rfl

/-- A frame that leaves on a wire is sent and counted. -/
theorem Dev.ethLeave_wire {d : Dev} (h : d.Plain) {port : Nat} (hp : port < 19) (bytes : List Byte) (f : EthFrame) :
    d.ethLeave port bytes f = (d.sentOn port bytes).gwCount port 14 := by
  unfold Dev.ethLeave
  rw [h.fiPass]
  exact if_neg (by omega)

/-- A collision on a port, counted, after which the frame is tried again. -/
def Dev.retried (d : Dev) (port : Nat) : Dev :=
  { d.gwCount port 10 with gw := { (d.gwCount port 10).gw with tries := (d.gwCount port 10).gw.tries.put port (d.gw.tries.lookD port 0 + 1) } }

theorem Dev.retried_gw (d : Dev) (port : Nat) : (d.retried port).gw = { d.gw with tries := d.gw.tries.put port (d.gw.tries.lookD port 0 + 1) } := by
  unfold Dev.retried
  rw [d.gwCount_gw]

/-- The collision after which a port gives its frame up. -/
def Dev.gaveUp (d : Dev) (port tc : Nat) : Dev :=
  { (d.gwCount port 10).egressPop port tc with gw := { ((d.gwCount port 10).egressPop port tc).gw with
      drops := (d.gwCount port 10).gw.drops.put port ((d.gwCount port 10).gw.drops.lookD port 0 + 1) } }

theorem Dev.gaveUp_gw (d : Dev) (port tc : Nat) : (d.gaveUp port tc).gw =
    { (d.egressPop port tc).gw with drops := d.gw.drops.put port (d.gw.drops.lookD port 0 + 1) } := by
  unfold Dev.gaveUp
  rw [Dev.egressPop_gw, Dev.egressPop_gw, d.gwCount_gw]

section
variable (d : Dev) {port tc : Nat} {f : EthFrame} (hr : d.swRuns port = true) (hp : d.egressPick port = some (tc, f))
include hr hp

/-- A frame without a collision leaves its queue. -/
theorem Dev.ethTx_ring (h19 : 19 ≤ port) : d.ethTx port false = (d.egressPop port tc).ethLeave port f.bytes f := by
  unfold Dev.ethTx
  rw [if_neg (by rw [hr]; decide), hp]
  exact (if_neg (by simp)).trans (if_pos h19)

theorem Dev.ethTx_unprotected (h19 : port < 19) (hv : (d.gw.macsec.lookD port {}).valid = [])
    (hu : (d.ethCfg port).unprotected = true ∨ 14 ≤ port) : d.ethTx port false = (d.egressPop port tc).ethLeave port f.wire f := by
  have hgo : ((d.ethCfg port).unprotected || decide (14 ≤ port)) = true := by
    rcases hu with h | h <;> simp [h]
  unfold Dev.ethTx
  rw [if_neg (by rw [hr]; decide), hp]
  exact (if_neg (by simp)).trans ((if_neg (by omega)).trans ((if_pos (by rw [hv]; rfl)).trans (if_pos hgo)))

theorem Dev.ethTx_no_macsec (h14 : port < 14) (hv : (d.gw.macsec.lookD port {}).valid = []) (hu : (d.ethCfg port).unprotected = false) :
    d.ethTx port false = (d.egressPop port tc).ethDrop port .macsec := by
  have hgo : ¬ ((d.ethCfg port).unprotected || decide (14 ≤ port)) = true := by
    rw [hu, decide_eq_false (by omega)]
    decide
  unfold Dev.ethTx
  rw [if_neg (by rw [hr]; decide), hp]
  exact (if_neg (by simp)).trans ((if_neg (by omega)).trans ((if_pos (by rw [hv]; rfl)).trans (if_neg hgo)))

/-- What a collision on a TS port leads to (R356): another try, or at the 16th the frame's drop. -/
theorem Dev.ethTx_collision (hts : isTs port = true) : d.ethTx port true =
    if 16 ≤ d.gw.tries.lookD port 0 + 1 then d.gaveUp port tc else d.retried port := by
  have hgo : (true && decide (14 ≤ port) && decide (port < 18)) = true := by rw [Bool.true_and]; exact hts
  unfold Dev.ethTx
  rw [if_neg (by rw [hr]; decide), hp]
  exact if_pos hgo

end

/-! ### Containers -/

theorem Dev.frame_ethDrop (d : Dev) (p : Nat) (c : EthDrop) : Dev.Frame d (d.ethDrop p c) gwKinds cntRegs := by
  unfold Dev.ethDrop
  simp only
  split
  · exact (d.frame_gwCount' p c.idx).trans (Dev.frame_gw' _ _)
  · exact d.frame_gwCount' p c.idx

theorem Dev.frame_enqueue (d : Dev) (ingress port tc : Nat) (f : EthFrame) : Dev.Frame d (d.enqueue ingress port tc f) gwKinds cntRegs := by
  unfold Dev.enqueue
  simp only
  split
  · exact d.frame_ethDrop ingress .buffer
  · exact d.frame_gw' _

/-- The containers and the CAN queues. -/
def Dev.boxesAndCan (d : Dev) : Tab Container × Tab (List CanFrame) := (d.gw.boxes, d.gw.canTx)

theorem Dev.gwCount_boxesAndCan (d : Dev) (p i : Nat) : (d.gwCount p i).boxesAndCan = d.boxesAndCan :=
  congrArg (fun g : Gw => (g.boxes, g.canTx)) (d.gwCount_gw p i 1)

theorem Dev.ethDrop_boxesAndCan (d : Dev) (p : Nat) (c : EthDrop) : (d.ethDrop p c).boxesAndCan = d.boxesAndCan := by
  unfold Dev.ethDrop
  simp only
  split <;> exact d.gwCount_boxesAndCan p c.idx

theorem Dev.enqueue_boxesAndCan (d : Dev) (ingress port tc : Nat) (f : EthFrame) : (d.enqueue ingress port tc f).boxesAndCan = d.boxesAndCan := by
  unfold Dev.enqueue
  simp only
  split
  · exact d.ethDrop_boxesAndCan ingress .buffer
  · rfl

/-- One frame of a sent container on each port of a mask. -/
def Dev.boxOut (d : Dev) (e : RtEntry) (payload : List Byte) : Dev :=
  forEach (maskBits (rw_ e 3).toNat 22) (fun p d =>
    d.enqueue 18 p (rtTc e) { bytes := beBytes 6 ((rw_ e 2).fld 15 0 * 2 ^ 32 + (rw_ e 4).toNat) ++ beBytes 6 (d.ethCfg p).mac ++ beBytes 2 0x88B5 ++ payload,
                              vid := (rw_ e 2).fld 27 16, prio := rtTc e }) d

theorem Dev.frame_boxOut (d : Dev) (e : RtEntry) (payload : List Byte) : Dev.Frame d (d.boxOut e payload) gwKinds cntRegs :=
  Dev.Frame.forEach _ _ (fun _ _ _ => Dev.frame_enqueue _ _ _ _ _) d

theorem Dev.boxOut_boxesAndCan (d : Dev) (e : RtEntry) (payload : List Byte) : (d.boxOut e payload).boxesAndCan = d.boxesAndCan :=
  forEach_same Dev.boxesAndCan _ (fun _ _ => Dev.enqueue_boxesAndCan _ _ _ _ _) _ _

/-- A container's payload (R364). -/
def boxPayload (num : Nat) (b : Container) : List Byte :=
  leBytes 4 (2 ^ 24 + num % 256 * 2 ^ 16 + b.seq % 65536) ++ leBytes 4 b.pdus.length ++ b.pdus.flatMap pduBytes

/-- A container whose PDUs begin anew. -/
def Dev.boxAnew (d : Dev) (num seq : Nat) : Dev :=
  { d with gw := { d.gw with boxes := d.gw.boxes.put num { pdus := [], seq := seq, since := d.now } } }

theorem Dev.boxAnew_boxesAndCan (d : Dev) (num seq : Nat) :
    (d.boxAnew num seq).boxesAndCan = (d.gw.boxes.put num { pdus := [], seq := seq, since := d.now }, d.gw.canTx) := rfl

/-- A container that holds PDUs and has an entry is sent. -/
theorem Dev.sendBox_eq {d : Dev} {num : Nat} {e : RtEntry} (he : d.boxEntry num = some e) (hb : (d.gw.boxes.lookD num {}).pdus ≠ []) :
    d.sendBox num = ((d.boxAnew num (((d.gw.boxes.lookD num {}).seq + 1) % 65536)).boxOut e (boxPayload num (d.gw.boxes.lookD num {}))).gwCount
      (rtIn e) 9 := by
  have hne : ¬ (d.gw.boxes.lookD num {}).pdus.isEmpty = true := fun h => hb (List.isEmpty_iff.mp h)
  unfold Dev.sendBox
  rw [he]
  exact if_neg hne

/-- A CONTAINER entry of the table is found by its container's number. -/
theorem Dev.boxEntry_of_entry {d : Dev} {i : Nat} {en : RtEntry} (h : d.gw.table.entries[i]? = some en) (hk : rtKind en = 5) :
    ∃ e, d.boxEntry ((rw_ en 1).fld 7 0) = some e := by
  refine Option.isSome_iff_exists.mp (List.find?_isSome.mpr ⟨en, List.mem_of_getElem? h, ?_⟩)
  simp [hk]

/-- What sending a container leaves: the container empty, the CAN queues as they were. -/
theorem Dev.sendBox_keeps {d : Dev} {num : Nat} {e : RtEntry} (he : d.boxEntry num = some e) (hb : (d.gw.boxes.lookD num {}).pdus ≠ []) :
    ((d.sendBox num).gw.boxes.lookD num {}).pdus = [] ∧ (d.sendBox num).gw.canTx = d.gw.canTx ∧
      Dev.Frame d (d.sendBox num) gwKinds cntRegs := by
  have hsend := Dev.sendBox_eq he hb
  have hkeep : (d.sendBox num).boxesAndCan =
      (d.gw.boxes.put num { pdus := [], seq := ((d.gw.boxes.lookD num {}).seq + 1) % 65536, since := d.now }, d.gw.canTx) := by
    rw [hsend, Dev.gwCount_boxesAndCan, Dev.boxOut_boxesAndCan, Dev.boxAnew_boxesAndCan]
  have hboxes : (d.sendBox num).gw.boxes = _ := congrArg Prod.fst hkeep
  refine ⟨?_, congrArg Prod.snd hkeep, ?_⟩
  · rw [hboxes, Tab.lookD, Tab.look_put_self]
    rfl
  · rw [hsend]
    exact ((d.frame_gw' _).trans (Dev.frame_boxOut _ e _)).trans (Dev.frame_gwCount' _ _ _)

/-- What CONTAINER_TMAX does (R364). -/
def Dev.containerTmax (d : Dev) (entry : Nat) : Dev :=
  match d.gw.table.entries[entry]? with
  | none => d
  | some e =>
    if decide (rtKind e = 5) && d.cpaLost.isNone && !(d.gw.boxes.lookD ((rw_ e 1).fld 7 0) {}).pdus.isEmpty &&
        decide ((d.gw.boxes.lookD ((rw_ e 1).fld 7 0) {}).since + (rw_ e 6).toNat * 1000 ≤ d.now) then d.sendBox ((rw_ e 1).fld 7 0)
    else d

/-- What TRIP_FRAME_SEND does (R368). -/
def Dev.tripAll (d : Dev) : Dev :=
  if d.cpaLost.isSome || d.gw.noTrip then d else
  match d.keyOf 56 with
  | none => d
  | some key => forEach d.authChannels (fun c d => d.canQueue c 3 (d.tripFrame key)) d

/-- A container whose time has passed is sent. -/
theorem Dev.containerDue {d : Dev} {i : Nat} {en : RtEntry} (h : d.gw.table.entries[i]? = some en) (hk : rtKind en = 5) (hc : d.cpaLost = none)
    (hb : (d.gw.boxes.lookD ((rw_ en 1).fld 7 0) {}).pdus ≠ [])
    (hdue : (d.gw.boxes.lookD ((rw_ en 1).fld 7 0) {}).since + (rw_ en 6).toNat * 1000 ≤ d.now) :
    d.containerTmax i = d.sendBox ((rw_ en 1).fld 7 0) := by
  have hne : (d.gw.boxes.lookD ((rw_ en 1).fld 7 0) {}).pdus.isEmpty = false := by rw [← Bool.not_eq_true, List.isEmpty_iff]; exact hb
  unfold Dev.containerTmax
  rw [h]
  exact if_pos (by rw [hk, hc, hne, decide_eq_true hdue]; decide)

theorem Dev.tripSent {d : Dev} {key : List Byte} (hc : d.cpaLost = none) (hno : d.gw.noTrip = false) (hkey : d.keys.look 56 = some key) :
    d.tripAll = forEach d.authChannels (fun c d => d.canQueue c 3 (d.tripFrame key)) d := by
  unfold Dev.tripAll
  rw [if_neg (by rw [hc, hno]; decide), Dev.keyOf, hkey]

/-- What IP_TX_POLL does for an instance's IP ports. -/
def Dev.ipTxAll (d : Dev) (n : Nat) : Dev :=
  if d.cpaLost.isSome || decide ((d.page n).state = .free) || decide ((d.inst n).bindKind ≠ 0) then d else
  forEach (d.boot.ips.filter fun (p : Nat × IpCfg) => p.2.cluster = (d.inst n).bindIdx) (fun p d => d.ipPoll p.1 p.2.nent) d

theorem Dev.ipTxAll_bound {d : Dev} {n : Nat} (hc : d.cpaLost = none) (hp : (d.page n).state ≠ .free) (hb : (d.inst n).bindKind = 0) : d.ipTxAll n =
    forEach (d.boot.ips.filter fun (p : Nat × IpCfg) => p.2.cluster = (d.inst n).bindIdx) (fun p d => d.ipPoll p.1 p.2.nent) d :=
  if_neg (by simp [hc, hp, hb])

/-! ### O50 -/

/-- Settles O50: without injections each unit passes its path at once, and what it does there is one update of the gateway's state. -/
theorem framesPassTheGateway : Obligations.FramesPassTheGateway := by
  intro s t hp hfi hheld d
  have hplain : d.Plain := ⟨(Dev.getB_of_reg (Dev.reg_congr (Dev.advance_regs s.dev t) aFiStatus) 0).trans hfi,
    (congrArg FiState.held (Dev.advance_fi s.dev t)).trans hheld⟩
  have hput : ∀ {α : Type} (tab : Tab (List α)) (k : Nat) (l : List α) (c : Nat),
      (tab.put k l).lookD c [] = if c = k then l else tab.lookD c [] := fun tab k l c => by
    rw [Tab.lookD, Tab.look_put]; split <;> rfl
  refine ⟨fun port frame node hr hlo hhi => ?_, fun port frame node hr => ⟨?_, fun hn => ?_, fun hl => ?_, fun hl => ?_⟩,
    fun ch f hen hon hbus => ⟨fun hc he => ?_, fun hc hl => ?_⟩,
    fun ch q f hen hon hbus hn => ⟨?_, fun htec => ?_, fun htec => ?_⟩,
    fun port tc f hr hpick => ?_,
    fun i en hen hk hc hb hdue => ?_, fun key hc hno hkey => ?_, fun n hc hpage hbind => ?_⟩
  · exact ends_of_effect (exec_ethFrameRx s port frame .none node t) hp (Dev.ethRx_frame hplain node hr hlo hhi)
  · exact ends_of_effect (exec_ethFrameRx s port frame .symbol node t) hp (Dev.ethRx_symbol _ frame node hr)
  · exact ends_of_effect (exec_ethFrameRx s port frame .fcs node t) hp (Dev.ethRx_fcs _ frame node hr hn)
  · exact ends_of_effect (exec_ethFrameRx s port frame .none node t) hp (Dev.ethRx_runt _ node hr hl)
  · exact ends_of_effect (exec_ethFrameRx s port frame .none node t) hp (Dev.ethRx_oversize _ node hr hl)
  · refine ⟨_, ends_of_effect (exec_canFrameRx s ch f t) hp (Dev.canRx_handled hplain hen hon hbus f hc he), ?_⟩
    rw [Dev.noFifo_of_gw (d.gwCount_gw (32 + ch.val) 11 1)]
    rfl
  · exact ⟨_, ends_of_effect (exec_canFrameRx s ch f t) hp (Dev.canRx_waits hplain hen hon hbus f hc hl), Dev.setFifo_fifo _ _ _,
      (d.frame_gwCount' _ _).trans (Dev.frame_setFifo _ _ _)⟩
  · refine ⟨_, ends_of_effect (exec_canFrameTx s ch .acked t) hp (Dev.canTx_acked hplain hen hon hbus hn), ?_, ?_, ?_, fun c hc => ?_⟩
    · rw [Dev.canSent_gw]
      exact Tab.look_put_self _ _ _
    · rw [Dev.canSent_gw]
      exact (congrArg (fun x : Tab (List CanFrame) => x.lookD _ []) (d.canTaken_gw _ _)).trans ((hput _ _ _ _).trans (if_pos rfl))
    · rw [Dev.canSent_tec, Dev.getF_of_reg (d.canTaken_status _ _ _)]
    · rw [Dev.canSent_gw]
      exact (congrArg (fun x : Tab (List CanFrame) => x.lookD _ []) (d.canTaken_gw _ _)).trans ((hput _ _ _ _).trans (if_neg hc))
  · have hback : ((d.canTaken ch.val q).canBack ch.val q f).getF (aCanStatus ch.val) 7 0 = d.getF (aCanStatus ch.val) 7 0 :=
      Dev.getF_of_reg ((Dev.canBack_status _ _ _ _).trans (d.canTaken_status _ _ _)) 7 0
    refine ⟨_, ends_of_effect (exec_canFrameTx s ch .error t) hp
      ((Dev.canTx_error hplain hen hon hbus hn).trans (Dev.canTxError_active _ (hback.trans_lt htec))), fun c => ?_, ?_⟩
    · rw [Dev.gw_setF]
      exact d.canBack_canTx hn c
    · rw [Dev.getF_setF_self _ _ _ _ _ (by decide), hback]
      exact Nat.mod_eq_of_lt (by omega)
  · have hback : ((d.canTaken ch.val q).canBack ch.val q f).getF (aCanStatus ch.val) 7 0 = d.getF (aCanStatus ch.val) 7 0 :=
      Dev.getF_of_reg ((Dev.canBack_status _ _ _ _).trans (d.canTaken_status _ _ _)) 7 0
    refine ⟨_, ends_of_effect (exec_canFrameTx s ch .error t) hp
      ((Dev.canTx_error hplain hen hon hbus hn).trans (Dev.canTxError_busOff _ (htec.trans_eq hback.symm))), ?_, fun k hk => ?_⟩
    · exact Dev.busOffReported_state _ _
    · exact Dev.busOffReported_canTx _ _ hk
  · intro pop
    refine ⟨fun h19 => ?_, fun h14 hv hu => ?_, fun h19 hv hu => ?_, fun hts htry => ?_, fun hts htry => ?_⟩
    · exact ends_of_effect (exec_ethFrameTx s port false t) hp (Dev.ethTx_ring _ hr hpick h19)
    · exact ends_of_effect (exec_ethFrameTx s port false t) hp (Dev.ethTx_no_macsec _ hr hpick h14 hv hu)
    · have hleave := Dev.ethLeave_wire (d := d.egressPop port.val tc) (Dev.gw_plain hplain _) h19 f.wire f
      refine ⟨_, ends_of_effect (exec_ethFrameTx s port false t) hp ((Dev.ethTx_unprotected _ hr hpick h19 hv hu).trans hleave), ?_, ?_,
        ((d.frame_egressPop _ _).trans (Dev.frame_gw' _ _)).trans (Dev.frame_gwCount' _ _ _)⟩
      · rw [Dev.gwCount_gw, Dev.sentOn_gw]
        exact Tab.look_put_self _ _ _
      · rw [Dev.gwCount_gw, Dev.sentOn_gw, Dev.egressPop_gw]
        exact (hput _ _ _ _).trans (if_pos rfl)
    · refine ⟨_, ends_of_effect (exec_ethFrameTx s port true t) hp ((Dev.ethTx_collision _ hr hpick hts).trans (if_neg (by omega))), ?_, ?_⟩
      · rw [Dev.retried_gw]
      · rw [Dev.retried_gw]
        exact Tab.look_put_self _ _ _
    · refine ⟨_, ends_of_effect (exec_ethFrameTx s port true t) hp ((Dev.ethTx_collision _ hr hpick hts).trans (if_pos (by omega))), ?_, ?_⟩
      · rw [Dev.gaveUp_gw, Dev.egressPop_gw]
        exact (hput _ _ _ _).trans (if_pos rfl)
      · rw [Dev.gaveUp_gw, Dev.egressPop_gw]
        exact (Tab.look_del _ _ _).trans (if_pos rfl)
  · obtain ⟨e, he⟩ := Dev.boxEntry_of_entry hen hk
    exact ⟨_, ends_of_effect (exec_containerTmax s i t) hp (Dev.containerDue hen hk hc hb hdue), Dev.sendBox_keeps he hb⟩
  · exact ends_of_effect (exec_tripFrameSend s t) hp (Dev.tripSent hc hno hkey)
  · exact ends_of_effect (exec_ipTxPoll s n t) hp (Dev.ipTxAll_bound hc hpage hbind)

end Sys2Proof.Machine
